-- ==== Sys2Proof/Word.lean ====
section
/-! DEFINITION. The words of the machine: bytes, 32-bit words, 2,048-bit rows and bundle bits (R3, R13, R162), with their
plainest arithmetic. -/

namespace Sys2Proof

/-- One byte (R3). -/
abbrev Byte := BitVec 8

/-- A narrow bus, port, register or latch value: 32 bits (R13). -/
abbrev Word := BitVec 32

/-- A broad bus, port, vector register or latch value: 2,048 bits (R13). A narrow value kept in a `Row` stands in its low 32 bits. -/
abbrev Row := BitVec 2048

/-- A bundle as it stands in memory: 512 bits (R162). -/
abbrev BundleBits := BitVec 512

/-- A narrow value as a row. -/
abbrev rowOf (w : Word) : Row := w.setWidth 2048

/-- The low 32 bits of a row. -/
abbrev lowW (r : Row) : Word := r.setWidth 32

/-- A natural number as a word, modulo 2^32. -/
abbrev wd (n : Nat) : Word := BitVec.ofNat 32 n

/-- One bit as a word. -/
abbrev bitW (b : Bool) : Word := if b then 1#32 else 0#32

end Sys2Proof
end

