-- ==== Sys2Proof/Machine/Aes.lean ====
section
/-! DEFINITION. AES-256 in XTS mode, the cipher of encrypted frames (R385). Blocks are lists of 16 bytes as numbers. -/

namespace Sys2Proof.Machine

/-- Multiplication by x in the AES field. -/
def gfDouble (a : Nat) : Nat := if 2 * a < 256 then 2 * a else (2 * a) ^^^ 0x11B

def gfMulFuel (a b : Nat) : Nat → Nat
  | 0 => 0
  | n + 1 => (if b % 2 = 1 then a else 0) ^^^ gfMulFuel (gfDouble a) (b / 2) n

def gfMul (a b : Nat) : Nat := gfMulFuel a b 8

/-- The field inverse, as the 254th power. -/
def gfInv (a : Nat) : Nat :=
  let a2 := gfMul a a
  let a3 := gfMul a2 a
  let a6 := gfMul a3 a3
  let a12 := gfMul a6 a6
  let a15 := gfMul a12 a3
  let a30 := gfMul a15 a15
  let a60 := gfMul a30 a30
  let a120 := gfMul a60 a60
  let a126 := gfMul a120 a6
  let a127 := gfMul a126 a
  gfMul a127 a127

def rotByte (a n : Nat) : Nat := a * 2 ^ n % 256 + a * 2 ^ n / 256

def subByte (a : Nat) : Nat :=
  let i := gfInv a
  i ^^^ rotByte i 1 ^^^ rotByte i 2 ^^^ rotByte i 3 ^^^ rotByte i 4 ^^^ 0x63

/-- The inverse substitution: undoes the affine map, then inverts. -/
def invSubByte (a : Nat) : Nat := gfInv (rotByte a 1 ^^^ rotByte a 3 ^^^ rotByte a 6 ^^^ 0x05)

def xorBytes (a b : List Nat) : List Nat := List.zipWith (· ^^^ ·) a b

/-- The row shift, on column-major blocks. -/
def shiftRows (b : List Nat) : List Nat := (List.range 16).map fun i => b.getD ((i + 4 * (i % 4)) % 16) 0
def invShiftRows (b : List Nat) : List Nat := (List.range 16).map fun i => b.getD ((i + 12 * (i % 4)) % 16) 0

/-- One byte of a mixed column, under a row of coefficients. -/
def mixWith (cs : List Nat) (b : List Nat) : List Nat :=
  (List.range 16).map fun i => (List.range 4).foldl (fun acc k =>
    acc ^^^ gfMul (cs.getD ((k + 4 - i % 4) % 4) 0) (b.getD (i / 4 * 4 + k) 0)) 0

def mixColumns := mixWith [2, 3, 1, 1]
def invMixColumns := mixWith [14, 11, 13, 9]

/-- The 60 words of the key schedule, newest first, from the 8 words of the key. -/
def expandKey (key : List Nat) : List (List Nat) :=
  let w0 := ((List.range 8).map fun i => (key.drop (4 * i)).take 4).reverse
  ((List.range 52).foldl (fun (acc : List (List Nat) × Nat) i =>
    let n := i + 8
    let prev := acc.1.headD []
    let t := if n % 8 = 0 then xorBytes ((prev.drop 1 ++ prev.take 1).map subByte) [acc.2, 0, 0, 0]
      else if n % 8 = 4 then prev.map subByte else prev
    (xorBytes (acc.1.getD 7 []) t :: acc.1, if n % 8 = 0 then gfDouble acc.2 else acc.2)) (w0, 1)).1

/-- The 15 round keys in order. -/
def roundKeys (key : List Nat) : List (List Nat) :=
  let ws := (expandKey key).reverse
  (List.range 15).map fun r => ((ws.drop (4 * r)).take 4).flatten

def aesEncrypt (rks : List (List Nat)) (b : List Nat) : List Nat :=
  let mid := ((rks.drop 1).take 13).foldl (fun b k => xorBytes (mixColumns (shiftRows (b.map subByte))) k) (xorBytes b (rks.headD []))
  xorBytes (shiftRows (mid.map subByte)) (rks.getD 14 [])

def aesDecrypt (rks : List (List Nat)) (b : List Nat) : List Nat :=
  let last := (invShiftRows (xorBytes b (rks.getD 14 []))).map invSubByte
  let mid := ((rks.drop 1).take 13).reverse.foldl (fun b k => (invShiftRows (invMixColumns (xorBytes b k))).map invSubByte) last
  xorBytes mid (rks.headD [])

/-- The low `n` bytes of a number. -/
def bytesOf (v : Nat) : Nat → List Nat
  | 0 => []
  | n + 1 => v % 256 :: bytesOf (v / 256) n

def ofBytes : List Nat → Nat
  | [] => 0
  | b :: bs => b + 256 * ofBytes bs

/-- The next tweak: multiplication by x in the field of XTS. -/
def nextTweak (t : Nat) : Nat := if 2 * t < 2 ^ 128 then 2 * t else (2 * t - 2 ^ 128) ^^^ 0x87

/-- One 64-byte data unit under XTS: `key` holds the data key in bytes 0 to 31 and the tweak key in bytes 32 to 63 (R385). -/
def xts (dec : Bool) (key unit_ v : Nat) : Nat :=
  let k1 := roundKeys (bytesOf key 32)
  let k2 := roundKeys (bytesOf (key / 2 ^ 256) 32)
  let t0 := ofBytes (aesEncrypt k2 (bytesOf unit_ 16))
  let blocks := (List.range 4).map fun i => v / 2 ^ (128 * i) % 2 ^ 128
  let out := blocks.foldl (fun (acc : List Nat × Nat) b =>
    let x := ofBytes ((if dec then aesDecrypt else aesEncrypt) k1 (bytesOf (b ^^^ acc.2) 16)) ^^^ acc.2
    (acc.1 ++ [x], nextTweak acc.2)) ([], t0)
  out.1.zipIdx.foldl (fun a x => a + x.1 * 2 ^ (128 * x.2)) 0

end Sys2Proof.Machine
end

