-- ==== Sys2Proof/Config.lean ====
section
/-! DEFINITION. What the spec leaves to the implementation or leaves open: free values, of which nothing is known. -/

namespace Sys2Proof.Config

/-- Latencies that the spec does not promise (R182, R214, R311, R379), in cycles, by the number of the draw. -/
opaque freeLatency : Nat → Nat

/-- Choices between outcomes that the spec all allows (R82, R101, R182), by the number of the draw. -/
opaque freeBool : Nat → Bool

/-- The measured supply voltage and temperature values that calibration or a sensor sets (R5, R409), by register and draw. -/
opaque sensor : Nat → Nat → BitVec 64

/-- The lowest calibrated voltage `vmin` of a supply domain (R409). -/
opaque vmin : Nat → BitVec 16

/-- Payloads of capability records that the spec does not state (R406), by capability type. -/
opaque capability : Nat → BitVec 64

/-- The secret number of the part's identity key, and the number that each of its signatures takes (R427, R428), by the number of the draw. -/
opaque identitySecret : BitVec 521
opaque signNonce : Nat → BitVec 521

/-- What the boot store and the fuses of the part hold (R405): the coordinates of the P-521 public key, the SHA-512 digest of the firmware's image, the
two numbers of its signature, and the fused hash of the key. -/
opaque bootKey : BitVec 521 × BitVec 521
opaque bootDigest : BitVec 512
opaque bootSignature : BitVec 521 × BitVec 521
opaque keyHash : BitVec 512

/-- The bytes of the firmware's image in the boot store, of at most 1 MiB (R405). -/
opaque bootImage : List (BitVec 8)

/-- A word that an unstated result holds, by the number of the draw. -/
opaque freeWord : Nat → BitVec 64

/-- The bytes of a block of a context image whose layout the spec does not give (R373), by the number of the save, as a number. -/
opaque imageBlock : Nat → Nat

/-- The module of its die's boundary to the I/O die that a tile's or dock core's traffic for another package takes, and the cycles after its injection in
which a flit crosses it and leaves by the Fly port (R12, R231). -/
opaque ioModule : Nat → Nat
opaque ioTransit : Nat → Nat

end Sys2Proof.Config
end

