-- ==== Sys2Proof/Types.lean ====
section
/-! DEFINITION. The named alternatives and records that instructions and events carry: sockets (R14), guards, sources and
destinations of a move (R165 to R167), loop nests (R171), memory accesses (R78, R213), packets (R226) and event words (R301). -/

namespace Sys2Proof

/-- The twelve sockets of R14, in the order of their unit ids. -/
inductive Sock where
  | sq | xa | xb | ag | ls | vx | mx | ch | nt | lm | cq | sy
  deriving DecidableEq, Repr

/-- The 6-bit unit id of a socket (R14). -/
def Sock.id : Sock → Nat
  | .sq => 0 | .xa => 1 | .xb => 2 | .ag => 3 | .ls => 4 | .vx => 5
  | .mx => 6 | .ch => 7 | .nt => 8 | .lm => 9 | .cq => 10 | .sy => 11

/-- The two integer units, which share one operation map (R198). -/
inductive IntUnit where
  | xa | xb
  deriving DecidableEq, Repr

/-- The socket of an integer unit. -/
def IntUnit.sock : IntUnit → Sock
  | .xa => .xa
  | .xb => .xb

/-- A move's source (R166). -/
inductive Src where
  /-- class 0: the constant 0 -/
  | zero
  /-- class 1: a register read port `rd0` to `rd3` -/
  | reg (port : Fin 4)
  /-- class 2: a unit's result latch, by its latch code -/
  | latch (u : Sock) (code : Fin 64)
  /-- class 3: `imm16`, sign-extended -/
  | imm (v : BitVec 16)
  /-- class 4: `imm16` shifted left by 16 -/
  | immHi (v : BitVec 16)
  /-- class 5: a half of the bundle's 64-bit constant -/
  | long (hi : Bool)
  /-- class 6: a loop index -/
  | loopIdx (level : Fin 6)
  /-- class 7: GT[31:0] -/
  | gt
  deriving DecidableEq, Repr

/-- The move part of a triggering slot: its guard (R165) and the source moved to the trigger port. -/
structure Trig where
  guard : Option (Fin 16)
  src : Src
  deriving DecidableEq, Repr

/-- A destination that starts no operation (R167). -/
inductive Dst where
  | none
  | wr (port : Fin 2)
  | port (u : Sock) (code : Fin 16)
  | pred (n : Fin 16)
  deriving DecidableEq, Repr

/-- The 256-bit loop nest of a tag 0x1 bundle (R171), its fields as the bundle holds them. -/
structure Nest where
  sat : Bool
  rnd : BitVec 3
  efmt : BitVec 6
  redm : BitVec 5
  stride : BitVec 165
  ext : BitVec 60
  eop : BitVec 12
  deriving DecidableEq, Repr

/-- Where an operation was triggered: the bundle's macro index with its half, and its slot, as `xfpc` and `xslot` hold them
(R193, R216). -/
structure Org where
  pc : BitVec 17
  slot : BitVec 3
  deriving DecidableEq, Repr

/-- The interrupt sources of R316, in the order in which they are taken. -/
inductive Irq where
  | debug | preempt | gtCompare | message
  deriving DecidableEq, Repr

/-- A step's name: launch-sequence position, round, wave and tile (R32, R33). A spawned task has `task` set and its own number
in `pos`. -/
structure StepKey where
  task : Bool := false
  pos : Nat := 0
  round : Nat := 0
  wave : Nat := 0
  tile : Nat := 0
  deriving DecidableEq, Repr

/-- Where an access is performed: at an SRAM address (R15), or, from a dock core, at a physical address of HBM or host memory with
the key of its page, reached through a virtual address (R19, R21, R225). -/
inductive Loc where
  | sram (addr : Nat)
  | mem (host : Bool) (pa : Nat) (key : Option Nat) (va : Nat)
  deriving DecidableEq, Repr

/-- What an access does at its home (R78, R213, R218, R223, R259, R260, R261, R265). -/
inductive AccOp where
  /-- a load of `n` bytes, sign-extended or not -/
  | load (n : Nat) (signed : Bool)
  /-- a store of `n` bytes of the data row -/
  | store (n : Nat)
  /-- a 256-byte row load under a lane mask from four lines; `adv` is the handle that then advances -/
  | vload (lines : List Nat) (act : BitVec 64) (adv : Option (Fin 16))
  /-- a 256-byte row store under a lane mask to four lines -/
  | vstore (lines : List Nat) (act : BitVec 64) (adv : Option (Fin 16))
  /-- gather elements: (lane, address) pairs that one bank performs in one cycle -/
  | gather (els : List (Nat × Nat))
  /-- scatter elements: (lane, address) pairs of data lanes in ascending order -/
  | scatter (els : List (Nat × Nat))
  /-- a read of a whole sync word, four results (R96) -/
  | swRead
  /-- a loop nest reads the rows of its next point, or writes a row (R265) -/
  | nestRead
  | nestWrite
  /-- the host's write of 8 bytes of HBM at a physical address, and its read (R402) -/
  | hostWrite
  | hostRead
  deriving DecidableEq, Repr

/-- One access on its way to its home: who issued it, for which context slot and step, what it does and where. -/
structure Access where
  /-- identifier of the operation, which its results in flight carry -/
  id : Nat
  /-- issuing agent (R77) -/
  agent : Nat
  /-- context slot on whose behalf it is made (R18, R25) -/
  slot : Nat
  op : AccOp
  /-- alias class (R81) -/
  cls : Nat
  loc : Loc
  /-- store data -/
  data : Row
  /-- the cycle of its result is promised (R214) -/
  fixed : Bool
  org : Org
  step : StepKey
  deriving DecidableEq, Repr

/-- The atomic operations of R219, by operation byte. -/
inductive Amo where
  | add | and | or | xor | min | max | minu | maxu | swap | cas | fadd | chunk
  deriving DecidableEq, Repr

/-- An atomic, lock or sync-word operation on its way to its home: operands `a` (`ls.o1`) and `b` (`ls.o2`). A copy's or a launch's
credit carries the tile that issued the copy in `issuer` (R93). -/
structure SyncOp where
  id : Nat
  agent : Nat
  issuer : Nat
  slot : Nat
  cls : Nat
  loc : Loc
  a : Word
  b : Word
  fixed : Bool
  org : Org
  step : StepKey
  /-- Prompt Book mode latched by the launch (R110) -/
  pb : Nat
  /-- effect number in the step's journal (R121) -/
  eff : Option Nat
  /-- ordinal among the agent's value events, as it was issued (R116) -/
  ord : Nat := 0
  deriving DecidableEq, Repr

/-- A packet of the network socket (R226), its kind and its contents. -/
inductive PktKind where
  | put (addr : Nat) (lo hi : Word)
  | putb (addr : Nat) (n : Nat) (data : Row)
  /-- to handle `ph` of agent `peer`; `n` bytes; `wantPos` for `sendw` (R229); the sender's handle `h` -/
  | send (peer : Nat) (ph : Fin 16) (n : Nat) (data : Row) (wantPos : Bool) (h : Fin 16)
  /-- a contribution to tree `tree` (R233), for the issuing tile's own node -/
  | reduce (tree : Fin 16) (wide : Bool) (data : Row) (inst : Nat)
  | bcast (tree : Fin 16) (wide : Bool) (data : Row)
  /-- a task for agent `target`, its window base, the 16 bytes of its spawn-table entry, arguments in lanes 0 to 15 (R237, R350) -/
  | spawn (target : Nat) (window : Nat) (entry : Nat) (args : Row)
  | event (word : BitVec 64)
  /-- remote matrix command (R239) -/
  | mxcmd (tile : Nat) (key : Word) (vals : Row) (op : BitVec 12)
  deriving DecidableEq, Repr

/-- A packet in a send channel or on its way. -/
structure Pkt where
  id : Nat
  agent : Nat
  slot : Nat
  kind : PktKind
  /-- flits it takes in its channel (R226) -/
  flits : Nat
  booked : Bool
  org : Org
  step : StepKey
  pb : Nat
  /-- effect number in the step's journal (R121) -/
  eff : Option Nat
  /-- ordinal among the agent's value events, as it was issued (R116) -/
  ord : Nat := 0
  /-- a put to another package: the package that `ntpkg` named at its trigger (R231) -/
  pkg : Option Nat := none
  /-- the address that a refusal at the target names (R216) -/
  addr : Word := 0
  deriving DecidableEq, Repr

/-- A packet between routers of a reduction tree (R233 to R235): the term, its lane count, the mask of missing contributors
and the expected indices of the sender's subtree, the tile and step it comes from, and whether a node has refused it before. -/
structure TreePkt where
  tree : Fin 16
  inst : Nat
  bcast : Bool
  wide : Bool
  data : Row
  missing : BitVec 64
  expect : BitVec 64
  slot : Nat
  booked : Bool
  pb : Nat
  agent : Nat := 0
  step : StepKey := {}
  again : Bool := false
  /-- the node's own number of a broadcast that it is about to forward (R234) -/
  cast : Nat := 0
  deriving DecidableEq, Repr

/-- The ports of a router (R232): a mesh direction, or the tile's own channel. -/
inductive RPort where
  | west | north | east | south | own
  deriving DecidableEq, Repr

/-- A deferred fault on its way to the issuing tile (R216). -/
structure DFault where
  cause : Nat
  /-- the address or name concerned, whole (R389); `xaddr` holds its low 32 bits -/
  addr : Nat
  org : Org
  /-- identifier of the refused operation, whose results never land -/
  id : Nat
  /-- a translation fault: the virtual address, and whether the access writes (R380, R381) -/
  va : Option (Nat × Bool) := none
  /-- the step that triggered it, where its home knows -/
  step : Option StepKey := none
  deriving DecidableEq, Repr

/-- The arrays that scrubbing walks (R389 detail of 0xB8, R391). -/
inductive SramArray where
  | dataBank (bank : Nat) | imem | scene | loam | tlb
  deriving DecidableEq, Repr

/-- What a scrub finds in the word it reads (R390): nothing, a corrected bit, or an uncorrectable error. -/
inductive EccOutcome where
  | clean | corrected (bit : Nat) | uncorrectable
  deriving DecidableEq, Repr

/-- One term-free exchange of time stamps (R416): whether the parent answered, and the measured offset in cycles. -/
structure Beat where
  offset : Int
  refOk : Bool
  deriving DecidableEq, Repr

/-- The key of one curtain of a launch (R49, R315): launch position, act number, scope code. -/
structure CurtainKey where
  launch : Nat
  act : Nat
  scope : Nat
  /-- the cluster or die it is local to; 0 for package and pod scope -/
  part : Nat
  deriving DecidableEq, Repr

/-- A Prompt Book stream (R114): record type and object. -/
structure StreamKey where
  type : Nat
  object : BitVec 64
  deriving DecidableEq, Repr

/-- The occasion of a device event: what it is about. Each event reads the shape that its docstring names. -/
inductive Occ where
  | none
  /-- one number: a tile, agent, cluster, slot, queue, gang, launch position, port or stage -/
  | at (a : Nat)
  /-- two numbers: an agent or cluster with a line, resource, channel, bank or command -/
  | at2 (a b : Nat)
  | at3 (a b c : Nat)
  | unit (a : Nat) (u : Sock)
  /-- an answer of a home to operation `id`: (result number, value) pairs -/
  | reply (a id : Nat) (vals : List (Nat × Row))
  | irq (a : Nat) (irq : Irq)
  | dfault (a : Nat) (f : DFault)
  | curtain (k : CurtainKey)
  | access (acc : Access)
  | amo (f : Amo) (op : SyncOp)
  | sync (op : SyncOp)
  | pkt (p : Pkt)
  | pktPos (p : Pkt) (pos : Word)
  | handle (a : Nat) (h : Fin 16) (prod : Bool) (v : Word)
  | tree (tile : Nat) (port : RPort) (p : TreePkt)
  | stream (slot : Nat) (k : StreamKey)
  /-- a register's number (slot, cluster, domain or offset) and the value written -/
  | reg (n : Nat) (v : BitVec 64)
  | scrub (tile : Nat) (arr : SramArray) (o : EccOutcome)
  | hbmScrub (stack chan pc : Nat)
  | beat (b : Beat)
  /-- a use of resource `rid` by a step of agent `a`, whose key is `no`, for its operation `id` (R66) -/
  | use (a rid no id : Nat)
  /-- an access of `size` bytes by the host at an Apron address (R402) -/
  | host (addr size : Nat) (write : Bool) (v : Row)
  /-- an access by the board controller to a register's 16-bit offset (R402) -/
  | smbus (off : Nat) (write : Bool) (v : BitVec 64)
  /-- a put of another package that reaches a Fly port: the slot it is made for, and `n` bytes (R231, R421) -/
  | fly (port slot addr n : Nat) (v : Row)
  deriving DecidableEq, Repr

end Sys2Proof
end

