-- ==== Sys2Proof/Machine/Sockets.lean ====
section
/-! DEFINITION. The sockets' ports and latches, with their codes and widths (R14, R143, R172). -/

namespace Sys2Proof

/-- The socket of a 6-bit unit id (R14); ids 0x0C to 0x3F are reserved. -/
def sockOfId : Nat → Option Sock
  | 0 => some .sq | 1 => some .xa | 2 => some .xb | 3 => some .ag | 4 => some .ls | 5 => some .vx
  | 6 => some .mx | 7 => some .ch | 8 => some .nt | 9 => some .lm | 10 => some .cq | 11 => some .sy
  | _ => none

/-- How many operand ports a socket has: their codes run from 0 (R143, R172). -/
def sockPorts : Sock → Nat
  | .sq => 1 | .xa => 1 | .xb => 1 | .ag => 2 | .ls => 3 | .vx => 4
  | .mx => 5 | .ch => 10 | .nt => 3 | .lm => 2 | .cq => 3 | .sy => 1

/-- Whether an operand port is broad (R143, R172). -/
def portBroad : Sock → Nat → Bool
  | .vx, c => c == 3
  | .mx, c => c == 4
  | .nt, c => c == 2
  | _, _ => false

/-- Whether a socket has a latch of this code (R143, R172): `q0` is 0x20 and `q1` is 0x21. -/
def latchExists : Sock → Nat → Bool
  | .vx, c | .mx, c | .cq, c | .sy, c => c == 0x20 || c == 0x21
  | _, c => c == 0x20

/-- Whether a latch is broad (R143, R172). -/
def latchBroad : Sock → Nat → Bool
  | .vx, c => c == 0x21
  | .mx, c => c == 0x20
  | _, _ => false

/-- The sockets a dock core lacks (R14, R172). -/
def dockLacks : Sock → Bool
  | .vx | .mx | .lm | .cq => true
  | _ => false

/-- Agents 0 to 2,047 are tiles and 2,048 to 2,095 dock cores (R77). -/
def isTile (a : Nat) : Bool := a < 2048

def isDock (a : Nat) : Bool := 2048 ≤ a && a < 2096

/-- An agent that issues bundles. -/
def isIssuer (a : Nat) : Bool := a < 2096

end Sys2Proof
end

