-- ==== Sys2Proof/Machine/KMap.lean ====
section
/-! DEFINITION. Sparse tables: a list of (key, value) pairs in rising key order, where a key that is not listed holds the default
and no listed pair holds it. Memories, register files and per-unit state are such tables. -/

namespace Sys2Proof.Machine

/-- A sparse table. -/
abbrev KMap (α : Type) := List (Nat × α)

/-- The value at a key; `d` where the key is not listed. -/
def kget {α : Type} (d : α) : KMap α → Nat → α
  | [], _ => d
  | (k', v) :: m, k => if k = k' then v else kget d m k

/-- The table without a key. -/
def kerase {α : Type} : KMap α → Nat → KMap α
  | [], _ => []
  | (k', v) :: m, k => if k = k' then kerase m k else (k', v) :: kerase m k

/-- The table with a pair put before the first larger key. -/
def kput {α : Type} : KMap α → Nat → α → KMap α
  | [], k, v => [(k, v)]
  | (k', v') :: m, k, v => if k < k' then (k, v) :: (k', v') :: m else (k', v') :: kput m k v

/-- The table with `v` at `k`; a default value is not listed. -/
def kset {α : Type} [DecidableEq α] (d : α) (m : KMap α) (k : Nat) (v : α) : KMap α :=
  if v = d then kerase m k else kput (kerase m k) k v

/-- The table with the value at `k` changed by `f`. -/
def kmod {α : Type} [DecidableEq α] (d : α) (m : KMap α) (k : Nat) (f : α → α) : KMap α :=
  kset d m k (f (kget d m k))

/-- The entries of `n` keys from `lo` on, with `lo` as key 0. -/
def kslice {α : Type} (m : KMap α) (lo n : Nat) : KMap α :=
  (m.filter fun e => decide (lo ≤ e.1) && decide (e.1 < lo + n)).map fun e => (e.1 - lo, e.2)

/-- The table in which `sl`, moved to `lo`, takes the place of `n` keys from `lo` on. -/
def kpaste {α : Type} (m : KMap α) (lo n : Nat) (sl : KMap α) : KMap α :=
  (m.filter fun e => decide (e.1 < lo)) ++ ((sl.filter fun e => decide (e.1 < n)).map fun e => (e.1 + lo, e.2)) ++
    m.filter fun e => decide (lo + n ≤ e.1)

/-- A table of bytes as a number, key 0 lowest. -/
def knat (m : KMap Byte) : Nat := m.foldr (fun e acc => e.2.toNat * 256 ^ e.1 + acc) 0

/-- The bytes of a number below `256 ^ 2 ^ d`, the lowest at key `b`. -/
def kbytes : Nat → Nat → Nat → KMap Byte
  | 0, v, b => if v % 256 = 0 then [] else [(b, BitVec.ofNat 8 v)]
  | d + 1, v, b => if v = 0 then [] else kbytes d (v % 256 ^ 2 ^ d) b ++ kbytes d (v / 256 ^ 2 ^ d) (b + 2 ^ d)

/-- Keys strictly rising and at least `lo`, and no default value listed. -/
def kwfFrom {α : Type} [DecidableEq α] (d : α) : Nat → KMap α → Bool
  | _, [] => true
  | lo, (k, v) :: m => decide (lo ≤ k) && decide (v ≠ d) && kwfFrom d (k + 1) m

/-- The canonical form of a table. -/
def kwf {α : Type} [DecidableEq α] (d : α) (m : KMap α) : Bool := kwfFrom d 0 m

end Sys2Proof.Machine
end

