-- ==== Sys2Proof/Syntax.lean ====
section
/-! DEFINITION. The instruction type: one constructor per row of the opcode table. The 230 operations of R174 come first, each
with its qualifiers (R173, R174) and the move that triggers it (R144, R165, R166). The 127 events of the device follow. Only
BUNDLE_ISSUE has an encoding, the bundle of R162, which it carries with its agent; every other event has no operands, and the
occasion it stands for (which tile, packet, command) is in the state, at `State.occ`. -/

namespace Sys2Proof

inductive Instr where
  /-- R185: `sq.br`. Queue a branch to an absolute target. -/
  | sqBr (m : Trig)
  /-- R185: `sq.brr`. Queue a branch relative to the bundle. -/
  | sqBrr (m : Trig)
  /-- R185: `sq.call`. Queue a call, return index to q0, raise cdepth. -/
  | sqCall (m : Trig)
  /-- R186: `sq.callx`. Indirect call checked against the entry table. -/
  | sqCallx (m : Trig)
  /-- R185: `sq.ret`. Queue a return and lower cdepth. -/
  | sqRet (m : Trig)
  /-- R189: `sq.loop`. Open a loop level, or skip a zero-trip body. -/
  | sqLoop (m : Trig)
  /-- R190: `sq.lbrk`. Pop the innermost opened level and branch past it. -/
  | sqLbrk (m : Trig)
  /-- R191: `sq.lidx`. Read or write loop-stack state. -/
  | sqLidx (m : Trig)
  /-- R192: `sq.scene`. Call a scene as one macro bundle. -/
  | sqScene (m : Trig)
  /-- R193: `sq.trap`. Trap with cause 0xC0 plus t[5:0]. -/
  | sqTrap (m : Trig)
  /-- R194: `sq.iret`. Return from a handler, restoring queues and understudies. -/
  | sqIret (m : Trig)
  /-- R195: `sq.ifence`. Wait for code stores, then discard line copies. -/
  | sqIfence (m : Trig)
  /-- R187: `sq.brswap`. Branch into the inactive overlay half, flipping half. -/
  | sqBrswap (m : Trig)
  /-- R196: `sq.halt`. End the step after this bundle. -/
  | sqHalt (m : Trig)
  /-- R199: `xa.add`. a + b (xa or xb). -/
  | xaAdd (u : IntUnit) (m : Trig)
  /-- R199: `xa.sub`. a − b. -/
  | xaSub (u : IntUnit) (m : Trig)
  /-- R199: `xa.rsub`. b − a. -/
  | xaRsub (u : IntUnit) (m : Trig)
  /-- R199: `xa.mul`. Low 32 bits of a × b. -/
  | xaMul (u : IntUnit) (m : Trig)
  /-- R199: `xa.mulh`. High word of signed a × b. -/
  | xaMulh (u : IntUnit) (m : Trig)
  /-- R199: `xa.mulhu`. High word of unsigned a × b. -/
  | xaMulhu (u : IntUnit) (m : Trig)
  /-- R200: `xa.div`. Signed division. -/
  | xaDiv (u : IntUnit) (m : Trig)
  /-- R200: `xa.divu`. Unsigned division. -/
  | xaDivu (u : IntUnit) (m : Trig)
  /-- R200: `xa.rem`. Signed remainder. -/
  | xaRem (u : IntUnit) (m : Trig)
  /-- R200: `xa.remu`. Unsigned remainder. -/
  | xaRemu (u : IntUnit) (m : Trig)
  /-- R199: `xa.min`. Signed minimum. -/
  | xaMin (u : IntUnit) (m : Trig)
  /-- R199: `xa.max`. Signed maximum. -/
  | xaMax (u : IntUnit) (m : Trig)
  /-- R199: `xa.minu`. Unsigned minimum. -/
  | xaMinu (u : IntUnit) (m : Trig)
  /-- R199: `xa.maxu`. Unsigned maximum. -/
  | xaMaxu (u : IntUnit) (m : Trig)
  /-- R199: `xa.abs`. Absolute value of b. -/
  | xaAbs (u : IntUnit) (m : Trig)
  /-- R199: `xa.and`. a & b. -/
  | xaAnd (u : IntUnit) (m : Trig)
  /-- R199: `xa.or`. a | b. -/
  | xaOr (u : IntUnit) (m : Trig)
  /-- R199: `xa.xor`. a ^ b. -/
  | xaXor (u : IntUnit) (m : Trig)
  /-- R199: `xa.andn`. a & ~b. -/
  | xaAndn (u : IntUnit) (m : Trig)
  /-- R199: `xa.shl`. Shift left. -/
  | xaShl (u : IntUnit) (m : Trig)
  /-- R199: `xa.shr`. Logical shift right. -/
  | xaShr (u : IntUnit) (m : Trig)
  /-- R199: `xa.sra`. Arithmetic shift right. -/
  | xaSra (u : IntUnit) (m : Trig)
  /-- R199: `xa.rol`. Rotate left. -/
  | xaRol (u : IntUnit) (m : Trig)
  /-- R199: `xa.clz`. Count leading zeros of b. -/
  | xaClz (u : IntUnit) (m : Trig)
  /-- R199: `xa.ctz`. Count trailing zeros of b. -/
  | xaCtz (u : IntUnit) (m : Trig)
  /-- R199: `xa.popc`. Count ones in b. -/
  | xaPopc (u : IntUnit) (m : Trig)
  /-- R199: `xa.sext.b`. Sign-extend the low byte of b. -/
  | xaSextB (u : IntUnit) (m : Trig)
  /-- R199: `xa.sext.h`. Sign-extend the low half of b. -/
  | xaSextH (u : IntUnit) (m : Trig)
  /-- R201: `xa.bext`. Extract a bit field. -/
  | xaBext (u : IntUnit) (m : Trig)
  /-- R201: `xa.bins`. Insert a bit field. -/
  | xaBins (u : IntUnit) (m : Trig)
  /-- R199: `xa.pass`. Pass b to q0. -/
  | xaPass (u : IntUnit) (m : Trig)
  /-- R202: `xa.cmp.eq`. Compare equal into a predicate pair. -/
  | xaCmpEq (u : IntUnit) (pair : Fin 8) (m : Trig)
  /-- R202: `xa.cmp.ne`. Compare not equal. -/
  | xaCmpNe (u : IntUnit) (pair : Fin 8) (m : Trig)
  /-- R202: `xa.cmp.lt`. Signed less than. -/
  | xaCmpLt (u : IntUnit) (pair : Fin 8) (m : Trig)
  /-- R202: `xa.cmp.le`. Signed less or equal. -/
  | xaCmpLe (u : IntUnit) (pair : Fin 8) (m : Trig)
  /-- R202: `xa.cmp.ltu`. Unsigned less than. -/
  | xaCmpLtu (u : IntUnit) (pair : Fin 8) (m : Trig)
  /-- R202: `xa.cmp.leu`. Unsigned less or equal. -/
  | xaCmpLeu (u : IntUnit) (pair : Fin 8) (m : Trig)
  /-- R202: `xa.tst`. Test (a & b) ≠ 0. -/
  | xaTst (u : IntUnit) (pair : Fin 8) (m : Trig)
  /-- R203: `xa.sel`. Select a or b by a predicate. -/
  | xaSel (u : IntUnit) (pn : Fin 16) (m : Trig)
  /-- R204: `ag.lea`. o0 + (t << o1[2:0]). -/
  | agLea (m : Trig)
  /-- R204: `ag.gaddr`. Compose an SRAM address from a global tile and offset. -/
  | agGaddr (m : Trig)
  /-- R204: `ag.tileid`. Deliver the agent number. -/
  | agTileid (m : Trig)
  /-- R204: `ag.home`. Deliver the global tile and bank of an address. -/
  | agHome (m : Trig)
  /-- R205: `ag.step`. Deliver o0, then add o1 to it. -/
  | agStep (m : Trig)
  /-- R204: `ag.wrap`. (o0 + t) mod o1. -/
  | agWrap (m : Trig)
  /-- R207: `ag.cb.init`. Initialise a circular-buffer handle. -/
  | agCbInit (m : Trig)
  /-- R209: `ag.cb.wait`. Hold until n bytes are filled; an acquire. -/
  | agCbWait (m : Trig)
  /-- R209: `ag.cb.room`. Hold until there is room for n bytes. -/
  | agCbRoom (m : Trig)
  /-- R210: `ag.cb.advp`. Advance prod after stores and send the update. -/
  | agCbAdvp (m : Trig)
  /-- R210: `ag.cb.advc`. Advance cons after loads and send the update. -/
  | agCbAdvc (m : Trig)
  /-- R211: `ag.cb.pos`. Read cons. -/
  | agCbPos (m : Trig)
  /-- R211: `ag.cb.posp`. Read prod. -/
  | agCbPosp (m : Trig)
  /-- R211: `ag.cb.fill`. Read the filled count. -/
  | agCbFill (m : Trig)
  /-- R218: `ls.ld.b`. Load a sign-extended byte. -/
  | lsLdB (cls : Fin 8) (m : Trig)
  /-- R218: `ls.ld.bz`. Load a zero-extended byte. -/
  | lsLdBz (cls : Fin 8) (m : Trig)
  /-- R218: `ls.ld.h`. Load a sign-extended half. -/
  | lsLdH (cls : Fin 8) (m : Trig)
  /-- R218: `ls.ld.hz`. Load a zero-extended half. -/
  | lsLdHz (cls : Fin 8) (m : Trig)
  /-- R218: `ls.ld.w`. Load a word. -/
  | lsLdW (cls : Fin 8) (m : Trig)
  /-- R218: `ls.st.b`. Store a byte. -/
  | lsStB (cls : Fin 8) (m : Trig)
  /-- R218: `ls.st.h`. Store a half. -/
  | lsStH (cls : Fin 8) (m : Trig)
  /-- R218: `ls.st.w`. Store a word. -/
  | lsStW (cls : Fin 8) (m : Trig)
  /-- R219: `ls.amo.add`. Atomic add. -/
  | lsAmoAdd (cls : Fin 8) (m : Trig)
  /-- R219: `ls.amo.and`. Atomic and. -/
  | lsAmoAnd (cls : Fin 8) (m : Trig)
  /-- R219: `ls.amo.or`. Atomic or. -/
  | lsAmoOr (cls : Fin 8) (m : Trig)
  /-- R219: `ls.amo.xor`. Atomic xor. -/
  | lsAmoXor (cls : Fin 8) (m : Trig)
  /-- R219: `ls.amo.min`. Atomic signed minimum. -/
  | lsAmoMin (cls : Fin 8) (m : Trig)
  /-- R219: `ls.amo.max`. Atomic signed maximum. -/
  | lsAmoMax (cls : Fin 8) (m : Trig)
  /-- R219: `ls.amo.minu`. Atomic unsigned minimum. -/
  | lsAmoMinu (cls : Fin 8) (m : Trig)
  /-- R219: `ls.amo.maxu`. Atomic unsigned maximum. -/
  | lsAmoMaxu (cls : Fin 8) (m : Trig)
  /-- R219: `ls.amo.swap`. Atomic swap. -/
  | lsAmoSwap (cls : Fin 8) (m : Trig)
  /-- R219: `ls.amo.cas`. Atomic compare and swap. -/
  | lsAmoCas (cls : Fin 8) (m : Trig)
  /-- R220: `ls.amo.fadd`. Atomic FP32 add. -/
  | lsAmoFadd (cls : Fin 8) (m : Trig)
  /-- R221: `ls.amo.chunk`. Draw a chunk from a dispenser. -/
  | lsAmoChunk (cls : Fin 8) (m : Trig)
  /-- R222: `ls.acq`. Acquire a lock word. -/
  | lsAcq (cls : Fin 8) (m : Trig)
  /-- R222: `ls.rel`. Release a lock word. -/
  | lsRel (cls : Fin 8) (m : Trig)
  /-- R91: `ls.fence`. Fence accesses of a class and scope. -/
  | lsFence (cls : Fin 8) (m : Trig)
  /-- R223: `ls.sw.arm`. Arm a sync word. -/
  | lsSwArm (cls : Fin 8) (m : Trig)
  /-- R224: `ls.sw.wait`. Wait for a sync-word generation. -/
  | lsSwWait (cls : Fin 8) (m : Trig)
  /-- R223: `ls.sw.add`. Release, then credit a sync word. -/
  | lsSwAdd (cls : Fin 8) (m : Trig)
  /-- R223: `ls.sw.read`. Read all 16 bytes of a sync word. -/
  | lsSwRead (cls : Fin 8) (m : Trig)
  /-- R247: `vx.vadd`. FP32 add. -/
  | vxVadd (m : Trig)
  /-- R247: `vx.vsub`. FP32 subtract. -/
  | vxVsub (m : Trig)
  /-- R247: `vx.vmul`. FP32 multiply. -/
  | vxVmul (m : Trig)
  /-- R247: `vx.vfma`. Fused a × b + c. -/
  | vxVfma (m : Trig)
  /-- R247: `vx.vfms`. Fused a × b − c. -/
  | vxVfms (m : Trig)
  /-- R247: `vx.vfnma`. Fused c − a × b. -/
  | vxVfnma (m : Trig)
  /-- R248: `vx.vmin`. FP32 minimum. -/
  | vxVmin (m : Trig)
  /-- R248: `vx.vmax`. FP32 maximum. -/
  | vxVmax (m : Trig)
  /-- R248: `vx.vabs`. Clear the sign bit. -/
  | vxVabs (m : Trig)
  /-- R248: `vx.vneg`. Invert the sign bit. -/
  | vxVneg (m : Trig)
  /-- R247: `vx.vdiv`. FP32 divide. -/
  | vxVdiv (m : Trig)
  /-- R247: `vx.vsqrt`. FP32 square root. -/
  | vxVsqrt (m : Trig)
  /-- R247: `vx.vrcp`. FP32 reciprocal. -/
  | vxVrcp (m : Trig)
  /-- R247: `vx.vrsqrt`. FP32 reciprocal square root. -/
  | vxVrsqrt (m : Trig)
  /-- R247: `vx.vexp2`. FP32 2^a. -/
  | vxVexp2 (m : Trig)
  /-- R247: `vx.vlog2`. FP32 log2 a. -/
  | vxVlog2 (m : Trig)
  /-- R249: `vx.vaddi`. int32 add. -/
  | vxVaddi (m : Trig)
  /-- R249: `vx.vsubi`. int32 subtract. -/
  | vxVsubi (m : Trig)
  /-- R249: `vx.vmuli`. int32 multiply. -/
  | vxVmuli (m : Trig)
  /-- R249: `vx.vand`. Lane-wise and. -/
  | vxVand (m : Trig)
  /-- R249: `vx.vor`. Lane-wise or. -/
  | vxVor (m : Trig)
  /-- R249: `vx.vxor`. Lane-wise xor. -/
  | vxVxor (m : Trig)
  /-- R249: `vx.vshl`. Lane-wise shift left. -/
  | vxVshl (m : Trig)
  /-- R249: `vx.vshr`. Lane-wise logical shift right. -/
  | vxVshr (m : Trig)
  /-- R249: `vx.vsra`. Lane-wise arithmetic shift right. -/
  | vxVsra (m : Trig)
  /-- R249: `vx.vmini`. int32 minimum. -/
  | vxVmini (m : Trig)
  /-- R249: `vx.vmaxi`. int32 maximum. -/
  | vxVmaxi (m : Trig)
  /-- R250: `vx.vcmp.eq`. FP32 compare equal into a mask. -/
  | vxVcmpEq (m : Trig)
  /-- R250: `vx.vcmp.ne`. FP32 compare not equal. -/
  | vxVcmpNe (m : Trig)
  /-- R250: `vx.vcmp.lt`. FP32 less than. -/
  | vxVcmpLt (m : Trig)
  /-- R250: `vx.vcmp.le`. FP32 less or equal. -/
  | vxVcmpLe (m : Trig)
  /-- R250: `vx.vcmpi.eq`. int32 compare equal. -/
  | vxVcmpiEq (m : Trig)
  /-- R250: `vx.vcmpi.ne`. int32 compare not equal. -/
  | vxVcmpiNe (m : Trig)
  /-- R250: `vx.vcmpi.lt`. int32 less than. -/
  | vxVcmpiLt (m : Trig)
  /-- R250: `vx.vcmpi.le`. int32 less or equal. -/
  | vxVcmpiLe (m : Trig)
  /-- R251: `vx.vsel`. Select lanes by a mask. -/
  | vxVsel (m : Trig)
  /-- R251: `vx.mand`. AND of two masks. -/
  | vxMand (m : Trig)
  /-- R251: `vx.mor`. OR of two masks. -/
  | vxMor (m : Trig)
  /-- R251: `vx.mnot`. NOT of a mask. -/
  | vxMnot (m : Trig)
  /-- R253: `vx.vcvt`. Convert formats with rounding. -/
  | vxVcvt (m : Trig)
  /-- R255: `vx.vscale`. Apply panel scales. -/
  | vxVscale (m : Trig)
  /-- R254: `vx.vcvti`. Convert between integer formats. -/
  | vxVcvti (m : Trig)
  /-- R256: `vx.vredsum`. Tree sum of lanes. -/
  | vxVredsum (m : Trig)
  /-- R256: `vx.vredmax`. Tree maximum of lanes. -/
  | vxVredmax (m : Trig)
  /-- R256: `vx.vredmin`. Tree minimum of lanes. -/
  | vxVredmin (m : Trig)
  /-- R257: `vx.vbcast`. Broadcast o0 to every active lane. -/
  | vxVbcast (m : Trig)
  /-- R257: `vx.vperm`. Permute lanes by index. -/
  | vxVperm (m : Trig)
  /-- R257: `vx.vrot`. Rotate lanes. -/
  | vxVrot (m : Trig)
  /-- R258: `vx.vins`. Insert a scalar into one lane. -/
  | vxVins (m : Trig)
  /-- R258: `vx.vget`. Read one lane to q0. -/
  | vxVget (m : Trig)
  /-- R258: `vx.vmov`. Move o3 into a register. -/
  | vxVmov (m : Trig)
  /-- R258: `vx.vout`. Move a register to q1. -/
  | vxVout (m : Trig)
  /-- R259: `vx.vld`. Load a 256-byte row. -/
  | vxVld (m : Trig)
  /-- R259: `vx.vst`. Store a 256-byte row. -/
  | vxVst (m : Trig)
  /-- R260: `vx.vgath`. Gather words by lane offset. -/
  | vxVgath (m : Trig)
  /-- R260: `vx.vscat`. Scatter words by lane offset. -/
  | vxVscat (m : Trig)
  /-- R261: `vx.vldc`. Load a row through a handle. -/
  | vxVldc (m : Trig)
  /-- R261: `vx.vstc`. Store a row through a handle. -/
  | vxVstc (m : Trig)
  /-- R264: `vx.vnest`. Start a five-level loop nest of row operations. -/
  | vxVnest (nest : Nest)
  /-- R273: `mx.cfg`. Write mxcfg. -/
  | mxCfg (m : Trig)
  /-- R274: `mx.wload`. Queue a dense weight load. -/
  | mxWload (m : Trig)
  /-- R275: `mx.wloadx`. Queue a sparse weight load. -/
  | mxWloadx (m : Trig)
  /-- R277: `mx.run`. Queue a dense product run. -/
  | mxRun (m : Trig)
  /-- R277: `mx.runsp`. Queue a sparse product run. -/
  | mxRunsp (m : Trig)
  /-- R279: `mx.grp`. Queue a grouped run from a table. -/
  | mxGrp (m : Trig)
  /-- R276: `mx.sclr`. Reset the standby set's scales to 1.0. -/
  | mxSclr (m : Trig)
  /-- R280: `mx.drain`. Drain accumulator rows to q0. -/
  | mxDrain (m : Trig)
  /-- R280: `mx.drainc`. Queue a converting drain into a handle. -/
  | mxDrainc (m : Trig)
  /-- R276: `mx.scale`. Queue a scale-table load. -/
  | mxScale (m : Trig)
  /-- R273: `mx.cap`. Set the remote command key. -/
  | mxCap (m : Trig)
  /-- R273: `mx.prio`. Set the unbooked command priority. -/
  | mxPrio (m : Trig)
  /-- R281: `mx.stat`. Deliver the matrix status word. -/
  | mxStat (m : Trig)
  /-- R270: `mx.swap`. Exchange the active and standby sets. -/
  | mxSwap (m : Trig)
  /-- R288: `ch.copy`. Issue a strided copy. -/
  | chCopy (act : Fin 4) (m : Trig)
  /-- R289: `ch.copyt`. Issue a timed copy. -/
  | chCopyt (act : Fin 4) (m : Trig)
  /-- R290: `ch.copyi`. Issue a copy from a parameter block. -/
  | chCopyi (act : Fin 4) (m : Trig)
  /-- R291: `ch.expand`. Expand compressed bundles into instruction memory. -/
  | chExpand (act : Fin 4) (m : Trig)
  /-- R288: `ch.fill`. Fill rows with a pattern. -/
  | chFill (act : Fin 4) (m : Trig)
  /-- R288: `ch.shadow`. Copy into the shadow image of a pair. -/
  | chShadow (act : Fin 4) (m : Trig)
  /-- R293: `ch.publish`. Publish a shadow pair. -/
  | chPublish (m : Trig)
  /-- R291: `ch.crc`. Compute a CRC-32C of a block. -/
  | chCrc (act : Fin 4) (m : Trig)
  /-- R294: `ch.pbinv`. Invalidate cached parameter blocks. -/
  | chPbinv (m : Trig)
  /-- R294: `ch.tlbinv`. Invalidate TLB entries. -/
  | chTlbinv (m : Trig)
  /-- R294: `ch.tlbpin`. Pin or unpin translations. -/
  | chTlbpin (m : Trig)
  /-- R295: `ch.cancel`. Cancel a copy command. -/
  | chCancel (m : Trig)
  /-- R296: `ch.stat`. Read CCE status. -/
  | chStat (m : Trig)
  /-- R228: `nt.send`. Send into a remote circular buffer. -/
  | ntSend (m : Trig)
  /-- R229: `nt.sendw`. Send and receive the placement position. -/
  | ntSendw (m : Trig)
  /-- R230: `nt.put`. Posted 8-byte write. -/
  | ntPut (m : Trig)
  /-- R230: `nt.putb`. Posted block write. -/
  | ntPutb (m : Trig)
  /-- R233: `nt.reduce`. Contribute to a tree reduction. -/
  | ntReduce (m : Trig)
  /-- R234: `nt.bcast`. Broadcast down a tree from its root. -/
  | ntBcast (m : Trig)
  /-- R237: `nt.spawn`. Spawn a task at the owner of an address. -/
  | ntSpawn (m : Trig)
  /-- R238: `nt.event`. Send an event word to a Silt queue. -/
  | ntEvent (m : Trig)
  /-- R239: `nt.mxcmd`. Send a remote matrix command. -/
  | ntMxcmd (m : Trig)
  /-- R232: `nt.tree`. Write a word of a router's tree entry. -/
  | ntTree (m : Trig)
  /-- R240: `nt.stat`. Read network status. -/
  | ntStat (m : Trig)
  /-- R236: `nt.redwait`. Wait for a tree delivery. -/
  | ntRedwait (m : Trig)
  /-- R308: `lm.bank`. Load a bank descriptor. -/
  | lmBank (m : Trig)
  /-- R308: `lm.tick`. Read a bank's tick. -/
  | lmTick (m : Trig)
  /-- R308: `lm.fan`. Set a bank's fan-out base. -/
  | lmFan (m : Trig)
  /-- R309: `lm.load`. Restore a Loam image. -/
  | lmLoad (m : Trig)
  /-- R309: `lm.store`. Write a Loam image. -/
  | lmStore (m : Trig)
  /-- R308: `lm.inject`. Enqueue a local event. -/
  | lmInject (m : Trig)
  /-- R308: `lm.read`. Read a neuron record. -/
  | lmRead (m : Trig)
  /-- R308: `lm.write`. Write a neuron field. -/
  | lmWrite (m : Trig)
  /-- R308: `lm.run`. Enable banks and start the unit. -/
  | lmRun (m : Trig)
  /-- R308: `lm.stop`. Stop the unit after its running pass. -/
  | lmStop (m : Trig)
  /-- R308: `lm.drain`. Wait until a bank's pass for a tick has ended. -/
  | lmDrain (m : Trig)
  /-- R308: `lm.tie`. Set the tie and late modes. -/
  | lmTie (m : Trig)
  /-- R310: `lm.stat`. Read Loam counters. -/
  | lmStat (m : Trig)
  /-- R312: `cq.probe`. Probe for a start slot. -/
  | cqProbe (m : Trig)
  /-- R312: `cq.book`. Probe and commit a booking. -/
  | cqBook (m : Trig)
  /-- R312: `cq.release`. Release the step's booking. -/
  | cqRelease (m : Trig)
  /-- R312: `cq.extend`. Add entries to the booking at its start slot. -/
  | cqExtend (m : Trig)
  /-- R313: `cq.chain`. Chain a step's booking behind this one. -/
  | cqChain (m : Trig)
  /-- R312: `cq.compact`. Pull the context's chains. -/
  | cqCompact (m : Trig)
  /-- R312: `cq.demote`. Demote the issuing step. -/
  | cqDemote (m : Trig)
  /-- R312: `cq.slack`. Read S − D and D. -/
  | cqSlack (m : Trig)
  /-- R312: `cq.query`. Read booking details. -/
  | cqQuery (m : Trig)
  /-- R314: `sy.csrr`. Read a control register. -/
  | syCsrr (m : Trig)
  /-- R314: `sy.csrw`. Write a control register. -/
  | syCsrw (m : Trig)
  /-- R314: `sy.gtime`. Read 64-bit GT. -/
  | syGtime (m : Trig)
  /-- R314: `sy.waitgt`. Delay the next bundle until a GT value. -/
  | syWaitgt (m : Trig)
  /-- R315: `sy.curtain`. Declare the next curtain. -/
  | syCurtain (m : Trig)
  /-- R315: `sy.carrive`. Arrive at the declared curtain. -/
  | syCarrive (m : Trig)
  /-- R315: `sy.cwait`. Wait for curtain release. -/
  | syCwait (m : Trig)
  /-- R148: `sy.fumode`. Write fumode. -/
  | syFumode (m : Trig)
  /-- R314: `sy.pbmark`. Log a mark value event. -/
  | syPbmark (m : Trig)
  /-- R314: `sy.ecall`. Trap with cause 0x14. -/
  | syEcall (m : Trig)
  /-- R318: `sy.yield`. Yield in the pre-emption handler. -/
  | syYield (m : Trig)
  /-- R314: `sy.brk`. Halt by debug or trap with cause 0x15. -/
  | syBrk (m : Trig)
  /-- R317: `sy.usr`. Save a socket's understudy image. -/
  | syUsr (m : Trig)
  /-- R317: `sy.usw`. Restore a socket's understudy image. -/
  | syUsw (m : Trig)
  /-- R319: `sy.perf`. Read a performance counter. -/
  | syPerf (m : Trig)
  /-- R316: `sy.idle`. Stop issue until an interrupt is pending. -/
  | syIdle (m : Trig)
  /-- R145: A bundle passes its static checks and issues, so all its moves take effect together in its issue cycle. -/
  | bundleIssue (a : Nat) (w : BundleBits)
  /-- R183: A bundle's last cycle, hold cycles included, completes and the sequencer chooses the next bundle. -/
  | bundleComplete
  /-- R146: A triggered result falls due and lands in its latch, or waits in the landing stage of a data-locked socket. -/
  | resultLanding
  /-- R214: A reply to an access with a latency that is not promised reaches the tile, and its result falls due. -/
  | replyArrival
  /-- R182: In cache mode, a line that missed is fetched through the cluster's CCE and issue resumes. -/
  | lineFetchComplete
  /-- R316: A pending interrupt (debug, pre-emption, GT compare or message) is taken at its boundary and the tile enters the handler at tvec. -/
  | interruptTake
  /-- R326: An armed GT compare finds GT at or beyond its value and sets ipend bit 0. -/
  | gtComparePend
  /-- R216: A refusal from a home reaches the issuing tile, which completes its current bundle and then traps. -/
  | deferredFault
  /-- R38: With pre-emption pending, the count of cycles since the last iteration boundary passes the declared maximum, and the step faults with cause 0x33. -/
  | iterationOverrun
  /-- R68: A booked step's delay count D exceeds S and the step overruns with cause 0x52. -/
  | slackExhausted
  /-- R68: GT reaches E + S while a booked step is not Done, and the step overruns with cause 0x51. -/
  | bookingEndPassed
  /-- R53: An unbooked step held from a resource by booked windows gains one age unit every 131,072 cycles, and at age 4 a slot is reserved for it. -/
  | ageIncrement
  /-- R358: A rise of a queue descriptor's en bit is observed, and the device captures ring, lg and slot or rejects a bad descriptor. -/
  | queueEnable
  /-- R362: A packet observed below the queue's tail is captured and checked at the head of its queue. -/
  | queueHeadParse
  /-- R363: The queue arbiter takes a ready head launch into the launch sequence, as a logged choice. -/
  | arbiterChoice
  /-- R43: Once every member of a gang is in the launch sequence and loadable, all members start together and their pipes are initialised. -/
  | gangStart
  /-- R33: A tile's turn comes for its next walker step, which moves to Booking or Loading. -/
  | stepTurn
  /-- R65: The walker probes a booking step's calendars, at first and then every 4,096 cycles. -/
  | bookingProbe
  /-- R65: After eight horizons without a fit, the step faults with cause 0x55 or is demoted. -/
  | bookingNoFit
  /-- R35: GT reaches the cycle from which loading ends with the booked step's first bundle at GT 16s. -/
  | stepLoadStart
  /-- R35: A step's register image is loaded and the step becomes Running. -/
  | stepLoaded
  /-- R46: At a step end or when idle, the tile starts the task at the head of its spawn queue, if no walker step waits. -/
  | taskStart
  /-- R41: A 64-cycle flip between the front and wings banks ends. -/
  | bankFlipComplete
  /-- R42: After the pager resolves a parked fault, the tile flips back at the running step's next iteration boundary. -/
  | wingsFlipBack
  /-- R123: The driver restarts a Faulted step, which reloads from its first bundle and is checked against its journal. -/
  | stepRestart
  /-- R49: A tile in curtain wait meets the arrival conditions and its arrival is sent to the combining point. -/
  | curtainArrive
  /-- R50: A curtain closes at the later of Tc and the last arrival at its combining point. -/
  | curtainClose
  /-- R50: At C + Δ, every participant issues its next bundle and its act count advances. -/
  | curtainRelease
  /-- R78: A load, store, put or copy unit reaches its home and is performed there. -/
  | homeAccess
  /-- R92: An atomic is performed at its home in one cycle and its result is logged. -/
  | atomicAtHome
  /-- R87: An acquire reaches the lock word and is granted, queued or refused. -/
  | lockAcquireAtHome
  /-- R88: A release reaches the lock word and frees it or grants the next waiter. -/
  | lockReleaseAtHome
  /-- R87: A lock grant returns to the tile and its held accesses proceed. -/
  | lockGrantArrival
  /-- R222: A refused acquire is reissued every 16 cycles while the bank queue is full. -/
  | lockReissue
  /-- R94: A credit is performed at a sync word's home, advancing gen when count reaches target. -/
  | creditAtHome
  /-- R96: An arm sets target and armed and clears count and carry at the sync word's home. -/
  | armAtHome
  /-- R224: The home answers a pending sync-word wait once gen has passed the generation, and the tile resumes. -/
  | syncWaitAnswer
  /-- R224: A wait refused by a full wait list is reissued every 16 cycles. -/
  | syncWaitReissue
  /-- R230: A put or putb reaches its home and writes its bytes after the owner-tag check. -/
  | putArrival
  /-- R228: A send packet at the consumer's home is accepted and written, refused, or discarded. -/
  | sendArrival
  /-- R228: An acceptance returns to the sender, whose prod advances. -/
  | sendAcceptance
  /-- R226: A refusal reaches a tile's send channel, which holds the packet for re-sending. -/
  | refusalArrival
  /-- R226: A refused packet is re-sent 16 cycles after its refusal. -/
  | resend
  /-- R226: A send channel injects one flit into the mesh. -/
  | flitInject
  /-- R208: A peer's position update reaches a handle and is taken if it moves the copy forward. -/
  | handleUpdateArrival
  /-- R237: A spawn packet reaches its target, which checks it and queues or refuses the task. -/
  | spawnArrival
  /-- R303: An event word reaches a tile's Silt queue and is enqueued, refused, or treated as late. -/
  | siltEventArrival
  /-- R239: A remote matrix command reaches its target and is queued or refused with an acknowledgement. -/
  | mxcmdArrival
  /-- R233: A reduce or broadcast packet reaches a tree node and is taken as a term, or discarded and counted. -/
  | treePacketArrival
  /-- R233: A completed instance is combined and forwarded to the parent, or written at the root, 8 cycles after its last term. -/
  | treeForward
  /-- R235: A node's timer expires before all expected children deliver, and the node completes with a missing mask. -/
  | treeTimeout
  /-- R303: A bank's delivery pass for a tick delivers its queued events in tie order. -/
  | deliveryPass
  /-- R305: The unit's own queue stays full for 256 cycles during a fire, and the unit stops with cause 0x92. -/
  | fanoutQueueTimeout
  /-- R286: The CCE accepts a copy command once earlier stores are performed, captures and translates it, and returns its identifier. -/
  | cceAccept
  /-- R289: A timed copy enters its lane once GT reaches its issue time and the lane is free. -/
  | timedCopyStart
  /-- R287: A lane moves a unit of a copy and its destination write is performed, crediting its sync word. -/
  | copyRowWrite
  /-- R102: The acknowledgement of an HBM copy write returns to the CCE, which then credits. -/
  | copyWriteAck
  /-- R287: Every destination write of a copy is performed and its decrement is made. -/
  | copyComplete
  /-- R104: The issuing tile's shadow copies and stores are done, fixing Q and P = Q + 256. -/
  | publishReady
  /-- R104: At GT P, every home of the pair exchanges front and shadow. -/
  | publishExchange
  /-- R294: A ch.tlbinv completes once every command holding a removed entry has completed. -/
  | tlbinvComplete
  /-- R294: A ch.tlbpin walk completes and its result lands. -/
  | tlbpinComplete
  /-- R282: The idle array engine, or the engine at an unbooked panel boundary, selects its next command as a logged choice. -/
  | mxArraySelect
  /-- R274: The load engine begins a load command once its preconditions hold. -/
  | mxLoadStart
  /-- R278: A queued matrix command completes in its last update cycle. -/
  | mxCommandComplete
  /-- R265: A loop nest writes its last point and releases vx. -/
  | vnestComplete
  /-- R113: After a gap, once 4,096 bytes are free, the writer completes the gap record and resumes. -/
  | gapResume
  /-- R117: An open order record is written out 131,072 cycles after its first decision. -/
  | recordFlushTimer
  /-- R111: Setting enable translates the whole ring and restarts head, tail and sequence numbers, or fails with cause 0x62. -/
  | pbEnable
  /-- R110: Clearing enable stops record writing and releases the ring translations. -/
  | pbDisable
  /-- R110: A write of full and mode while enabled changes only those fields. -/
  | pbModeWrite
  /-- R365: All steps of a launch are Done and its operations complete, so it performs its releases, record and decrements. -/
  | launchComplete
  /-- R357: A write to DC_DEC decrements the named counter once on behalf of the named slot. -/
  | dcDec
  /-- R372: Bind captures the slot's registers and checks the image header, making the slot Bound. -/
  | ctxBind
  /-- R378: Restore checks capabilities and clusters and starts filling the context's clusters. -/
  | ctxRestore
  /-- R378: Every cluster is filled, the slot becomes Active, and Yielded steps enter the restore path. -/
  | restoreComplete
  /-- R375: Pre-empt raises the pre-emption interrupt on every tile of the context. -/
  | ctxPreempt
  /-- R376: With all four acknowledgements counted, the cluster unpins, copies out its image and resets its tags. -/
  | copyOut
  /-- R376: Every cluster has finished copy-out, gt is written, and the slot is Bound. -/
  | copyOutComplete
  /-- R372: End stops every step, completes launches with status 4, and begins clearing the clusters. -/
  | ctxEnd
  /-- R372: The context's lines are zeroed and untagged, and the slot reaches Bound. -/
  | contextClearComplete
  /-- R372: Unbind removes the slot's TLB and HBM pair entries and frees the slot. -/
  | ctxUnbind
  /-- R372: Invalidate removes one page or all entries of the slot from every TLB. -/
  | ctxInvalidate
  /-- R372: An Invalidate completes once every command holding a removed entry has completed. -/
  | invalidateComplete
  /-- R382: Resume re-accepts a parked agent's kept commands. -/
  | ctxResume
  /-- R384: Remap begins a page migration, waiting until no write to the page is in flight. -/
  | ctxRemap
  /-- R384: At P, the new leaf is written and every entry for the page is dropped. -/
  | remapEffect
  /-- R386: Pair sets up or removes an HBM shadow pair at its home channels. -/
  | ctxPair
  /-- R385: Writing valid 1 to KEY_CTL loads key idx from the data registers and clears them. -/
  | keyLoad
  /-- R385: Writing valid 0 to KEY_CTL erases key idx. -/
  | keyErase
  /-- R391: Every 256 cycles an SRAM array scrubs one line in a free bank cycle. -/
  | scrubStep
  /-- R391: Each pseudo-channel scrubs 512 bytes in each of its refresh bands. -/
  | hbmScrub
  /-- R395: A halt request stops the cluster's tiles and CCE. -/
  | dbgHalt
  /-- R395: Resume restarts the cluster's tiles and CCE, and demotes halted booked steps. -/
  | dbgResume
  /-- R397: A halting cluster with xout triggers its group, halting every cluster with xin. -/
  | crossTrigger
  /-- R394: A write to DBG_VAL sets the selected state of a halted tile. -/
  | dbgValWrite
  /-- R398: Setting go writes one bundle through the code-write path. -/
  | codeWriteGo
  /-- R398: A tile discards its copy of a written code line at a bundle boundary, and done rises after the last. -/
  | lineDiscard
  /-- R399: At a sampling tick every agent latches a sample word. -/
  | sampleTick
  /-- R404: Power good on every supply starts bring-up. -/
  | powerGood
  /-- R404: A bring-up stage ends and the next begins, or failure is reported. -/
  | bringupStageComplete
  /-- R404: Stage 9 is not reached within 2 s of power good, and failure is reported. -/
  | bringupTimeout
  /-- R408: A PWR_CMD to Run returns the cluster to Run. -/
  | pwrRun
  /-- R408: A PWR_CMD to Clock-stop stops the cluster's clocks, or is refused. -/
  | pwrClockStop
  /-- R408: A PWR_CMD to Retain drops the cluster to retention voltage, or is refused. -/
  | pwrRetain
  /-- R408: A PWR_CMD to Off powers the cluster down, or is refused. -/
  | pwrOff
  /-- R408: A cluster power transition finishes and busy falls. -/
  | pwrTransitionComplete
  /-- R409: A write of a valid set value starts a supply ramp. -/
  | vddSet
  /-- R409: Every 2,400 cycles, now moves 1 mV towards set. -/
  | vddRampStep
  /-- R409: temp is updated every 2,400,000 cycles. -/
  | thermUpdate
  /-- R409: A read of THERM returns peak and restarts the peak. -/
  | thermRead
  /-- R410: A junction sensor reaching 115 °C asserts thermtrip_n. -/
  | thermtrip
  /-- R415: Setting join measures pod GT through the parent and loads it, or fails. -/
  | podJoin
  /-- R416: Every 65,536 cycles a package exchanges beats with its parent and may adjust GT by one increment. -/
  | timeBeatExchange
  /-- R416: The parent link fails and locked clears. -/
  | parentLinkFail
  /-- R418: Setting go accepts or refuses a gang switch order. -/
  | swGo
  /-- R417: Setting cancel cancels an order in state 1 or 2. -/
  | swCancel
  /-- R418: GT reaches T and the order waits for a curtain or D. -/
  | swTReached
  /-- R420: GT reaches D with no qualifying curtain, and Pre-empt is given to the outgoing slot. -/
  | swDeadline
  /-- R421: A peer's marker flit reaches a Fly port and divides outgoing from incoming traffic. -/
  | markerArrival
  /-- R421: A port lacks its peer's marker 10,000,000 cycles after sending its own, and sets code 3. -/
  | markerTimeout
  /-- R427: Setting go builds and signs an attestation report. -/
  | attGo
  /-- R428: The attestation report is written, done rises, and the nonce clears. -/
  | attReportDone
  /-- R5: A write to a register with no row of its own, under its access codes. -/
  | registerWrite
  /-- R404: The board controller removes power from the package, and every state held in SRAM and HBM is lost until power good is seen again. -/
  | powerRemoved
  /-- R411: The Apron link finishes training, APR_STAT.up rises with the trained width in lanes, and the register block becomes readable. -/
  | apronLinkTrained
  /-- R358: The device observes a host write that clears a queue descriptor's en bit, and the queue leaves use until en rises again. -/
  | queueDisable
  deriving DecidableEq, Repr

end Sys2Proof
end

