-- ==== Sys2Proof/Machine/Tile.lean ====
section
/-! DEFINITION. The state of one tile or dock core: registers, transport, sequencer, control registers and booking of each step
bank (R14, R41), and what the tile keeps for its accesses and waits. -/

namespace Sys2Proof.Machine

/-- A result latch: its value and full bit (R143, R150). -/
structure Latch where
  val : Row := 0
  full : Bool := false
  deriving DecidableEq, Repr

/-- A result triggered and not yet landed (R146, R147, R150). -/
structure Flight where
  id : Nat
  u : Sock
  code : Nat
  /-- the due cycle; none until the reply of an access whose latency is not promised (R214) -/
  due : Option Nat
  val : Row
  /-- landing mode, latched at the trigger (R148) -/
  locked : Bool
  /-- belongs to the step interrupted by the trap in progress (R151) -/
  pre : Bool
  deriving DecidableEq, Repr

/-- A register that an operation in flight writes in its due cycle (R153, R202, R244). -/
inductive RegWrite where
  | preds (k : Fin 8) (c : Bool)
  | vreg (n : Nat) (v : Row)
  | mask (n : Nat) (v : BitVec 64)
  deriving DecidableEq, Repr

/-- A pending register write. -/
structure Pend where
  id : Nat
  u : Sock
  due : Option Nat
  w : RegWrite
  deriving DecidableEq, Repr

/-- A captured result: its value, remaining age and mode (R151). -/
structure UEntry where
  val : Row
  age : Nat
  locked : Bool
  deriving DecidableEq, Repr

/-- The understudy of one latch (R151). -/
structure Under where
  held : Latch := {}
  entries : List UEntry := []
  deriving DecidableEq, Repr

/-- The transport state of a step: operand ports and latches by `64 × unit id + code`, results and register writes in flight,
the cycle up to which each unit is occupied (R147, last occupied cycle + 1), stopped pipelines (R150: the latch code waited for and
the cycle from which it waits), and the understudies (R151). -/
structure Xport where
  ports : KMap Row := []
  latches : KMap Latch := []
  flights : List Flight := []
  pends : List Pend := []
  busy : KMap Nat := []
  stopped : KMap (Option (Nat × Nat)) := []
  under : KMap Under := []
  kept : KMap Row := []
  /-- the understudies hold a captured state (R151) -/
  captured : Bool := false
  /-- sockets whose understudies `sy.usr` has saved (R154, R317) -/
  saved : BitVec 12 := 0
  /-- t0 of the last trap (R151) -/
  t0 : Nat := 0
  /-- results landed since the last cycle of the last bundle, newest first, each with the latch as it stood before (R151) -/
  landed : List (Latch × Flight) := []
  deriving DecidableEq, Repr

/-- An entry of a branch queue (R183, R187). -/
structure BrEntry where
  target : BitVec 16
  left : Nat
  swap : Bool
  deriving DecidableEq, Repr

/-- One level of the loop stack (R188). -/
structure Loop where
  idx : Word := 0
  cnt : Word := 0
  start : Word := 0
  stop : BitVec 16 := 0
  fixed : Bool := false
  deriving DecidableEq, Repr

/-- What happens after a bundle's hold cycles, by the operation that the bundle triggered. -/
inductive After where
  /-- `sq.trap`, `sy.ecall`, `sy.brk`: the cause, and the value for `xaddr` (R193, R314) -/
  | trap (cause : Nat) (addr : Option Word) (slot : Nat)
  | iret
  | halt
  /-- `sq.scene`: the scene's first bundle (R192) -/
  | scene (first : Nat)
  /-- a zero-trip `sq.loop`: the next bundle, after 2 further cycles (R189) -/
  | zeroTrip (next : Nat)
  /-- `sq.ifence`: the next bundle no earlier than 8 cycles later (R195) -/
  | ifence
  | yield
  deriving DecidableEq, Repr

/-- Waits that hold a tile after a bundle has issued (R52, R224, R236, R311, R315, R316). -/
inductive Wait where
  | none
  /-- `sy.waitgt` (R314): a GT value -/
  | gt (t : Nat)
  /-- `ls.sw.wait` until its answer (R224) -/
  | sync (id : Nat)
  /-- `nt.redwait` on a tree, the count to pass, and the operation's identifier (R236) -/
  | tree (t : Fin 16) (c : BitVec 8) (id : Nat)
  /-- `sy.cwait` until the curtain's release, with the mode that its result has taken (R148, R315) -/
  | curtain (locked : Bool)
  /-- a `cq` operation until the cycle of its result (R311) -/
  | cue (until_ : Nat)
  /-- `lm.stop` until the unit has stopped (R308) -/
  | loam
  /-- `lm.drain` until a bank has ended its pass for a tick, with the mode that its result has taken (R148, R308) -/
  | drain (bank tick : Nat) (locked : Bool)
  /-- `sy.idle` (R316) -/
  | idle
  /-- a cache-mode line that is being fetched (R182) -/
  | line (n : Nat)
  /-- a bank flip (R41) -/
  | flip
  /-- an operation until its operand structure is read (R308, R309, R317) -/
  | usr (until_ : Nat)
  /-- `sy.usr` and `lm.store` until their accesses, of these identifiers, are performed, and the result that `lm.store` then has, with
  its mode (R148, R309, R317) -/
  | stores (lo hi : Nat) (res : Option (Word × Bool))
  /-- `sy.usw` until its image can be read, from this cycle on (R317) -/
  | image (u : Sock) (addr at_ : Nat) (org : Org)
  deriving DecidableEq, Repr

/-- What a trap keeps of the resume bundle beside the control registers (R157, R193): the scene it lies in, with the loop-end level and
the branches of the bundle that called it, the levels that a `lbrk` popped whose delay bundles are not over (R190), the hold or wait of the bundle before
it, whether that bundle's boundary is still to be passed (R37), and the resume position where there is no resume bundle: the step's last bundle has
completed. -/
structure Saved where
  scene : Option Nat := none
  lend : Nat := 0
  bound : Bool := false
  newq : List BrEntry := []
  popped : List (Nat × Nat) := []
  wait : Wait := .none
  owed : Bool := false
  ended : Option (BitVec 17) := none
  deriving DecidableEq, Repr

/-- The sequencer of a step (R156, R181 to R195). -/
structure Seq where
  pc : BitVec 16 := 0
  half : Bool := false
  /-- inside a scene: the scene's first bundle (R156) -/
  scene : Option Nat := none
  /-- micro program counter, counted from the scene's first bundle (R184) -/
  mpc : Nat := 0
  bq : List BrEntry := []
  mq : List BrEntry := []
  /-- branches that the bundle in issue added, which join their queue at its completion (R183) -/
  newq : List BrEntry := []
  depth : Nat := 0
  loops : KMap Loop := []
  cdepth : BitVec 8 := 0
  intrap : Bool := false
  imode : BitVec 2 := 0
  /-- scene table: first bundle of each valid scene (R156) -/
  scenes : KMap (Option Nat) := []
  /-- entry table (R186) -/
  entries : List (Nat × Nat) := []
  /-- copies of 256-byte lines (R182): instruction memory 0-255, scene store 256-319, cache mode from 320 -/
  lines : KMap (Option Row) := []
  after : List After := []
  /-- what each trap in progress keeps of its resume bundle, innermost first -/
  xscenes : List Saved := []
  /-- loop-end level, boundary and branches of the macro bundle that called the running scene (R156, R192) -/
  callLend : Nat := 0
  callBound : Bool := false
  callNewq : List BrEntry := []
  /-- the bundle in issue ends its scene, and carries a loop-end level (R37, R156) -/
  send : Bool := false
  bound : Bool := false
  /-- last cycle of the bundle in issue, its hold cycles and the cycles for which it holds the tile included -/
  bundleEnd : Nat := 0
  /-- the loop-end level of the bundle in issue, 0 for none (R163) -/
  lend : Nat := 0
  /-- levels that a `lbrk` popped while its delay bundles issue: (level, bundles still to complete) (R190) -/
  popped : List (Nat × Nat) := []
  /-- the last bundle issued, for `xfpc` of an interrupt (R193) -/
  lastPc : BitVec 17 := 0
  /-- earliest cycle of the next bundle (R195, R41) -/
  notBefore : Nat := 0
  /-- a bundle of the step has issued since its start -/
  started : Bool := false
  /-- a bundle with a loop-end level has issued and holds the tile: its boundary is passed when the hold ends (R37, R316) -/
  owed : Bool := false
  /-- the step's last bundle has completed, and what keeps the step from Done is still to come: a hold of that bundle, a trap or a refusal (R35, R216) -/
  ended : Bool := false
  /-- the first cycle of the handler that runs, since which the performance counter 8 counts (R319) -/
  trapFrom : Nat := 0
  deriving DecidableEq, Repr

/-- The control registers of R320 that no other structure holds. -/
structure Csr where
  fumode : BitVec 12 := 0
  mxcfg : Word := 0
  ntpkg : Word := 0
  chsw : Word := 0
  chdc : Word := 0
  tvec : BitVec 17 := 0
  ien : BitVec 2 := 0
  ipend : BitVec 4 := 0
  gtcmplo : Word := 0
  gtcmphi : Word := 0
  armed : Bool := false
  imsg : BitVec 5 := 0
  xcause : BitVec 8 := 0
  xpc : BitVec 17 := 0
  xmpc : BitVec 8 := 0
  xslot : BitVec 3 := 0
  xgtlo : Word := 0
  xgthi : Word := 0
  xq0 : Word := 0
  xq1 : Word := 0
  xqm0 : Word := 0
  xqm1 : Word := 0
  xfpc : BitVec 17 := 0
  xaddr : Word := 0
  act : Word := 0
  deriving DecidableEq, Repr

/-- One entry of a cue list (R58). -/
structure Cue where
  cls : Nat
  flags : Nat
  sel : Nat
  first : Nat
  length : Nat
  period : Nat
  reps : Nat
  slack : Nat
  deriving DecidableEq, Repr

/-- The booking of a step (R61, R67, R72, R312). -/
structure Booking where
  s : Nat
  e : Nat
  slack : Nat
  span : Nat
  movable : Bool
  demotePolicy : Bool
  entries : Nat
  cues : List Cue
  pred : Option StepKey := none
  succ : Option StepKey := none
  deriving DecidableEq, Repr

/-- The declared curtain of a tile (R315). -/
structure Curtain where
  scope : Nat
  tc : Nat
  arrived : Bool := false
  released : Bool := false
  deriving DecidableEq, Repr

/-- What a bank runs: the step, its context slot, and what its kernel object fixed at the start (R30, R35, R349). -/
structure Run where
  key : StepKey
  slot : Nat
  /-- running, or stopped by a fault (its cause), or not yet begun -/
  going : Bool
  /-- highest macro index plus one: the code length in cache mode (R182) -/
  codeLen : Nat
  /-- virtual address of the kernel's code in cache mode (R182) -/
  codeVa : Nat
  /-- declared maximum iteration length (R38) -/
  maxIter : Nat
  /-- mode latched by the launch (R110): 0 off, 1 record, 2 replay; 3 excluded (R112) -/
  pbMode : Nat
  /-- base of a dock-core task's virtual window (R21, R237) -/
  window : Nat := 0
  booking : Option Booking := none
  /-- delay count D, and the cycle after the last one it counts (R67) -/
  delay : Nat := 0
  delayAt : Nat := 0
  demoted : Bool := false
  /-- first cycle after the last iteration boundary, whether a bundle has issued since it, and boundaries passed (R37, R38, R42) -/
  iterStart : Nat := 0
  atBoundary : Bool := true
  boundaries : Nat := 0
  /-- age units, the cycle since which a resource is awaited, and the cycle of the last hold, per resource id (R53) -/
  ages : KMap (Nat × Nat × Nat) := []
  /-- the kernel's spawn table (R350) -/
  spawns : List Nat := []
  /-- the step has come to the front; one loaded ahead waits in wings for that (R35, R41) -/
  begun : Bool := false
  /-- parked, and the pager has resolved its fault (R382) -/
  resumed : Bool := false
  deriving DecidableEq, Repr

/-- A bank of neurons (R299, R300): its parameters, `fan`'s new table, the absolute number of its next pass, and the tick of its last ended
pass. -/
structure LmBank where
  theta : Word := 0
  vreset : Word := 0
  k : Nat := 0
  rticks : Nat := 0
  tlog : Nat := 4
  fbase : Nat := 0
  fnext : Option Nat := none
  next : Nat := 0
  ended : Option Nat := none
  deriving DecidableEq, Repr

/-- A queued event (R301, R303, R309): its word, source tile, arrival cycle, whether it was late, and whether `lm.load` restored it. -/
structure LmEvent where
  word : BitVec 64
  src : Nat
  at_ : Nat
  late : Bool := false
  restored : Bool := false
  deriving DecidableEq, Repr

/-- The running pass (R303, R306): bank, tick, sources delivered so far, and the sources still to be delivered in a replay's order, with whether a
replay drives it (R330). -/
structure LmPass where
  bank : Nat
  tick : Nat
  done : List Nat := []
  plan : List Nat := []
  driven : Bool := false
  deriving DecidableEq, Repr

/-- A fire that is emitting its fan-out (R305): bank, tick, the address of the next entry or, before the first, of the neuron's index (R302), the
entry where it has been read, and the cycle since which the own queue has had no room. -/
structure LmFan where
  bank : Nat
  tick : Nat
  base : Nat := 0
  at_ : Nat
  index : Bool := false
  got : Option Nat := none
  since : Option Nat := none
  deriving DecidableEq, Repr

/-- The Loam unit of a step (R307): banks, enabled banks, modes with those that apply from the next pass, probe handle field, queue, the
running pass and fire, counters (R310), and the number of the chain of turns that drives it, with whether its next turn only waits for a
pass to come due. -/
structure Loam where
  banks : KMap LmBank := []
  on : BitVec 16 := 0
  running : Bool := false
  stopping : Bool := false
  modes : BitVec 2 := 0
  nextModes : BitVec 2 := 0
  probe : BitVec 5 := 0
  queue : List LmEvent := []
  pass : Option LmPass := none
  fan : Option LmFan := none
  chain : Nat := 0
  idle : Bool := false
  drops : Nat := 0
  lates : Nat := 0
  fires : Nat := 0
  lost : Nat := 0
  deriving DecidableEq, Repr

/-- A step bank (R41): registers, transport, sequencer, control registers and the step. -/
structure Bank where
  /-- rows claimed on a handle and not yet advanced (R261) -/
  claimed : KMap Nat := []
  g : KMap Word := []
  p : BitVec 16 := 0
  h : KMap (BitVec 128) := []
  v : KMap Row := []
  m : KMap (BitVec 64) := []
  x : Xport := {}
  q : Seq := {}
  c : Csr := {}
  run : Option Run := none
  wait : Wait := .none
  curtain : Option Curtain := none
  /-- a curtain declared after the arrival at the present one -/
  curtainNext : Option Curtain := none
  /-- the cycle in which the bank went to wings with a step in it -/
  wingsAt : Option Nat := none
  /-- performance counters (R319) -/
  perf : KMap Nat := []
  /-- the Loam unit, which belongs to the step (R307) -/
  lm : Loam := {}
  /-- deferred faults that have reached the tile and wait for the bundle's end (R216) -/
  dfaults : List DFault := []
  deriving DecidableEq, Repr

/-- A handle of a step that is over, to which a row is still on its way (R261). -/
structure OldHandle where
  key : StepKey
  no : Nat
  h : BitVec 128
  deriving DecidableEq, Repr

/-- An access of the tile that is not yet performed (R81, R88, R91, R100): its class, kind and home. -/
structure Out where
  id : Nat
  cls : Nat
  store : Bool
  /-- it writes memory, as a store, an atomic, a lock operation, an arm or a credit does (R384) -/
  writes : Bool := store
  /-- `nt.put` and `nt.putb` (R88, R91), to which no class order applies -/
  put : Bool
  /-- put to another package (R231) -/
  remote : Bool := false
  addr : Nat
  /-- the tile or dock core at which it is performed -/
  home : Nat
  /-- keys of the banks or channel that perform it, and the cycle in which it is to be performed -/
  keys : List Nat := []
  perfAt : Nat := 0
  /-- the step that made it -/
  key : StepKey := {}
  /-- the handle whose row it is (R261) -/
  hnd : Option Nat := none
  /-- accesses at homes still to be performed, and whether one of them has been refused (R260) -/
  left : Nat := 1
  refused : Bool := false
  deriving DecidableEq, Repr

/-- A loop nest that runs on `vx` (R262 to R266): its bases, the point whose rows are read next and its cycle, and the cycle of the
last row write so far with the rows still to be written. -/
structure NestRun where
  id : Nat
  nest : Nest
  dst : Nat
  a : Nat
  b : Nat
  point : Nat
  /-- (row address, write cycle) of points whose destination row is not yet written -/
  writes : List (Nat × Nat)
  lastWrite : Nat
  org : Org
  deriving DecidableEq, Repr

/-- What an operation kept for a parked task does when it is accepted again (R381, R382). -/
structure Kept where
  id : Nat
  ev : Instr
  occ : Occ
  deriving DecidableEq, Repr

/-- A lock requested and not yet granted (R87, R89). -/
structure Acq where
  id : Nat
  cls : Nat
  addr : Nat
  deriving DecidableEq, Repr

/-- A fence not yet complete (R91): its class, its scope, and the accesses it waits for. -/
structure Fence where
  cls : Nat
  ids : List Nat
  deriving DecidableEq, Repr

/-- A send channel (R226): packets in trigger order with the flits each has still to inject, and those refused, each with the cycle in
which it is sent again; none while the re-sent packet is on its way, and before the first refusal has reached the channel (`untold`). -/
structure Chan where
  pkts : List (Pkt × Nat) := []
  refused : List (Pkt × Option Nat) := []
  untold : List Nat := []
  deriving DecidableEq, Repr

/-- The entry of a tree at a node (R232): control word, expected indices, result address. -/
structure TreeEntry where
  ctl : Word := 0
  lo : Word := 0
  hi : Word := 0
  addr : Word := 0
  deriving DecidableEq, Repr

/-- An instance that a node holds open (R233): the entry it opened under, the cycle in which its time passes, the own term and those of
the children, whether its forwarding is scheduled, and the recorded mask that a replay gives it, with its record's number (R119). -/
structure TreeInst where
  num : Nat
  entry : TreeEntry
  due : Option Nat := none
  own : Option TreePkt := none
  kids : List (RPort × TreePkt) := []
  closing : Bool := false
  expired : Bool := false
  drive : Option (Nat × BitVec 64) := none
  deriving DecidableEq, Repr

/-- A tree at one router (R232 to R236): its entry, the instance number of the tile's next contribution, the delivery count and its
flag, the open instances, the broadcasts about to be forwarded, the last 128 instances forwarded, and the number below which a replay's records
have been given to instances (R119). -/
structure Tree where
  entry : TreeEntry := {}
  inst : Nat := 0
  count : BitVec 8 := 0
  masked : Bool := false
  opens : List TreeInst := []
  casts : List TreeInst := []
  gone : List Nat := []
  drove : Nat := 0
  deriving DecidableEq, Repr

/-- A router: its trees, and the packets discarded (R240). -/
structure Router where
  trees : KMap Tree := []
  discards : Nat := 0
  deriving DecidableEq, Repr

/-- What the walker captures of a kernel object at queue-head parse, and a target at a spawn (R348 to R350): flags, limits, and the contents of its sections, bytes
as numbers in little-endian order. -/
structure Kern where
  restartable : Bool := false
  overlay : Bool := false
  maxIter : Nat := 1
  fumode : BitVec 12 := 0
  tvec : BitVec 17 := 0
  overstated : Bool := false
  /-- needs of R346: g, loop, calls, frame in bytes, pair entries -/
  needG : Nat := 0
  needLoop : Nat := 0
  needCalls : Nat := 0
  needFrame : Nat := 0
  needPairs : Nat := 0
  /-- loop table: kind, extent index, destination register, body start (R28, R349) -/
  levels : List (Nat × Nat × Nat × Nat) := []
  /-- cue list entries; none without a list -/
  cues : Option (List Nat) := none
  image : Nat := 0
  entries : List (Nat × Nat) := []
  spawns : List Nat := []
  /-- pipe number, role, handle -/
  pipes : List (Nat × Nat × Nat) := []
  dataLen : Nat := 0
  data : Nat := 0
  /-- virtual address and length of the chosen native bundles -/
  codeVa : Nat := 0
  codeLen : Nat := 0
  /-- an overlay kernel's bundles -/
  code : Nat := 0
  /-- the scene table, and the scene bundles with their number -/
  sceneTab : Nat := 0
  sceneLen : Nat := 0
  scenes : Nat := 0
  deriving DecidableEq, Repr

/-- A task waiting in a spawn queue, with its kernel as the target read it at the spawn (R45, R237, R350). -/
structure Task where
  sender : Nat
  slot : Nat
  pbMode : Nat
  kern : Kern
  window : Nat
  args : Row
  deriving DecidableEq, Repr

/-- One tile or dock core. -/
structure Agent where
  front : Bank := {}
  wings : Bank := {}
  outs : List Out := []
  acqs : List Acq := []
  fences : List Fence := []
  chans : KMap Chan := []
  spawnQ : List Task := []
  /-- value events so far, per context slot (R116) -/
  ordinals : KMap Nat := []
  /-- parameter-block cache hits since step start (R296) -/
  blockHits : Nat := 0
  /-- flits' refusals received (R240, selector 2) -/
  refusals : Nat := 0
  /-- launch position the tile was last filled for, plus one (R430) -/
  filled : Nat := 0
  /-- a bank flip ends in this cycle (R41) -/
  flip : Option Nat := none
  /-- halted by the debug module in this cycle (R395) -/
  halted : Option Nat := none
  /-- a wings step whose pager fault is resolved waits to flip back (R42) -/
  flipBack : Bool := false
  /-- a step is being loaded into the wings bank ahead of its turn (R41) -/
  ahead : Bool := false
  /-- accesses kept for a parked task of a dock core (R381, R382) -/
  kept : List Kept := []
  /-- the running loop nest -/
  nest : Option NestRun := none
  /-- handles of steps that are over, as rows still on their way to them find them (R261) -/
  oldH : List OldHandle := []
  /-- a FLIT_INJECT entry of the agent stands in the agenda -/
  injecting : Bool := false
  /-- an `.issue` entry of the agent stands in the agenda -/
  queued : Bool := false
  /-- the last cycle in which a bundle issued and the last in which the tile was held, each plus one, and that hold's run state (R400) -/
  lastIssue : Nat := 0
  lastHold : Nat × Nat := (0, 0)
  deriving DecidableEq, Repr

/-! ### The matrix unit (R268 to R283) -/

/-- A weight set (R268): panel count, format code and kind as the last load triggered into it left them, the format that its weights were loaded
with (R135), the panels' 2 KiB each, their pruned positions as bits, and the BF16 scales that are not 1.0, by `8 × row + panel` and `8 × column + panel`. -/
structure MxSet where
  panels : Nat := 0
  fmt : Nat := 1
  sparse : Bool := false
  held : Nat := 1
  w : KMap Nat := []
  pruned : KMap Nat := []
  sa : KMap (BitVec 16) := []
  sb : KMap (BitVec 16) := []
  deriving DecidableEq, Repr

/-- A group of rows of an array command (R277, R279). -/
structure MxGroup where
  rows : Nat
  pan0 : Nat
  npanel : Nat
  deriving DecidableEq, Repr

/-- What a queued command does (R271): a dense or sparse load of panels or passes, a load of scales, a clear of scales, a product over groups,
or a drain into a handle. -/
inductive MxOp where
  | load (sparse : Bool) (fmt n : Nat)
  | scale (cols : Bool) (pan0 n : Nat)
  | sclr
  | run (sparse : Bool) (afmt : Nat) (bank row0 : Nat) (zero : Bool) (groups : List MxGroup) (credit : Nat)
  | drainc (bank row0 count : Nat) (clear shadow : Bool)
  deriving DecidableEq, Repr

/-- A queued command (R269, R270, R282): its issuer and step, its trigger cycle, the set it is bound to or writes, the latched `mxcfg`, its
priority, how long it has waited and since when it waits, its progress, and a copy of its handle once its step is over. -/
structure MxCmd where
  id : Nat
  agent : Nat
  remote : Bool
  slot : Nat
  pb : Nat
  step : StepKey
  org : Org
  trig : Nat
  op : MxOp
  set : Nat
  cfg : BitVec 32
  prio : Nat
  waited : Nat := 0
  since : Option Nat := none
  started : Bool := false
  chosen : Bool := false
  group : Nat := 0
  pass : Nat := 0
  row : Nat := 0
  done : Nat := 0
  buf : Nat := 0
  h : Option (BitVec 128) := none
  deriving DecidableEq, Repr

/-- The matrix unit of a tile (R268): accumulator rows by `256 × bank + row`, rows that a drain is about to clear (cycle and old value), sets,
the active one's number, the queue, the commands that the engines run with the cycle of their next turn, the cycle in which each engine's
last command ended, sticky fields (R281), key and priority (R273), and the status reads that wait for commands. -/
structure Mx where
  acc : KMap Row := []
  clears : KMap (Nat × Row) := []
  s0 : MxSet := {}
  s1 : MxSet := {}
  act : Bool := false
  q : List MxCmd := []
  array : Option (Nat × Nat) := none
  load : Option (Nat × Nat) := none
  arrayEnd : Option Nat := none
  nv : Bool := false
  ncause : Nat := 0
  err : Nat := 0
  done : Nat := 0
  key : Word := 0
  prio : Nat := 0
  stats : List (Nat × Nat) := []
  deriving DecidableEq, Repr

/-! ### Copy engines (R284 to R296) -/

/-- What a command of the copy family does (R288, R291): `expand` and `crc` name where their result record goes. -/
inductive XferKind where
  | copy
  | shadow
  | fill (pattern : BitVec 64)
  | expand (rec_ : Nat)
  | crc (rec_ : Nat)
  deriving DecidableEq, Repr

/-- The captured fields of a command (R284, R285, R290): addresses with their space, the block's shape, an issue time, the lane or the CCE's
choice, a destination handle, and the completion action with its targets. -/
structure Xfer where
  kind : XferKind
  srcVirt : Bool
  src : Nat
  dstVirt : Bool
  dst : Nat
  rowBytes : Nat
  rows : Nat
  sstr : Int
  dstr : Int
  gt : Option Nat
  lane : Nat
  hnd : Option Nat
  act : Nat
  sw : Nat
  dc : Nat
  deriving DecidableEq, Repr

/-- A `ch` operation before its acceptance (R286, R293 to R296). -/
inductive ChOp where
  | xfer (x : Xfer)
  | block (virt : Bool) (addr act : Nat)
  | publish (pid : Nat)
  | pbinv (all : Bool) (virt : Bool) (addr : Nat)
  | tlbinv (all : Bool) (va : Nat)
  | tlbpin (pin : Bool) (va n : Nat)
  | cancel (cid : Nat)
  | stat (sel o0 : Nat)
  deriving DecidableEq, Repr

/-- A triggered `ch` operation, by whom and for which step. -/
structure ChReq where
  id : Nat
  agent : Nat
  slot : Nat
  step : StepKey
  org : Org
  pb : Nat
  op : ChOp
  deriving DecidableEq, Repr

/-- A page that a command holds translated (R286): its VA / 64 KiB, whether its entry covers 2 MiB, and where it stands. -/
structure HeldPage where
  page : Nat
  big : Bool
  host : Bool
  pa : Nat
  key : Option Nat
  deriving DecidableEq, Repr

/-- An accepted command (R286, R287): its identifier and pages, its place (row and byte of the row), the row of each write not yet performed,
the rows pushed into its handle, a copy of that handle once its step is over, and what an expansion or a checksum has gathered. -/
structure Copy where
  req : ChReq
  x : Xfer
  cid : Nat
  pages : List HeldPage := []
  row : Nat := 0
  unit_ : Nat := 0
  out : List Nat := []
  pushed : Nat := 0
  crc : Nat := 0xFFFFFFFF
  consumed : Nat := 0
  status : Nat := 0
  reads : Nat := 0
  bundles : List Nat := []
  /-- bytes of an `expand`'s stream that have been read, and whether they hold all that it expands -/
  buf : Nat := 0
  parsed : Bool := false
  h : Option (BitVec 128) := none
  deriving DecidableEq, Repr

/-- A lane (R286): accepted commands that wait, the one it moves, those that it has moved whose writes are not all performed, and the cycle up to
which a line of code has it (R182). -/
structure Lane where
  queue : List Copy := []
  run : Option Copy := none
  tail : List Copy := []
  line : Nat := 0
  deriving DecidableEq, Repr

/-- A cached parameter block (R290). -/
structure Block where
  slot : Nat
  virt : Bool
  addr : Nat
  v : Nat
  deriving DecidableEq, Repr

/-- A copy engine (R286 to R296): the next identifier, triggers not yet accepted, lanes, the time-sorted buffer, cached blocks (most recently
used first), invalidations that wait for commands (operation, agent, entries removed, commands), commands kept for a parked step (R381), and
publishes that wait for copies (R104). -/
structure Cce where
  next : Nat := 0
  pend : List ChReq := []
  lanes : KMap Lane := []
  timed : List Copy := []
  blocks : List Block := []
  invs : List (Nat × Nat × Nat × List Nat) := []
  kept : List ChReq := []
  pubs : List ChReq := []
  deriving DecidableEq, Repr

end Sys2Proof.Machine
end

