-- ==== Sys2Proof/Machine/State.lean ====
section
/-! DEFINITION. The whole state, as plain data, the reasons a step can stop, and the state after reset. -/

namespace Sys2Proof.Machine

/-- Why the machine stops with a fault. -/
inductive Fault where
  /-- raised by BUNDLE_ISSUE and its kin for an agent number that R77 leaves unassigned; safe: no such agent issues bundles -/
  | noSuchAgent (a : Nat)
  deriving DecidableEq, Repr

/-- Why the machine gives no meaning. -/
inductive Refusal where
  /-- raised by `exec` for an instruction that has no meaning yet; safe -/
  | notModelled (mnemonic : String)
  /-- raised by a device event whose occasion in `State.occ` is not of the shape it reads; safe: `step` never makes one -/
  | noOccasion (mnemonic : String)
  deriving DecidableEq, Repr

/-- What an agenda entry does: an agent's next issue cycle, or a device event with its occasion. -/
inductive Work where
  | issue (a : Nat)
  | ev (i : Instr) (o : Occ)
  deriving DecidableEq, Repr

/-- Something still to come: its cycle, its place within the cycle, and what it is. -/
structure Entry where
  at_ : Nat
  pri : Nat
  what : Work
  deriving DecidableEq, Repr

/-- The issue register: which agent issues, the header and the long constant of its bundle (R163, R166). -/
structure Cur where
  a : Nat := 0
  hdr : BitVec 64 := 0
  long : BitVec 64 := 0
  slot : Nat := 0
  deriving DecidableEq, Repr

/-- The requests that a data bank or a home channel holds (R86, R224). -/
structure HomeQ where
  /-- queued lock requests, in grant order -/
  locks : List SyncOp := []
  /-- pending sync-word waits -/
  waits : List SyncOp := []
  deriving DecidableEq, Repr

/-- A calendar entry's holding (R55): the step, and the slot for which it holds the entry. -/
structure Held where
  key : StepKey
  slot : Nat
  /-- reserved for an aged unbooked step (R53) -/
  aged : Bool := false
  /-- released: the GT from which it is free (R71) -/
  freeAt : Option Nat := none
  deriving DecidableEq, Repr

/-- The states of a step (R35); a Faulted one holds its cause. -/
inductive StepState where
  | assigned | booking | committed | loading | running | parked | yielded | faulted (cause : Nat) | done | ended
  deriving DecidableEq, Repr

/-- A step that the walker has assigned (R32, R35): its coordinates, state, booking, and what it keeps while it is off its tile. -/
structure StepRec where
  key : StepKey
  slot : Nat
  /-- die point and tile point (R32) -/
  i : Nat
  j : Nat
  st : StepState := .assigned
  booking : Option Booking := none
  demoted : Bool := false
  /-- when the step entered Booking, and probes made (R65) -/
  bookSince : Nat := 0
  /-- its kernel is `.restartable`: effects numbered so far, and those that have been performed with a journal record (R121, R123) -/
  restartable : Bool := false
  effects : Nat := 0
  performed : List Nat := []
  /-- the restart in progress checks its effects against the journal (R123) -/
  restarted : Bool := false
  /-- the cues that a pre-empted booked step has still to book (R40), and the bank of a Yielded step, as its tile loads it again (R378) -/
  remain : Option (List Cue) := none
  resume : Option Bank := none
  deriving DecidableEq, Repr

/-- An order record that a home still fills (R117): repeats, entries (choice, kind), the GT of its first decision, and whether it is to be written
out as soon as the ring has room (R113). -/
structure OpenRec where
  key : StreamKey
  n : Nat
  entries : List (Nat × Nat)
  gt : Nat
  due : Bool := false
  deriving DecidableEq, Repr

/-- A frame of a ring, with its key where it is encrypted (R111, R385). -/
structure RingFrame where
  host : Bool
  pa : Nat
  key : Option Nat
  deriving DecidableEq, Repr

/-- The Prompt Book of one slot, beside its registers: the frames of its ring, the next ring sequence number, open records and
last decisions of its streams, a gap in progress (its place and the records discarded), and the replay's progress: decisions made of
each record not yet passed, and closed streams (R111 to R120). -/
structure Book where
  frames : List RingFrame := []
  seq : Nat := 0
  opens : List OpenRec := []
  last : List (StreamKey × (Nat × Nat)) := []
  gap : Option (Nat × Nat) := none
  made : KMap Nat := []
  closed : List StreamKey := []
  deriving DecidableEq, Repr

/-- A translation held by a copy engine or a dock core (R10, R19, R379, R383): the slot, the page (VA / 64 KiB) and its size, the
frame, the leaf's bits, whether it is pinned, and one access counter for each 64 KiB of it, with whether a write was seen. -/
structure Tlb where
  slot : Nat
  page : Nat
  big : Bool
  leaf : BitVec 64
  pinned : Bool := false
  /-- the key material of an encrypted page (R385) -/
  mat : Option Nat := none
  counts : KMap Nat := []
  wrote : KMap Bool := []
  deriving DecidableEq, Repr

/-- Where a launch stands (R31, R35, R365): at its queue's head, held for its gang, running, in completion, complete. -/
inductive LaunchSt where
  | parsed | inSequence | completing | complete
  deriving DecidableEq, Repr

/-- A tile's arrival at the curtain of one act of its launch: what it declared, and whether it has reached the combining point (R49, R50). -/
structure Arrival where
  tile : Nat
  act : Nat
  scope : Nat
  tc : Nat
  atPoint : Bool := false
  deriving DecidableEq, Repr

/-- A launch, with the fields of its packet (R360). -/
structure Launch where
  /-- arrivals at curtains not yet released, one a tile (R49, R50) -/
  arrivals : List Arrival := []
  id : Nat
  queue : Nat
  slot : Nat
  st : LaunchSt := .parsed
  /-- launch-sequence position -/
  pos : Nat := 0xFFFFFFFF
  /-- the packet, 128 bytes -/
  pkt : Nat := 0
  kern : Kern := {}
  /-- the extents of the loop table's levels (R29) -/
  extents : List Nat := []
  /-- the register image that the packet names, or the kernel's -/
  image : Nat := 0
  /-- mode latched at the walker's assignment (R110, R112) -/
  pbMode : Nat := 0
  /-- completion status and cause (R367); 0 while it runs -/
  status : Nat := 0
  cause : Nat := 0
  /-- cause of its first fault (R365) -/
  firstFault : Nat := 0
  demoted : Bool := false
  doneSteps : Nat := 0
  zeroWork : Bool := false
  /-- the gang has started (R43), the cycle in which its unbooked steps start together, and whether every member of it is complete -/
  started : Bool := false
  startAt : Nat := 0
  gangOver : Bool := false
  /-- it is ready, and whether the failure bit of a counter that it waits on was set as it became so (R365) -/
  judged : Option Bool := none
  /-- act number of each tile's part (R315) -/
  acts : KMap Nat := []
  deriving DecidableEq, Repr

/-- A work queue as the device holds it (R358): the captured fields, the head, and the launch parsed at the head. -/
structure Queue where
  inUse : Bool := false
  /-- `en` as the last write that the device watched left it, and the cycle by which it has seen every such write -/
  level : Bool := false
  seenBy : Nat := 0
  ring : Nat := 0
  lg : Nat := 0
  slot : Nat := 0
  head : Nat := 0
  parsed : Option Nat := none
  deriving DecidableEq, Repr

/-- The slots of the last gang-switch order (R417, R418). -/
structure Switch where
  out : Nat := 0
  in_ : Nat := 0
  /-- T and D as they were at its acceptance -/
  t : Nat := 0
  d : Nat := 0
  /-- the curtain that closed between T and D switches at its release (R419) -/
  atCurtain : Option CurtainKey := none
  /-- ports whose peers' markers are still awaited (R421) -/
  marks : List Nat := []
  /-- ports whose peers' markers have arrived, before or after the port's own was sent, and those whose time for one is over -/
  came : List Nat := []
  lost : List Nat := []
  /-- the number of the order -/
  no : Nat := 0
  deriving DecidableEq, Repr

/-- An HBM shadow pair (R386): its front range is image A, and `swapped` makes image B the front. -/
structure HPair where
  slot : Nat
  pid : Nat
  frames : Nat
  front : Nat
  shadow : Nat
  swapped : Bool := false
  deriving DecidableEq, Repr

/-- A memory key (R385). -/
structure MemKey where
  slot : Nat := 0
  valid : Bool := false
  /-- which material it holds -/
  no : Nat := 0
  deriving DecidableEq, Repr

/-- A tree packet that waits for its slot to be Active again, at the port of a tile (R422, R423). -/
structure HeldTree where
  tile : Nat
  port : RPort
  pkt : TreePkt
  deriving DecidableEq, Repr

/-- What the hardware block of a tile in a cluster record stands for (R373, R376): the matrix unit, the bank of a Yielded step, the wings bank, the
router with the cycles that its instances have left, the pair entries by index and word; with it the contributions that the router has refused
(R422), the launch that the tile is filled for, and the tasks that wait in its queue. -/
structure SavedTile where
  mx : Mx := {}
  front : Bank := {}
  wings : Bank := {}
  router : Router := {}
  pairs : KMap Word := []
  contribs : List Pkt := []
  filled : Nat := 0
  tasks : List Task := []
  /-- spawns of a parked step that wait for its Resume, and the packets that the tile's router held (R381, R422) -/
  kept : List Kept := []
  held : List HeldTree := []
  deriving DecidableEq, Repr

/-- What a cluster block stands for (R373): pinned pages, each with whether it is of 2 MiB, timed copies, and commands kept for parked steps
(R381). -/
structure SavedCluster where
  pins : List (Nat × Bool) := []
  timed : List Copy := []
  kept : List ChReq := []
  deriving DecidableEq, Repr

/-- What the block of a dock core stands for that holds a parked task (R373, R381). -/
structure SavedDock where
  front : Bank := {}
  kept : List Kept := []
  cmds : List ChReq := []
  deriving DecidableEq, Repr

structure State where
  /-- cycles since GT was started (R4, R22) -/
  now : Nat := 0
  /-- GT less the cycle count: increments skipped less increments repeated (R23, R416) -/
  gtAdj : Int := 0
  agenda : List Entry := []
  occ : Occ := .none
  cur : Cur := {}
  /-- how many free values have been drawn -/
  free : Nat := 0
  /-- the next identifier of an operation -/
  seq : Nat := 1
  sram : KMap Byte := []
  hbm : KMap Byte := []
  host : KMap Byte := []
  /-- owner tag of each 64-byte SRAM line (R18) -/
  tags : KMap (BitVec 4) := []
  /-- poisoned SRAM lines and HBM 32-byte units (R390) -/
  poison : KMap Bool := []
  hpoison : KMap Bool := []
  agents : KMap Agent := []
  homes : KMap HomeQ := []
  cal : KMap (Option Held) := []
  /-- the SRAM pair entries, by `16 × tile + 2 × entry + word` (R292) -/
  pairs : KMap Word := []
  steps : List StepRec := []
  queues : KMap Queue := []
  launches : List Launch := []
  /-- the slot that owns each cluster; 0 where no context does (R369) -/
  owners : KMap Nat := []
  /-- the next launch-sequence position, and the queue last taken (R363) -/
  nextPos : Nat := 0
  lastQueue : Nat := 8191
  /-- the register block of the I/O die, by offset (R402) -/
  regs : KMap (BitVec 64) := []
  /-- error rings whose next record carries `lost`, by slot; 16 is the device ring (R388) -/
  errLost : KMap Bool := []
  books : KMap Book := []
  /-- translations, most recently used first, by agent number of the engine or dock core (R19, R77) -/
  tlbs : KMap (List Tlb) := []
  keys : KMap MemKey := []
  /-- the 512 bits of each key loaded so far, which entries of a TLB keep (R385) -/
  keyData : KMap (BitVec 512) := []
  /-- HBM shadow pairs (R386) -/
  hpairs : List HPair := []
  /-- accesses that booked copies have made in a pseudo-channel's slot: the slot and the count (R74) -/
  hbmUses : KMap (Nat × Nat) := []
  /-- copy engines, by agent number (R77) -/
  cces : KMap Cce := []
  /-- upcall records that wait for room in their ring: slot and record (R381) -/
  upcalls : List (Nat × Nat) := []
  switch : Switch := {}
  /-- the matrix unit of each tile (R268) -/
  mx : KMap Mx := []
  /-- the router of each tile (R232) -/
  routers : KMap Router := []
  /-- copy commands and launches whose credits have met a malformed sync word and make none further (R93) -/
  deadCredits : List Nat := []
  /-- the last cycle in which a data bank performed an access, plus one (R79) -/
  banks : KMap Nat := []
  /-- operations on their way of which a use fell outside the booking, and which are performed nowhere (R241) -/
  voids : List Nat := []
  /-- what the blocks of context images stand for whose layout the spec does not give, by the number of the save that wrote their bytes (R373) -/
  savedTiles : KMap SavedTile := []
  savedClusters : KMap SavedCluster := []
  savedDocks : KMap SavedDock := []
  /-- by slot: the number of its present command, the clusters still to be saved and all that the save takes (R376), and a Pre-empt held until Loading ends (R372) -/
  ctxWork : KMap Nat := []
  ctxLeft : KMap (List Nat) := []
  ctxMap : KMap (List Nat) := []
  ctxHeld : KMap Bool := []
  /-- by slot: the commands that its present Invalidate waits for (R372) -/
  ctxInv : KMap (List Nat) := []
  /-- slots whose routers stand still (R422), slots that have left Active, with the cycle since which their nodes' timers stand, and the tree packets
  that wait (R423) -/
  routersOff : List Nat := []
  timersOff : List (Nat × Nat) := []
  heldTrees : List HeldTree := []
  /-- entries about the tiles and engines of halted clusters, each with its cluster (R395) -/
  frozen : List (Nat × Entry) := []
  /-- by cluster, one more than the line copies that a code write has still to see discarded (R398) -/
  codeLeft : KMap Nat := []
  /-- the chain of sampling ticks that is in force, and each die's next snapshot number and records dropped since its last (R399, R401) -/
  smpChain : Nat := 0
  smpSeq : KMap Nat := []
  smpLost : KMap Bool := []
  /-- by array: the cycle after its last record of a corrected error, and the events suppressed since; and the next line to scrub (R391) -/
  eccLast : KMap (Nat × Nat) := []
  scrubAt : KMap Nat := []
  /-- errors that stand in SRAM lines and in 32-byte units of HBM and that nothing has met yet (R390), and the rounds of scrubbing so far (R391) -/
  flaws : KMap EccOutcome := []
  hflaws : KMap EccOutcome := []
  scrubRounds : Nat := 0
  hscrubRounds : Nat := 0
  /-- power is good, how often it has been removed (R404), and the board pin `thermtrip_n` is asserted (R410) -/
  powered : Bool := true
  powerCycle : Nat := 0
  thermtrip : Bool := false
  /-- the lines of HBM that the host holds: 1 clean, 2 modified (R412) -/
  hostLines : KMap Nat := []
  /-- what the last read of the host or of the board controller gave (R402) -/
  readData : Row := 0
  /-- consecutive exchanges with an offset of at most one, and the parent link's failure (R416) -/
  beats : Nat := 0
  parentDown : Bool := false
  /-- an attestation report is being made (R427) -/
  attBusy : Bool := false
  /-- latest arrival on each path whose packets keep their order (R208, R226) -/
  paths : KMap Nat := []
  deriving DecidableEq, Repr

/-- The registers whose reset value is not zero: the end of bring-up with no failure, the capability base (R403), the supplies (R409), and 16
ring sizes (R110). -/
def resetRegs : KMap (BitVec 64) :=
  [(0x0000, 0x90001), (0x0008, 0x800), (0x0140, 0x2260226), (0x0148, 0x2260226), (0x0150, 0x2260226), (0x0158, 0x2260226)] ++
    (List.range 16).map fun k => (0x4000 + 0x200 * k + 0x108, 20#64)

/-- Temperature updates, one a sensor, every 2,400,000 cycles (R409). -/
def thermEntries (t : Nat) : List Entry := (List.range 5).map fun d => ⟨t + 2400000, 60000, .ev .thermUpdate (.at d)⟩

/-- The watch of the junction sensors' trip point and of the Apron link's lanes (R410, R411). -/
def watchEntries (t : Nat) : List Entry := [⟨t + 24000, 60000, .ev .thermtrip (.at 0)⟩]

/-- The rounds of scrubbing, which go on by themselves (R391). -/
def scrubEntries (t : Nat) : List Entry := [⟨t + 256, 89995, .ev .scrubStep .none⟩, ⟨t + 8192, 89995, .ev .hbmScrub .none⟩]

/-- The state after reset: bring-up is complete (R404, R405), and nothing is on its way but the rounds of scrubbing, the watch of the sensors and the
updates of the temperatures. -/
def State.reset : State := { regs := resetRegs, agenda := scrubEntries 0 ++ watchEntries 0 ++ thermEntries 0 }

end Sys2Proof.Machine
end

