-- ==== Sys2Proof/Machine/Ops.lean ====
section
/-! DEFINITION. The shared operations: time and the agenda, agents and their registers, memory at its home, error records, and
taking a trap, a fault and the return from a handler. -/

namespace Sys2Proof.Machine

/-! ### Time and the agenda -/

/-- Global Time (R22, R23). -/
def gtOf (s : State) : Nat := ((s.now : Int) + s.gtAdj).toNat

/-- The cycle in which GT has the value `g`, as GT runs now (R23). -/
def cycleOf (s : State) (g : Nat) : Nat := ((g : Int) - s.gtAdj).toNat

/-- The slot that holds the present cycle (R55). -/
def slotNow (s : State) : Nat := gtOf s / 16

/-- An entry put after every entry that comes no later in time and place. -/
def insertEntry (e : Entry) : List Entry → List Entry
  | [] => [e]
  | x :: xs => if x.at_ < e.at_ ∨ (x.at_ = e.at_ ∧ x.pri ≤ e.pri) then x :: insertEntry e xs else e :: x :: xs

def addEntry (s : State) (e : Entry) : State := { s with agenda := insertEntry e s.agenda }

/-- Places within a cycle: an adjustment of GT at 0; what begins the cycle (publish exchanges, releases), landings and arrivals, engines, issue, and a
bundle's last cycle. Accesses at a home stand between, by R79. -/
def priBegin : Nat := 1
def priWake : Nat := 48000
def priLand : Nat := 50000
def priEngine : Nat := 60000
def priIssue : Nat := 70000
/-- after issue, and before a bundle's end moves its agent on -/
def priSample : Nat := 89000
def priEnd : Nat := 90000

/-- Schedules a device event. -/
def sched (s : State) (t pri : Nat) (i : Instr) (o : Occ) : State := addEntry s ⟨t, pri, .ev i o⟩

/-- Draws a free value's number. -/
def draw (s : State) : Nat × State := (s.free, { s with free := s.free + 1 })

/-- A new identifier. -/
def newId (s : State) : Nat × State := (s.seq, { s with seq := s.seq + 1 })

/-- A latency that the spec does not promise: at least one cycle, otherwise unconstrained. -/
def freeDelay (s : State) : Nat × State := (Config.freeLatency s.free + 1, { s with free := s.free + 1 })

/-! ### Agents and banks -/

def ag (s : State) (a : Nat) : Agent := kget {} s.agents a

def setAg (s : State) (a : Nat) (x : Agent) : State := { s with agents := kset {} s.agents a x }

def modAg (s : State) (a : Nat) (f : Agent → Agent) : State := setAg s a (f (ag s a))

/-- The front bank (R41). -/
def bk (s : State) (a : Nat) : Bank := (ag s a).front

def modBk (s : State) (a : Nat) (f : Bank → Bank) : State := modAg s a fun x => { x with front := f x.front }

def modX (s : State) (a : Nat) (f : Xport → Xport) : State := modBk s a fun b => { b with x := f b.x }

def modQ (s : State) (a : Nat) (f : Seq → Seq) : State := modBk s a fun b => { b with q := f b.q }

def modC (s : State) (a : Nat) (f : Csr → Csr) : State := modBk s a fun b => { b with c := f b.c }

def modRun (s : State) (a : Nat) (f : Run → Run) : State := modBk s a fun b => { b with run := b.run.map f }

/-- A general register (R14). -/
def gReg (s : State) (a n : Nat) : Word := kget 0 (bk s a).g n

def setG (s : State) (a n : Nat) (v : Word) : State := modBk s a fun b => { b with g := kset 0 b.g n v }

def predOf (b : Bank) (n : Nat) : Bool := b.p.getLsbD n

def setPred (s : State) (a n : Nat) (c : Bool) : State :=
  modBk s a fun b => { b with p := if c then b.p ||| (1#16 <<< n) else b.p &&& ~~~(1#16 <<< n) }

def vReg (s : State) (a n : Nat) : Row := kget 0 (bk s a).v n

def setV (s : State) (a n : Nat) (v : Row) : State := modBk s a fun b => { b with v := kset 0 b.v n v }

def mReg (s : State) (a n : Nat) : BitVec 64 := kget 0 (bk s a).m n

def setM (s : State) (a n : Nat) (v : BitVec 64) : State := modBk s a fun b => { b with m := kset 0 b.m n v }

def hReg (s : State) (a n : Nat) : BitVec 128 := kget 0 (bk s a).h n

def setH (s : State) (a n : Nat) (v : BitVec 128) : State := modBk s a fun b => { b with h := kset 0 b.h n v }

/-- The key of a port or latch of a socket. -/
def pk (u : Sock) (code : Nat) : Nat := 64 * u.id + code

/-- An operand port (R144). -/
def portR (s : State) (a : Nat) (u : Sock) (code : Nat) : Row := kget 0 (bk s a).x.ports (pk u code)

def portW (s : State) (a : Nat) (u : Sock) (code : Nat) : Word := lowW (portR s a u code)

def setPort (s : State) (a : Nat) (u : Sock) (code : Nat) (v : Row) : State :=
  modX s a fun x => { x with ports := kset 0 x.ports (pk u code) v }

def latchOf (s : State) (a : Nat) (u : Sock) (code : Nat) : Latch := kget {} (bk s a).x.latches (pk u code)

/-- Whether a socket is data-locked (R148). -/
def lockedMode (s : State) (a : Nat) (u : Sock) : Bool := (bk s a).c.fumode.getLsbD u.id

/-- The context slot of the running step; slot 0 where there is none (R25, R369). -/
def slotOf (s : State) (a : Nat) : Nat :=
  match (bk s a).run with
  | some r => r.slot
  | none => 0

/-- A step is booked from GT 16s of its booking on (R312). -/
def runBooking (s : State) (r : Run) : Option Booking := r.booking.filter fun b => decide (16 * b.s ≤ gtOf s)

def bookingOf (s : State) (a : Nat) : Option Booking := (bk s a).run.bind (runBooking s)

def isBooked (s : State) (a : Nat) : Bool := (bookingOf s a).isSome

/-- The sequencer's macro position with its half, as `xpc` and `xfpc` name a bundle (R193). -/
def macroPos (q : Seq) : BitVec 17 := (if q.half then 1#1 else 0#1) ++ q.pc

/-- The bundle in issue as `xfpc` names it, with a slot. -/
def orgOf (s : State) (a slot : Nat) : Org := ⟨macroPos (bk s a).q, BitVec.ofNat 3 slot⟩

/-- Puts an agent's next issue cycle on the agenda, unless one stands there. -/
def schedIssue (s : State) (a t : Nat) : State :=
  if (ag s a).queued then s
  else addEntry (modAg s a fun x => { x with queued := true }) ⟨t, priIssue, .issue a⟩

def perfAdd (s : State) (a c n : Nat) : State :=
  modBk s a fun b => { b with perf := kmod 0 b.perf c fun v => min 0xFFFFFFFF (v + n) }

/-! ### Where things stand (R9 to R12) -/

def tileDie (t : Nat) : Nat := t / 512
def tileX (t : Nat) : Nat := (t / 512 % 2) * 32 + t % 32
def tileY (t : Nat) : Nat := (t / 512 / 2) * 16 + t % 512 / 32

/-- The tile at package coordinates. -/
def tileAt (x y : Nat) : Nat := ((y / 16) * 2 + x / 32) * 512 + (y % 16) * 32 + x % 32

/-- The global cluster of a tile, and its position in it (R10). -/
def tileCluster (t : Nat) : Nat := tileDie t * 128 + (t % 512 / 32 / 2) * 16 + t % 32 / 2
def tilePos (t : Nat) : Nat := (t % 512 / 32 % 2) * 2 + t % 32 % 2

/-- The tile at a position of a cluster. -/
def clusterTile (c p : Nat) : Nat := (c / 128) * 512 + ((c % 128 / 16) * 2 + p / 2) * 32 + (c % 16) * 2 + p % 2

/-- The tiles of a cluster. -/
def clusterTiles (g : Nat) : List Nat := (List.range 4).map (clusterTile g)

def absDiff (a b : Nat) : Nat := (a - b) + (b - a)

/-- The distance of two tiles in hops (R11). -/
def hops (t u : Nat) : Nat := absDiff (tileX t) (tileX u) + absDiff (tileY t) (tileY u)

/-- The die boundaries on the route between two tiles (R11, R12). -/
def crossings (t u : Nat) : Nat :=
  absDiff (tileX t / 32) (tileX u / 32) + absDiff (tileY t / 16) (tileY u / 16)

/-- Transit of one flit along its route: 2 cycles a hop and 48 a crossing (R12, R66). -/
def transit (t u : Nat) : Nat := 2 * hops t u + 48 * crossings t u

/-- The tile on whose die and row a dock core's traffic enters the mesh; the spec places dock cores on a die only, so their
distance is not promised (R21). -/
def agentTile (a : Nat) : Nat := if isTile a then a else ((a - 2048) / 4 / 3) * 512

/-! ### SRAM at its home (R15 to R18, R78, R80) -/

def addrTile (addr : Nat) : Nat := addr % 2 ^ 32 / 2 ^ 21
def addrOff (addr : Nat) : Nat := addr % 2 ^ 21
def addrBank (addr : Nat) : Nat := addrOff addr / 2 ^ 16

/-- The key of a data bank among the homes. -/
def bankKey (addr : Nat) : Nat := 32 * addrTile addr + addrBank addr

def offMapped (o : Nat) : Bool := o < 0x1C0000
def offData (o : Nat) : Bool := o < 0x180000
def offReserved (o : Nat) : Bool := 0x1B4000 ≤ o && o < 0x1C0000

/-- Every byte of an access lies at a mapped offset (R16). -/
def allMapped (addr n : Nat) : Bool := offMapped (addrOff addr) && offMapped (addrOff (addr + n - 1)) && n ≤ 2 ^ 18

/-- Every byte lies in the data banks of one tile. -/
def inData (addr n : Nat) : Bool := offData (addrOff addr) && addrOff addr + n ≤ 0x180000

/-- Pair entry `i` of a tile, word `w` (R292). -/
def pairWord (s : State) (tile i w : Nat) : Word := kget 0 s.pairs (16 * tile + 2 * i + w)

/-- The front or shadow image of an offset that a valid pair entry covers (R103, R292): range V is image A, and `swapped` makes
image B the front. -/
def pairMap (s : State) (tile off : Nat) (shadow : Bool) : List Nat → Nat
  | [] => off
  | i :: is =>
    let w0 := pairWord s tile i 0
    let w1 := pairWord s tile i 1
    let v := (w1.extractLsb' 0 15).toNat * 64
    let n := (w0.extractLsb' 0 14).toNat * 64
    if w0.getLsbD 15 && decide (v ≤ off) && decide (off < v + n) then
      (if w0.getLsbD 14 != shadow then (w1.extractLsb' 15 15).toNat * 64 + (off - v) else off)
    else pairMap s tile off shadow is

/-- The address at which an access to `addr` is performed: the front image of a pair (R103). -/
def frontAddr (s : State) (addr : Nat) : Nat :=
  addrTile addr * 2 ^ 21 + pairMap s (addrTile addr) (addrOff addr) false [0, 1, 2, 3, 4, 5, 6, 7]

/-- The address of the shadow image (R103). -/
def shadowAddr (s : State) (addr : Nat) : Nat :=
  addrTile addr * 2 ^ 21 + pairMap s (addrTile addr) (addrOff addr) true [0, 1, 2, 3, 4, 5, 6, 7]

/-- The byte that stands at an SRAM address; the reserved range reads zero (R16). -/
def readRaw (s : State) (addr : Nat) : Byte :=
  if offReserved (addrOff addr) then 0 else kget 0 s.sram (addr % 2 ^ 32)

/-- Writes the byte at an SRAM address; a write to the reserved range is ignored (R16). -/
def writeRaw (s : State) (addr : Nat) (b : Byte) : State :=
  if offReserved (addrOff addr) then s else { s with sram := kset 0 s.sram (addr % 2 ^ 32) b }

/-- A byte as every agent's plain access sees it, through the pairs (R103). -/
def readByte (s : State) (addr : Nat) : Byte := readRaw s (frontAddr s addr)

def writeByte (s : State) (addr : Nat) (b : Byte) : State := writeRaw s (frontAddr s addr) b

/-- `n` bytes from `addr`, little-endian (R3). -/
def loadN (s : State) (addr : Nat) : Nat → Nat
  | 0 => 0
  | n + 1 => (readByte s addr).toNat + 256 * loadN s (addr + 1) n

/-- Stores the low `n` bytes of `v`, little-endian (R3). -/
def storeN (s : State) (addr : Nat) : Nat → Nat → State
  | 0, _ => s
  | n + 1, v => storeN (writeByte s addr (BitVec.ofNat 8 v)) (addr + 1) n (v / 256)

def load32 (s : State) (addr : Nat) : Word := BitVec.ofNat 32 (loadN s addr 4)

def store32 (s : State) (addr : Nat) (v : Word) : State := storeN s addr 4 v.toNat

/-- A 256-byte row. -/
def loadRow (s : State) (addr : Nat) : Row := BitVec.ofNat 2048 (loadN s addr 256)

/-- The 64-byte lines of an access. -/
def linesOf (addr n : Nat) : List Nat := (List.range ((addr + n - 1) / 64 - addr / 64 + 1)).map (addr / 64 + ·)

/-- Owner tag of a line (R18). -/
def tagOf (s : State) (line : Nat) : Nat := (kget 0 s.tags line).toNat

/-- Every line of an access belongs to the slot (R18). -/
def tagsOk (s : State) (slot addr n : Nat) : Bool :=
  (linesOf addr n).all fun l => tagOf s (frontAddr s (64 * l) / 64) == slot

/-- Some line that a read touches is poisoned (R390, R392). -/
def poisoned (s : State) (addr n : Nat) : Bool := (linesOf addr n).any fun l => kget false s.poison (frontAddr s (64 * l) / 64)

/-- A write that covers a whole line clears its poison (R106, R392). -/
def clearPoison (s : State) (addr n : Nat) : State :=
  { s with poison := (linesOf addr n).foldl (fun m l =>
      if addr ≤ 64 * l ∧ 64 * l + 64 ≤ addr + n then kset false m (frontAddr s (64 * l) / 64) false else m) s.poison }

/-- A bank or channel that keeps sync-word waits answers those whose condition a write has met, in the cycle of the write (R95, R224). -/
def wakeBank (s : State) (k : Nat) : State :=
  if (kget {} s.homes k).waits.isEmpty then s else sched s s.now priWake .syncWaitReissue (.at k)

/-- A plain store of `n` bytes, with its effect on poison and on the waits of its banks. -/
def plainStore (s : State) (addr n v : Nat) : State :=
  let s := wakeBank (storeN (clearPoison s addr n) addr n v) (bankKey addr)
  if bankKey (addr + n - 1) = bankKey addr then s else wakeBank s (bankKey (addr + n - 1))

/-! ### HBM and host memory (R20, R379) -/

def hbmByte (s : State) (pa : Nat) : Byte := kget 0 s.hbm pa
def setHbmByte (s : State) (pa : Nat) (b : Byte) : State := { s with hbm := kset 0 s.hbm pa b }

def hbmN (s : State) (pa : Nat) : Nat → Nat
  | 0 => 0
  | n + 1 => (hbmByte s pa).toNat + 256 * hbmN s (pa + 1) n

def setHbmN (s : State) (pa : Nat) : Nat → Nat → State
  | 0, _ => s
  | n + 1, v => setHbmN (setHbmByte s pa (BitVec.ofNat 8 v)) (pa + 1) n (v / 256)

/-- A write that covers a whole 32-byte unit of HBM clears its poison (R106, R392). -/
def clearHpoison (s : State) (pa n : Nat) : State :=
  { s with hpoison := (List.range ((pa + n + 31) / 32 - pa / 32)).foldl (fun m i =>
      if pa ≤ 32 * (pa / 32 + i) ∧ 32 * (pa / 32 + i) + 32 ≤ pa + n then kset false m (pa / 32 + i) false else m) s.hpoison }

/-- The host's copies of the lines of `n` bytes are recalled for the device's own write (R412). -/
def dropHostLines (s : State) (pa n : Nat) : State :=
  if s.hostLines.isEmpty then s else { s with hostLines := (linesOf pa n).foldl (fun m i => kset 0 m i 0) s.hostLines }

/-- The device's own write of HBM. DESIGN CHOICE (log 171): it is made in the cycle of its event, whatever is booked or refreshed then (R75). -/
def devWrite (s : State) (pa n v : Nat) : State := dropHostLines (clearHpoison (setHbmN s pa n v) pa n) pa n

/-- A physical address that decodes to a stack (R20). -/
def paOk (pa : Nat) : Bool := pa < 2 ^ 40 && pa / 2 ^ 36 < 12

/-- The home channel of a physical address, as stack × 32 + channel (R20). -/
def paChannel (pa : Nat) : Nat := pa / 2 ^ 36 % 16 * 32 + pa / 2 ^ 16 % 32

/-- The dock core that serves a physical address (R21). -/
def paDock (pa : Nat) : Nat := 2048 + pa / 2 ^ 36 % 16 * 4 + pa / 2 ^ 16 % 32 / 8

/-- The key of a home channel among the homes. -/
def chanKey (pa : Nat) : Nat := 2 ^ 20 + paChannel pa

/-! ### The register block (R402) and error records (R388, R389) -/

def reg (s : State) (off : Nat) : BitVec 64 := kget 0 s.regs off
def setReg (s : State) (off : Nat) (v : BitVec 64) : State := { s with regs := kset 0 s.regs off v }

/-- Bits [hi:lo] of a register, as a number. -/
def regF (s : State) (off hi lo : Nat) : Nat := (reg s off).toNat / 2 ^ lo % 2 ^ (hi + 1 - lo)

/-- Writes bits [hi:lo] of a register. -/
def setRegF (s : State) (off hi lo v : Nat) : State :=
  let o := (reg s off).toNat
  setReg s off (BitVec.ofNat 64 (o - o / 2 ^ lo % 2 ^ (hi + 1 - lo) * 2 ^ lo + v % 2 ^ (hi + 1 - lo) * 2 ^ lo))

/-- The block of a context slot (R370). -/
def slotReg (slot off : Nat) : Nat := 0x4000 + 0x200 * slot + off

/-- Slot states (R371). -/
def ctxState (s : State) (slot : Nat) : Nat := regF s (slotReg slot 0) 2 0

/-- What an error record says (R389). -/
structure ErrRec where
  cause : Nat
  faulted : Bool := false
  demoted : Bool := false
  slot : Nat
  agent : Nat := 0xFFFF
  addr : Nat := 0
  pos : Nat := 0xFFFFFFFF
  round : Nat := 0
  wave : Nat := 0
  /-- bytes 32 to 63 -/
  detail : Nat := 0

/-- The 64 bytes of an error record, as a number (R389). -/
def errBytes (s : State) (e : ErrRec) (lost : Bool) : Nat :=
  e.cause + 2 ^ 8 * ((if lost then 1 else 0) + (if e.faulted then 2 else 0) + (if e.demoted then 4 else 0)) + 2 ^ 16 * e.slot +
  2 ^ 32 * e.agent + 2 ^ 64 * (gtOf s % 2 ^ 64) + 2 ^ 128 * (e.addr % 2 ^ 64) + 2 ^ 192 * e.pos + 2 ^ 224 * e.round +
  2 ^ 240 * e.wave + 2 ^ 256 * e.detail

/-- Writes an error record into the ring of its slot, or of the device where the slot is Free. A full ring, and one whose `lg` is
outside 4 to 16, drops it and counts it, and the next record carries `lost` (R388). -/
def errorRecord (s : State) (e : ErrRec) : State :=
  let free := ctxState s e.slot = 0
  let base := if free then 0x2000 else slotReg e.slot 0x068
  let ring := if free then 16 else e.slot
  let lg := regF s base 4 0
  let pa := regF s base 47 12 * 2 ^ 12
  let head := regF s (base + 8) 31 0
  let tail := regF s (base + 8) 63 32
  if lg < 4 ∨ 16 < lg ∨ (head + 2 ^ 32 - tail) % 2 ^ 32 ≥ 2 ^ lg then
    { setRegF s (base + 16) 63 32 (min 0xFFFFFFFF (regF s (base + 16) 63 32 + 1)) with errLost := kset false s.errLost ring true }
  else
    let s := devWrite s (pa + 64 * (head % 2 ^ lg)) 64 (errBytes s e (kget false s.errLost ring))
    { setRegF s (base + 8) 31 0 ((head + 1) % 2 ^ 32) with errLost := kset false s.errLost ring false }

/-! ### Steps (R35) -/

def modStep (s : State) (k : StepKey) (f : StepRec → StepRec) : State :=
  { s with steps := s.steps.map fun r => if r.key = k then f r else r }

def stepRec (s : State) (k : StepKey) : Option StepRec := s.steps.find? (·.key = k)

/-- The state of a step; Ended where the walker holds none. -/
def stepStOf (s : State) (k : StepKey) : StepState := match stepRec s k with
  | some x => x.st
  | none => .ended

/-- A step has reached a final state. -/
def stepOver (r : StepRec) : Bool :=
  match r.st with
  | .done => true
  | .ended => true
  | _ => false

def setStepState (s : State) (k : StepKey) (st : StepState) : State := modStep s k fun r => { r with st := st }

/-- The calendar entry of a resource at a slot (R55, R57). -/
def calKey (rid slot : Nat) : Nat := rid * 8192 + slot % 8192

def calAt (s : State) (rid slot : Nat) : Option Held :=
  match kget none s.cal (calKey rid slot) with
  | some h => if h.slot = slot ∧ h.freeAt.all (gtOf s < ·) then some h else none
  | none => none

/-- Releases every entry that a step's booking holds from slot `n` on: it is free from the cycle that begins slot `n` (R71). -/
def releaseFrom (s : State) (k : StepKey) (n : Nat) : State :=
  { s with cal := s.cal.map fun e => match e.2 with
      | some h => if h.key == k && decide (n ≤ h.slot) && !h.aged && h.freeAt.isNone then (e.1, some { h with freeAt := some (16 * n) }) else e
      | none => e }

/-- A branch-queue entry as `xq0`, `xq1`, `xqm0` and `xqm1` hold it (R321). -/
def encBr : Option BrEntry → Word
  | none => 0
  | some e => 1#1 ++ 0#12 ++ (if e.swap then 1#1 else 0#1) ++ BitVec.ofNat 2 e.left ++ e.target

def decBr (w : Word) : Option BrEntry :=
  if w.getLsbD 31 then some ⟨w.extractLsb' 0 16, (w.extractLsb' 16 2).toNat, w.getLsbD 18⟩ else none

/-- The latches and operand ports that a unit has: R14 takes four sockets from a dock core. -/
def sockets (a : Nat) : List Sock :=
  [Sock.sq, .xa, .xb, .ag, .ls, .vx, .mx, .ch, .nt, .lm, .cq, .sy].filter fun u => !(isDock a && dockLacks u)

/-- Whether the understudies hold state that `sy.usr` has not saved (R154). -/
def unsaved (s : State) (a : Nat) : Bool :=
  (bk s a).x.captured && !((sockets a).all fun u => (bk s a).x.saved.getLsbD u.id)

/-- The whole pipeline of a stopped socket, set in motion again so that the waiting result is due at `t`: its flights, its register writes and
its occupancy are that much later (R150, R151). Results of an interrupted step are captured in their own due cycles, whatever a handler's own results
wait for (R325). -/
def unstop (x : Xport) (u : Sock) (t : Nat) : Xport :=
  match kget none x.stopped u.id with
  | none => x
  | some (_, since) =>
    { x with stopped := kset none x.stopped u.id none
             busy := kmod 0 x.busy u.id fun b => if since < b then b - since + t else b
             flights := x.flights.map fun f => if f.u = u ∧ !f.pre then { f with due := f.due.map fun d => if since ≤ d then d - since + t else d } else f
             pends := x.pends.map fun p => if p.u = u then { p with due := p.due.map fun d => if since < d then d - since + t else d } else p }

/-- A captured result of a latch, put after those that the latch's understudy holds (R151). -/
def captureOne (m : KMap Under) (t0 : Nat) (f : Flight) (due : Nat) : KMap Under :=
  kmod {} m (pk f.u f.code) fun e => { e with entries := e.entries ++ [⟨f.val, due - t0 - 1, f.locked⟩] }

/-- The results that have landed after cycle `t0`, oldest first, and the latches as they stood at the end of that cycle (R151). -/
def undoLandings (x : Xport) (t0 : Nat) : List Flight × KMap Latch :=
  let late := x.landed.filter fun e => decide (t0 < e.2.due.getD 0)
  ((late.map (·.2)).reverse, late.foldl (fun m e => kset {} m (pk e.2.u e.2.code) e.1) x.latches)

/-- The capture of R151 at cycle `t0`: held values and full bits as they stood then, operand ports, what has landed since, and every result in
flight marked as the interrupted step's. A result that waits in a landing stage since `t0` or before has age 0. -/
def capture (x : Xport) (t0 : Nat) : Xport :=
  let y := x.stopped.foldl (fun y e => match sockOfId e.1, e.2 with
    | some u, some w => unstop y u (max w.2 (t0 + 1))
    | _, _ => y) x
  let un := undoLandings y t0
  { y with under := un.1.foldl (fun m f => captureOne m t0 f (f.due.getD 0)) (un.2.map fun e => (e.1, { held := e.2 }))
           latches := (un.2.map fun e => (e.1, { e.2 with full := false })).filter fun e => e.2 ≠ {}
           kept := y.ports
           flights := y.flights.map fun f => { f with pre := true }
           captured := true, saved := 0, t0 := t0, landed := [] }

/-- The last cycle of the last bundle, in which t0 of a fault or an interrupt falls (R151); before a step's first bundle it is the cycle before. -/
def lastCycle (s : State) (a : Nat) : Nat :=
  let q := (bk s a).q
  if q.started && decide (q.bundleEnd < s.now) then q.bundleEnd else s.now - 1

/-- The last bundle of a step, or its hold of the tile, lasts to this cycle: what lands from now on lands after it (R151, R316). -/
def endBundle (s : State) (a : Nat) : State :=
  modBk s a fun b => { b with q := { b.q with bundleEnd := s.now }, x := { b.x with landed := [] } }

/-- Schedules the landings of a socket's flights and register writes. -/
def schedLandings (s : State) (a : Nat) (u : Sock) : State :=
  let x := (bk s a).x
  let ds := (x.flights.filterMap fun f => if f.u = u then f.due else none) ++
    (x.pends.filterMap fun p => if p.u = u then p.due else none)
  ds.eraseDups.foldl (fun s d => sched s (max d s.now) priLand .resultLanding (.unit a u)) s

/-- The control registers that a trap writes (R193). The resume bundle is the sequencer's present position. -/
def trapRegs (s : State) (a cause : Nat) (slot : BitVec 3) (fpc : BitVec 17) (addr : Option Word) (t0 : Nat) : State :=
  let g0 := gtOf s - (s.now - t0)
  modBk s a fun b =>
    let q := b.q
    let inq := if q.scene.isSome then q.mq else q.bq
    let out := if q.scene.isSome then q.bq else []
    { b with c := { b.c with
        xcause := BitVec.ofNat 8 cause
        xpc := macroPos q
        xmpc := if q.scene.isSome then BitVec.ofNat 8 q.mpc else 0
        xslot := slot
        xgtlo := BitVec.ofNat 32 g0
        xgthi := BitVec.ofNat 32 (g0 / 2 ^ 32)
        xq0 := encBr inq[0]?, xq1 := encBr inq[1]?, xqm0 := encBr out[0]?, xqm1 := encBr out[1]?
        xfpc := fpc
        xaddr := addr.getD b.c.xaddr } }

/-- Whether a wait is the hold of a bundle that has issued (R316): all but those for a line and for a bank flip, and those that an interrupt ends. -/
def postHolds : Wait → Bool
  | .none | .gt _ | .idle | .line _ | .flip => false
  | _ => true

/-- What a trap keeps of a wait, for the return: the holds of the bundle before it, and a `sy.waitgt` (R224, R236, R314). -/
def keptWait (w : Wait) : Wait :=
  match w with
  | .gt t => .gt t
  | w => if postHolds w then w else .none

/-- Records a trap in the control registers, captures the transport state, and empties the queues (R151, R193). -/
def recordTrap (s : State) (a cause : Nat) (slot : BitVec 3) (fpc : BitVec 17) (addr : Option Word) (t0 : Nat) : State :=
  let stops := (bk s a).x.stopped.filterMap fun e => sockOfId e.1
  let s := modBk (trapRegs s a cause slot fpc addr t0) a fun b =>
    let q := b.q
    { b with
      x := capture b.x t0
      q := { q with bq := [], mq := [], newq := [], popped := [], scene := none, mpc := 0, intrap := true, after := [], owed := false, ended := false,
                    trapFrom := if q.intrap then q.trapFrom else t0 + 1,
                    xscenes := { scene := q.scene, lend := q.callLend, bound := q.callBound, newq := q.callNewq, popped := q.popped,
                                 wait := keptWait b.wait, owed := q.owed, ended := if q.ended then some (macroPos q) else none } :: q.xscenes }
      wait := .none }
  stops.foldl (fun s u => schedLandings s a u) s

/-- The first fault of a launch's steps gives its cause (R365). -/
def noteFault (s : State) (k : StepKey) (cause : Nat) : State :=
  if k.task then s
  else { s with launches := s.launches.map fun l => if l.pos = k.pos ∧ l.firstFault = 0 then { l with firstFault := cause } else l }

/-- Whether a step is Faulted (R35). -/
def isFaulted (s : State) (k : StepKey) : Bool :=
  (stepRec s k).any fun r => match r.st with
    | .faulted _ => true
    | _ => false

/-- A step becomes Faulted (R35): it issues nothing more, and its record is written, with the address concerned (R389). One that is Faulted already,
and whose handler runs, is Faulted anew, with the later cause (R154, R216, log 13). -/
def markFaulted (s : State) (a cause addr : Nat) : State :=
  match (bk s a).run with
  | none => s
  | some r =>
    let c := (bk s a).c
    let s := modRun s a fun r => { r with going := false }
    let s := noteFault (setStepState s r.key (.faulted cause)) r.key cause
    errorRecord s { cause := cause, faulted := true, slot := r.slot, agent := a, addr := addr, pos := r.key.pos,
                    round := r.key.round, wave := r.key.wave,
                    detail := c.xpc.toNat + 2 ^ 32 * c.xmpc.toNat + 2 ^ 40 * c.xslot.toNat + 2 ^ 64 * c.xfpc.toNat }

/-- The handler's first bundle, at `tvec`, issues in the cycle after `t0`, and not before this one (R193). -/
def enterHandler (s : State) (a t0 : Nat) : State :=
  let s := modQ s a fun q => { q with pc := (bk s a).c.tvec.extractLsb' 0 16,
                                      half := if q.imode = 1#2 then (bk s a).c.tvec.getLsbD 16 else q.half }
  schedIssue s a (max (t0 + 1) s.now)

/-- Takes a trap: records it and issues the handler's first bundle (R193). A trap while the understudies hold unsaved state makes the step
Faulted with cause 0x20: the registers record it, and nothing further is captured (R154). -/
def takeTrap (s : State) (a cause : Nat) (slot : BitVec 3) (fpc : BitVec 17) (addr : Option Word) (t0 : Nat) : State :=
  if unsaved s a then markFaulted (trapRegs s a 0x20 slot fpc addr t0) a 0x20 (addr.elim 0 (·.toNat))
  else enterHandler (recordTrap s a cause slot fpc addr t0) a t0

/-- The step is Faulted with its cause, and the registers record it (R35, R69, R389). Understudies that hold unsaved state keep it: nothing further is
captured (R154). -/
def stopFault (s : State) (a cause : Nat) (slot : BitVec 3) (fpc : BitVec 17) (addr : Option Nat) (t0 : Nat) : State :=
  let w := addr.map wd
  markFaulted (if unsaved s a then trapRegs s a cause slot fpc w t0 else recordTrap s a cause slot fpc w t0) a cause (addr.getD 0)

/-- Takes a fault (R35, R151, R193, R216, R389): the trap is recorded and the step is Faulted with its cause; where `tvec` names a handler, its
first bundle issues, and its `iret` resumes the step. A fault while the understudies hold unsaved state is Faulted with cause 0x20 (R154).
DEDUCED (log 13): how R35 and R193 go together, and that a `tvec` of 0 names none. -/
def takeFault (s : State) (a cause : Nat) (slot : BitVec 3) (fpc : BitVec 17) (addr : Option Nat) (t0 : Nat) : State :=
  let t := stopFault s a (if unsaved s a then 0x20 else cause) slot fpc addr t0
  if unsaved s a || (bk s a).c.tvec == 0#17 then t
  else enterHandler (modRun t a fun r => { r with going := (bk s a).run.any (·.going) }) a t0

/-- An uncorrectable error, or the consumption of one, holds the slot (R393). -/
def holdSlot (s : State) (slot : Nat) : State := if slot = 0 then s else setRegF s (slotReg slot 0x078) 0 0 1

/-- The slot of a step, or of what the agent runs. -/
def slotFor (s : State) (a : Nat) (k : Option StepKey) : Nat :=
  match k.bind (stepRec s) with
  | some r => r.slot
  | none => slotOf s a

/-- A deferred fault sets out for the issuing agent (R216); one by poison holds its slot (R393). -/
def deferFault (s : State) (a : Nat) (f : DFault) (t : Nat) : State :=
  let s := if f.cause = 0x4E ∨ f.cause = 0x4F ∨ f.cause = 0xA4 then holdSlot s (slotFor s a f.step) else s
  sched s t priLand .deferredFault (.dfault a f)

/-! ### The return from a handler (R152, R194) -/

/-- The understudies restored for a resume at cycle `r` (R152). DESIGN CHOICE (log 146): results of the handler's own that are still in flight
stay in flight and land in the step's latches, and a pipeline that the handler left stopped stays stopped. -/
def restoreX (x : Xport) (r : Nat) : Xport :=
  if x.captured then
    { x with
      latches := (x.under.map fun e => (e.1, e.2.held)).filter fun e => e.2 ≠ {}
      ports := x.kept
      flights := (x.flights.map fun f => if f.pre then { f with pre := false, due := f.due.map fun d => d - x.t0 - 1 + r } else f) ++
        (x.under.flatMap fun e => e.2.entries.filterMap fun n => (sockOfId (e.1 / 64)).map fun u =>
          ({ id := 0, u := u, code := e.1 % 64, due := some (r + n.age), val := n.val, locked := n.locked, pre := false } : Flight))
      under := [], kept := [], captured := false, saved := 0, landed := [] }
  else x

/-- `iret` after its bundle's last cycle (R194). -/
def returnFromTrap (s : State) (a : Nat) : State :=
  let r := s.now + 1
  let s := modBk s a fun b =>
    let q := b.q
    let c := b.c
    let sv := q.xscenes.headD {}
    let sc := sv.scene
    let inq := (decBr c.xq0).toList ++ (decBr c.xq1).toList
    -- the handler's cycles count in the performance counter 8 (R319)
    let perf := if q.intrap then kmod 0 b.perf 8 fun v => min 0xFFFFFFFF (v + (r - q.trapFrom)) else b.perf
    let outq := (decBr c.xqm0).toList ++ (decBr c.xqm1).toList
    { b with
      x := restoreX b.x r
      q := { q with intrap := false, scene := sc, mpc := if sc.isSome then c.xmpc.toNat else 0
                    pc := c.xpc.extractLsb' 0 16, half := if q.imode = 1#2 then c.xpc.getLsbD 16 else q.half
                    bq := if sc.isSome then outq else inq, mq := if sc.isSome then inq else [], popped := sv.popped
                    callLend := sv.lend, callBound := sv.bound, callNewq := sv.newq
                    newq := [], xscenes := q.xscenes.drop 1, owed := sv.owed, ended := sv.ended == some c.xpc }
      wait := sv.wait
      perf := perf }
  (sockets a).foldl (fun s u => schedLandings s a u) s

/-- A wait is over, where the step keeps it or a trap has kept it for the return (R224, R236). -/
def dropWait (p : Wait → Bool) (b : Bank) : Bank :=
  { b with wait := if p b.wait then .none else b.wait
           q := { b.q with xscenes := b.q.xscenes.map fun v => if p v.wait then { v with wait := .none } else v } }

/-- The same for the steps in both banks of an agent. -/
def endWait (s : State) (a : Nat) (p : Wait → Bool) : State :=
  modAg s a fun g => { g with front := dropWait p g.front, wings := dropWait p g.wings }

/-- The waits of an agent's steps, those that traps have kept among them. -/
def waitsOf (s : State) (a : Nat) : List Wait :=
  [(ag s a).front, (ag s a).wings].flatMap fun b => b.wait :: b.q.xscenes.map (·.wait)

/-- Field of `n` bytes at byte `at_` of a captured block. -/
def fld (v at_ n : Nat) : Nat := v / 256 ^ at_ % 256 ^ n

end Sys2Proof.Machine
end

