-- ==== Sys2Proof/Machine/Uses.lean ====
section
/-! DEFINITION. Resources that keep calendars, and their use by a step (R55 to R57, R66, R217). -/

namespace Sys2Proof.Machine

/-- Resource ids (R57). -/
def ridTile (cls tile unit_ : Nat) : Nat := cls * 2 ^ 24 + tile * 32 + unit_
def ridLane (cluster lane : Nat) : Nat := 7 * 2 ^ 24 + cluster * 8 + lane
def ridHbm (pa : Nat) : Nat := 8 * 2 ^ 24 + pa / 2 ^ 36 % 16 * 64 + pa / 2 ^ 16 % 32 * 2 + pa / 256 % 2
def ridModule (boundary module_ : Nat) : Nat := 9 * 2 ^ 24 + boundary * 8 + module_

/-- The key of no step: of a party that holds no booking. -/
def noStep : StepKey := { task := true, pos := 0xFFFFFFFF }

/-- A step holds a resource in a slot (R66). -/
def holdsRid (s : State) (k : StepKey) (rid slot : Nat) : Bool :=
  match calAt s rid slot with
  | some h => h.key == k && !h.aged
  | none => false

/-- Whether the step that issued an operation is booked on its tile now. -/
def stepBooked (s : State) (a : Nat) (k : StepKey) : Bool :=
  match (bk s a).run with
  | some r => r.key == k && (runBooking s r).isSome
  | none => false

/-- The running step of an agent. -/
def stepOf (s : State) (a : Nat) : StepKey :=
  match (bk s a).run with
  | some r => r.key
  | none => {}

/-- The refresh band of a pseudo-channel (R75). -/
def inRefresh (rid slot : Nat) : Bool :=
  let r := rid % 2 ^ 24
  rid / 2 ^ 24 == 8 && decide ((slot + 512 - (16 * (r / 2 % 32) + 8 * (r % 2)) % 512) % 512 < 4)

/-- Whether a use by agent `a` in this cycle is inside its booking; an unbooked step's is (R66). -/
def useOk (s : State) (a rid cycle : Nat) : Bool :=
  match (bk s a).run with
  | some r => match runBooking s r with
    | some _ => holdsRid s r.key rid ((gtOf s + (cycle - s.now)) / 16)
    | none => true
  | none => true

/-- Whether a slot of a resource is kept from step `k`: the refresh band of a pseudo-channel, another step's booking, or an aged
reservation of another step (R53, R66, R75). -/
def slotKept (s : State) (k : StepKey) (rid slot : Nat) : Bool :=
  inRefresh rid slot || (match calAt s rid slot with
    | some h => h.key != k
    | none => false)

/-- Whether another step's booking, or an aged reservation of another step, keeps the step of `a`, booked or not, from a resource in this cycle (R53,
R66). -/
def useHeld (s : State) (a rid : Nat) : Bool :=
  match (bk s a).run with
  | some r => slotKept s r.key rid (slotNow s)
  | none => false

/-- The resource that somebody else keeps from the step of `a` in the cycle of one of these uses (R66). -/
def usesHeld (s : State) (a : Nat) (us : List (Nat × Nat)) : Option Nat :=
  (bk s a).run.bind fun r => (us.find? fun u => slotKept s r.key u.1 ((gtOf s + (u.2 - s.now)) / 16)).map (·.1)

/-- The first slot from `n` on that nobody else holds. -/
def nextFreeSlot (s : State) (k : StepKey) (rid n : Nat) : Nat → Nat
  | 0 => n
  | f + 1 => if slotKept s k rid n then nextFreeSlot s k rid (n + 1) f else n

/-- The run of a step, in whichever bank of the agent it stands. -/
def runOf (s : State) (a : Nat) (k : StepKey) : Option Run :=
  ([(ag s a).front, (ag s a).wings].filterMap (·.run)).find? (·.key == k)

def modRunOf (s : State) (a : Nat) (k : StepKey) (f : Run → Run) : State := modAg s a fun g =>
  if g.front.run.any (·.key == k) then { g with front := { g.front with run := g.front.run.map f } }
  else if g.wings.run.any (·.key == k) then { g with wings := { g.wings with run := g.wings.run.map f } } else g

/-- Step `k` of agent `a`, in front or in wings, is held from a resource up to cycle `t`: its wait begins, and the event that ages it is scheduled
(R53). -/
def ageOf (s : State) (a : Nat) (k : StepKey) (rid t : Nat) : State :=
  match runOf s a k with
  | none => s
  | some r =>
    let e := kget (0, 0, 0) r.ages rid
    if e.2.1 ≠ 0 ∧ s.now ≤ e.2.2 + 1 then modRunOf s a k fun r => { r with ages := kset (0, 0, 0) r.ages rid (e.1, e.2.1, max e.2.2 t) }
    else sched (modRunOf s a k fun r => { r with ages := kset (0, 0, 0) r.ages rid (0, s.now, t) }) (s.now + 131072) priEngine
      .ageIncrement (.at2 a rid)

/-- The step in front is held from a resource. -/
def ageHold (s : State) (a rid t : Nat) : State :=
  match (bk s a).run with
  | none => s
  | some r => ageOf s a r.key rid t

/-- The resource's next free slot is reserved for an aged step (R53). With every slot of the horizon taken (R55) there is none yet, and the
search comes again with the next slot; with one reserved already there is nothing to do. -/
def reserveAged (s : State) (a rid : Nat) (k : StepKey) : State :=
  if s.cal.any fun e => e.1 / 8192 == rid && e.2.any fun h => h.key == k && h.aged && decide (slotNow s ≤ h.slot) then s
  else
    let n := nextFreeSlot s k rid (slotNow s + 1) 8191
    if slotNow s + 8191 < n then sched s (s.now + 16) priEngine .ageIncrement (.at2 a rid)
    else { s with cal := kset none s.cal (calKey rid n) (some { key := k, slot := n, aged := true }) }

/-- A step still held gains an age unit for each 131,072 cycles of its wait; at age 4 the resource's next free slot is reserved for it (R53). -/
def ageRun (s : State) (a rid : Nat) (r : Run) : State :=
  let e := kget (0, 0, 0) r.ages rid
  if e.2.1 = 0 ∨ e.2.2 + 1 < s.now ∨ s.now < e.2.1 + 131072 * min 4 (e.1 + 1) ∨ (runBooking s r).isSome then s
  else
    let s := modRunOf s a r.key fun r => { r with ages := kset (0, 0, 0) r.ages rid (min 4 (e.1 + 1), e.2.1, e.2.2) }
    if e.1 < 3 then sched s (s.now + 131072) priEngine .ageIncrement (.at2 a rid) else reserveAged s a rid r.key

/-- R53: the steps of an agent that are still held age, the one in front and the one in wings. -/
def ageStep (s : State) (a rid : Nat) : State :=
  let f := (bk s a).run
  let w := (ag s a).wings.run.filter fun r => (f.map (·.key)) != some r.key
  let s := f.elim s (ageRun s a rid)
  w.elim s (ageRun s a rid)

/-- R53: an unbooked step that is still held from a resource ages. -/
def execAgeIncrement (s : State) : Host.Outcome State Fault Refusal :=
  match s.occ with
  | .at2 a rid => .next (ageStep s a rid)
  | _ => .refused (.noOccasion "AGE_INCREMENT")

/-- The tile one hop on the way, X first (R11), and the link taken: 0 west, 1 north, 2 east, 3 south. -/
def nextHop (t u : Nat) : Nat × Nat :=
  if tileX u < tileX t then (tileAt (tileX t - 1) (tileY t), 0)
  else if tileX t < tileX u then (tileAt (tileX t + 1) (tileY t), 2)
  else if tileY u < tileY t then (tileAt (tileX t) (tileY t - 1), 1)
  else (tileAt (tileX t) (tileY t + 1), 3)

/-- The boundary and module by which a hop from `t` to `u` on another die crosses (R12, R57). -/
def moduleOf (t u : Nat) : Nat :=
  if tileX t / 32 ≠ tileX u / 32 then ridModule (if tileY t < 16 then 0 else 1) (tileY t % 16 / 2)
  else ridModule (if tileX t < 32 then 2 else 3) (tileX t % 32 / 4)

/-- The links and modules of a route, each with the cycles after injection at which a flit crosses it (R11, R66). -/
def routeFrom (t u off : Nat) : Nat → List (Nat × Nat)
  | 0 => []
  | n + 1 =>
    if t = u then []
    else
      let h := nextHop t u
      let cross := tileDie h.1 ≠ tileDie t
      (ridTile 6 t h.2, off) :: ((if cross then [(moduleOf t h.1, off)] else []) ++
        routeFrom h.1 u (off + 2 + (if cross then 48 else 0)) n)

def route (t u : Nat) : List (Nat × Nat) := routeFrom t u 0 96

/-- When a packet or update of agent `src` reaches `dst`: in a booked step after its transit, else at a time that the spec does
not promise; never before an earlier one of the same kind on the same path (R12, R208, R226). -/
def pathArrival (s : State) (src dst kind c : Nat) (booked : Bool) : Nat × State :=
  let fix := c + (if isTile src ∧ isTile dst then transit src dst else 0)
  let d := if booked ∧ isTile src ∧ isTile dst then (fix, s)
    else
      let r := freeDelay s
      (fix + r.1, r.2)
  let key := (kind * 4096 + src) * 4096 + dst
  let t := max d.1 (kget 0 d.2.paths key)
  (t, { d.2 with paths := kset 0 d.2.paths key t })

/-- One held cycle of a booked step is charged to its delay count, once a cycle and not in a handler (R67); when D passes S, the
step overruns in the same cycle (R68). -/
def chargeDelay (s : State) (a : Nat) : State :=
  match (bk s a).run with
  | none => s
  | some r => match runBooking s r with
    | none => s
    | some b =>
      if (bk s a).q.intrap ∨ r.delayAt = s.now + 1 then s
      else
        let s := modRun s a fun r => { r with delay := r.delay + 1, delayAt := s.now + 1 }
        if b.slack < r.delay + 1 then sched s s.now (priEnd - 2) .slackExhausted (.at a) else s

end Sys2Proof.Machine
end

