-- ==== Sys2Proof/Machine/Walk.lean ====
section
/-! DEFINITION. The page walk (R379, R380): table entries, nodes, leaves and their causes, and the entries of the TLBs (R19, R73, R383). -/

namespace Sys2Proof.Machine

/-- Bits [hi:lo] of a table entry. -/
def pteF (e : BitVec 64) (hi lo : Nat) : Nat := e.toNat / 2 ^ lo % 2 ^ (hi + 1 - lo)
def pteV (e : BitVec 64) : Bool := e.getLsbD 0
def pteLeaf (e : BitVec 64) : Bool := e.getLsbD 1
def pteR (e : BitVec 64) : Bool := e.getLsbD 2
def pteW (e : BitVec 64) : Bool := e.getLsbD 3
def pteWb (e : BitVec 64) : Bool := e.getLsbD 4
def pteH (e : BitVec 64) : Bool := e.getLsbD 5
def pteE (e : BitVec 64) : Bool := e.getLsbD 57
def pteKey (e : BitVec 64) : Nat := pteF e 56 48

/-- Reserved bits of a leaf, by size, and of a pointer (R379). -/
def leafDirty (e : BitVec 64) (big : Bool) : Bool :=
  pteF e 63 58 != 0 || pteF e 15 8 != 0 || pteF e 7 6 != 0 || (big && pteF e 20 16 != 0)

def ptrDirty (e : BitVec 64) : Bool := pteF e 63 48 != 0 || pteF e 7 2 != 0

/-- The node a pointer names, and whether it is aligned to its size (R379). -/
def ptrPa (e : BitVec 64) : Nat := pteF e 47 8 * 256

def hpoisonedRange (s : State) (pa n : Nat) : Bool :=
  (List.range ((pa + n - 1) / 32 - pa / 32 + 1)).any fun i => kget false s.hpoison (pa / 32 + i)

/-- One level of the walk: the node's size, the VA bits that index it (R379). -/
def nodeSize : Nat → Nat
  | 3 => 65536 | 2 => 4096 | 1 => 4096 | _ => 256

def nodeIndex (va : Nat) : Nat → Nat
  | 3 => va / 2 ^ 39 % 8192 | 2 => va / 2 ^ 30 % 512 | 1 => va / 2 ^ 21 % 512 | _ => va / 2 ^ 16 % 32

/-- The walk from a node at `level` (R379, R380): the leaf, its size and the address of its entry, or a cause. -/
def walkFrom (s : State) (va : Nat) (node : Nat) : Nat → Except Nat (BitVec 64 × Bool × Nat)
  | 0 =>
    let at_ := node + 8 * nodeIndex va 0
    if hpoisonedRange s at_ 8 then .error 0xA4
    else
      let e := BitVec.ofNat 64 (hbmN s at_ 8)
      if !pteV e then .error 0xA0
      else if !pteLeaf e || leafDirty e false then .error 0xA3
      else .ok (e, false, at_)
  | l + 1 =>
    let at_ := node + 8 * nodeIndex va (l + 1)
    if hpoisonedRange s at_ 8 then .error 0xA4
    else
      let e := BitVec.ofNat 64 (hbmN s at_ 8)
      if !pteV e then .error 0xA0
      else if pteLeaf e then (if l + 1 = 1 ∧ !leafDirty e true then .ok (e, true, at_) else .error 0xA3)
      else if ptrDirty e || ptrPa e % nodeSize l != 0 || !paOk (ptrPa e) then .error 0xA3
      else walkFrom s va (ptrPa e) l

/-- The walk of a slot's tables; a root that breaks R20 gives 0xA3 before any node is read (R380). -/
def walk (s : State) (slot va : Nat) : Except Nat (BitVec 64 × Bool × Nat) :=
  let root := regF s (slotReg slot 0x008) 47 16 * 65536
  if !paOk root then .error 0xA3 else walkFrom s va root 3

def keyOf (s : State) (k : Nat) : MemKey := kget {} s.keys k

/-- The checks on a leaf: permissions, then the key (R380). -/
def leafCause (s : State) (slot : Nat) (e : BitVec 64) (write : Bool) : Option Nat :=
  if (!write && !pteR e) || (write && !pteW e) then some 0xA1
  else if pteE e && !((keyOf s (pteKey e)).valid && (keyOf s (pteKey e)).slot == slot) then some 0xA2
  else none

def tlbOf (s : State) (who : Nat) : List Tlb := kget [] s.tlbs who
def setTlb (s : State) (who : Nat) (l : List Tlb) : State := { s with tlbs := kset [] s.tlbs who l }

def tlbHits (t : Tlb) (slot va : Nat) : Bool :=
  t.slot == slot && (if t.big then t.page / 32 == va / 2 ^ 21 else t.page == va / 2 ^ 16)

/-- A new entry; with 512 held, the least recently used entry that is not pinned goes (R379). -/
def tlbInsert (l : List Tlb) (t : Tlb) : List Tlb :=
  if l.length < 512 then t :: l
  else match l.reverse.find? (!·.pinned) with
    | some old => t :: l.erase old
    | none => l

/-- A new entry for the page of an address, with the key material that its leaf names now (R385). -/
def tlbEntry (s : State) (slot va : Nat) (e : BitVec 64) (big : Bool) : Tlb :=
  { slot := slot, page := if big then va / 2 ^ 21 * 32 else va / 2 ^ 16, big := big, leaf := e, mat := if pteE e then some (keyOf s (pteKey e)).no else none }

/-- A page is pinned in some engine or dock core. -/
def pinnedPage (s : State) (slot va : Nat) : Bool := s.tlbs.any fun e => e.2.any fun t => t.pinned && tlbHits t slot va

/-- Where a translated byte stands: host memory or HBM, its address, and the material of its key. -/
structure Phys where
  host : Bool
  pa : Nat
  key : Option Nat

def physOf (t : Tlb) (va : Nat) : Phys :=
  { host := pteH t.leaf, pa := (if t.big then pteF t.leaf 47 21 * 2 ^ 21 + va % 2 ^ 21 else pteF t.leaf 47 16 * 2 ^ 16 + va % 2 ^ 16),
    key := t.mat }

/-- The agent number of the engine that translates for an agent: its cluster's CCE, or a dock core's own `ch` (R19, R77). -/
def engineOf (a : Nat) : Nat := if isTile a then 2112 + tileCluster a else a

/-- The units of HBM that a walk reads, down to the entry at which it ends (R379, R390). -/
def walkUnitsFrom (s : State) (va : Nat) (node : Nat) : Nat → List Nat
  | 0 => [(node + 8 * nodeIndex va 0) / 32]
  | l + 1 =>
    let at_ := node + 8 * nodeIndex va (l + 1)
    let e := BitVec.ofNat 64 (hbmN s at_ 8)
    at_ / 32 :: if pteV e && !pteLeaf e && paOk (ptrPa e) then walkUnitsFrom s va (ptrPa e) l else []

def walkUnits (s : State) (slot va : Nat) : List Nat :=
  let root := regF s (slotReg slot 0x008) 47 16 * 65536
  if paOk root then walkUnitsFrom s va root 3 else []

/-- Entries of a node (R379). -/
def nodeEntries : Nat → Nat
  | 3 => 8192 | 2 => 512 | 1 => 512 | _ => 32

/-- Whether the tables from a node at a level map the page of HBM that holds a physical address. -/
def nodeMaps (s : State) (pa node : Nat) : Nat → Bool
  | 0 => (List.range 32).any fun i =>
    let e := BitVec.ofNat 64 (hbmN s (node + 8 * i) 8)
    pteV e && pteLeaf e && !pteH e && pteF e 47 16 == pa / 2 ^ 16
  | l + 1 => (List.range (nodeEntries (l + 1))).any fun i =>
    let e := BitVec.ofNat 64 (hbmN s (node + 8 * i) 8)
    pteV e && (if pteLeaf e then l == 0 && !pteH e && pteF e 47 21 == pa / 2 ^ 21 else paOk (ptrPa e) && nodeMaps s pa (ptrPa e) l)

/-- Whether the tables of a slot map the page of HBM that holds a physical address. -/
def slotMaps (s : State) (slot pa : Nat) : Bool :=
  let root := regF s (slotReg slot 0x008) 47 16 * 65536
  ctxState s slot != 0 && paOk root && nodeMaps s pa root 3

end Sys2Proof.Machine
end

