-- ==== Sys2Proof/Machine/Ecc.lean ====
section
/-! DEFINITION. Errors that ECC finds (R390 to R393): the arrays, their records, and what an agent that reads an erroneous line meets. -/

namespace Sys2Proof.Machine

def arrayCode : SramArray → Nat
  | .dataBank _ => 0 | .imem => 1 | .scene => 2 | .loam => 3 | .tlb => 4

def arrayBank : SramArray → Nat
  | .dataBank b => b
  | _ => 0

/-- First line of an array within its tile, and its lines; none for one that holds no lines. -/
def arrayLines : SramArray → Option (Nat × Nat)
  | .dataBank b => if b < 24 then some (1024 * b, 1024) else none
  | .imem => some (0x180000 / 64, 1024)
  | .scene => some (0x190000 / 64, 256)
  | .loam => some (0x194000 / 64, 2048)
  | .tlb => none

/-- The array of a line of a tile. -/
def lineArray (line : Nat) : SramArray :=
  if line < 0x6000 then .dataBank (line / 1024) else if line < 0x6400 then .imem else if line < 0x6500 then .scene
  else if line < 0x6D00 then .loam else .tlb

/-- The key of an array: a tile's, or a pseudo-channel's. -/
def arrayKey (t : Nat) (a : SramArray) : Nat := 64 * t + (match a with
  | .dataBank b => b % 32
  | .imem => 32 | .scene => 33 | .loam => 34 | .tlb => 35)

def hbmKey (stack chan pc : Nat) : Nat := 2 ^ 20 + 64 * stack + 2 * chan + pc

/-- The detail of an error record of an array (R389). -/
def eccDetail (code bank bit lost : Nat) : Nat := code + 2 ^ 8 * bank + 2 ^ 16 * bit + 2 ^ 32 * lost

/-- A corrected error: one record an array in 65,536 cycles, which counts the events since the last (R391). -/
def correctedError (s : State) (key cause slot addr code bank bit : Nat) : State :=
  let e := kget (0, 0) s.eccLast key
  if e.1 ≠ 0 ∧ s.now + 1 < e.1 + 65536 then { s with eccLast := kset (0, 0) s.eccLast key (e.1, e.2 + 1) }
  else
    errorRecord { s with eccLast := kset (0, 0) s.eccLast key (s.now + 1, 0) }
      { cause := cause, slot := slot, addr := addr, detail := eccDetail code bank bit e.2 }

/-- An uncorrectable error, or a reading of poison that only records it: a record, and its slot is held (R391 to R393). -/
def hardError (s : State) (key cause slot addr code bank : Nat) : State :=
  let e := kget (0, 0) s.eccLast key
  let s := { s with eccLast := kset (0, 0) s.eccLast key (e.1, 0) }
  holdSlot (errorRecord s { cause := cause, slot := slot, addr := addr, detail := eccDetail code bank 0xFFFF e.2 }) slot

/-- What is found of a line of a tile (R390, R391). -/
def lineError (s : State) (line : Nat) (o : EccOutcome) : State :=
  let a := lineArray (line % 2 ^ 15)
  let key := arrayKey (line / 2 ^ 15) a
  let s := { s with flaws := kset .clean s.flaws line .clean }
  match o with
  | .clean => s
  | .corrected bit => correctedError s key 0xB8 (tagOf s line) (64 * line) (arrayCode a) (arrayBank a) bit
  | .uncorrectable => hardError { s with poison := kset false s.poison line true } key 0xB9 (tagOf s line) (64 * line) (arrayCode a) (arrayBank a)

/-- The physical address of byte `off` of a pseudo-channel (R20). -/
def pcAddr (stack chan pc off : Nat) : Nat := stack * 2 ^ 36 + off / 2 ^ 15 * 2 ^ 21 + chan * 2 ^ 16 + off / 2 ^ 8 % 2 ^ 7 * 2 ^ 9 + pc * 2 ^ 8 + off % 2 ^ 8

/-- The byte of its pseudo-channel that stands at a physical address (R20). -/
def pcOff (pa : Nat) : Nat := pa / 2 ^ 21 % 2 ^ 15 * 2 ^ 15 + pa / 2 ^ 9 % 2 ^ 7 * 2 ^ 8 + pa % 2 ^ 8

/-- The pseudo-channel of a physical address: its key, and the number that names it in a record. -/
def pcKey (pa : Nat) : Nat := hbmKey (pa / 2 ^ 36) (pa / 2 ^ 16 % 32) (pa / 2 ^ 8 % 2)
def pcBank (pa : Nat) : Nat := pa / 2 ^ 8 % 2 + 2 * (pa / 2 ^ 16 % 32)

/-- The slot of a page (R393): that of an engine's entry for it, or the lowest whose tables map it; 0 where none does. -/
def pageSlot (s : State) (pa : Nat) : Nat :=
  match (s.tlbs.flatMap (·.2)).find? fun t => !pteH t.leaf && (if t.big then pteF t.leaf 47 21 == pa / 2 ^ 21 else pteF t.leaf 47 16 == pa / 2 ^ 16) with
  | some t => t.slot
  | none => ((List.range 16).find? fun i => i != 0 && slotMaps s i pa).getD 0

/-- What is found of a 32-byte unit of HBM (R390, R391). -/
def unitError (s : State) (unit_ : Nat) (o : EccOutcome) : State :=
  let pa := 32 * unit_
  let s := { s with hflaws := kset .clean s.hflaws unit_ .clean }
  match o with
  | .clean => s
  | .corrected bit => correctedError s (pcKey pa) 0xBA (pageSlot s pa) pa 5 (pcBank pa) bit
  | .uncorrectable => hardError { s with hpoison := kset false s.hpoison unit_ true } (pcKey pa) 0xBB (pageSlot s pa) pa 5 (pcBank pa)

/-- An agent that reads these lines and units meets the errors that stand in them: one that is corrected changes nothing that it reads, and one that is
not poisons the line first (R390 to R392). -/
def meetErrors (s : State) (lines units : List Nat) : State :=
  let s := if s.flaws.isEmpty then s else lines.foldl (fun s l => lineError s l (kget .clean s.flaws l)) s
  if s.hflaws.isEmpty then s else units.foldl (fun s u => unitError s u (kget .clean s.hflaws u)) s

/-- A reader that consumes nothing, the host or a context's copy-out, finds poison in HBM or in a line of a tile: only the record is written
(R391, R392). -/
def recordUnit (s : State) (pa : Nat) : State := hardError s (pcKey pa) 0xBB (pageSlot s pa) pa 5 (pcBank pa)

def recordLine (s : State) (line : Nat) : State :=
  let a := lineArray (line % 2 ^ 15)
  hardError s (arrayKey (line / 2 ^ 15) a) 0xB9 (tagOf s line) (64 * line) (arrayCode a) (arrayBank a)

end Sys2Proof.Machine
end

