-- ==== Sys2Proof/Machine/Mmu.lean ====
section
/-! DEFINITION. Virtual memory: translation through the TLBs of the copy engines and dock cores (R19, R73, R379, R383), and memory reached
through a translation (R20, R385, R412). -/

namespace Sys2Proof.Machine

/-- Translates through the TLB of `who`, walking on a miss (R379). The answer tells whether the entry was pinned. -/
def translate (s : State) (who slot va : Nat) (write : Bool) : State × Except Nat (Phys × Bool) :=
  let l := tlbOf s who
  match l.find? fun t => tlbHits t slot va with
  | some t =>
    if (!write && !pteR t.leaf) || (write && !pteW t.leaf) then (s, .error 0xA1)
    else (setTlb s who (t :: l.erase t), .ok (physOf t va, t.pinned))
  | none =>
    let s := meetErrors s [] (walkUnits s slot va)
    match walk s slot va with
    | .error c => (s, .error c)
    | .ok (e, big, _) => match leafCause s slot e write with
      | some c => (s, .error c)
      | none =>
        let t := tlbEntry s slot va e big
        (setTlb s who (tlbInsert l t), .ok (physOf t va, false))

/-- A translation that leaves no trace, for what the I/O die reads and writes by virtual address (R111, R362, R367). -/
def translateIo (s : State) (slot va : Nat) (write : Bool) : Except Nat Phys :=
  match walk s slot va with
  | .error c => .error c
  | .ok (e, big, _) => match leafCause s slot e write with
    | some c => .error c
    | none => .ok (physOf (tlbEntry s slot va e big) va)

/-! ### Access counters (R383) -/

/-- A 16-byte record in the notification ring; a full ring drops it. -/
def notify (s : State) (who slot va count : Nat) (wrote : Bool) : State :=
  let lg := regF s (slotReg slot 0x048) 4 0
  let pa := regF s (slotReg slot 0x048) 47 12 * 4096
  let head := regF s (slotReg slot 0x050) 31 0
  let tail := regF s (slotReg slot 0x050) 63 32
  let cluster := if isDock who then 0xFFFF else who - 2112
  let v := va / 65536 * 65536 + (if wrote then 16 else 0) + slot + 2 ^ 64 * count + 2 ^ 80 * cluster + 2 ^ 96 * (gtOf s % 2 ^ 32)
  if lg < 4 ∨ 12 < lg ∨ (head + 2 ^ 32 - tail) % 2 ^ 32 ≥ 2 ^ lg then
    setRegF s (slotReg slot 0x058) 63 32 (min 0xFFFFFFFF (regF s (slotReg slot 0x058) 63 32 + 1))
  else setRegF (devWrite s (pa + 16 * (head % 2 ^ lg)) 16 v) (slotReg slot 0x050) 31 0 ((head + 1) % 2 ^ 32)

/-- Counts the 64-byte units of an access to a page; a counter that first reaches the threshold posts a record. -/
def noteAccess (s : State) (who slot va units : Nat) (write : Bool) : State :=
  let l := tlbOf s who
  match l.find? fun t => tlbHits t slot va with
  | none => s
  | some t =>
    let p := va / 2 ^ 16
    let old := kget 0 t.counts p
    let new := min 65535 (old + units)
    let w := kget false t.wrote p || write
    let s := setTlb s who (l.map fun u => if u = t then { t with counts := kset 0 t.counts p new, wrote := kset false t.wrote p w } else u)
    let thr := regF s (slotReg slot 0x058) 15 0
    if thr ≠ 0 ∧ old < thr ∧ thr ≤ new then notify s who slot va new w else s

/-! ### HBM pairs (R103, R386) -/

/-- The pair whose visible range holds a physical address. -/
def hpairOf (s : State) (pa : Nat) : Option HPair := s.hpairs.find? fun p => decide (p.front ≤ pa) && decide (pa < p.front + 65536 * p.frames)

/-- The address of the front image. -/
def hbmFront (s : State) (pa : Nat) : Nat :=
  match hpairOf s pa with
  | some p => if p.swapped then p.shadow + (pa - p.front) else pa
  | none => pa

/-- The address of the shadow image. -/
def hbmShadow (s : State) (pa : Nat) : Nat :=
  match hpairOf s pa with
  | some p => if p.swapped then pa else p.shadow + (pa - p.front)
  | none => pa

/-! ### Memory through a translation -/

/-- A byte of host memory (R412). -/
def hostByte (s : State) (pa : Nat) : Byte := kget 0 s.host pa
def setHostByte (s : State) (pa : Nat) (b : Byte) : State := { s with host := kset 0 s.host pa b }

/-- A 64-byte unit of HBM as it reads under a key (R385). -/
def hbmUnit (s : State) (unit_ : Nat) (key : Option Nat) : Nat :=
  let v := hbmN s (64 * unit_) 64
  match key with
  | none => v
  | some k => xts true (kget 0 s.keyData k).toNat unit_ v

/-- A byte through a translation, at the address where it stands. -/
def physRaw (s : State) (p : Phys) : Nat :=
  if p.host then (hostByte s p.pa).toNat
  else match p.key with
    | none => (hbmByte s p.pa).toNat
    | some _ => hbmUnit s (p.pa / 64) p.key / 256 ^ (p.pa % 64) % 256

/-- A byte through a translation, in the front image of a pair (R103). -/
def physByte (s : State) (p : Phys) : Nat := physRaw s (if p.host then p else { p with pa := hbmFront s p.pa })

/-- Writes a byte through a translation; an encrypted unit is deciphered, changed and enciphered again. -/
def setPhysRaw (s : State) (p : Phys) (b : Nat) : State :=
  if p.host then setHostByte s p.pa (BitVec.ofNat 8 b)
  else match p.key with
    | none => setHbmByte s p.pa (BitVec.ofNat 8 b)
    | some k =>
      let u := hbmUnit s (p.pa / 64) p.key
      let w := 256 ^ (p.pa % 64)
      setHbmN s (p.pa / 64 * 64) 64 (xts false (kget 0 s.keyData k).toNat (p.pa / 64) (u - u / w % 256 * w + b % 256 * w))

def setPhysByte (s : State) (p : Phys) (b : Nat) : State := setPhysRaw s (if p.host then p else { p with pa := hbmFront s p.pa }) b

def physN (s : State) (p : Phys) : Nat → Nat
  | 0 => 0
  | n + 1 => physByte s p + 256 * physN s { p with pa := p.pa + 1 } n

def setPhysN (s : State) (p : Phys) : Nat → Nat → State
  | 0, _ => s
  | n + 1, v => setPhysN (setPhysByte s p (v % 256)) { p with pa := p.pa + 1 } n (v / 256)

/-- The device's own write through a translation. -/
def devWritePhys (s : State) (p : Phys) (n v : Nat) : State :=
  let t := setPhysN s p n v
  if p.host then t else dropHostLines (clearHpoison t (hbmFront s p.pa) n) p.pa n

/-- `n` bytes of one page through a translation. -/
def physBlock (s : State) (p : Phys) (n : Nat) : Nat :=
  if p.host then knat (kslice s.host p.pa n)
  else if p.key.isNone && s.hpairs.isEmpty then knat (kslice s.hbm p.pa n)
  else physN s p n

/-- `n` bytes at a virtual address, page by page, for at most so many pages. -/
def vreadPages (s : State) (slot va n : Nat) : Nat → Option Nat
  | 0 => some 0
  | k + 1 =>
    let m := min n (65536 - va % 65536)
    if n = 0 then some 0
    else match translateIo s slot va false, vreadPages s slot (va + m) (n - m) k with
      | .ok p, some r => some (physBlock s p m + 256 ^ m * r)
      | _, _ => none

/-- `n` bytes at a virtual address, for the I/O die's reads; none where some page does not translate. -/
def vread (s : State) (slot va n : Nat) : Option Nat := vreadPages s slot va n (n / 65536 + 2)

/-! ### The queue table (R357, R358) -/

/-- The address of a queue's descriptor. -/
def queueDesc (s : State) (q : Nat) : Nat := regF s 0x1000 47 20 * 2 ^ 20 + 128 * q

def queueOf (s : State) (q : Nat) : Queue := kget {} s.queues q

def modQueue (s : State) (q : Nat) (f : Queue → Queue) : State := { s with queues := kmod {} s.queues q f }

/-- Cycles within which the arbiter sees a write to a descriptor. -/
def watchDelay (s : State) : Nat × State := (1 + Config.freeLatency s.free % 64, { s with free := s.free + 1 })

/-- What the arbiter sees of one queue's descriptor: each write in its turn, a rise or a fall of `en` among them. -/
def watchOne (s : State) (q : Nat) : State :=
  let d := watchDelay s
  let u := queueOf s q
  let en := (hbmByte d.2 (queueDesc s q + 10)).getLsbD 0
  let t := max (s.now + d.1) u.seenBy
  sched (modQueue d.2 q fun u => { u with level := en, seenBy := t }) t priEngine
    (if en == u.level then .queueHeadParse else if en then .queueEnable else .queueDisable) (.at q)

/-- A write of `n` bytes of HBM that meets the queue table is seen by the arbiter. -/
def watchQueue (s : State) (pa n : Nat) : State :=
  if regF s 0x1008 0 0 = 1 ∧ queueDesc s 0 < pa + n ∧ pa < queueDesc s 8192 then
    (List.range ((pa + n - 1) / 128 - pa / 128 + 1)).foldl (fun s i =>
      let q := pa / 128 + i - queueDesc s 0 / 128
      if queueDesc s 0 / 128 ≤ pa / 128 + i ∧ q < 8192 then watchOne s q else s) s
  else s

/-- What a write of HBM brings with it where it stands: poison cleared, and the queue table and the channel's waits looked at (R95, R106, R357). -/
def afterWrite (s : State) (pa at_ n : Nat) : State := wakeBank (watchQueue (clearHpoison s at_ n) pa n) (chanKey pa)

/-- A byte as it stands in the queue table after a write of `b` over `old`, at byte `o` of its descriptor: `head` is the device's, and a 1 clears `err`
(R5, R358). -/
def descByte (o : Nat) (old b : Byte) : Byte :=
  if 12 ≤ o ∧ o < 16 then old
  else if o = 10 then (b &&& 0xFD#8) ||| (old &&& ~~~b &&& 0x02#8)
  else b

/-- Whether a place stands in the queue table while the arbiter reads it. -/
def inTable (s : State) (pa : Nat) : Bool := regF s 0x1008 0 0 == 1 && decide (queueDesc s 0 ≤ pa) && decide (pa < queueDesc s 8192)

/-- The `n` bytes that a write, by the host or by any other agent but the device itself, leaves where a translation leads. While the arbiter reads the
queue table, its fields keep their access codes. DEDUCED (log 154). -/
def tableBytes (s : State) (p : Phys) (v : Nat) : Nat → Nat
  | 0 => 0
  | n + 1 =>
    let b := BitVec.ofNat 8 v
    (if !p.host && inTable s p.pa then descByte ((p.pa - queueDesc s 0) % 128) (BitVec.ofNat 8 (physRaw s p)) b else b).toNat +
      256 * tableBytes s { p with pa := p.pa + 1 } (v / 256) n

/-- Writes through a translation, as any agent but the device itself makes them. -/
def physWrite (s : State) (p : Phys) (n v : Nat) : State :=
  let t := setPhysN s p n (tableBytes s p v n)
  if p.host then wakeBank t (2 ^ 21) else afterWrite t p.pa (hbmFront s p.pa) n

/-! ### Upcalls (R381) -/

/-- The entry of the pager region table that covers an address: its index and pager id (R381). -/
def pagerRegion (s : State) (slot va : Nat) : Option (Nat × Nat) :=
  let n := regF s (slotReg slot 0x060) 5 0
  let pa := regF s (slotReg slot 0x060) 47 6 * 64
  ((List.range n).find? fun i =>
    let e := hbmN s (pa + 16 * i) 16
    let base := fld e 0 8 / 65536 * 65536
    decide (base ≤ va) && decide (va < base + 65536 * fld e 8 4)).map fun i => (i, fld (hbmN s (pa + 16 * i) 16) 12 1)

/-- Upcall records of a slot go into its ring, oldest first, as long as it has room (R381). -/
def flushUpcalls (s : State) (slot : Nat) : Nat → State
  | 0 => s
  | n + 1 =>
    let lg := regF s (slotReg slot 0x038) 4 0
    let pa := regF s (slotReg slot 0x038) 47 12 * 4096
    let head := regF s (slotReg slot 0x040) 31 0
    let tail := regF s (slotReg slot 0x040) 63 32
    match s.upcalls.find? (·.1 = slot) with
    | none => s
    | some u =>
      if lg < 4 ∨ 12 < lg ∨ (head + 2 ^ 32 - tail) % 2 ^ 32 ≥ 2 ^ lg then s
      else
        let s := { s with upcalls := s.upcalls.erase u }
        flushUpcalls (setRegF (devWrite s (pa + 64 * (head % 2 ^ lg)) 64 u.2) (slotReg slot 0x040) 31 0 ((head + 1) % 2 ^ 32)) slot n

/-- An upcall record (R381); where the ring is full it waits. -/
def upcall (s : State) (slot a cause va idx pager : Nat) (write : Bool) : State :=
  let rec_ := a + 2 ^ 16 * cause + 2 ^ 24 * ((if write then 1 else 2) + (if isDock a then 4 else 0)) + 2 ^ 32 * (va % 2 ^ 52) +
    2 ^ 96 * idx + 2 ^ 104 * pager + 2 ^ 128 * (gtOf s % 2 ^ 64)
  flushUpcalls { s with upcalls := s.upcalls ++ [(slot, rec_)] } slot (s.upcalls.length + 1)

end Sys2Proof.Machine
end

