-- ==== Sys2Proof/Machine/Prompt.lean ====
section
/-! DEFINITION. The Prompt Book (R108 to R123): records and their ring, order streams, the restart journal, and what a replay
decides about an event. -/

namespace Sys2Proof.Machine

/-! ### CRC-32C (R115, R180) -/

/-- One bit of the reflected CRC-32C. -/
def crcBit (c : Nat) : Nat := if c % 2 = 1 then (c / 2) ^^^ 0x82F63B78 else c / 2

def crcByte (c b : Nat) : Nat := crcBit (crcBit (crcBit (crcBit (crcBit (crcBit (crcBit (crcBit (c ^^^ b))))))))

/-- The running CRC over the low `n` bytes of `v`. -/
def crcRun (c v : Nat) : Nat → Nat
  | 0 => c
  | n + 1 => crcRun (crcByte c (v % 256)) (v / 256) n

def crc32c (v n : Nat) : Nat := crcRun 0xFFFFFFFF v n ^^^ 0xFFFFFFFF

/-! ### The ring (R110 to R113) -/

def pbReg (slot off : Nat) : Nat := slotReg slot (0x100 + off)
def pbEnabled (s : State) (slot : Nat) : Bool := (reg s (pbReg slot 0x20)).getLsbD 3
def pbGapMode (s : State) (slot : Nat) : Bool := (reg s (pbReg slot 0x20)).getLsbD 2
def pbMode (s : State) (slot : Nat) : Nat := regF s (pbReg slot 0x20) 1 0
def pbSize (s : State) (slot : Nat) : Nat := 2 ^ regF s (pbReg slot 0x08) 5 0
def pbHead (s : State) (slot : Nat) : Nat := (reg s (pbReg slot 0x10)).toNat
def pbTail (s : State) (slot : Nat) : Nat := (reg s (pbReg slot 0x18)).toNat
/-- The ring stands `n` records short of full, by its 64-bit counts. -/
def pbShort (s : State) (slot n : Nat) : Bool :=
  reg s (pbReg slot 0x10) - reg s (pbReg slot 0x18) + BitVec.ofNat 64 (64 * n) == BitVec.ofNat 64 (pbSize s slot - 64)
/-- `isfull` (R110). -/
def pbFull (s : State) (slot : Nat) : Bool := pbShort s slot 0

def bookOf (s : State) (slot : Nat) : Book := kget {} s.books slot
def modBook (s : State) (slot : Nat) (f : Book → Book) : State := { s with books := kmod {} s.books slot f }

def setStat (s : State) (slot bit : Nat) : State := setRegF s (pbReg slot 0x28) bit bit 1

/-- Where a ring offset stands, by the frames that the writer holds (R111). -/
def ringAt (s : State) (slot off : Nat) : Phys :=
  let f := (bookOf s slot).frames.getD (off / 65536) ⟨false, 0, none⟩
  ⟨f.host, f.pa + off % 65536, f.key⟩

/-- Puts 64 bytes at `head` and advances it (R113). -/
def placeRecord (s : State) (slot v : Nat) : State :=
  let h := pbHead s slot
  let s := devWritePhys s (ringAt s slot (h % pbSize s slot)) 64 v
  setReg s (pbReg slot 0x10) (BitVec.ofNat 64 (h + 64))

/-- A record's first 32 bytes (R115). -/
def recHead (type flags slot k agent seq object gt : Nat) : Nat :=
  type + 2 ^ 8 * flags + 2 ^ 16 * slot + 2 ^ 24 * k + 2 ^ 32 * agent + 2 ^ 64 * seq + 2 ^ 128 * object + 2 ^ 192 * (gt % 2 ^ 64)

/-- A whole record: head, payload of bytes 32 to 59, CRC. -/
def recBytes (head payload : Nat) : Nat :=
  let v := head + 2 ^ 256 * (payload % 2 ^ 224)
  v + 2 ^ 480 * crc32c v 60

/-- The writer lacks the room for the next `n` records under the stall choice (R113): the event that would write them is held. -/
def ringLacks (s : State) (slot n : Nat) : Bool :=
  pbEnabled s slot && !pbGapMode s slot && (bookOf s slot).gap.isNone && (List.range n).any (pbShort s slot)

/-- The writer accepts a record (R113, R114): it is numbered and placed, or, with the ring full, a gap record takes the kept space and the record
is discarded. Under the stall choice an event asks `ringLacks` first. DESIGN CHOICE (log 151): a discarded record takes no number; the gap record
itself takes one, and its object is 0. -/
def writeRecord (s : State) (slot type flags k agent : Nat) (object : BitVec 64) (gt payload : Nat) : State :=
  let b := bookOf s slot
  let next := fun (b : Book) => { b with seq := b.seq + 1 }
  match b.gap with
  | some (pos, n) => modBook s slot fun b => { b with gap := some (pos, n + 1) }
  | none =>
    if pbFull s slot then
      let s := setStat (placeRecord s slot (recBytes (recHead 0x20 0 slot 0 0 b.seq 0 (gtOf s)) 0)) slot 1
      modBook s slot fun b => { next b with gap := some (pbHead s slot - 64, 1) }
    else placeRecord (modBook s slot next) slot (recBytes (recHead type flags slot k agent b.seq object.toNat gt) payload)

/-- A logged event must wait: the ring is full under the stall choice (R113). -/
def pbStalled (s : State) (slot mode : Nat) : Bool := mode == 1 && ringLacks s slot 1

/-! ### Objects (R115) -/

def objSram (addr : Nat) : BitVec 64 := BitVec.ofNat 64 (addr % 2 ^ 32)
def objHbm (va : Nat) : BitVec 64 := BitVec.ofNat 64 (2 ^ 61 + va % 2 ^ 52)
def objArbiter : BitVec 64 := BitVec.ofNat 64 (2 * 2 ^ 61)
def objCalendar (rid : Nat) : BitVec 64 := BitVec.ofNat 64 (3 * 2 ^ 61 + rid % 2 ^ 32)
def objAgent (a : Nat) : BitVec 64 := BitVec.ofNat 64 (4 * 2 ^ 61 + a % 2 ^ 12)
def objTree (t : Nat) : BitVec 64 := BitVec.ofNat 64 (5 * 2 ^ 61 + t % 2 ^ 8)
def objPair (pid : Nat) : BitVec 64 := BitVec.ofNat 64 (6 * 2 ^ 61 + pid % 2 ^ 16)

/-- The object of an agent's word: an SRAM address for a tile, an HBM virtual address for a dock core (R115, R225). -/
def objWord (s : State) (a addr : Nat) : BitVec 64 :=
  if isDock a then objHbm (match (bk s a).run with
    | some r => r.window + addr
    | none => addr) else objSram addr

/-! ### Order streams (R116, R117) -/

/-- Writes an open record out. -/
def closeRec (s : State) (slot : Nat) (r : OpenRec) : State :=
  let ents := r.entries.zipIdx.foldl (fun acc e => acc + (e.1.1 + 2 ^ 16 * e.1.2) * 2 ^ (32 + 32 * e.2)) 0
  writeRecord s slot r.key.type 0 r.entries.length 0 r.key.object r.gt (r.n + ents)

def dropOpen (b : Book) (k : StreamKey) : Book := { b with opens := b.opens.filter (·.key ≠ k) }

def putOpen (s : State) (slot : Nat) (r : OpenRec) : State :=
  modBook s slot fun b => { b with opens := b.opens.map fun o => if o.key = r.key then r else o }

/-- Writes out the open record of one stream; while the ring lacks room it stays open, and due (R113). -/
def flushStream (s : State) (slot : Nat) (k : StreamKey) : State :=
  match (bookOf s slot).opens.find? (·.key = k) with
  | some r => if ringLacks s slot 1 then putOpen s slot { r with due := true } else closeRec (modBook s slot fun b => dropOpen b k) slot r
  | none => s

/-- Writes out the open records that are due (R113). -/
def flushDue (s : State) (slot : Nat) : State :=
  ((bookOf s slot).opens.filter (·.due)).foldl (fun s r => flushStream s slot r.key) s

/-- Writes out every open record of a context (R117). -/
def flushAll (s : State) (slot : Nat) : State :=
  (bookOf s slot).opens.foldl (fun s r => flushStream s slot r.key) s

/-- Opens a record with its flush timer (R117). DESIGN CHOICE (log 151): a home has space for an open record of every stream, and gives none up
for another's. -/
def openRec (s : State) (slot : Nat) (r : OpenRec) : State :=
  sched (modBook s slot fun b => { dropOpen b r.key with opens := (dropOpen b r.key).opens ++ [r] }) (s.now + 131072) priEngine
    .recordFlushTimer (.stream slot r.key)

/-- Whether a decision repeats the stream's previous one (R117). -/
def repeats (b : Book) (k : StreamKey) (d : Nat × Nat) : Bool := (b.last.find? (·.1 = k)).any fun l => l.2 == d

/-- Whether a decision lets the stream's open record fall due (R117). -/
def fillsRecord (b : Book) (k : StreamKey) (d : Nat × Nat) : Bool :=
  match b.opens.find? (·.key = k) with
  | none => false
  | some r => if repeats b k d then r.entries ≠ [] || r.n + 1 == 2 ^ 32 - 1 else r.entries.length + 1 == 6

/-- Whether a decision must wait for the ring (R113): the stream's record is due, or falls due with it, and there is no room. -/
def orderStalled (s : State) (slot : Nat) (k : StreamKey) (d : Nat × Nat) (n : Nat) : Bool :=
  let b := bookOf s slot
  ((b.opens.find? (·.key = k)).any (·.due) || fillsRecord b k d) && ringLacks s slot n

/-- One decision of a stream joins its record (R117). -/
def orderDecision (s : State) (slot : Nat) (k : StreamKey) (d : Nat × Nat) : State :=
  let b := bookOf s slot
  let rep := repeats b k d
  let s := modBook s slot fun b => { b with last := (k, d) :: b.last.filter (·.1 ≠ k) }
  let fresh : OpenRec := { key := k, n := if rep then 1 else 0, entries := if rep then [] else [d], gt := gtOf s }
  match b.opens.find? (·.key = k) with
  | none => openRec s slot fresh
  | some r =>
    if rep then
      if r.entries ≠ [] then openRec (flushStream s slot k) slot fresh
      else
        let s := putOpen s slot { r with n := r.n + 1 }
        if r.n + 1 = 2 ^ 32 - 1 then flushStream s slot k else s
    else
      let s := putOpen s slot { r with entries := r.entries ++ [d] }
      if r.entries.length + 1 = 6 then flushStream s slot k else s

/-! ### Reading the ring back (R118 to R120) -/

/-- A record as the reader sees it. -/
structure Rec where
  seq : Nat
  pos : Nat
  type : Nat
  agent : Nat
  object : BitVec 64
  k : Nat
  /-- the continuation flag of a 0x19 record (R116) -/
  cont : Bool
  payload : Nat
  gap : Bool

/-- The reserved bits [31:20] of an order record's entries are zero (R2, R116). -/
def entriesClean (type payload : Nat) : Bool :=
  !(decide (0x08 ≤ type) && decide (type ≤ 0x0F)) || (List.range 6).all fun i => payload / 2 ^ (32 + 32 * i + 20) % 2 ^ 12 == 0

/-- A record of the ring: one with a bad CRC, a reserved type, or a reserved field that is not zero is read as a gap record (R2, R115, R118). -/
def recAt (s : State) (slot pos : Nat) : Rec :=
  let v := physN s (ringAt s slot (pos % pbSize s slot)) 64
  let t := v % 256
  let known := t ∈ [0x01, 0x02, 0x03, 0x08, 0x09, 0x0A, 0x0B, 0x0C, 0x0D, 0x0E, 0x0F, 0x18, 0x19, 0x1A, 0x1B, 0x28, 0x29, 0x2A, 0x2B]
  { seq := v / 2 ^ 64 % 2 ^ 64, pos := pos, type := t, agent := v / 2 ^ 32 % 2 ^ 12, object := BitVec.ofNat 64 (v / 2 ^ 128),
    k := v / 2 ^ 24 % 256, cont := v.testBit 8, payload := v / 2 ^ 256 % 2 ^ 224,
    gap := !known || v / 2 ^ 480 != crc32c v 60 || decide (v / 2 ^ 9 % 2 ^ 7 ≠ 0) || (v.testBit 8 && t != 0x19) || decide (v / 2 ^ 20 % 16 ≠ 0) ||
      decide (v / 2 ^ 44 % 2 ^ 20 ≠ 0) || !entriesClean t (v / 2 ^ 256 % 2 ^ 224) }

/-- The records from `tail` to `head` that stand before the first gap or restart record (R120), and whether one was met. -/
def readableFrom (s : State) (slot pos : Nat) : Nat → List Rec × Bool
  | 0 => ([], false)
  | n + 1 =>
    if pos ≥ pbHead s slot then ([], false)
    else
      let r := recAt s slot pos
      if r.gap then ([], true)
      else
        let rest := readableFrom s slot (pos + 64) n
        (r :: rest.1, rest.2)

def readable (s : State) (slot : Nat) : List Rec × Bool :=
  readableFrom s slot (pbTail s slot) ((pbHead s slot - pbTail s slot) / 64)

/-- How many decisions a record covers: its repeats and entries for an order record, one for any other driving record, none for
the journal's. -/
def covers (r : Rec) : Nat :=
  if 0x08 ≤ r.type ∧ r.type ≤ 0x0F then r.payload % 2 ^ 32 + r.k else if r.type < 0x20 then 1 else 0

def madeOf (b : Book) (r : Rec) : Nat := kget 0 b.made r.seq

/-- Advances `tail` past the records whose decisions have all been made (R118). -/
def passTail (s : State) (slot : Nat) : Nat → State
  | 0 => s
  | n + 1 =>
    if pbTail s slot ≥ pbHead s slot then s
    else
      let r := recAt s slot (pbTail s slot)
      if r.gap ∨ madeOf (bookOf s slot) r < covers r then s
      else passTail (modBook (setReg s (pbReg slot 0x18) (BitVec.ofNat 64 (pbTail s slot + 64))) slot fun b =>
        { b with made := kset 0 b.made r.seq 0 }) slot n

/-- The tail has moved: open records that are due are written out, and a gap may end (R113). -/
def tailMoved (s : State) (slot : Nat) : State :=
  let s := flushDue s slot
  if (bookOf s slot).gap.isSome && decide (4096 ≤ pbSize s slot - (pbHead s slot - pbTail s slot)) then sched s s.now priEngine .gapResume (.at slot) else s

/-- The reader of a replay goes on from `tail` (R118): it passes every record whose decisions have been made, the journal's among them. -/
def readOn (s : State) (slot : Nat) : State :=
  if pbEnabled s slot && pbMode s slot == 2 then tailMoved (passTail s slot ((pbHead s slot - pbTail s slot) / 64)) slot else s

/-- One decision of a record has been made. -/
def markMade (s : State) (slot : Nat) (r : Rec) : State :=
  let s := modBook s slot fun b => { b with made := kmod 0 b.made r.seq (· + 1) }
  tailMoved (passTail s slot ((pbHead s slot - pbTail s slot) / 64)) slot

/-- What the Prompt Book says of an event: it may happen (with its effect on the book), it must wait, or it diverges. -/
inductive Verdict where
  | go (f : State → State)
  | wait (k : Nat)
  | diverge (cause seq : Nat)

/-- The choice that a record's next decision names; a repeat names the stream's last choice (R117). -/
def nextChoice (b : Book) (k : StreamKey) (r : Rec) : Option (Nat × Nat) :=
  let m := madeOf b r
  let n := r.payload % 2 ^ 32
  if m < n then (b.last.find? (·.1 = k)).map (·.2)
  else
    let e := r.payload / 2 ^ (32 + 32 * (m - n)) % 2 ^ 32
    some (e % 2 ^ 16, e / 2 ^ 16 % 16)

/-- A divergence: the stream closes, the count rises, and an error record is written (R118). DESIGN CHOICE (log 170): a step that it faults has a
record of its own beside this one (R389). -/
def diverged (s : State) (slot agent : Nat) (k : StreamKey) (cause seq : Nat) : State :=
  let s := modBook s slot fun b => { b with closed := k :: b.closed }
  let s := if cause = 0x60 then setRegF (setStat s slot 2) (pbReg slot 0x28) 63 32 (regF s (pbReg slot 0x28) 63 32 + 1)
    else setStat s slot 3
  errorRecord s { cause := cause, slot := slot, agent := agent, addr := k.object.toNat, detail := seq }

/-- Whether a decision point chooses the event's kind, and so waits for the recorded one (R46, R282): a start of a tile's stream, and the rank of a
matrix command. DEDUCED (log 149). -/
def kindWaits (type kd : Nat) : Bool := type == 0x0F || (type == 0x0C && kd != 0)

/-- An order event of choice `c` and kind `kd` on a stream, under the mode latched by its launch (R110, R118, R119). An event of the named party with
another kind diverges, but for the kinds that a decision point chooses (R118). -/
def orderEvent (s : State) (slot mode : Nat) (k : StreamKey) (c kd : Nat) : Verdict :=
  if !pbEnabled s slot then .go id
  else if mode = 1 then
    if orderStalled s slot k (c, kd) 1 then .wait 0 else .go fun t => orderDecision t slot k (c, kd)
  else if mode = 2 then
    let b := bookOf s slot
    let rd := readable s slot
    if b.closed.contains k then .diverge 0x60 0
    else match rd.1.find? fun r => r.type == k.type && r.object == k.object && decide (madeOf b r < covers r) with
      | none => if rd.2 then .diverge 0x61 0 else .diverge 0x60 0
      | some r => match nextChoice b k r with
        | none => .diverge 0x60 r.seq
        | some (c', kd') =>
          if c' ≠ c ∨ (kd' ≠ kd ∧ kindWaits k.type kd) then .wait 1
          else if kd' ≠ kd then .diverge 0x60 r.seq
          else .go fun t => markMade (modBook t slot fun b => { b with last := (k, (c, kd)) :: b.last.filter (·.1 ≠ k) }) slot r
  else .go id

/-- The payload of a value record (R116). -/
def valuePayload (opcode ordinal result : Nat) : Nat := opcode + 2 ^ 32 * ordinal + 2 ^ 64 * result

/-- The ordinal of the agent's next value event in the context: value events are counted as they are issued, while they are logged, so that
the count does not depend on when a home performs an atomic (R116, R118). -/
def nextOrdinal (s : State) (agent slot : Nat) : Nat := kget 0 (ag s agent).ordinals slot

/-- A value event is issued. -/
def countValue (s : State) (slot mode agent : Nat) : State :=
  if pbEnabled s slot ∧ (mode = 1 ∨ mode = 2) then modAg s agent fun g => { g with ordinals := kmod 0 g.ordinals slot (· + 1) } else s

/-- A home has refused the agent's latest value event, which is then none. -/
def uncountValue (s : State) (slot mode agent ord : Nat) : State :=
  if pbEnabled s slot ∧ (mode = 1 ∨ mode = 2) ∧ nextOrdinal s agent slot = ord + 1 then
    modAg s agent fun g => { g with ordinals := kset 0 g.ordinals slot ord }
  else s

/-- A value event of an agent with its ordinal (R116, R118): in record mode its record, in replay the check that the agent's own record
matches and is the next of its stream. `result` is the value that the event has, or would have. -/
def valueEvent (s : State) (slot mode agent ord type opcode : Nat) (object : BitVec 64) (result : Nat) : Verdict :=
  if !pbEnabled s slot then .go id
  else if mode = 1 then
    if pbStalled s slot mode then .wait 0
    else .go fun t => writeRecord t slot type 0 0 agent object (gtOf t) (valuePayload opcode ord result)
  else if mode = 2 then
    let b := bookOf s slot
    let rd := readable s slot
    let k : StreamKey := ⟨type, object⟩
    if b.closed.contains k then .diverge 0x60 0
    else match rd.1.find? fun r => decide (r.type ≤ 3) && r.agent == agent && r.payload / 2 ^ 32 % 2 ^ 32 == ord with
      | none => if rd.2 then .diverge 0x61 0 else .diverge 0x60 0
      | some r =>
        if r.type ≠ type ∨ r.object ≠ object ∨ r.payload % 2 ^ 12 ≠ opcode then .diverge 0x60 r.seq
        else match rd.1.find? fun q => q.type == type && q.object == object && decide (madeOf b q < covers q) with
          | some q => if q.seq ≠ r.seq then .wait 1
              else if r.payload / 2 ^ 64 % 2 ^ 64 ≠ result then .diverge 0x60 r.seq
              else .go fun t => markMade t slot r
          | none => .diverge 0x60 r.seq
  else .go id

/-- An occasion record (types 0x18 to 0x1B) in record mode (R116). -/
def occasion (s : State) (slot mode agent type flags k : Nat) (object : BitVec 64) (payload : Nat) : State :=
  if pbEnabled s slot ∧ mode = 1 then writeRecord s slot type flags k agent object (gtOf s) payload else s

/-- The records of an occasion stream that a replay has still to make (R119). -/
def occasionsLeft (s : State) (slot type : Nat) (object : BitVec 64) : List Rec :=
  (readable s slot).1.filter fun r => r.type == type && r.object == object && decide (madeOf (bookOf s slot) r < covers r)

/-- The next of them. -/
def nextOccasion (s : State) (slot type : Nat) (object : BitVec 64) : Option Rec := (occasionsLeft s slot type object).head?

/-- The divergence of an event on an occasion stream that has no further record: 0x60, or 0x61 at a gap (R118, R120). -/
def noOccasion (s : State) (slot : Nat) (k : StreamKey) : Nat :=
  if (bookOf s slot).closed.contains k then 0x60 else if (readable s slot).2 then 0x61 else 0x60

/-- An occasion event (R113, R118 to R120): in record mode it waits for room and writes its record; under replay it comes where the next
record of its stream says so. -/
def occasionEvent (s : State) (slot mode agent type : Nat) (object : BitVec 64) (payload : Nat) (due : Rec → Bool) : Verdict :=
  if !pbEnabled s slot then .go id
  else if mode = 1 then
    if pbStalled s slot mode then .wait 0 else .go fun t => occasion t slot mode agent type 0 0 object payload
  else if mode = 2 then
    if (bookOf s slot).closed.contains ⟨type, object⟩ then .diverge 0x60 0
    else match nextOccasion s slot type object with
      | none => .diverge (noOccasion s slot ⟨type, object⟩) 0
      | some r => if due r then .go fun t => markMade t slot r else .wait 1
  else .go id

/-! ### The restart journal (R121 to R123) -/

/-- Bytes 48 to 55 of a journal record: position, round and wave. -/
def keyBytes (k : StepKey) : Nat := 2 ^ 128 * k.pos + 2 ^ 160 * k.round + 2 ^ 176 * k.wave

/-- Whether a step journals (R121). -/
def stepJournals (s : State) (k : StepKey) : Bool := (stepRec s k).any fun r => r.restartable && pbEnabled s r.slot

/-- Whether the step of a tile or dock core journals. -/
def journals (s : State) (a : Nat) : Bool := (bk s a).run.any fun r => stepJournals s r.key

/-- A journal record must wait: its step journals, and the ring is full under the stall choice (R113, R122). -/
def journalHeld (s : State) (k : StepKey) : Bool := (stepRec s k).any fun r => r.restartable && ringLacks s r.slot 1

/-- A step has one effect more. -/
def countEffect (s : State) (k : StepKey) : State := modStep s k fun r => { r with effects := r.effects + 1 }

/-- The number of a step's next effect, if it journals, with the effect counted (R121). -/
def takeEffect (s : State) (k : StepKey) : Option Nat × State :=
  if stepJournals s k then ((stepRec s k).map (·.effects), countEffect s k) else (none, s)

/-- The journal record of a performed effect, where it has a number (R121). -/
def journalAs (s : State) (slot a : Nat) (k : StepKey) (eff : Option Nat) (type opcode : Nat) (object : BitVec 64) (value : Nat) : State :=
  match eff with
  | some e => if pbEnabled s slot then
      readOn (modStep (writeRecord s slot type 0 0 a object (gtOf s) (valuePayload opcode e value + keyBytes k)) k fun r => { r with performed := e :: r.performed }) slot
    else s
  | none => s

/-- Journal record `e` of a restarted step, if the journal reaches it (R123). DESIGN CHOICE (log 151): the device reads the journal from the ring's
records between `tail` and `head`; one that the host has drained is absent. -/
def journalled (s : State) (slot e : Nat) (k : StepKey) : Option Rec :=
  let all := (List.range ((pbHead s slot - pbTail s slot) / 64)).map fun i => recAt s slot (pbTail s slot + 64 * i)
  all.find? fun r => !r.gap && decide (0x28 ≤ r.type) && decide (r.type ≤ 0x2A) && r.payload / 2 ^ 32 % 2 ^ 32 == e &&
    r.payload / 2 ^ 128 == k.pos + 2 ^ 32 * k.round + 2 ^ 48 * k.wave

/-- What the restart journal says of a step's next effect (R123): it is new, or it is answered from the journal, or it does not match. -/
inductive Effect where
  | fresh
  | again (result : Nat)
  | bad

def effectOf (s : State) (k : StepKey) (type : Nat) (object : BitVec 64) : Effect :=
  match stepRec s k with
  | none => .fresh
  | some st =>
    if !st.restarted then .fresh
    else match journalled s st.slot st.effects k with
      | none => .fresh
      | some j => if j.type = type ∧ j.object = object then .again (j.payload / 2 ^ 64 % 2 ^ 64) else .bad

/-- The same for the step of a tile or dock core. -/
def restartEffect (s : State) (a type : Nat) (object : BitVec 64) : Effect :=
  match (bk s a).run with
  | none => .fresh
  | some r => effectOf s r.key type object

end Sys2Proof.Machine
end

