-- ==== Sys2Proof/Machine/Booking.lean ====
section
/-! DEFINITION. Bookings (R58 to R65, R71 to R73, R76): cue lists and the slots they hold, the probe and the commit, release and chains. -/

namespace Sys2Proof.Machine

/-! ### Cue lists (R58, R59, R62) -/

/-- An entry of 16 bytes, little-endian. -/
def cueOf (v : Nat) : Cue :=
  { cls := v % 256, flags := v / 2 ^ 8 % 256, sel := v / 2 ^ 16 % 65536, first := v / 2 ^ 32 % 65536, length := v / 2 ^ 48 % 65536,
    period := v / 2 ^ 64 % 65536, reps := v / 2 ^ 80 % 65536, slack := v / 2 ^ 96 % 65536 }

/-- The fields' ranges and the reserved bytes of an entry (R58). -/
def cueFieldsOk (v : Nat) : Bool :=
  let c := cueOf v
  decide (v / 2 ^ 112 % 65536 = 0) && decide (1 ≤ c.cls) && decide (c.cls ≤ 0x0B) && decide (c.flags ≤ 1) && decide (c.first ≤ 8191) &&
    decide (1 ≤ c.length) && decide (c.length ≤ 8192) && decide (1 ≤ c.reps) && (c.period != 0 || c.reps == 1)

def signed5 (n : Nat) : Int := if n < 16 then (n : Int) else (n : Int) - 32

/-- The tile that a selector names, seen from tile `t`; none where the selector is malformed or names a tile outside the package. -/
def cueTile (t sel : Nat) : Option Nat :=
  if sel / 2 ^ 15 % 2 = 0 then (if sel / 32 % 1024 = 0 then some t else none)
  else
    let x := (tileX t : Int) + signed5 (sel / 32 % 32)
    let y := (tileY t : Int) + signed5 (sel / 1024 % 32)
    if 0 ≤ x ∧ x < 64 ∧ 0 ≤ y ∧ y < 32 then some (tileAt x.toNat y.toNat) else none

def ceilDiv (a b : Nat) : Nat := (a + b - 1) / b

/-- The instances of an entry on tile `t`, each with its further slots (R59, R60). -/
def cueInstances (t : Nat) (c : Cue) : Option (List (Nat × Nat)) :=
  let u := c.sel % 32
  let unit_ := fun (n : Nat) => if u < n then (cueTile t c.sel).map fun k => [(ridTile c.cls k u, 0)] else none
  match c.cls with
  | 1 | 2 | 3 => unit_ 1
  | 4 => unit_ 24
  | 5 | 6 => unit_ 4
  | 7 => if u < 8 then (cueTile t c.sel).map fun k => [(ridLane (tileCluster k) u, 0)] else none
  | 8 =>
    let st := if c.sel / 2 ^ 15 % 2 = 0 then (if c.sel / 2 ^ 11 % 16 < 12 then some (c.sel / 2 ^ 11 % 16) else none)
      else if c.sel / 2 ^ 13 % 4 = 0 ∧ c.sel / 2 ^ 11 % 4 < 3 then some (tileDie t * 3 + c.sel / 2 ^ 11 % 4) else none
    if u = 0 then st.map fun k => [(8 * 2 ^ 24 + k * 64 + c.sel / 64 % 32 * 2 + c.sel / 32 % 2, 0)] else none
  | 9 =>
    let b := c.sel / 2 ^ 12
    let m := c.sel % 8
    if b < 8 ∧ c.sel / 8 % 512 = 0 ∧ (b < 4 ∨ m < 4) then some [(ridModule b m, 0)] else none
  | 10 => if c.sel < 18 then some [(10 * 2 ^ 24 + c.sel, 0)] else none
  | 11 => if u = 0 then (cueTile t c.sel).map fun k =>
      (route t k).map fun r => (r.1, ceilDiv (2 * hops t k + 48 * crossings t k) 16) else none
  | _ => none

/-- The tail of an entry in slots (R61). -/
def cueTail (c : Cue) : Nat := ceilDiv c.slack 16

/-- An interval of slots that an entry holds on one instance: resource id, first slot after s, and how many. -/
abbrev Hold1 := Nat × Nat × Nat

/-- What an entry holds on its instances (R60, R61); `tail` as given, so that a window and its tail are one interval. -/
def cueHolds (t : Nat) (c : Cue) : List Hold1 :=
  ((cueInstances t c).getD []).flatMap fun i =>
    (List.range c.reps).map fun w => (i.1, c.first + w * c.period, c.length + i.2 + cueTail c)

/-- The last slot after s that an entry holds, plus one. -/
def cueEnd (t : Nat) (c : Cue) : Nat :=
  c.first + (c.reps - 1) * c.period + c.length + cueTail c + (((cueInstances t c).getD []).map (·.2)).foldl max 0

def spanOf (t : Nat) (cs : List Cue) : Nat := (cs.map (cueEnd t)).foldl max 0

/-- Booking end after s, in slots: windows alone (R61). -/
def endOf (cs : List Cue) : Nat := (cs.map fun c => c.first + (c.reps - 1) * c.period + c.length).foldl max 0

def slackOf (cs : List Cue) : Nat := match cs with
  | [] => 0
  | c :: cs => (cs.map (·.slack)).foldl min c.slack

/-- Two intervals meet on one instance. -/
def holdsMeet (x y : Hold1) : Bool := x.1 == y.1 && decide (x.2.1 < y.2.1 + y.2.2) && decide (y.2.1 < x.2.1 + x.2.2)

/-- No two entries hold one instance in one slot. -/
def entriesApart : List (List Hold1) → Bool
  | [] => true
  | x :: xs => (xs.all fun y => x.all fun i => y.all fun j => !holdsMeet i j) && entriesApart xs

/-- A list of 1 to 32 entries is well formed on tile `t` (R62). -/
def cuesOk (t : Nat) (vs : List Nat) : Bool :=
  let cs := vs.map cueOf
  decide (1 ≤ vs.length) && decide (vs.length ≤ 32) && vs.all cueFieldsOk && cs.all (fun c => (cueInstances t c).isSome) &&
    cs.all (fun c => c.flags == (cs.headD (cueOf 0)).flags) &&
    cs.all (fun c => c.period == 0 || decide (c.length + cueTail c + (((cueInstances t c).getD []).map (·.2)).foldl max 0 ≤ c.period)) &&
    decide (spanOf t cs ≤ 8152) && entriesApart (cs.map (cueHolds t))

/-- The tiles that a list names on tile `t`. -/
def cueTiles (t : Nat) (cs : List Cue) : List Nat :=
  cs.filterMap fun c => if c.cls ≤ 7 ∨ c.cls = 11 then cueTile t c.sel else none

/-! ### Probe and commit (R63, R64) -/

/-- A slot of a resource is free; in a pull the step's own entries count as free, and so do released ones (R63, R72). -/
def entryFree (s : State) (pull : Option StepKey) (rid slot : Nat) : Bool :=
  !inRefresh rid slot && (match calAt s rid slot with
    | none => true
    | some h => match pull with
      | none => false
      | some k => h.key == k || (h.freeAt.any fun g => decide (g ≤ 16 * slot)))

def fitsAt (s : State) (pull : Option StepKey) (hs : List Hold1) (start : Nat) : Bool :=
  hs.all fun h => (List.range h.2.2).all fun i => entryFree s pull h.1 (start + h.2.1 + i)

/-- The first start from `n` on that fits, with its span within the horizon. -/
def searchFit (s : State) (pull : Option StepKey) (hs : List Hold1) (span n : Nat) : Nat → Option Nat
  | 0 => none
  | f + 1 =>
    if n + span - 1 > slotNow s + 8191 then none
    else if fitsAt s pull hs n then some n else searchFit s pull hs span (n + 1) f

/-- The first slot that a probe may try: its first cycle is at least 640 cycles, and at least `lead` slots, after now (R63, R312). -/
def firstStart (s : State) (lead : Nat) : Nat := max (ceilDiv (gtOf s + 640) 16) (slotNow s + lead)

def probe (s : State) (t : Nat) (cs : List Cue) (lead : Nat) : Option Nat :=
  searchFit s none (cs.flatMap (cueHolds t)) (spanOf t cs) (firstStart s lead) 8192

/-- Marks a booking's entries (R64); those of other holders stay. -/
def markHolds (s : State) (k : StepKey) (hs : List Hold1) (start : Nat) : State :=
  hs.foldl (fun s h => (List.range h.2.2).foldl (fun s i =>
    { s with cal := kset none s.cal (calKey h.1 (start + h.2.1 + i)) (some { key := k, slot := start + h.2.1 + i }) }) s) s

/-- The booking that a committed list makes (R61). -/
def mkBooking (t : Nat) (cs : List Cue) (start : Nat) (movable demotes : Bool) : Booking :=
  { s := start, e := 16 * (start + endOf cs), slack := slackOf cs, span := spanOf t cs, movable := movable, demotePolicy := demotes,
    entries := cs.length, cues := cs }

/-- A gang switch accepted with effective time T refuses bookings of the outgoing context that would end after T (R76): the pending
order's slot and T, if there is one. -/
def pendingSwitch (s : State) : Option (Nat × Nat) :=
  let st := regF s 0x7118 2 0
  if 1 ≤ st ∧ st ≤ 4 then some (s.switch.out, s.switch.t) else none

def switchRefuses (s : State) (slot start span : Nat) : Bool :=
  match pendingSwitch s with
  | some (o, t) => o == slot && decide (t < 16 * (start + span))
  | none => false

/-- The step keeps its booking, and the event of its end is scheduled (R68). -/
def setBooking (s : State) (k : StepKey) (b : Option Booking) : State :=
  let s := modStep s k fun r => { r with booking := b }
  { s with agents := s.agents.map fun e => (e.1, { e.2 with
      front := { e.2.front with run := e.2.front.run.map fun r => if r.key = k then { r with booking := b } else r }
      wings := { e.2.wings with run := e.2.wings.run.map fun r => if r.key = k then { r with booking := b } else r } }) }

def schedBookingEnd (s : State) (a : Nat) (b : Booking) : State :=
  sched s (max s.now (cycleOf s (b.e + b.slack))) (priEnd - 1) .bookingEndPassed (.at2 a (b.e + b.slack))

/-! ### The keepers' decisions (R64, R108, R116) -/

/-- Insertion into a rising list without repeats. -/
def insertNat (n : Nat) : List Nat → List Nat
  | [] => [n]
  | m :: ms => if n < m then n :: m :: ms else if n = m then m :: ms else m :: insertNat n ms

/-- The resources of a commit, in ascending order. -/
def commitRids (hs : List Hold1) : List Nat := hs.foldl (fun l h => insertNat h.1 l) []

/-- What the keepers' streams say of a commit: it is made, it waits, or it diverges. -/
inductive Commit where
  | ok (s : State)
  | wait
  | diverge (k : StreamKey) (cause seq : Nat)

/-- A commit is a decision of every resource that it takes, in ascending order; its booker is `0x8000 + die` for a walker and the tile for an
operation of `cq` (R64, R116). Where one of them waits, no mark is set. DEDUCED (log 149): every commit is a decision, with rivals or without. -/
def commitOrder (s : State) (slot mode booker : Nat) : List Nat → Commit
  | [] => .ok s
  | rid :: rids => match orderEvent s slot mode ⟨0x0E, objCalendar rid⟩ booker 0 with
    | .go k => commitOrder (k s) slot mode booker rids
    | .wait _ => .wait
    | .diverge c n => .diverge ⟨0x0E, objCalendar rid⟩ c n

/-- The number that names a die's walker as a booker (R116). -/
def walkerNo (t : Nat) : Nat := 0x8000 + tileDie t

/-! ### Release and chains (R71, R72) -/

/-- Pulls one committed booking to its earliest start after its predecessor's end (R72): a new start, if it moves. -/
def pullOne (s : State) (r : StepRec) (b : Booking) (after : Nat) : State × Bool :=
  let t := r.key.tile
  let hs := b.cues.flatMap (cueHolds t)
  match searchFit s (some r.key) hs b.span (max (firstStart s 0) after) (b.s - max (firstStart s 0) after) with
  | none => (s, false)
  | some n =>
    let s := { s with cal := s.cal.filter fun e => match e.2 with
        | some h => !(h.key == r.key && !h.aged)
        | none => false }
    let s := markHolds s r.key hs n
    let b' := { b with s := n, e := 16 * (n + endOf b.cues) }
    let s := schedBookingEnd (setBooking s r.key (some b')) t b'
    -- the launch loads the step for its new start (R35)
    (sched s (max s.now (cycleOf s (16 * n - 320))) priEngine .stepLoadStart (.at2 t n), true)

/-- Slots at which a booking's last held slot ends, plus one: after a release, the slot of the release (R71, R72). -/
def bookEnd (b : Booking) : Nat := b.s + b.span

/-- Pulls the chain behind a booking, in chain order (R72): how many moved. -/
def pullChain (s : State) (succ : Option StepKey) (after : Nat) : Nat → State × Nat
  | 0 => (s, 0)
  | f + 1 => match succ.bind (stepRec s) with
    | none => (s, 0)
    | some r => match r.booking with
      | none => (s, 0)
      | some b =>
        let p := if r.st = .committed ∧ b.movable then pullOne s r b after else (s, false)
        let e := match (stepRec p.1 r.key).bind (·.booking) with
          | some b => bookEnd b
          | none => after
        let q := pullChain p.1 b.succ e f
        (q.1, q.2 + (if p.2 then 1 else 0))

/-- A booking ends: its entries are released from slot `n` on, its successor loses its predecessor, and the chain is pulled (R71, R72). -/
def releaseBooking (s : State) (k : StepKey) (b : Booking) (n : Nat) : State :=
  let s := setBooking (releaseFrom s k n) k none
  let s := match b.succ with
    | some q => modStep s q fun r => { r with booking := r.booking.map fun x => { x with pred := none } }
    | none => s
  let s := match b.pred with
    | some q => modStep s q fun r => { r with booking := r.booking.map fun x => { x with succ := none } }
    | none => s
  (pullChain s b.succ n 64).1

/-- What an entry still has to hold from slot `d` after the start on: the rest of a window that slot `d` falls into, and the later windows
(R40, R61). -/
def remainingCue (c : Cue) (d : Nat) : List Cue :=
  let passed := (List.range c.reps).filter fun w => decide (d < c.first + w * c.period + c.length)
  match passed with
  | [] => []
  | w :: _ =>
    let at_ := c.first + w * c.period
    let left := c.reps - w
    if d ≤ at_ then [{ c with first := at_ - d, reps := left }]
    else { c with first := 0, length := at_ + c.length - d, period := 0, reps := 1 } ::
      (if left = 1 then [] else [{ c with first := at_ + c.period - d, reps := left - 1 }])

/-- The cues that a booking still has to hold from slot `n` on, movable as it was. -/
def remainingCues (b : Booking) (n : Nat) : List Cue :=
  b.cues.flatMap fun c => remainingCue { c with flags := if b.movable then 1 else 0 } (n - b.s)

/-! ### Overruns (R68 to R70) -/

/-- An overrun of a booked step (R68 to R70): under the fault policy the step is Faulted, under the demote policy it goes on
unbooked and a demotion record is written; either way the holdings are released from the next slot (R71). -/
def overrun (s : State) (a cause : Nat) : State :=
  match (bk s a).run with
  | none => s
  | some r => match runBooking s r with
    | none => s
    | some b =>
      let s := releaseBooking s r.key b (slotNow s + 1)
      if b.demotePolicy then
        let s := modStep (modRun s a fun r => { r with demoted := true }) r.key fun x => { x with demoted := true }
        errorRecord s { cause := cause, demoted := true, slot := r.slot, agent := a, pos := r.key.pos, round := r.key.round,
                        wave := r.key.wave, detail := r.delay + 2 ^ 32 * b.slack + 2 ^ 64 * b.e }
      else
        stopFault s a cause 7#3 (bk s a).q.lastPc none (lastCycle s a)

/-- The order key of a step, as one number. -/
def keyNo (k : StepKey) : Nat := (if k.task then 2 ^ 80 else 0) + k.pos * 2 ^ 32 + k.round * 2 ^ 16 + k.wave

/-- A use outside the booking by operation `id` (0 for none) is an overrun with cause 0x50 in the cycle in which it falls, after the causes that R68
puts before it. -/
def misuse (s : State) (a rid cycle id : Nat) : State :=
  match (bk s a).run with
  | some r => sched s (max cycle s.now) (priEnd - 3) .slackExhausted (.use a rid (keyNo r.key) id)
  | none => s

/-- A use in this cycle that may lie outside the booking for another reason than its slot; resource 0 is none that a step can hold. -/
def checkUse (ok : Bool) (a : Nat) (s : State) : State := if ok then s else misuse s a 0 s.now 0

/-- Uses of resources by an operation, each in its cycle (R66, R68, R217). -/
def opUses (s : State) (a id : Nat) (us : List (Nat × Nat)) : State :=
  us.foldl (fun s u => if useOk s a u.1 u.2 then s else misuse s a u.1 u.2 id) s

/-- Uses of resources, each in its cycle (R66, R68). -/
def checkUses (s : State) (a : Nat) (us : List (Nat × Nat)) : State := opUses s a 0 us

/-- A use of one resource over `n` cycles from `c` on: its first cycle, and the first cycle of each slot that it goes on in (R54). -/
def spanUses (s : State) (rid c n : Nat) : List (Nat × Nat) :=
  if n = 0 then []
  else
    let o := 16 - (gtOf s + (c - s.now)) % 16
    (rid, c) :: (List.range ((n + 15) / 16)).filterMap fun i => if o + 16 * i < n then some (rid, c + o + 16 * i) else none

/-- Uses by an operation of step `k`, which another step of the agent may have followed (R66, R68, R217). -/
def stepUses (s : State) (a id : Nat) (k : StepKey) (us : List (Nat × Nat)) : State :=
  if (bk s a).run.any fun r => r.key == k then opUses s a id us else s

/-- The uses of links and modules by a flit that enters a route in cycle `c`. -/
def routeUses (t u c : Nat) : List (Nat × Nat) := if isTile t ∧ isTile u then (route t u).map fun r => (r.1, c + r.2) else []

/-! ### Device events -/

/-- The step overruns if it is still booked and its delay passes its slack (R68). -/
def slackExhausted (s : State) (a : Nat) : State :=
  match (bk s a).run with
  | some r => (match runBooking s r with
    | some b => if b.slack < r.delay then overrun s a 0x52 else s
    | none => s)
  | none => s

/-- The identifier of an operation on its way. -/
def occId : Occ → Nat
  | .access x => x.id
  | .amo _ x => x.id
  | .sync x => x.id
  | .pkt p => p.id
  | _ => 0

/-- An operation of an agent that is on its way or in a send channel. -/
def underway (s : State) (a id : Nat) : Bool :=
  (s.agenda.any fun e => match e.what with
    | .ev _ o => occId o == id
    | .issue _ => false) || (ag s a).chans.any fun c => c.2.pkts.any fun p => p.1.id == id

/-- A use by a step falls in this cycle; outside its booking it is an overrun (R66, R68), and the operation on its way is performed nowhere
(R241). -/
def lateUse (s : State) (a rid no id : Nat) : State :=
  if ((bk s a).run.any fun r => keyNo r.key == no) && !useOk s a rid s.now then
    let t := overrun s a 0x50
    if id ≠ 0 ∧ underway s a id then { t with voids := id :: s.voids } else t
  else s

/-- R68: a booked step's delay count exceeds its slack, or a use of it falls outside its booking (R217). -/
def execSlackExhausted (s : State) : Host.Outcome State Fault Refusal :=
  match s.occ with
  | .at a => .next (slackExhausted s a)
  | .use a rid no id => .next (lateUse s a rid no id)
  | _ => .refused (.noOccasion "SLACK_EXHAUSTED")

/-- The booking whose end plus slack is `g` overruns, if its step is not Done; where GT has been adjusted since, the event waits (R68). -/
def bookingEndPassed (s : State) (a g : Nat) : State :=
  match (bk s a).run with
  | some r => (match r.booking with
    | some b =>
      if b.e + b.slack ≠ g then s
      else if gtOf s < g then sched s (max (s.now + 1) (cycleOf s g)) (priEnd - 1) .bookingEndPassed (.at2 a g)
      else overrun s a 0x51
    | none => s)
  | none => s

/-- R68: GT reaches E + S and the step is not Done. -/
def execBookingEndPassed (s : State) : Host.Outcome State Fault Refusal :=
  match s.occ with
  | .at2 a g => .next (bookingEndPassed s a g)
  | _ => .refused (.noOccasion "BOOKING_END_PASSED")

end Sys2Proof.Machine
end

