-- ==== Sys2Proof/WellFormed.lean ====
section
/-! DEFINITION. Which terms of `Instr` stand for something: a trigger's source is narrow and exists (R166, R168), a loop nest
names a listed element operation (R263), and a bundle is issued by a tile or a dock core (R77). -/

namespace Sys2Proof

/-- A move to a trigger port takes a narrow source that exists (R166, R168). -/
def trigWf (m : Trig) : Bool :=
  match m.src with
  | .latch u c => latchExists u c.val && !latchBroad u c.val
  | _ => true

/-- A loop nest's element operation is one of R263's and its extents and strides fit their fields by type. -/
def nestWf (n : Nest) : Bool :=
  [0x001#12, 0x002#12, 0x003#12, 0x004#12, 0x007#12, 0x008#12, 0x101#12, 0x102#12, 0x103#12, 0x10A#12, 0x10B#12].contains n.eop

/-- Well-formedness of an instruction. An event has no operands that could be ill-formed. -/
def instrWf : Instr → Bool
  | .bundleIssue a _ => isIssuer a
  | .sqBr m => trigWf m
  | .sqBrr m => trigWf m
  | .sqCall m => trigWf m
  | .sqCallx m => trigWf m
  | .sqRet m => trigWf m
  | .sqLoop m => trigWf m
  | .sqLbrk m => trigWf m
  | .sqLidx m => trigWf m
  | .sqScene m => trigWf m
  | .sqTrap m => trigWf m
  | .sqIret m => trigWf m
  | .sqIfence m => trigWf m
  | .sqBrswap m => trigWf m
  | .sqHalt m => trigWf m
  | .xaAdd _ m => trigWf m
  | .xaSub _ m => trigWf m
  | .xaRsub _ m => trigWf m
  | .xaMul _ m => trigWf m
  | .xaMulh _ m => trigWf m
  | .xaMulhu _ m => trigWf m
  | .xaDiv _ m => trigWf m
  | .xaDivu _ m => trigWf m
  | .xaRem _ m => trigWf m
  | .xaRemu _ m => trigWf m
  | .xaMin _ m => trigWf m
  | .xaMax _ m => trigWf m
  | .xaMinu _ m => trigWf m
  | .xaMaxu _ m => trigWf m
  | .xaAbs _ m => trigWf m
  | .xaAnd _ m => trigWf m
  | .xaOr _ m => trigWf m
  | .xaXor _ m => trigWf m
  | .xaAndn _ m => trigWf m
  | .xaShl _ m => trigWf m
  | .xaShr _ m => trigWf m
  | .xaSra _ m => trigWf m
  | .xaRol _ m => trigWf m
  | .xaClz _ m => trigWf m
  | .xaCtz _ m => trigWf m
  | .xaPopc _ m => trigWf m
  | .xaSextB _ m => trigWf m
  | .xaSextH _ m => trigWf m
  | .xaBext _ m => trigWf m
  | .xaBins _ m => trigWf m
  | .xaPass _ m => trigWf m
  | .xaCmpEq _ _ m => trigWf m
  | .xaCmpNe _ _ m => trigWf m
  | .xaCmpLt _ _ m => trigWf m
  | .xaCmpLe _ _ m => trigWf m
  | .xaCmpLtu _ _ m => trigWf m
  | .xaCmpLeu _ _ m => trigWf m
  | .xaTst _ _ m => trigWf m
  | .xaSel _ _ m => trigWf m
  | .agLea m => trigWf m
  | .agGaddr m => trigWf m
  | .agTileid m => trigWf m
  | .agHome m => trigWf m
  | .agStep m => trigWf m
  | .agWrap m => trigWf m
  | .agCbInit m => trigWf m
  | .agCbWait m => trigWf m
  | .agCbRoom m => trigWf m
  | .agCbAdvp m => trigWf m
  | .agCbAdvc m => trigWf m
  | .agCbPos m => trigWf m
  | .agCbPosp m => trigWf m
  | .agCbFill m => trigWf m
  | .lsLdB _ m => trigWf m
  | .lsLdBz _ m => trigWf m
  | .lsLdH _ m => trigWf m
  | .lsLdHz _ m => trigWf m
  | .lsLdW _ m => trigWf m
  | .lsStB _ m => trigWf m
  | .lsStH _ m => trigWf m
  | .lsStW _ m => trigWf m
  | .lsAmoAdd _ m => trigWf m
  | .lsAmoAnd _ m => trigWf m
  | .lsAmoOr _ m => trigWf m
  | .lsAmoXor _ m => trigWf m
  | .lsAmoMin _ m => trigWf m
  | .lsAmoMax _ m => trigWf m
  | .lsAmoMinu _ m => trigWf m
  | .lsAmoMaxu _ m => trigWf m
  | .lsAmoSwap _ m => trigWf m
  | .lsAmoCas _ m => trigWf m
  | .lsAmoFadd _ m => trigWf m
  | .lsAmoChunk _ m => trigWf m
  | .lsAcq _ m => trigWf m
  | .lsRel _ m => trigWf m
  | .lsFence _ m => trigWf m
  | .lsSwArm _ m => trigWf m
  | .lsSwWait _ m => trigWf m
  | .lsSwAdd _ m => trigWf m
  | .lsSwRead _ m => trigWf m
  | .vxVadd m => trigWf m
  | .vxVsub m => trigWf m
  | .vxVmul m => trigWf m
  | .vxVfma m => trigWf m
  | .vxVfms m => trigWf m
  | .vxVfnma m => trigWf m
  | .vxVmin m => trigWf m
  | .vxVmax m => trigWf m
  | .vxVabs m => trigWf m
  | .vxVneg m => trigWf m
  | .vxVdiv m => trigWf m
  | .vxVsqrt m => trigWf m
  | .vxVrcp m => trigWf m
  | .vxVrsqrt m => trigWf m
  | .vxVexp2 m => trigWf m
  | .vxVlog2 m => trigWf m
  | .vxVaddi m => trigWf m
  | .vxVsubi m => trigWf m
  | .vxVmuli m => trigWf m
  | .vxVand m => trigWf m
  | .vxVor m => trigWf m
  | .vxVxor m => trigWf m
  | .vxVshl m => trigWf m
  | .vxVshr m => trigWf m
  | .vxVsra m => trigWf m
  | .vxVmini m => trigWf m
  | .vxVmaxi m => trigWf m
  | .vxVcmpEq m => trigWf m
  | .vxVcmpNe m => trigWf m
  | .vxVcmpLt m => trigWf m
  | .vxVcmpLe m => trigWf m
  | .vxVcmpiEq m => trigWf m
  | .vxVcmpiNe m => trigWf m
  | .vxVcmpiLt m => trigWf m
  | .vxVcmpiLe m => trigWf m
  | .vxVsel m => trigWf m
  | .vxMand m => trigWf m
  | .vxMor m => trigWf m
  | .vxMnot m => trigWf m
  | .vxVcvt m => trigWf m
  | .vxVscale m => trigWf m
  | .vxVcvti m => trigWf m
  | .vxVredsum m => trigWf m
  | .vxVredmax m => trigWf m
  | .vxVredmin m => trigWf m
  | .vxVbcast m => trigWf m
  | .vxVperm m => trigWf m
  | .vxVrot m => trigWf m
  | .vxVins m => trigWf m
  | .vxVget m => trigWf m
  | .vxVmov m => trigWf m
  | .vxVout m => trigWf m
  | .vxVld m => trigWf m
  | .vxVst m => trigWf m
  | .vxVgath m => trigWf m
  | .vxVscat m => trigWf m
  | .vxVldc m => trigWf m
  | .vxVstc m => trigWf m
  | .vxVnest nest => nestWf nest
  | .mxCfg m => trigWf m
  | .mxWload m => trigWf m
  | .mxWloadx m => trigWf m
  | .mxRun m => trigWf m
  | .mxRunsp m => trigWf m
  | .mxGrp m => trigWf m
  | .mxSclr m => trigWf m
  | .mxDrain m => trigWf m
  | .mxDrainc m => trigWf m
  | .mxScale m => trigWf m
  | .mxCap m => trigWf m
  | .mxPrio m => trigWf m
  | .mxStat m => trigWf m
  | .mxSwap m => trigWf m
  | .chCopy _ m => trigWf m
  | .chCopyt _ m => trigWf m
  | .chCopyi _ m => trigWf m
  | .chExpand _ m => trigWf m
  | .chFill _ m => trigWf m
  | .chShadow _ m => trigWf m
  | .chPublish m => trigWf m
  | .chCrc _ m => trigWf m
  | .chPbinv m => trigWf m
  | .chTlbinv m => trigWf m
  | .chTlbpin m => trigWf m
  | .chCancel m => trigWf m
  | .chStat m => trigWf m
  | .ntSend m => trigWf m
  | .ntSendw m => trigWf m
  | .ntPut m => trigWf m
  | .ntPutb m => trigWf m
  | .ntReduce m => trigWf m
  | .ntBcast m => trigWf m
  | .ntSpawn m => trigWf m
  | .ntEvent m => trigWf m
  | .ntMxcmd m => trigWf m
  | .ntTree m => trigWf m
  | .ntStat m => trigWf m
  | .ntRedwait m => trigWf m
  | .lmBank m => trigWf m
  | .lmTick m => trigWf m
  | .lmFan m => trigWf m
  | .lmLoad m => trigWf m
  | .lmStore m => trigWf m
  | .lmInject m => trigWf m
  | .lmRead m => trigWf m
  | .lmWrite m => trigWf m
  | .lmRun m => trigWf m
  | .lmStop m => trigWf m
  | .lmDrain m => trigWf m
  | .lmTie m => trigWf m
  | .lmStat m => trigWf m
  | .cqProbe m => trigWf m
  | .cqBook m => trigWf m
  | .cqRelease m => trigWf m
  | .cqExtend m => trigWf m
  | .cqChain m => trigWf m
  | .cqCompact m => trigWf m
  | .cqDemote m => trigWf m
  | .cqSlack m => trigWf m
  | .cqQuery m => trigWf m
  | .syCsrr m => trigWf m
  | .syCsrw m => trigWf m
  | .syGtime m => trigWf m
  | .syWaitgt m => trigWf m
  | .syCurtain m => trigWf m
  | .syCarrive m => trigWf m
  | .syCwait m => trigWf m
  | .syFumode m => trigWf m
  | .syPbmark m => trigWf m
  | .syEcall m => trigWf m
  | .syYield m => trigWf m
  | .syBrk m => trigWf m
  | .syUsr m => trigWf m
  | .syUsw m => trigWf m
  | .syPerf m => trigWf m
  | .syIdle m => trigWf m
  | _ => true

end Sys2Proof
end

