-- ==== Sys2Proof/Decode.lean ====
section
/-! DEFINITION. Reading a bundle (R162 to R178): the header, the slots, the static checks with their causes, and the operation a
slot names; then the encoder of the same tables. Decoding is total: what breaks a rule is rejected under the name of its cause. -/

namespace Sys2Proof

/-- The illegal-encoding causes 0x01 to 0x0F, by name (R177). -/
inductive Illegal where
  | reservedTag | headerBits | readPort | writePort | writeConflict | destConflict | width | srcClass | dstClass
  | portCode | opcode | nest | longImm | scene | dock
  deriving DecidableEq, Repr

/-- The cause code of an illegal encoding (R177). -/
def illegalCode : Illegal → Nat
  | .reservedTag => 0x01 | .headerBits => 0x02 | .readPort => 0x03 | .writePort => 0x04 | .writeConflict => 0x05
  | .destConflict => 0x06 | .width => 0x07 | .srcClass => 0x08 | .dstClass => 0x09 | .portCode => 0x0A
  | .opcode => 0x0B | .nest => 0x0C | .longImm => 0x0D | .scene => 0x0E | .dock => 0x0F

/-- The fields of a slot (R165). -/
structure SlotFields where
  guard : BitVec 5
  opcode : BitVec 12
  dst : BitVec 15
  srcf : BitVec 16
  imm : BitVec 16
  deriving DecidableEq, Repr

def slotFields (w : BitVec 64) : SlotFields :=
  { guard := w.extractLsb' 59 5, opcode := w.extractLsb' 47 12, dst := w.extractLsb' 32 15,
    srcf := w.extractLsb' 16 16, imm := w.extractLsb' 0 16 }

/-- The header of a bundle (R163, R164): the allotted registers, `none` where a port is not allotted. -/
structure Header where
  tag : BitVec 4
  rd : Fin 4 → Option (Fin 128)
  wr : Fin 2 → Option (Fin 128)
  hold : Nat
  lend : Nat
  send : Bool

/-- An allotment byte (R163): bit 7 allots the port to the register in bits [6:0]. -/
def allotment (b : BitVec 8) : Option (Fin 128) :=
  if b.extractLsb' 7 1 = 1#1 then some (b.extractLsb' 0 7).toFin else none

/-- The header fields of R163. -/
def header (h : BitVec 64) : Header :=
  { tag := h.extractLsb' 0 4
    rd := fun n => allotment (h.extractLsb' (4 + 8 * n.val) 8)
    wr := fun n => allotment (h.extractLsb' (36 + 8 * n.val) 8)
    hold := (h.extractLsb' 52 4).toNat
    lend := (h.extractLsb' 56 3).toNat
    send := h.extractLsb' 59 1 = 1#1 }

/-- A guard field (R165): unconditional, a predicate, or a reserved value. -/
def decGuard (g : BitVec 5) : Option (Option (Fin 16)) :=
  if g = 0#5 then some none
  else if g.extractLsb' 4 1 = 1#1 then some (some (g.extractLsb' 0 4).toFin) else none

/-- A source field with its `imm16` (R166); none where the class, the detail bits or the unit and code are illegal. -/
def decSrc (f imm : BitVec 16) : Option Src :=
  let d := f.extractLsb' 0 12
  match (f.extractLsb' 12 4).toNat with
  | 0 => if d = 0 then some .zero else none
  | 1 => if d.extractLsb' 2 10 = 0 then some (.reg (d.extractLsb' 0 2).toFin) else none
  | 2 => match sockOfId (d.extractLsb' 6 6).toNat with
    | some u => if latchExists u (d.extractLsb' 0 6).toNat then some (.latch u (d.extractLsb' 0 6).toFin) else none
    | none => none
  | 3 => if d = 0 then some (.imm imm) else none
  | 4 => if d = 0 then some (.immHi imm) else none
  | 5 => if d.extractLsb' 1 11 = 0 then some (.long (d.extractLsb' 0 1 = 1#1)) else none
  | 6 => if d.extractLsb' 3 9 = 0 then
      (if h : (d.extractLsb' 0 3).toNat < 6 then some (.loopIdx ⟨(d.extractLsb' 0 3).toNat, h⟩) else none) else none
  | 7 => if d = 0 then some .gt else none
  | _ => none

/-- The operations of `sq` (R174). -/
def decSq (op : Nat) (m : Trig) : Option Instr :=
  match op with
  | 0x001 => some (.sqBr m)
  | 0x002 => some (.sqBrr m)
  | 0x003 => some (.sqCall m)
  | 0x004 => some (.sqCallx m)
  | 0x005 => some (.sqRet m)
  | 0x006 => some (.sqLoop m)
  | 0x007 => some (.sqLbrk m)
  | 0x008 => some (.sqLidx m)
  | 0x009 => some (.sqScene m)
  | 0x00A => some (.sqTrap m)
  | 0x00B => some (.sqIret m)
  | 0x00C => some (.sqIfence m)
  | 0x00D => some (.sqBrswap m)
  | 0x00E => some (.sqHalt m)
  | _ => none

/-- The plain operations of `xa` and `xb` (R174). -/
def decIntPlain (u : IntUnit) (op : Nat) (m : Trig) : Option Instr :=
  match op with
  | 0x001 => some (.xaAdd u m)
  | 0x002 => some (.xaSub u m)
  | 0x003 => some (.xaRsub u m)
  | 0x004 => some (.xaMul u m)
  | 0x005 => some (.xaMulh u m)
  | 0x006 => some (.xaMulhu u m)
  | 0x007 => some (.xaDiv u m)
  | 0x008 => some (.xaDivu u m)
  | 0x009 => some (.xaRem u m)
  | 0x00A => some (.xaRemu u m)
  | 0x00B => some (.xaMin u m)
  | 0x00C => some (.xaMax u m)
  | 0x00D => some (.xaMinu u m)
  | 0x00E => some (.xaMaxu u m)
  | 0x00F => some (.xaAbs u m)
  | 0x101 => some (.xaAnd u m)
  | 0x102 => some (.xaOr u m)
  | 0x103 => some (.xaXor u m)
  | 0x104 => some (.xaAndn u m)
  | 0x105 => some (.xaShl u m)
  | 0x106 => some (.xaShr u m)
  | 0x107 => some (.xaSra u m)
  | 0x108 => some (.xaRol u m)
  | 0x109 => some (.xaClz u m)
  | 0x10A => some (.xaCtz u m)
  | 0x10B => some (.xaPopc u m)
  | 0x10C => some (.xaSextB u m)
  | 0x10D => some (.xaSextH u m)
  | 0x10E => some (.xaBext u m)
  | 0x10F => some (.xaBins u m)
  | 0x110 => some (.xaPass u m)
  | _ => none

/-- The compares, by kind (R174, R202). -/
def decCmp (u : IntUnit) (kind : Nat) (pair : Fin 8) (m : Trig) : Option Instr :=
  match kind with
  | 0 => some (.xaCmpEq u pair m)
  | 1 => some (.xaCmpNe u pair m)
  | 2 => some (.xaCmpLt u pair m)
  | 3 => some (.xaCmpLe u pair m)
  | 4 => some (.xaCmpLtu u pair m)
  | 5 => some (.xaCmpLeu u pair m)
  | 6 => some (.xaTst u pair m)
  | _ => none

/-- The map of `xa` and `xb` (R174): plain operations, compares from 0x200, `sel` from 0x300. -/
def decInt (u : IntUnit) (op : BitVec 12) (m : Trig) : Option Instr :=
  if op.extractLsb' 6 6 = 0x08#6 then decCmp u (op.extractLsb' 3 3).toNat (op.extractLsb' 0 3).toFin m
  else if op.extractLsb' 4 8 = 0x30#8 then some (.xaSel u (op.extractLsb' 0 4).toFin m)
  else decIntPlain u op.toNat m

/-- The operations of `ag` (R174). -/
def decAg (op : Nat) (m : Trig) : Option Instr :=
  match op with
  | 0x001 => some (.agLea m)
  | 0x002 => some (.agGaddr m)
  | 0x003 => some (.agTileid m)
  | 0x004 => some (.agHome m)
  | 0x005 => some (.agStep m)
  | 0x006 => some (.agWrap m)
  | 0x010 => some (.agCbInit m)
  | 0x011 => some (.agCbWait m)
  | 0x012 => some (.agCbRoom m)
  | 0x013 => some (.agCbAdvp m)
  | 0x014 => some (.agCbAdvc m)
  | 0x015 => some (.agCbPos m)
  | 0x016 => some (.agCbPosp m)
  | 0x017 => some (.agCbFill m)
  | _ => none

/-- The `ls` operations of R174, by operation byte, with the alias class of R173. -/
def decLs (op : Nat) (cls : Fin 8) (m : Trig) : Option Instr :=
  match op with
  | 0x01 => some (.lsLdB cls m)
  | 0x02 => some (.lsLdBz cls m)
  | 0x03 => some (.lsLdH cls m)
  | 0x04 => some (.lsLdHz cls m)
  | 0x05 => some (.lsLdW cls m)
  | 0x06 => some (.lsStB cls m)
  | 0x07 => some (.lsStH cls m)
  | 0x08 => some (.lsStW cls m)
  | 0x20 => some (.lsAmoAdd cls m)
  | 0x21 => some (.lsAmoAnd cls m)
  | 0x22 => some (.lsAmoOr cls m)
  | 0x23 => some (.lsAmoXor cls m)
  | 0x24 => some (.lsAmoMin cls m)
  | 0x25 => some (.lsAmoMax cls m)
  | 0x26 => some (.lsAmoMinu cls m)
  | 0x27 => some (.lsAmoMaxu cls m)
  | 0x28 => some (.lsAmoSwap cls m)
  | 0x29 => some (.lsAmoCas cls m)
  | 0x2A => some (.lsAmoFadd cls m)
  | 0x2B => some (.lsAmoChunk cls m)
  | 0x40 => some (.lsAcq cls m)
  | 0x41 => some (.lsRel cls m)
  | 0x42 => some (.lsFence cls m)
  | 0x43 => some (.lsSwArm cls m)
  | 0x44 => some (.lsSwWait cls m)
  | 0x45 => some (.lsSwAdd cls m)
  | 0x46 => some (.lsSwRead cls m)
  | _ => none

/-- The operations of `vx` (R174). -/
def decVx (op : Nat) (m : Trig) : Option Instr :=
  match op with
  | 0x001 => some (.vxVadd m)
  | 0x002 => some (.vxVsub m)
  | 0x003 => some (.vxVmul m)
  | 0x004 => some (.vxVfma m)
  | 0x005 => some (.vxVfms m)
  | 0x006 => some (.vxVfnma m)
  | 0x007 => some (.vxVmin m)
  | 0x008 => some (.vxVmax m)
  | 0x009 => some (.vxVabs m)
  | 0x00A => some (.vxVneg m)
  | 0x00B => some (.vxVdiv m)
  | 0x00C => some (.vxVsqrt m)
  | 0x00D => some (.vxVrcp m)
  | 0x00E => some (.vxVrsqrt m)
  | 0x00F => some (.vxVexp2 m)
  | 0x010 => some (.vxVlog2 m)
  | 0x101 => some (.vxVaddi m)
  | 0x102 => some (.vxVsubi m)
  | 0x103 => some (.vxVmuli m)
  | 0x104 => some (.vxVand m)
  | 0x105 => some (.vxVor m)
  | 0x106 => some (.vxVxor m)
  | 0x107 => some (.vxVshl m)
  | 0x108 => some (.vxVshr m)
  | 0x109 => some (.vxVsra m)
  | 0x10A => some (.vxVmini m)
  | 0x10B => some (.vxVmaxi m)
  | 0x201 => some (.vxVcmpEq m)
  | 0x202 => some (.vxVcmpNe m)
  | 0x203 => some (.vxVcmpLt m)
  | 0x204 => some (.vxVcmpLe m)
  | 0x205 => some (.vxVcmpiEq m)
  | 0x206 => some (.vxVcmpiNe m)
  | 0x207 => some (.vxVcmpiLt m)
  | 0x208 => some (.vxVcmpiLe m)
  | 0x209 => some (.vxVsel m)
  | 0x20A => some (.vxMand m)
  | 0x20B => some (.vxMor m)
  | 0x20C => some (.vxMnot m)
  | 0x301 => some (.vxVcvt m)
  | 0x302 => some (.vxVscale m)
  | 0x303 => some (.vxVcvti m)
  | 0x401 => some (.vxVredsum m)
  | 0x402 => some (.vxVredmax m)
  | 0x403 => some (.vxVredmin m)
  | 0x404 => some (.vxVbcast m)
  | 0x405 => some (.vxVperm m)
  | 0x406 => some (.vxVrot m)
  | 0x407 => some (.vxVins m)
  | 0x408 => some (.vxVget m)
  | 0x409 => some (.vxVmov m)
  | 0x40A => some (.vxVout m)
  | 0x501 => some (.vxVld m)
  | 0x502 => some (.vxVst m)
  | 0x503 => some (.vxVgath m)
  | 0x504 => some (.vxVscat m)
  | 0x505 => some (.vxVldc m)
  | 0x506 => some (.vxVstc m)
  | _ => none

/-- The operations of `mx` (R174). -/
def decMx (op : Nat) (m : Trig) : Option Instr :=
  match op with
  | 0x001 => some (.mxCfg m)
  | 0x002 => some (.mxWload m)
  | 0x003 => some (.mxWloadx m)
  | 0x004 => some (.mxRun m)
  | 0x005 => some (.mxRunsp m)
  | 0x006 => some (.mxGrp m)
  | 0x007 => some (.mxSclr m)
  | 0x008 => some (.mxDrain m)
  | 0x009 => some (.mxDrainc m)
  | 0x00A => some (.mxScale m)
  | 0x00B => some (.mxCap m)
  | 0x00C => some (.mxPrio m)
  | 0x00D => some (.mxStat m)
  | 0x00E => some (.mxSwap m)
  | _ => none

/-- The `ch` operations of R174, by operation byte, with the completion action of R173. -/
def decCh (op : Nat) (act : Fin 4) (m : Trig) : Option Instr :=
  match op with
  | 0x01 => some (.chCopy act m)
  | 0x02 => some (.chCopyt act m)
  | 0x03 => some (.chCopyi act m)
  | 0x04 => some (.chExpand act m)
  | 0x05 => some (.chFill act m)
  | 0x06 => some (.chShadow act m)
  | 0x07 => if act = 0 then some (.chPublish m) else none
  | 0x08 => some (.chCrc act m)
  | 0x09 => if act = 0 then some (.chPbinv m) else none
  | 0x0A => if act = 0 then some (.chTlbinv m) else none
  | 0x0B => if act = 0 then some (.chTlbpin m) else none
  | 0x0C => if act = 0 then some (.chCancel m) else none
  | 0x0D => if act = 0 then some (.chStat m) else none
  | _ => none

/-- The operations of `nt` (R174). -/
def decNt (op : Nat) (m : Trig) : Option Instr :=
  match op with
  | 0x001 => some (.ntSend m)
  | 0x002 => some (.ntSendw m)
  | 0x003 => some (.ntPut m)
  | 0x004 => some (.ntPutb m)
  | 0x005 => some (.ntReduce m)
  | 0x006 => some (.ntBcast m)
  | 0x007 => some (.ntSpawn m)
  | 0x008 => some (.ntEvent m)
  | 0x009 => some (.ntMxcmd m)
  | 0x00A => some (.ntTree m)
  | 0x00B => some (.ntStat m)
  | 0x00C => some (.ntRedwait m)
  | _ => none

/-- The operations of `lm` (R174). -/
def decLm (op : Nat) (m : Trig) : Option Instr :=
  match op with
  | 0x001 => some (.lmBank m)
  | 0x002 => some (.lmTick m)
  | 0x003 => some (.lmFan m)
  | 0x004 => some (.lmLoad m)
  | 0x005 => some (.lmStore m)
  | 0x006 => some (.lmInject m)
  | 0x007 => some (.lmRead m)
  | 0x008 => some (.lmWrite m)
  | 0x009 => some (.lmRun m)
  | 0x00A => some (.lmStop m)
  | 0x00B => some (.lmDrain m)
  | 0x00C => some (.lmTie m)
  | 0x00D => some (.lmStat m)
  | _ => none

/-- The operations of `cq` (R174). -/
def decCq (op : Nat) (m : Trig) : Option Instr :=
  match op with
  | 0x001 => some (.cqProbe m)
  | 0x002 => some (.cqBook m)
  | 0x003 => some (.cqRelease m)
  | 0x004 => some (.cqExtend m)
  | 0x005 => some (.cqChain m)
  | 0x006 => some (.cqCompact m)
  | 0x007 => some (.cqDemote m)
  | 0x008 => some (.cqSlack m)
  | 0x009 => some (.cqQuery m)
  | _ => none

/-- The operations of `sy` (R174). -/
def decSy (op : Nat) (m : Trig) : Option Instr :=
  match op with
  | 0x001 => some (.syCsrr m)
  | 0x002 => some (.syCsrw m)
  | 0x003 => some (.syGtime m)
  | 0x004 => some (.syWaitgt m)
  | 0x005 => some (.syCurtain m)
  | 0x006 => some (.syCarrive m)
  | 0x007 => some (.syCwait m)
  | 0x008 => some (.syFumode m)
  | 0x009 => some (.syPbmark m)
  | 0x00A => some (.syEcall m)
  | 0x00B => some (.syYield m)
  | 0x00C => some (.syBrk m)
  | 0x00D => some (.syUsr m)
  | 0x00E => some (.syUsw m)
  | 0x00F => some (.syPerf m)
  | 0x010 => some (.syIdle m)
  | _ => none

/-- The opcode map of a socket (R173 to R175); `vx` 0x601 is encoded only by tag 0x1 (R170). -/
def decOp (u : Sock) (op : BitVec 12) (m : Trig) : Option Instr :=
  match u with
  | .sq => decSq op.toNat m
  | .xa => decInt .xa op m
  | .xb => decInt .xb op m
  | .ag => decAg op.toNat m
  | .ls => if op.extractLsb' 11 1 = 0#1 then decLs (op.extractLsb' 0 8).toNat (op.extractLsb' 8 3).toFin m else none
  | .vx => decVx op.toNat m
  | .mx => decMx op.toNat m
  | .ch => if op.extractLsb' 10 2 = 0#2 then decCh (op.extractLsb' 0 8).toNat (op.extractLsb' 8 2).toFin m else none
  | .nt => decNt op.toNat m
  | .lm => decLm op.toNat m
  | .cq => decCq op.toNat m
  | .sy => decSy op.toNat m

/-- A destination field of class 0, 1, 2 or 4 (R167); none for a trigger and for an illegal field. -/
def decDst (d : BitVec 15) : Option Dst :=
  let x := d.extractLsb' 0 12
  match (d.extractLsb' 12 3).toNat with
  | 0 => if x = 0 then some .none else none
  | 1 => if x.extractLsb' 1 11 = 0 then some (.wr (x.extractLsb' 0 1).toFin) else none
  | 2 => match sockOfId (x.extractLsb' 6 6).toNat with
    | some u => if h : (x.extractLsb' 0 6).toNat < 16 then
        (if (x.extractLsb' 0 6).toNat < sockPorts u then some (.port u ⟨_, h⟩) else none) else none
    | none => none
  | 4 => if x.extractLsb' 4 8 = 0 then some (.pred (x.extractLsb' 0 4).toFin) else none
  | _ => none

/-- What a legal slot is: a move, or the trigger of an operation. -/
inductive Item where
  | mv (m : Trig) (d : Dst)
  | op (i : Instr)
  deriving DecidableEq, Repr

/-- The item of a slot; none where some field is illegal. -/
def decItem (w : BitVec 64) : Option Item :=
  let f := slotFields w
  match decGuard f.guard, decSrc f.srcf f.imm with
  | some g, some s =>
    if f.dst.extractLsb' 12 3 = 3#3 then
      match sockOfId (f.dst.extractLsb' 6 6).toNat with
      | some u => if f.dst.extractLsb' 0 6 = 0#6 then (decOp u f.opcode ⟨g, s⟩).map .op else none
      | none => none
    else (decDst f.dst).map (.mv ⟨g, s⟩)
  | _, _ => none

/-! ### The static checks (R176 to R178) -/

/-- Where a bundle is checked: on a dock core or a tile, from the scene store or from instruction memory. -/
structure Place where
  dock : Bool
  scene : Bool
  deriving DecidableEq, Repr

/-- Width class of a source (R168), by what it names, whatever its other detail bits are: 0 constants, which pair with both widths; 1 other
narrow sources; 2 broad latches; none where it names nothing of a width: a reserved class, or a latch that no socket has. -/
def srcWidth (f : BitVec 16) : Option Nat :=
  match (f.extractLsb' 12 4).toNat with
  | 0 | 3 | 4 | 5 => some 0
  | 1 | 6 | 7 => some 1
  | 2 => (sockOfId (f.extractLsb' 6 6).toNat).bind fun u =>
      let c := (f.extractLsb' 0 6).toNat
      if latchExists u c then some (if latchBroad u c then 2 else 1) else none
  | _ => none

/-- Width class of a destination, in the same way: 0 none, 1 narrow, 2 broad. A trigger port is narrow. -/
def dstWidth (d : BitVec 15) : Option Nat :=
  match (d.extractLsb' 12 3).toNat with
  | 0 => some 0
  | 1 | 3 | 4 => some 1
  | 2 => match decDst d with
    | some (.port u c) => some (if portBroad u c.val then 2 else 1)
    | _ => none
  | _ => none

/-- The pairings of R168, for slot `k`. A destination without a width is judged by its source alone, and a source without one by its
destination: a broad latch fits no slot of 0 to 4; a narrow destination, and a narrow source that is no constant, fit neither 5 nor 6. -/
def widthOk (k : Nat) (f : BitVec 16) (d : BitVec 15) : Bool :=
  match srcWidth f, dstWidth d with
  | some s, some t =>
    if k ≤ 4 then (s ≤ 1 && t ≤ 1) || (s == 0 && t == 2)
    else (s == 2 && t != 1) || (s == 0 && t == 2) || (f.extractLsb' 12 4 = 0#4 && t == 0)
  | some s, none => if k ≤ 4 then s != 2 else s != 1
  | none, some t => k ≤ 4 || t != 1
  | none, none => true

/-- The causes one slot shows by itself (R163 to R175). -/
def slotCauses (p : Place) (h : Header) (tag1 : Bool) (k : Nat) (w : BitVec 64) : List Illegal :=
  let f := slotFields w
  let sc := (f.srcf.extractLsb' 12 4).toNat
  let sd := f.srcf.extractLsb' 0 12
  let dc := (f.dst.extractLsb' 12 3).toNat
  let dd := f.dst.extractLsb' 0 12
  let su := sockOfId (sd.extractLsb' 6 6).toNat
  let du := sockOfId (dd.extractLsb' 6 6).toNat
  (if sc == 1 && (h.rd (sd.extractLsb' 0 2).toFin).isNone then [.readPort] else []) ++
  (if dc == 1 && (h.wr (dd.extractLsb' 0 1).toFin).isNone then [.writePort] else []) ++
  (if tag1 && dc == 3 && du == some .vx then [.destConflict] else []) ++
  (if widthOk k f.srcf f.dst then [] else [.width]) ++
  (if (sc ≥ 8) || (sc != 2 && sc < 8 && (decSrc f.srcf f.imm).isNone) then [.srcClass] else []) ++
  (if dc ≥ 5 || ((dc == 0 || dc == 1 || dc == 4) && (decDst f.dst).isNone) || (dc == 3 && dd.extractLsb' 0 6 != 0#6) then [.dstClass] else []) ++
  (if (sc == 2 && (match su with
        | some u => !latchExists u (sd.extractLsb' 0 6).toNat
        | none => true)) ||
      (dc == 2 && (decDst f.dst).isNone) || (dc == 3 && du.isNone) then [.portCode] else []) ++
  (if (dc == 3 && (match du with
        | some u => (decOp u f.opcode ⟨none, .zero⟩).isNone && !(u == .vx && f.opcode == 0x601#12)
        | none => false)) ||
      (dc != 3 && f.opcode != 0) || (sc != 3 && sc != 4 && f.imm != 0) || (decGuard f.guard).isNone then [.opcode] else []) ++
  (if dc == 3 && du == some .vx && f.opcode == 0x601#12 then [.nest] else []) ++
  (if sc == 5 && h.tag != 2#4 then [.longImm] else []) ++
  (if p.scene && dc == 3 && du == some .sq && (f.opcode == 0x009#12 || f.opcode == 0x00D#12) then [.scene] else []) ++
  (if p.dock && ((sc == 2 && su.any dockLacks) || ((dc == 2 || dc == 3) && du.any dockLacks) ||
      (dc == 3 && du == some .sq && (f.opcode == 0x009#12 || f.opcode == 0x00D#12))) then [.dock] else [])

/-- The causes that lie in the header alone (R163, R164, R170). -/
def headerCauses (p : Place) (hw : BitVec 64) (h : Header) : List Illegal :=
  let badAllot := fun (b : BitVec 8) => b.extractLsb' 7 1 == 0#1 && b.extractLsb' 0 7 != 0#7
  (if hw.extractLsb' 60 4 != 0#4 || h.lend == 7 || badAllot (hw.extractLsb' 4 8) || badAllot (hw.extractLsb' 12 8) ||
      badAllot (hw.extractLsb' 20 8) || badAllot (hw.extractLsb' 28 8) || badAllot (hw.extractLsb' 36 8) ||
      badAllot (hw.extractLsb' 44 8) then [.headerBits] else []) ++
  (if (h.wr 0).isSome && h.wr 0 == h.wr 1 then [.writeConflict] else []) ++
  (if (h.send && !p.scene) || (p.scene && h.lend != 0) then [.scene] else []) ++
  (if p.dock && h.tag == 1#4 then [.dock] else [])

/-- Whether two slots name one destination, and the cause that gives (R177, causes 0x05 and 0x06). What names a write port, a predicate or a
trigger port names it whatever the remaining detail bits are. -/
def pairCause (v w : BitVec 64) : Option Illegal :=
  let d := (slotFields v).dst
  let e := (slotFields w).dst
  if d.extractLsb' 12 3 ≠ e.extractLsb' 12 3 then none
  else match (d.extractLsb' 12 3).toNat with
    | 1 => if d.extractLsb' 0 1 = e.extractLsb' 0 1 then some .writeConflict else none
    | 2 => if d = e ∧ (decDst d).isSome then some .destConflict else none
    | 3 => if d.extractLsb' 6 6 = e.extractLsb' 6 6 ∧ (sockOfId (d.extractLsb' 6 6).toNat).isSome then some .destConflict else none
    | 4 => if d.extractLsb' 0 4 = e.extractLsb' 0 4 then some .destConflict else none
    | _ => none

/-- The causes that the slots from `k` on show together, each with its lower slot. -/
def pairCauses : List (Nat × BitVec 64) → List (Illegal × Nat)
  | [] => []
  | (k, v) :: rest => rest.filterMap (fun kw => (pairCause v kw.2).map (·, k)) ++ pairCauses rest

/-- The element operations that R263 lists. -/
def nestOps : List (BitVec 12) :=
  [0x001#12, 0x002#12, 0x003#12, 0x004#12, 0x007#12, 0x008#12, 0x101#12, 0x102#12, 0x103#12, 0x10A#12, 0x10B#12]

/-- The loop nest of a tag 0x1 bundle (R171). -/
def nestOf (w : BundleBits) : Nest :=
  let n := w.extractLsb' 256 256
  { sat := n.extractLsb' 251 1 = 1#1, rnd := n.extractLsb' 248 3, efmt := n.extractLsb' 242 6, redm := n.extractLsb' 237 5,
    stride := n.extractLsb' 72 165, ext := n.extractLsb' 12 60, eop := n.extractLsb' 0 12 }

/-- The slots that are moves under a tag (R170). -/
def moveSlots (tag : BitVec 4) : List Nat :=
  if tag = 0#4 then [0, 1, 2, 3, 4, 5, 6] else if tag = 1#4 then [0, 1, 2] else if tag = 2#4 then [0, 1, 2, 3, 4, 5] else []

/-- Slot `k` of a bundle (R162). -/
def slotBits (w : BundleBits) (k : Nat) : BitVec 64 := w.extractLsb' (64 * k + 64) 64

/-- Every cause a bundle shows, with the slot recorded for it: the lowest slot that takes part, or 7 for the header alone. Of the loop nest,
the element opcode stands in slot 3 and bits [255:252] in slot 6 (R162, R171). -/
def bundleCauses (p : Place) (w : BundleBits) : List (Illegal × Nat) :=
  let hw := w.extractLsb' 0 64
  let h := header hw
  if h.tag.toNat ≥ 3 then [(.reservedTag, 7)]
  else
    let slots := (moveSlots h.tag).map fun k => (k, slotBits w k)
    (slots.flatMap fun kw => (slotCauses p h (h.tag == 1#4) kw.1 kw.2).map (·, kw.1)) ++ pairCauses slots ++
    (if h.tag = 1#4 ∧ (nestOf w).eop ∉ nestOps then [(.nest, 3)] else []) ++
    (if h.tag = 1#4 ∧ w.extractLsb' 508 4 ≠ 0#4 then [(.nest, 6)] else []) ++
    (headerCauses p hw h).map (·, 7)

/-- The lower of two faults: lowest cause, then lowest slot (R178). -/
def lowerCause (a b : Illegal × Nat) : Illegal × Nat :=
  if illegalCode b.1 < illegalCode a.1 ∨ (illegalCode b.1 = illegalCode a.1 ∧ b.2 < a.2) then b else a

/-- A bundle that passed every check: its header, its slots, and the loop nest of a tag 0x1 bundle. -/
structure Bundle where
  hdr : Header
  long : BitVec 64
  items : List (Nat × Item)

/-- Checks and reads a bundle (R176): the fault's cause and slot, or the bundle. DESIGN CHOICE (log 183): a fault of the loop nest's own operation is
recorded for slot 3, the first of those that hold it. -/
def decodeBundle (p : Place) (w : BundleBits) : Except (Illegal × Nat) Bundle :=
  match bundleCauses p w with
  | c :: cs => .error (cs.foldl lowerCause c)
  | [] =>
    let h := header (w.extractLsb' 0 64)
    .ok { hdr := h, long := slotBits w 6,
          items := ((moveSlots h.tag).filterMap fun k => (decItem (slotBits w k)).map (k, ·)) ++
            (if h.tag = 1#4 then [(3, .op (.vxVnest (nestOf w)))] else []) }

/-- The operation that one slot triggers, or the name of the first cause that rejects it; a slot that triggers nothing is
rejected under cause 0x0B's name, as it names no operation. -/
def decodeInstr (w : BitVec 64) : Except Illegal Instr :=
  let h : Header := { tag := 2#4, rd := fun _ => some 0, wr := fun _ => some 0, hold := 0, lend := 0, send := false }
  match slotCauses ⟨false, false⟩ h false 0 w with
  | c :: _ => .error c
  | [] => match decItem w with
    | some (.op i) => .ok i
    | _ => .error .opcode

/-! ### The encoder, from the same tables (R162 to R175) -/

/-- A guard as its field. -/
def encGuard : Option (Fin 16) → BitVec 5
  | none => 0#5
  | some n => 1#1 ++ BitVec.ofNat 4 n.val

/-- A source as its field and its `imm16`. -/
def encSrc : Src → BitVec 16 × BitVec 16
  | .zero => (0#16, 0#16)
  | .reg n => (1#4 ++ 0#10 ++ BitVec.ofNat 2 n.val, 0#16)
  | .latch u c => (2#4 ++ BitVec.ofNat 6 u.id ++ BitVec.ofNat 6 c.val, 0#16)
  | .imm v => (3#4 ++ 0#12, v)
  | .immHi v => (4#4 ++ 0#12, v)
  | .long b => (5#4 ++ 0#11 ++ (if b then 1#1 else 0#1), 0#16)
  | .loopIdx l => (6#4 ++ 0#9 ++ BitVec.ofNat 3 l.val, 0#16)
  | .gt => (7#4 ++ 0#12, 0#16)

/-- The fields of a slot as 64 bits (R165). -/
def encFields (f : SlotFields) : BitVec 64 := f.guard ++ f.opcode ++ f.dst ++ f.srcf ++ f.imm

/-- The socket, opcode and move of an operation (R173, R174); none for an event and for the loop nest, which has no slot. -/
def encOp : Instr → Option (Sock × BitVec 12 × Trig)
  | .sqBr m => some (.sq, 0x001#12, m)
  | .sqBrr m => some (.sq, 0x002#12, m)
  | .sqCall m => some (.sq, 0x003#12, m)
  | .sqCallx m => some (.sq, 0x004#12, m)
  | .sqRet m => some (.sq, 0x005#12, m)
  | .sqLoop m => some (.sq, 0x006#12, m)
  | .sqLbrk m => some (.sq, 0x007#12, m)
  | .sqLidx m => some (.sq, 0x008#12, m)
  | .sqScene m => some (.sq, 0x009#12, m)
  | .sqTrap m => some (.sq, 0x00A#12, m)
  | .sqIret m => some (.sq, 0x00B#12, m)
  | .sqIfence m => some (.sq, 0x00C#12, m)
  | .sqBrswap m => some (.sq, 0x00D#12, m)
  | .sqHalt m => some (.sq, 0x00E#12, m)
  | .xaAdd u m => some (u.sock, 0x001#12, m)
  | .xaSub u m => some (u.sock, 0x002#12, m)
  | .xaRsub u m => some (u.sock, 0x003#12, m)
  | .xaMul u m => some (u.sock, 0x004#12, m)
  | .xaMulh u m => some (u.sock, 0x005#12, m)
  | .xaMulhu u m => some (u.sock, 0x006#12, m)
  | .xaDiv u m => some (u.sock, 0x007#12, m)
  | .xaDivu u m => some (u.sock, 0x008#12, m)
  | .xaRem u m => some (u.sock, 0x009#12, m)
  | .xaRemu u m => some (u.sock, 0x00A#12, m)
  | .xaMin u m => some (u.sock, 0x00B#12, m)
  | .xaMax u m => some (u.sock, 0x00C#12, m)
  | .xaMinu u m => some (u.sock, 0x00D#12, m)
  | .xaMaxu u m => some (u.sock, 0x00E#12, m)
  | .xaAbs u m => some (u.sock, 0x00F#12, m)
  | .xaAnd u m => some (u.sock, 0x101#12, m)
  | .xaOr u m => some (u.sock, 0x102#12, m)
  | .xaXor u m => some (u.sock, 0x103#12, m)
  | .xaAndn u m => some (u.sock, 0x104#12, m)
  | .xaShl u m => some (u.sock, 0x105#12, m)
  | .xaShr u m => some (u.sock, 0x106#12, m)
  | .xaSra u m => some (u.sock, 0x107#12, m)
  | .xaRol u m => some (u.sock, 0x108#12, m)
  | .xaClz u m => some (u.sock, 0x109#12, m)
  | .xaCtz u m => some (u.sock, 0x10A#12, m)
  | .xaPopc u m => some (u.sock, 0x10B#12, m)
  | .xaSextB u m => some (u.sock, 0x10C#12, m)
  | .xaSextH u m => some (u.sock, 0x10D#12, m)
  | .xaBext u m => some (u.sock, 0x10E#12, m)
  | .xaBins u m => some (u.sock, 0x10F#12, m)
  | .xaPass u m => some (u.sock, 0x110#12, m)
  | .xaCmpEq u pair m => some (u.sock, 0x40#9 ++ BitVec.ofNat 3 pair.val, m)
  | .xaCmpNe u pair m => some (u.sock, 0x41#9 ++ BitVec.ofNat 3 pair.val, m)
  | .xaCmpLt u pair m => some (u.sock, 0x42#9 ++ BitVec.ofNat 3 pair.val, m)
  | .xaCmpLe u pair m => some (u.sock, 0x43#9 ++ BitVec.ofNat 3 pair.val, m)
  | .xaCmpLtu u pair m => some (u.sock, 0x44#9 ++ BitVec.ofNat 3 pair.val, m)
  | .xaCmpLeu u pair m => some (u.sock, 0x45#9 ++ BitVec.ofNat 3 pair.val, m)
  | .xaTst u pair m => some (u.sock, 0x46#9 ++ BitVec.ofNat 3 pair.val, m)
  | .xaSel u pn m => some (u.sock, 0x30#8 ++ BitVec.ofNat 4 pn.val, m)
  | .agLea m => some (.ag, 0x001#12, m)
  | .agGaddr m => some (.ag, 0x002#12, m)
  | .agTileid m => some (.ag, 0x003#12, m)
  | .agHome m => some (.ag, 0x004#12, m)
  | .agStep m => some (.ag, 0x005#12, m)
  | .agWrap m => some (.ag, 0x006#12, m)
  | .agCbInit m => some (.ag, 0x010#12, m)
  | .agCbWait m => some (.ag, 0x011#12, m)
  | .agCbRoom m => some (.ag, 0x012#12, m)
  | .agCbAdvp m => some (.ag, 0x013#12, m)
  | .agCbAdvc m => some (.ag, 0x014#12, m)
  | .agCbPos m => some (.ag, 0x015#12, m)
  | .agCbPosp m => some (.ag, 0x016#12, m)
  | .agCbFill m => some (.ag, 0x017#12, m)
  | .lsLdB cls m => some (.ls, 0#1 ++ BitVec.ofNat 3 cls.val ++ 0x01#8, m)
  | .lsLdBz cls m => some (.ls, 0#1 ++ BitVec.ofNat 3 cls.val ++ 0x02#8, m)
  | .lsLdH cls m => some (.ls, 0#1 ++ BitVec.ofNat 3 cls.val ++ 0x03#8, m)
  | .lsLdHz cls m => some (.ls, 0#1 ++ BitVec.ofNat 3 cls.val ++ 0x04#8, m)
  | .lsLdW cls m => some (.ls, 0#1 ++ BitVec.ofNat 3 cls.val ++ 0x05#8, m)
  | .lsStB cls m => some (.ls, 0#1 ++ BitVec.ofNat 3 cls.val ++ 0x06#8, m)
  | .lsStH cls m => some (.ls, 0#1 ++ BitVec.ofNat 3 cls.val ++ 0x07#8, m)
  | .lsStW cls m => some (.ls, 0#1 ++ BitVec.ofNat 3 cls.val ++ 0x08#8, m)
  | .lsAmoAdd cls m => some (.ls, 0#1 ++ BitVec.ofNat 3 cls.val ++ 0x20#8, m)
  | .lsAmoAnd cls m => some (.ls, 0#1 ++ BitVec.ofNat 3 cls.val ++ 0x21#8, m)
  | .lsAmoOr cls m => some (.ls, 0#1 ++ BitVec.ofNat 3 cls.val ++ 0x22#8, m)
  | .lsAmoXor cls m => some (.ls, 0#1 ++ BitVec.ofNat 3 cls.val ++ 0x23#8, m)
  | .lsAmoMin cls m => some (.ls, 0#1 ++ BitVec.ofNat 3 cls.val ++ 0x24#8, m)
  | .lsAmoMax cls m => some (.ls, 0#1 ++ BitVec.ofNat 3 cls.val ++ 0x25#8, m)
  | .lsAmoMinu cls m => some (.ls, 0#1 ++ BitVec.ofNat 3 cls.val ++ 0x26#8, m)
  | .lsAmoMaxu cls m => some (.ls, 0#1 ++ BitVec.ofNat 3 cls.val ++ 0x27#8, m)
  | .lsAmoSwap cls m => some (.ls, 0#1 ++ BitVec.ofNat 3 cls.val ++ 0x28#8, m)
  | .lsAmoCas cls m => some (.ls, 0#1 ++ BitVec.ofNat 3 cls.val ++ 0x29#8, m)
  | .lsAmoFadd cls m => some (.ls, 0#1 ++ BitVec.ofNat 3 cls.val ++ 0x2A#8, m)
  | .lsAmoChunk cls m => some (.ls, 0#1 ++ BitVec.ofNat 3 cls.val ++ 0x2B#8, m)
  | .lsAcq cls m => some (.ls, 0#1 ++ BitVec.ofNat 3 cls.val ++ 0x40#8, m)
  | .lsRel cls m => some (.ls, 0#1 ++ BitVec.ofNat 3 cls.val ++ 0x41#8, m)
  | .lsFence cls m => some (.ls, 0#1 ++ BitVec.ofNat 3 cls.val ++ 0x42#8, m)
  | .lsSwArm cls m => some (.ls, 0#1 ++ BitVec.ofNat 3 cls.val ++ 0x43#8, m)
  | .lsSwWait cls m => some (.ls, 0#1 ++ BitVec.ofNat 3 cls.val ++ 0x44#8, m)
  | .lsSwAdd cls m => some (.ls, 0#1 ++ BitVec.ofNat 3 cls.val ++ 0x45#8, m)
  | .lsSwRead cls m => some (.ls, 0#1 ++ BitVec.ofNat 3 cls.val ++ 0x46#8, m)
  | .vxVadd m => some (.vx, 0x001#12, m)
  | .vxVsub m => some (.vx, 0x002#12, m)
  | .vxVmul m => some (.vx, 0x003#12, m)
  | .vxVfma m => some (.vx, 0x004#12, m)
  | .vxVfms m => some (.vx, 0x005#12, m)
  | .vxVfnma m => some (.vx, 0x006#12, m)
  | .vxVmin m => some (.vx, 0x007#12, m)
  | .vxVmax m => some (.vx, 0x008#12, m)
  | .vxVabs m => some (.vx, 0x009#12, m)
  | .vxVneg m => some (.vx, 0x00A#12, m)
  | .vxVdiv m => some (.vx, 0x00B#12, m)
  | .vxVsqrt m => some (.vx, 0x00C#12, m)
  | .vxVrcp m => some (.vx, 0x00D#12, m)
  | .vxVrsqrt m => some (.vx, 0x00E#12, m)
  | .vxVexp2 m => some (.vx, 0x00F#12, m)
  | .vxVlog2 m => some (.vx, 0x010#12, m)
  | .vxVaddi m => some (.vx, 0x101#12, m)
  | .vxVsubi m => some (.vx, 0x102#12, m)
  | .vxVmuli m => some (.vx, 0x103#12, m)
  | .vxVand m => some (.vx, 0x104#12, m)
  | .vxVor m => some (.vx, 0x105#12, m)
  | .vxVxor m => some (.vx, 0x106#12, m)
  | .vxVshl m => some (.vx, 0x107#12, m)
  | .vxVshr m => some (.vx, 0x108#12, m)
  | .vxVsra m => some (.vx, 0x109#12, m)
  | .vxVmini m => some (.vx, 0x10A#12, m)
  | .vxVmaxi m => some (.vx, 0x10B#12, m)
  | .vxVcmpEq m => some (.vx, 0x201#12, m)
  | .vxVcmpNe m => some (.vx, 0x202#12, m)
  | .vxVcmpLt m => some (.vx, 0x203#12, m)
  | .vxVcmpLe m => some (.vx, 0x204#12, m)
  | .vxVcmpiEq m => some (.vx, 0x205#12, m)
  | .vxVcmpiNe m => some (.vx, 0x206#12, m)
  | .vxVcmpiLt m => some (.vx, 0x207#12, m)
  | .vxVcmpiLe m => some (.vx, 0x208#12, m)
  | .vxVsel m => some (.vx, 0x209#12, m)
  | .vxMand m => some (.vx, 0x20A#12, m)
  | .vxMor m => some (.vx, 0x20B#12, m)
  | .vxMnot m => some (.vx, 0x20C#12, m)
  | .vxVcvt m => some (.vx, 0x301#12, m)
  | .vxVscale m => some (.vx, 0x302#12, m)
  | .vxVcvti m => some (.vx, 0x303#12, m)
  | .vxVredsum m => some (.vx, 0x401#12, m)
  | .vxVredmax m => some (.vx, 0x402#12, m)
  | .vxVredmin m => some (.vx, 0x403#12, m)
  | .vxVbcast m => some (.vx, 0x404#12, m)
  | .vxVperm m => some (.vx, 0x405#12, m)
  | .vxVrot m => some (.vx, 0x406#12, m)
  | .vxVins m => some (.vx, 0x407#12, m)
  | .vxVget m => some (.vx, 0x408#12, m)
  | .vxVmov m => some (.vx, 0x409#12, m)
  | .vxVout m => some (.vx, 0x40A#12, m)
  | .vxVld m => some (.vx, 0x501#12, m)
  | .vxVst m => some (.vx, 0x502#12, m)
  | .vxVgath m => some (.vx, 0x503#12, m)
  | .vxVscat m => some (.vx, 0x504#12, m)
  | .vxVldc m => some (.vx, 0x505#12, m)
  | .vxVstc m => some (.vx, 0x506#12, m)
  | .mxCfg m => some (.mx, 0x001#12, m)
  | .mxWload m => some (.mx, 0x002#12, m)
  | .mxWloadx m => some (.mx, 0x003#12, m)
  | .mxRun m => some (.mx, 0x004#12, m)
  | .mxRunsp m => some (.mx, 0x005#12, m)
  | .mxGrp m => some (.mx, 0x006#12, m)
  | .mxSclr m => some (.mx, 0x007#12, m)
  | .mxDrain m => some (.mx, 0x008#12, m)
  | .mxDrainc m => some (.mx, 0x009#12, m)
  | .mxScale m => some (.mx, 0x00A#12, m)
  | .mxCap m => some (.mx, 0x00B#12, m)
  | .mxPrio m => some (.mx, 0x00C#12, m)
  | .mxStat m => some (.mx, 0x00D#12, m)
  | .mxSwap m => some (.mx, 0x00E#12, m)
  | .chCopy act m => some (.ch, 0#2 ++ BitVec.ofNat 2 act.val ++ 0x01#8, m)
  | .chCopyt act m => some (.ch, 0#2 ++ BitVec.ofNat 2 act.val ++ 0x02#8, m)
  | .chCopyi act m => some (.ch, 0#2 ++ BitVec.ofNat 2 act.val ++ 0x03#8, m)
  | .chExpand act m => some (.ch, 0#2 ++ BitVec.ofNat 2 act.val ++ 0x04#8, m)
  | .chFill act m => some (.ch, 0#2 ++ BitVec.ofNat 2 act.val ++ 0x05#8, m)
  | .chShadow act m => some (.ch, 0#2 ++ BitVec.ofNat 2 act.val ++ 0x06#8, m)
  | .chPublish m => some (.ch, 0x007#12, m)
  | .chCrc act m => some (.ch, 0#2 ++ BitVec.ofNat 2 act.val ++ 0x08#8, m)
  | .chPbinv m => some (.ch, 0x009#12, m)
  | .chTlbinv m => some (.ch, 0x00A#12, m)
  | .chTlbpin m => some (.ch, 0x00B#12, m)
  | .chCancel m => some (.ch, 0x00C#12, m)
  | .chStat m => some (.ch, 0x00D#12, m)
  | .ntSend m => some (.nt, 0x001#12, m)
  | .ntSendw m => some (.nt, 0x002#12, m)
  | .ntPut m => some (.nt, 0x003#12, m)
  | .ntPutb m => some (.nt, 0x004#12, m)
  | .ntReduce m => some (.nt, 0x005#12, m)
  | .ntBcast m => some (.nt, 0x006#12, m)
  | .ntSpawn m => some (.nt, 0x007#12, m)
  | .ntEvent m => some (.nt, 0x008#12, m)
  | .ntMxcmd m => some (.nt, 0x009#12, m)
  | .ntTree m => some (.nt, 0x00A#12, m)
  | .ntStat m => some (.nt, 0x00B#12, m)
  | .ntRedwait m => some (.nt, 0x00C#12, m)
  | .lmBank m => some (.lm, 0x001#12, m)
  | .lmTick m => some (.lm, 0x002#12, m)
  | .lmFan m => some (.lm, 0x003#12, m)
  | .lmLoad m => some (.lm, 0x004#12, m)
  | .lmStore m => some (.lm, 0x005#12, m)
  | .lmInject m => some (.lm, 0x006#12, m)
  | .lmRead m => some (.lm, 0x007#12, m)
  | .lmWrite m => some (.lm, 0x008#12, m)
  | .lmRun m => some (.lm, 0x009#12, m)
  | .lmStop m => some (.lm, 0x00A#12, m)
  | .lmDrain m => some (.lm, 0x00B#12, m)
  | .lmTie m => some (.lm, 0x00C#12, m)
  | .lmStat m => some (.lm, 0x00D#12, m)
  | .cqProbe m => some (.cq, 0x001#12, m)
  | .cqBook m => some (.cq, 0x002#12, m)
  | .cqRelease m => some (.cq, 0x003#12, m)
  | .cqExtend m => some (.cq, 0x004#12, m)
  | .cqChain m => some (.cq, 0x005#12, m)
  | .cqCompact m => some (.cq, 0x006#12, m)
  | .cqDemote m => some (.cq, 0x007#12, m)
  | .cqSlack m => some (.cq, 0x008#12, m)
  | .cqQuery m => some (.cq, 0x009#12, m)
  | .syCsrr m => some (.sy, 0x001#12, m)
  | .syCsrw m => some (.sy, 0x002#12, m)
  | .syGtime m => some (.sy, 0x003#12, m)
  | .syWaitgt m => some (.sy, 0x004#12, m)
  | .syCurtain m => some (.sy, 0x005#12, m)
  | .syCarrive m => some (.sy, 0x006#12, m)
  | .syCwait m => some (.sy, 0x007#12, m)
  | .syFumode m => some (.sy, 0x008#12, m)
  | .syPbmark m => some (.sy, 0x009#12, m)
  | .syEcall m => some (.sy, 0x00A#12, m)
  | .syYield m => some (.sy, 0x00B#12, m)
  | .syBrk m => some (.sy, 0x00C#12, m)
  | .syUsr m => some (.sy, 0x00D#12, m)
  | .syUsw m => some (.sy, 0x00E#12, m)
  | .syPerf m => some (.sy, 0x00F#12, m)
  | .syIdle m => some (.sy, 0x010#12, m)
  | _ => none

/-- The slot that triggers an operation (R165, R167). -/
def encodeSlot (i : Instr) : Option (BitVec 64) :=
  (encOp i).map fun x =>
    encFields { guard := encGuard x.2.2.guard, opcode := x.2.1, dst := 3#3 ++ BitVec.ofNat 6 x.1.id ++ 0#6,
                srcf := (encSrc x.2.2.src).1, imm := (encSrc x.2.2.src).2 }

/-- The 256 bits of a loop nest (R171). -/
def encNest (n : Nest) : BitVec 256 :=
  0#4 ++ (if n.sat then 1#1 else 0#1) ++ n.rnd ++ n.efmt ++ n.redm ++ n.stride ++ n.ext ++ n.eop

/-- A bundle that holds only a loop nest (R170). -/
def nestBundle (n : Nest) : BundleBits := encNest n ++ 0#192 ++ 1#64

/-- The words of an instruction: the slot of an operation, the bundle of a loop nest, the bundle a BUNDLE_ISSUE carries; an
event of the device has no words. -/
def encode (i : Instr) : List (BitVec 64) :=
  match i with
  | .bundleIssue _ w => (List.range 8).map fun k => w.extractLsb' (64 * k) 64
  | .vxVnest n => (List.range 8).map fun k => (nestBundle n).extractLsb' (64 * k) 64
  | i => (encodeSlot i).toList

/-- Eight words as a bundle, the first lowest (R162). -/
def bundleOfWords (ws : List (BitVec 64)) : BundleBits :=
  ws.foldr (fun w acc => (acc <<< 64) ||| w.setWidth 512) 0#512

/-- Reads the words of an instruction back: one word is a slot, eight words are a bundle; a bundle that holds a loop nest and
nothing else is the nest, and any other is issued as a bundle of tile 0. -/
def decode (ws : List (BitVec 64)) : Option Instr :=
  match ws with
  | [w] => (decodeInstr w).toOption
  | [_, _, _, _, _, _, _, _] =>
    let w := bundleOfWords ws
    if w = nestBundle (nestOf w) then some (.vxVnest (nestOf w)) else some (.bundleIssue 0 w)
  | _ => none

/-- The instruction read from the low `nbits` bits of `w`: a slot where they fit 64 bits, else a bundle. -/
def decodeTableWord (nbits w : Nat) : Option Instr :=
  if nbits ≤ 64 then decode [BitVec.ofNat 64 w]
  else decode ((List.range 8).map fun k => BitVec.ofNat 64 (w / 2 ^ (64 * k)))

end Sys2Proof
end

