-- ==== Sys2Proof/Machine/Operands.lean ====
section
/-! DEFINITION. Operands and results: sources and destinations of moves (R145, R164 to R168), results in flight and their landing
(R146 to R150), and what an operation answers when it is triggered. -/

namespace Sys2Proof.Machine

/-! ### Sources and destinations -/

/-- A loop index; a level that is not open reads 0 (R166). -/
def loopIdxOf (q : Seq) (l : Nat) : Word := if l < q.depth then (kget {} q.loops l).idx else 0

/-- The value that a source delivers at the start of the issue cycle (R145, R166). Narrow values stand in the low 32 bits. -/
def srcVal (s : State) (a : Nat) : Src → Row
  | .zero => 0
  | .reg n => rowOf (match (header s.cur.hdr).rd n with
    | some r => gReg s a r.val
    | none => 0)
  | .latch u c => (latchOf s a u c.val).val
  | .imm v => rowOf (v.signExtend 32)
  | .immHi v => rowOf (v ++ 0#16 : BitVec 32)
  | .long hi => rowOf (if hi then s.cur.long.extractLsb' 32 32 else s.cur.long.extractLsb' 0 32)
  | .loopIdx l => rowOf (loopIdxOf (bk s a).q l.val)
  | .gt => rowOf (wd (gtOf s))

/-- A 32-bit value copied into all 64 lanes of a broad port (R168). -/
def splat (w : Word) : Row :=
  let r2 := (w ++ w : BitVec 64)
  let r4 := (r2 ++ r2 : BitVec 128)
  let r8 := (r4 ++ r4 : BitVec 256)
  let r16 := (r8 ++ r8 : BitVec 512)
  let r32 := (r16 ++ r16 : BitVec 1024)
  (r32 ++ r32 : Row)

/-- Whether a source is a broad latch. -/
def srcBroad : Src → Bool
  | .latch u c => latchBroad u c.val
  | _ => false

/-- The value that a port takes from a move (R168). -/
def portVal (u : Sock) (code : Nat) (m : Trig) (v : Row) : Row :=
  if portBroad u code && !srcBroad m.src then splat (lowW v) else v

/-- Whether a slot takes effect: its guard reads its predicate at the start of the cycle (R145, R165). -/
def guardOn (s : State) (a : Nat) (m : Trig) : Bool :=
  match m.guard with
  | none => true
  | some n => predOf (bk s a) n.val

/-! ### What an operation answers -/

/-- Why a bundle is held, by what the cycle is charged to (R67, R319). -/
inductive Hold where
  /-- a lock stall (R147, R150) -/
  | lock
  | handle
  | sync
  | curtain
  /-- a log-full stall or a replay wait (R113, R119) -/
  | log
  | spawn
  /-- a resource that another step's booking or an aged reservation keeps (R53, R66) -/
  | booked (rid : Nat)
  /-- a wait that is charged to nothing: `sy.waitgt`, `sy.idle`, a line that is being fetched -/
  | quiet
  deriving DecidableEq, Repr

/-- Where and how an operation is triggered: the agent, the value moved to `t`, the slot. -/
structure OpCtx where
  a : Nat
  t : Word
  slot : Nat

/-- The answer of an operation to its trigger: its effect on the state in which the bundle's operand ports are written; or it
holds its bundle; or it faults, and its bundle does not issue. -/
inductive OpOut where
  | go (f : State → State)
  /-- an effect that comes at the end of the issue cycle, after the others of its bundle (R148, R314) -/
  | late (f : State → State)
  | hold (k : Hold)
  | fault (cause : Nat) (addr : Option Word)
  /-- a fault that lies in the header: slot 7 is recorded (R188) -/
  | fault7 (cause : Nat)

/-- The meaning of an operation. -/
abbrev OpFn := OpCtx → State → OpOut

/-! ### Results in flight -/

/-- Results of a latch triggered and not yet landed (R147). DESIGN CHOICE (log 146): those of the interrupted step, which land in an understudy,
do not count for its handler. -/
def inFlight (s : State) (a : Nat) (u : Sock) (code : Nat) : Nat :=
  ((bk s a).x.flights.filter fun f => f.u == u && f.code == code && !f.pre).length

/-- Whether a trigger to the socket must hold: within the occupancy of an earlier operation, or the pipeline is stopped (R147, R150). -/
def sockHeld (s : State) (a : Nat) (u : Sock) : Bool :=
  decide (s.now < kget 0 (bk s a).x.busy u.id) || (kget none (bk s a).x.stopped u.id).isSome

/-- Puts a result in flight in a mode that has been chosen (R148), due at `due`; `none` is a reply whose latency is not promised. -/
def flyMode (s : State) (a : Nat) (u : Sock) (code id : Nat) (due : Option Nat) (v : Row) (locked : Bool) : State :=
  let s := modX s a fun x => { x with flights := x.flights ++ [{ id := id, u := u, code := code, due := due, val := v, locked := locked, pre := false }] }
  match due with
  | some d => sched s d priLand .resultLanding (.unit a u)
  | none => s

/-- Puts a result in flight in the mode of the issue cycle (R148). -/
def flyId (s : State) (a : Nat) (u : Sock) (code id : Nat) (due : Option Nat) (v : Row) : State :=
  flyMode s a u code id due v (lockedMode s a u)

/-- A result of latency `lat` in latch `code` (R146). -/
def fly (s : State) (a : Nat) (u : Sock) (code lat : Nat) (v : Row) : State := flyId s a u code 0 (some (s.now + lat)) v

/-- A register write of latency `lat` (R153). -/
def pend (s : State) (a : Nat) (u : Sock) (id : Nat) (due : Option Nat) (w : RegWrite) : State :=
  let s := modX s a fun x => { x with pends := x.pends ++ [{ id := id, u := u, due := due, w := w }] }
  match due with
  | some d => sched s d priLand .resultLanding (.unit a u)
  | none => s

/-- Occupies a socket for `n` cycles from this one (R147). -/
def occupy (s : State) (a : Nat) (u : Sock) (n : Nat) : State :=
  modX s a fun x => { x with busy := kset 0 x.busy u.id (s.now + n) }

/-- An operation that delivers one result of latency `lat` to `q0` and goes on to `k`; it holds while its socket is occupied or
its latch has 32 results in flight (R147). -/
def result (x : OpCtx) (s : State) (u : Sock) (lat : Nat) (v : Word) (k : State → State := id) : OpOut :=
  if sockHeld s x.a u || decide (32 ≤ inFlight s x.a u 0x20) then .hold .lock
  else .go fun t => k (fly t x.a u 0x20 lat (rowOf v))

/-- The same with two narrow results, to `q0` and `q1`. -/
def result2 (x : OpCtx) (s : State) (u : Sock) (lat : Nat) (v w : Word) (k : State → State := id) : OpOut :=
  if sockHeld s x.a u || decide (32 ≤ inFlight s x.a u 0x20) || decide (32 ≤ inFlight s x.a u 0x21) then .hold .lock
  else .go fun t => k (fly (fly t x.a u 0x20 lat (rowOf v)) x.a u 0x21 lat (rowOf w))

/-- An operation without a result. -/
def effect (x : OpCtx) (s : State) (u : Sock) (k : State → State) : OpOut :=
  if sockHeld s x.a u then .hold .lock else .go k

/-! ### Landing (R146, R149 to R151, R153, R169) -/

/-- A register write in its due cycle. A compare's predicates land as a pair (R202). -/
def applyWrite (b : Bank) : RegWrite → Bank
  | .preds k c =>
    let e := 2 * k.val
    let p := b.p &&& ~~~(3#16 <<< e)
    { b with p := p ||| ((if c then 1#16 else 2#16) <<< e) }
  | .vreg n v => { b with v := kset 0 b.v n v }
  | .mask n v => { b with m := kset 0 b.m n v }

/-- Whether a due cycle has come. -/
def dueBy (now : Nat) : Option Nat → Bool
  | some d => d ≤ now
  | none => false

/-- One result lands, or waits and stops its socket's pipeline, or is captured for the interrupted step. DESIGN CHOICE (log 146): a
free-running result that lands in a full latch leaves it full. DESIGN CHOICE (log 167): of two data-locked results of one socket that are due in one
latch in one cycle, the earlier trigger's lands and the later one's waits. -/
def landOne (x : Xport) (now : Nat) (f : Flight) : Xport :=
  let k := pk f.u f.code
  if f.pre then { x with under := captureOne x.under x.t0 f (f.due.getD now) }
  else if (kget none x.stopped f.u.id).isSome then { x with flights := x.flights ++ [f] }
  else
    let l := kget {} x.latches k
    if f.locked && l.full then
      { x with stopped := kset none x.stopped f.u.id (some (f.code, f.due.getD now)), flights := x.flights ++ [f] }
    else { x with latches := kset {} x.latches k { val := f.val, full := f.locked || l.full }, landed := (l, f) :: x.landed }

/-- A flight put after those that are due no later. -/
def insertFlight (f : Flight) : List Flight → List Flight
  | [] => [f]
  | g :: gs => if g.due.getD 0 ≤ f.due.getD 0 then g :: insertFlight f gs else f :: g :: gs

/-- A register write that lands by this cycle: it is due, and its socket's pipeline has not stopped before (R150, R153). -/
def pendLands (x : Xport) (now : Nat) (p : Pend) : Bool :=
  dueBy now p.due && (match kget none x.stopped p.u.id with
    | some w => dueBy w.2 p.due
    | none => true)

/-- Every register write of the step that is due by this cycle, of whatever unit, in the order of the triggers: of two writes of one cycle to one
register, the later trigger's, and so the higher slot's, remains (R169, R202). -/
def landWrites (b : Bank) (now : Nat) : Bank :=
  (b.x.pends.filter (pendLands b.x now)).foldl (fun b p => applyWrite b p.w)
    { b with x := { b.x with pends := b.x.pends.filter fun p => !pendLands b.x now p } }

/-- Everything of a socket that is due by this cycle lands, in the order of due cycles and then of triggers, and with it the register writes of
the cycle. -/
def landUnit (b : Bank) (now : Nat) (u : Sock) : Bank :=
  let x := b.x
  let mine := fun (f : Flight) => f.u == u && dueBy now f.due && (f.pre || (kget none x.stopped u.id).isNone)
  let due := (x.flights.filter mine).foldl (fun l f => insertFlight f l) []
  landWrites { b with x := due.foldl (fun x f => landOne x now f) { x with flights := x.flights.filter fun f => !mine f } } now

/-- A bundle issued in this cycle read a latch: its full bit clears, and a result that waited for it lands in the next cycle with
every result behind it as much later (R150). -/
def readLatch (s : State) (a : Nat) (u : Sock) (code : Nat) : State :=
  let k := pk u code
  let s := modX s a fun x => { x with latches := kmod {} x.latches k fun l => { l with full := false } }
  match kget none (bk s a).x.stopped u.id with
  | some (c, _) =>
    if c = code then schedLandings (modX s a fun x => unstop x u (s.now + 1)) a u else s
  | none => s

/-- Whether a source holds its bundle: a latch that is not full while a data-locked result for it is in flight (R150). -/
def latchHeld (s : State) (a : Nat) : Src → Bool
  | .latch u c => !(latchOf s a u c.val).full &&
      (bk s a).x.flights.any fun f => f.u == u && f.code == c.val && f.locked && !f.pre
  | _ => false

/-- Changes both banks' transport state: an operation in flight belongs to the bank of its step. -/
def modBothX (s : State) (a : Nat) (f : Xport → Xport) : State :=
  modAg s a fun g => { g with front := { g.front with x := f g.front.x }, wings := { g.wings with x := f g.wings.x } }

def schedAll (s : State) (a : Nat) : State := (sockets a).foldl (fun s u => schedLandings s a u) s

/-- Numbers the results of operation `id` from 0 and changes each. -/
def mapResults (id : Nat) (f : Nat → Flight → Flight) (fl : List Flight) : List Flight :=
  (fl.foldl (fun (acc : List Flight × Nat) g => if g.id = id then (acc.1 ++ [f acc.2 g], acc.2 + 1) else (acc.1 ++ [g], acc.2)) ([], 0)).1

/-- The answer of a home reaches operation `id`: result k becomes due k cycles later, with the value the answer carries (R214, R215);
its register writes now. -/
def fillReply (s : State) (a id : Nat) (vals : List (Nat × Row)) : State :=
  schedAll (modBothX s a fun x =>
    { x with flights := mapResults id (fun k f => { f with due := some (f.due.getD (s.now + k)), val := kget f.val vals k }) x.flights,
             pends := x.pends.map fun p => if p.id = id then { p with due := some (p.due.getD s.now) } else p }) a

/-- Sets the values of results of operation `id` as its access is performed (R214, R215). -/
def setResult (s : State) (a id : Nat) (vals : List (Nat × Row)) : State :=
  modBothX s a fun x => { x with flights := mapResults id (fun k f => { f with val := kget f.val vals k }) x.flights }

/-- Changes the vector register write of operation `id`, as its access is performed (R259, R260). -/
def setVector (s : State) (a id : Nat) (f : Row → Row) : State :=
  modBothX s a fun x => { x with pends := x.pends.map fun p => if p.id = id then { p with w := (match p.w with
    | .vreg n v => .vreg n (f v)
    | w => w) } else p }

/-- An access that had to wait `d` cycles more than was planned: its results are that much later. -/
def delayResult (s : State) (a id d : Nat) : State :=
  if id = 0 then s
  else schedAll (modBothX s a fun x =>
    { x with flights := x.flights.map fun f => if f.id = id then { f with due := f.due.map (· + d) } else f,
             pends := x.pends.map fun p => if p.id = id then { p with due := p.due.map (· + d) } else p }) a

/-- The results of an operation that its home refuses do not fall due; they stay in flight until the refusal reaches the tile (R216). -/
def stallResults (s : State) (a id : Nat) : State :=
  modBothX s a fun x =>
    { x with flights := x.flights.map fun f => if f.id = id then { f with due := none } else f,
             pends := x.pends.map fun p => if p.id = id then { p with due := none } else p }

/-- The results of a refused operation never land (R216). -/
def dropResults (s : State) (a id : Nat) : State :=
  modBothX s a fun x => { x with flights := x.flights.filter (·.id ≠ id), pends := x.pends.filter (·.id ≠ id) }

end Sys2Proof.Machine
end

