-- ==== Sys2Proof/Machine/Handles.lean ====
section
/-! DEFINITION. Circular-buffer handles (R206 to R212). -/

namespace Sys2Proof.Machine

/-- The fields of a handle (R206). -/
def hCons (h : BitVec 128) : Word := h.extractLsb' 96 32
def hProd (h : BitVec 128) : Word := h.extractLsb' 64 32
def hValid (h : BitVec 128) : Bool := h.getLsbD 63
def hPhandle (h : BitVec 128) : Nat := (h.extractLsb' 54 4).toNat
def hPeer (h : BitVec 128) : Nat := (h.extractLsb' 42 12).toNat
def hCls (h : BitVec 128) : Nat := (h.extractLsb' 39 3).toNat
def hRole (h : BitVec 128) : Nat := (h.extractLsb' 37 2).toNat
def hLsize (h : BitVec 128) : Nat := (h.extractLsb' 32 5).toNat
def hBase (h : BitVec 128) : Nat := (h.extractLsb' 0 32).toNat
def hSize (h : BitVec 128) : Nat := 2 ^ hLsize h

def setHProd (h : BitVec 128) (v : Word) : BitVec 128 := h.extractLsb' 96 32 ++ v ++ h.extractLsb' 0 64
def setHCons (h : BitVec 128) (v : Word) : BitVec 128 := v ++ h.extractLsb' 0 96

/-- The checks of R207 on a handle's fields. -/
def handleFieldsOk (base lsize role : Nat) : Bool :=
  role != 3 && decide (6 ≤ lsize) && decide (lsize ≤ 20) && base % 64 == 0 && inData base (2 ^ lsize)

def hMalformed (h : BitVec 128) : Bool := hValid h && !handleFieldsOk (hBase h) (hLsize h) (hRole h)

/-- Count filled and room, from the side's own view (R208). -/
def hFilled (h : BitVec 128) : Nat := (hProd h - hCons h).toNat
def hRoom (h : BitVec 128) : Nat := (wd (hSize h) - (hProd h - hCons h)).toNat

/-- The address of a position in the buffer. -/
def hAt (h : BitVec 128) (pos : Word) : Nat := hBase h + pos.toNat % hSize h

/-- The cause with which an operation on a handle faults at its trigger: malformed (0x2A), invalid or of the wrong role (0x28)
(R206, R212). -/
def handleCause (h : BitVec 128) (roles : List Nat) : Option Nat :=
  if hMalformed h then some 0x2A else if !hValid h || !roles.contains (hRole h) then some 0x28 else none

/-- The number of a handle in t[3:0], with t[31:4] zero (R206). -/
def handleNo (t : Word) : Option Nat := if t.toNat < 16 then some t.toNat else none

/-- Sends a position to the peer's handle, for step `k` (R208). A local handle has no peer. -/
def sendUpdate (s : State) (a : Nat) (k : StepKey) (h : BitVec 128) (prod : Bool) (v : Word) : State :=
  if hRole h = 0 then s
  else
    let s := stepUses s a 0 k (routeUses a (hPeer h) (s.now + 1))
    let r := pathArrival s a (hPeer h) (16 + hPhandle h) (s.now + 1) (stepBooked s a k)
    sched r.2 r.1 priLand .handleUpdateArrival (.handle (hPeer h) ⟨hPhandle h % 16, Nat.mod_lt _ (by decide)⟩ prod v)

/-- A step's push of `n` bytes into handle `h` of agent `a`, which `put` holds: `prod` advances, the push is journalled where the step journals, and
the peer is told (R121, R210). A push that a restarted step's journal holds moves the own position and is otherwise suppressed; one that does not
match it faults (R123). -/
def pushStep (s : State) (a : Nat) (k : StepKey) (slot : Nat) (org : Org) (h : BitVec 128) (n : Nat) (put : State → BitVec 128 → State) : State :=
  let p := hProd h + wd n
  let o := objSram (hBase h)
  match effectOf s k 0x2A o with
  | .again v => put (countEffect s k) (setHProd h (wd v))
  | .bad => deferFault s a { cause := 0x63, addr := hBase h, org := org, id := 0, step := some k } (s.now + 1)
  | .fresh =>
    let e := takeEffect (put s (setHProd h p)) k
    sendUpdate (journalAs e.2 slot a k e.1 0x2A 0 o p.toNat) a k h true p

/-- Whether a push must wait for the ring (R113). -/
def pushHeld (s : State) (k : StepKey) (h : BitVec 128) : Bool :=
  journalHeld s k && (match effectOf s k 0x2A (objSram (hBase h)) with
    | .fresh => true
    | _ => false)

/-- Advances a handle's own `prod` by `n` and tells the peer; not a push that is journalled (R308). -/
def advanceProd (s : State) (a hn n : Nat) : State :=
  let h := hReg s a hn
  sendUpdate (setH s a hn (setHProd h (hProd h + wd n))) a (stepOf s a) h true (hProd h + wd n)

/-- The push of the running step into one of its handles. -/
def pushHandle (s : State) (a hn : Nat) (n : Nat) : State :=
  match (bk s a).run with
  | none => advanceProd s a hn n
  | some r => pushStep s a r.key r.slot (orgOf s a 7) (hReg s a hn) n fun s h => setH s a hn h

/-- Advances a handle's own `cons` by `n` and tells the peer (R210). -/
def popHandle (s : State) (a hn : Nat) (n : Nat) : State :=
  let h := hReg s a hn
  let c := hCons h + wd n
  sendUpdate (setH s a hn (setHCons h c)) a (stepOf s a) h false c

/-- A peer's update reaches a handle: it is taken only if it moves the copy forward, and a malformed handle discards it (R206, R208).
DESIGN CHOICE (log 189): an uninitialised handle discards it too.
A producer's update into the handle that `imsg` watches pends the message interrupt (R316, R321). -/
def takeUpdate (s : State) (a hn : Nat) (prod : Bool) (v : Word) : State :=
  let h := hReg s a hn
  if !hValid h || hMalformed h then s
  else if prod then
    if (v - hProd h).sle 0#32 then s
    else
      let s := setH s a hn (setHProd h v)
      let c := (bk s a).c
      if c.imsg.getLsbD 4 && (c.imsg.extractLsb' 0 4).toNat == hn then
        modC s a fun c => { c with ipend := c.ipend ||| 2#4 }
      else s
  else if (v - hCons h).sle 0#32 then s else setH s a hn (setHCons h v)

end Sys2Proof.Machine
end

