-- ==== Sys2Proof/Machine/Issue.lean ====
section
/-! DEFINITION. The issue of one bundle (R145, R150, R176): its sources are read, its operand ports written, every trigger
answers; then it issues whole, or is held for a cycle, or faults and does not issue. -/

namespace Sys2Proof.Machine

/-- A move of a bundle that triggers nothing: slot, move, destination. -/
structure Mv where
  slot : Nat
  m : Trig
  d : Dst
  deriving DecidableEq, Repr

/-- A trigger of a bundle: slot, move, and the operation's meaning. -/
structure Tr where
  slot : Nat
  m : Trig
  f : OpFn

/-- What a loop-end mark does when its bundle would issue (R188, R190): nothing to do, ignored, illegal, or legal. -/
inductive Mark where
  | none | ignored | bad | ok
  deriving DecidableEq, Repr

def loopOf (q : Seq) (l : Nat) : Loop := kget {} q.loops l

/-- Whether an opened level stands above level `l`. -/
def openedAbove (q : Seq) (l : Nat) : Bool :=
  (List.range q.depth).any fun k => decide (l < k) && !(loopOf q k).fixed

def markOf (q : Seq) (lend : Nat) : Mark :=
  if lend = 0 then .none
  else
    let l := lend - 1
    if q.popped.any fun p => p.1 == l then .ignored
    else if q.depth ≤ l ∨ openedAbove q l then .bad else .ok

/-- A scene-end bundle would issue while a micro branch is queued (R192, R197). -/
def sceneEndBad (q : Seq) (hdr : BitVec 64) : Bool := q.scene.isSome && (header hdr).send && !q.mq.isEmpty

/-- The cause that a bundle's header has where it would issue, with slot 7 (R188, R197). -/
def headerCause (q : Seq) (hdr : BitVec 64) : Option Nat :=
  if sceneEndBad q hdr then some 0x21 else if markOf q (header hdr).lend = .bad then some 0x23 else none

/-- The value a move carries, with the widening of R168. -/
def mvVal (s : State) (a : Nat) (v : Mv) : Row := srcVal s a v.m.src

/-- The operand-port writes of a bundle (R144, R145). -/
def writePorts (a : Nat) (vals : List (Mv × Row)) (t : State) : State :=
  vals.foldl (fun t v => match v.1.d with
    | .port u c => setPort t a u c.val (portVal u c.val v.1.m v.2)
    | _ => t) t

/-- The register and predicate writes of a bundle, at the end of its issue cycle (R145, R164, R167). -/
def writeRegs (hdr : BitVec 64) (a : Nat) (vals : List (Mv × Row)) (t : State) : State :=
  vals.foldl (fun t v => match v.1.d with
    | .wr p => (match (header hdr).wr p with
      | some r => setG t a r.val (lowW v.2)
      | none => t)
    | .pred n => setPred t a n.val (decide (lowW v.2 ≠ 0#32))
    | _ => t) t

/-- The latches that the slots in effect read. -/
def latchReads (ms : List Trig) : List (Sock × Nat) :=
  (ms.filterMap fun m => match m.src with
    | .latch u c => some (u, c.val)
    | _ => none).eraseDups

/-- The performance counter that a held cycle counts in (R319). -/
def holdCounter : Hold → Option Nat
  | .lock => some 2 | .handle => some 3 | .sync => some 4 | .curtain => some 5 | .log => some 6
  | .spawn => none | .booked _ => none | .quiet => none

/-- Whether a hold is a wait that a booked step is charged for (R67). -/
def isWait : Hold → Bool
  | .quiet => false
  | .booked _ => false
  | _ => true

/-- The run state of a sample for a hold (R400). -/
def holdState : Hold → Nat
  | .curtain => 5 | .sync => 4 | .handle => 3 | _ => 2

/-- One held cycle: it is counted, charged to the delay of a booked step unless it is no wait (R67), and the bundle is tried again
in the next cycle. Of several holds the first that R400 names is the tile's run state. -/
def holdCycle (s : State) (a : Nat) (k : Hold) (also : List Hold := []) : State :=
  let s := match holdCounter k with
    | some c => perfAdd s a c 1
    | none => s
  let s := match k with
    | .booked rid => ageHold s a rid s.now
    | _ => s
  let s := if isWait k then chargeDelay s a else s
  schedIssue (modAg s a fun g => { g with lastHold := (s.now + 1, also.foldl (fun m h => max m (holdState h)) (holdState k)) }) a (s.now + 1)

/-- The lower of two faults of one bundle: lowest cause, then lowest slot (R178). -/
def lowerFault (x y : Nat × Nat × Option Word) : Nat × Nat × Option Word :=
  if y.1 < x.1 ∨ (y.1 = x.1 ∧ y.2.1 < x.2.1) then y else x

/-- The faults among the answers. -/
def faultsOf (outs : List (Nat × OpOut)) : List (Nat × Nat × Option Word) :=
  outs.filterMap fun o => match o.2 with
    | .fault c ad => some (c, o.1, ad)
    | .fault7 c => some (c, 7, none)
    | _ => none

def holdsOf (outs : List (Nat × OpOut)) : List Hold :=
  outs.filterMap fun o => match o.2 with
    | .hold k => some k
    | _ => none

/-- The effects among the answers, in slot order, and then those of the end of the cycle. -/
def applyGo (outs : List (Nat × OpOut)) (t : State) : State :=
  outs.foldl (fun t o => match o.2 with
    | .late f => f t
    | _ => t) (outs.foldl (fun t o => match o.2 with
    | .go f => f t
    | _ => t) t)

/-- The bundle has issued: the sequencer notes its last cycle and its mark, the counters count (R146, R319). -/
def noteIssued (s : State) (a : Nat) (hdr : BitVec 64) : State :=
  let h := header hdr
  let s := modQ s a fun q => { q with bundleEnd := s.now + h.hold, lend := (if markOf q h.lend = .ok then h.lend else 0),
                                      send := h.send, bound := h.lend ≠ 0, lastPc := macroPos q, started := true }
  let s := modRun s a fun r => { r with atBoundary := false }
  let s := modAg (perfAdd (perfAdd s a 0 1) a 1 h.hold) a fun g => { g with lastIssue := s.now + 1 }
  sched s (s.now + h.hold) priEnd .bundleComplete (.at a)

/-- A synchronous fault of the bundle that would issue: it does not issue, and t0 is the last cycle of the bundle before it (R151, R176). -/
def syncFault (s : State) (a cause slot : Nat) (addr : Option Word) : State :=
  let s := if cause = 0x4E then holdSlot s (slotOf s a) else s
  takeFault s a cause (BitVec.ofNat 3 slot) (macroPos (bk s a).q) (addr.map (·.toNat)) (lastCycle s a)

/-- The effects of several operations together would overfill the ring of a slot whose choice is to stall: each alone has found room (R113). -/
def gapForced (s t : State) (slot : Nat) : Bool :=
  (kget {} t.books slot).gap.isSome && (kget {} s.books slot).gap.isNone && !(reg s (slotReg slot 0x120)).getLsbD 2

/-- Issues the moves and triggers of one bundle of agent `a`, whose header and long constant stand in the issue register. DESIGN CHOICE (log 168): an
operation outside `vx` whose own operands fault does so though its socket is occupied or stopped, or its latch has no room. -/
def issue (s : State) (a : Nat) (mvs : List Mv) (trs : List Tr) : State :=
  let mvs := mvs.filter fun v => guardOn s a v.m
  let trs := trs.filter fun r => guardOn s a r.m
  let srcs := mvs.map (·.m) ++ trs.map (·.m)
  let vals := mvs.map fun v => (v, mvVal s a v)
  let s1 := writePorts a vals s
  let outs := trs.map fun r => (r.slot, r.f ⟨a, lowW (srcVal s a r.m.src), r.slot⟩ s1)
  let faults := faultsOf outs ++ (headerCause (bk s a).q s.cur.hdr).toList.map fun c => (c, 7, none)
  if srcs.any fun m => latchHeld s a m.src then holdCycle s a .lock (holdsOf outs)
  else match holdsOf outs with
  | k :: ks => holdCycle s a k ks
  | [] => match faults with
    | f :: fs => let x := fs.foldl lowerFault f
      syncFault s a x.1 x.2.1 x.2.2
    | [] =>
      let t := applyGo outs (writeRegs s.cur.hdr a vals ((latchReads srcs).foldl (fun t l => readLatch t a l.1 l.2) s1))
      if decide (2 ≤ outs.length) && gapForced s t (slotOf s a) then holdCycle s a .log else noteIssued t a s.cur.hdr

/-- The meaning of one operation as an instruction: the issue of a bundle of the agent in the issue register, whose header stands
there and whose one slot triggers the operation. -/
def execOne (m : Trig) (f : OpFn) (s : State) : Host.Outcome State Fault Refusal :=
  if isIssuer s.cur.a then .next (issue s s.cur.a [] [⟨s.cur.slot, m, f⟩]) else .fault (.noSuchAgent s.cur.a)

end Sys2Proof.Machine
end

