-- ==== Sys2Proof/Machine/Ag.lean ====
section
/-! DEFINITION. The address generator and the handle operations (R204 to R212). -/

namespace Sys2Proof.Machine

/-- An address operation on `o0`, `o1` and t (R204). -/
def agOp (f : Word → Word → Word → Word) : OpFn := fun x s =>
  result x s .ag 1 (f (portW s x.a .ag 0) (portW s x.a .ag 1) x.t)

def gaddrVal (g t : Nat) : Nat := g / 512 * 2 ^ 30 + g % 512 * 2 ^ 21 + t % 2 ^ 21
def homeVal (t : Nat) : Nat := t / 2 ^ 30 * 512 + t / 2 ^ 21 % 512 + (t / 2 ^ 16 % 32) * 2 ^ 16
def wrapVal (a b m : Nat) : Nat := if m = 0 then a + b else (a + b) % m

def opAgLea : OpFn := agOp fun a b t => a + (t <<< (b.toNat % 8))
def opAgGaddr : OpFn := agOp fun a _ t => wd (gaddrVal (a.toNat % 2048) t.toNat)
def opAgTileid : OpFn := fun x s => result x s .ag 1 (wd x.a)
def opAgHome : OpFn := agOp fun _ _ t => wd (homeVal t.toNat)

/-- `step` delivers `o0` and then adds `o1` to it (R205). -/
def opAgStep : OpFn := fun x s =>
  let a := portW s x.a .ag 0
  result x s .ag 1 a fun t => setPort t x.a .ag 0 (rowOf (a + portW s x.a .ag 1))

def opAgWrap : OpFn := agOp fun a b t => wd (wrapVal a.toNat t.toNat b.toNat)

/-- `cb.init` (R207). -/
def opAgCbInit : OpFn := fun x s =>
  let base := portW s x.a .ag 0
  let o := portW s x.a .ag 1
  match handleNo x.t with
  | none => .fault 0x2A none
  | some n =>
    if o.extractLsb' 26 6 ≠ 0#6 ∨ !handleFieldsOk base.toNat (o.extractLsb' 0 5).toNat (o.extractLsb' 5 2).toNat then .fault 0x2A none
    else result x s .ag 1 0#32 fun t => setH t x.a n
      (0#64 ++ (1#1 ++ 0#5 ++ o.extractLsb' 22 4 ++ o.extractLsb' 10 12 ++ o.extractLsb' 7 3 ++ o.extractLsb' 5 2 ++ o.extractLsb' 0 5 ++ base))

/-- A handle operation: its handle's number and state, or its fault (R206, R212). -/
def withHandle (x : OpCtx) (s : State) (roles : List Nat) (k : Nat → BitVec 128 → OpOut) : OpOut :=
  match handleNo x.t with
  | none => .fault 0x2A none
  | some n => match handleCause (hReg s x.a n) roles with
    | some c => .fault c none
    | none => k n (hReg s x.a n)

/-- `cb.wait` holds until n bytes are filled (R209). -/
def opAgCbWait : OpFn := fun x s => withHandle x s [0, 2] fun _ h =>
  let n := (portW s x.a .ag 0).toNat
  if n > hSize h then .fault 0x29 none
  else if hFilled h < n then .hold .handle
  else result x s .ag 1 (wd (hAt h (hCons h)))

/-- `cb.room` holds until there is room for n bytes (R209). -/
def opAgCbRoom : OpFn := fun x s => withHandle x s [0, 1] fun _ h =>
  let n := (portW s x.a .ag 0).toNat
  if n > hSize h then .fault 0x29 none
  else if hRoom h < n then .hold .handle
  else result x s .ag 1 (wd (hAt h (hProd h)))

/-- An earlier access of class 0 or `cls`, or of any class when `cls` is 0, is not yet performed (R102, R210);
a loop nest both reads and stores (R264). -/
def classPending (s : State) (a cls : Nat) (store : Bool) : Bool :=
  (ag s a).outs.any fun o => !o.put && (o.store == store || (ag s a).nest.any fun r => r.id == o.id) && (cls == 0 || o.cls == 0 || o.cls == cls)

/-- `cb.advp` (R210): after the stores it releases, `prod` advances and the update is sent; a push (R121). -/
def opAgCbAdvp : OpFn := fun x s => withHandle x s [0, 1] fun hn h =>
  let n := (portW s x.a .ag 0).toNat
  if n > hRoom h then .fault 0x29 none
  else if classPending s x.a (hCls h) true then .hold .lock
  else match restartEffect s x.a 0x2A (objSram (hBase h)) with
    | .bad => .fault 0x63 none
    | .again v => result x s .ag 1 (wd v) fun t => pushHandle t x.a hn n
    | .fresh => if (bk s x.a).run.any fun r => journalHeld s r.key then .hold .log
        else result x s .ag 1 (hProd h + wd n) fun t => pushHandle t x.a hn n

/-- `cb.advc` (R210): after the loads it covers, `cons` advances and the update is sent. -/
def opAgCbAdvc : OpFn := fun x s => withHandle x s [0, 2] fun hn h =>
  let n := (portW s x.a .ag 0).toNat
  if n > hFilled h then .fault 0x29 none
  else if classPending s x.a (hCls h) false then .hold .lock
  else result x s .ag 1 (hCons h + wd n) fun t => popHandle t x.a hn n

def opAgCbPos : OpFn := fun x s => withHandle x s [0, 1, 2] fun _ h => result x s .ag 1 (hCons h)
def opAgCbPosp : OpFn := fun x s => withHandle x s [0, 1, 2] fun _ h => result x s .ag 1 (hProd h)
def opAgCbFill : OpFn := fun x s => withHandle x s [0, 1, 2] fun _ h => result x s .ag 1 (wd (hFilled h))

/-! ### The operations of `ag` as instructions -/

/-- R204: `ag.lea` as an instruction. -/
def execAgLea (m : Trig) (s : State) : Host.Outcome State Fault Refusal := execOne m opAgLea s
/-- R204: `ag.gaddr` as an instruction. -/
def execAgGaddr (m : Trig) (s : State) : Host.Outcome State Fault Refusal := execOne m opAgGaddr s
/-- R204: `ag.tileid` as an instruction. -/
def execAgTileid (m : Trig) (s : State) : Host.Outcome State Fault Refusal := execOne m opAgTileid s
/-- R204: `ag.home` as an instruction. -/
def execAgHome (m : Trig) (s : State) : Host.Outcome State Fault Refusal := execOne m opAgHome s
/-- R205: `ag.step` as an instruction. -/
def execAgStep (m : Trig) (s : State) : Host.Outcome State Fault Refusal := execOne m opAgStep s
/-- R204: `ag.wrap` as an instruction. -/
def execAgWrap (m : Trig) (s : State) : Host.Outcome State Fault Refusal := execOne m opAgWrap s
/-- R207: `ag.cb.init` as an instruction. -/
def execAgCbInit (m : Trig) (s : State) : Host.Outcome State Fault Refusal := execOne m opAgCbInit s
/-- R209: `ag.cb.wait` as an instruction. -/
def execAgCbWait (m : Trig) (s : State) : Host.Outcome State Fault Refusal := execOne m opAgCbWait s
/-- R209: `ag.cb.room` as an instruction. -/
def execAgCbRoom (m : Trig) (s : State) : Host.Outcome State Fault Refusal := execOne m opAgCbRoom s
/-- R210: `ag.cb.advp` as an instruction. -/
def execAgCbAdvp (m : Trig) (s : State) : Host.Outcome State Fault Refusal := execOne m opAgCbAdvp s
/-- R210: `ag.cb.advc` as an instruction. -/
def execAgCbAdvc (m : Trig) (s : State) : Host.Outcome State Fault Refusal := execOne m opAgCbAdvc s
/-- R211: `ag.cb.pos` as an instruction. -/
def execAgCbPos (m : Trig) (s : State) : Host.Outcome State Fault Refusal := execOne m opAgCbPos s
/-- R211: `ag.cb.posp` as an instruction. -/
def execAgCbPosp (m : Trig) (s : State) : Host.Outcome State Fault Refusal := execOne m opAgCbPosp s
/-- R211: `ag.cb.fill` as an instruction. -/
def execAgCbFill (m : Trig) (s : State) : Host.Outcome State Fault Refusal := execOne m opAgCbFill s

/-! ### Device events -/

/-- R208: a peer's position update reaches a handle. -/
def execHandleUpdateArrival (s : State) : Host.Outcome State Fault Refusal :=
  match s.occ with
  | .handle a h prod v => .next (takeUpdate s a h.val prod v)
  | _ => .refused (.noOccasion "HANDLE_UPDATE_ARRIVAL")

end Sys2Proof.Machine
end

