-- ==== Sys2Proof/Machine/Fp.lean ====
section
/-! DEFINITION. Number formats (R124 to R133): patterns as exact values, rounding of exact values into a format, and the exact
arithmetic under them (R6, R137, R140). -/

namespace Sys2Proof.Machine

/-- An exact value: a NaN with its sign and cause bits (R126, R127), an infinity, or ±m × 2^e. With `sticky` the magnitude is
strictly between m × 2^e and (m + 1) × 2^e, as of a quotient or root that does not end. -/
inductive Num where
  | nan (neg : Bool) (cause : Nat)
  | inf (neg : Bool)
  | fin (neg : Bool) (m : Nat) (e : Int) (sticky : Bool)
  deriving DecidableEq, Repr

/-- A format by its code (R124). -/
inductive Fmt where
  | wide (ebits tbits : Nat)
  | b8 (p : Nat) (unsigned hasInf : Bool)
  | int (bits : Nat)
  deriving DecidableEq, Repr

def fp32 : Fmt := .wide 8 23
def bf16 : Fmt := .wide 8 7
def fp16 : Fmt := .wide 5 10

/-- The format codes of R124, a binary8 precision only where the part has it (R406); `none` for a reserved code or an absent precision. -/
def fmtOf (c : Nat) : Option Fmt :=
  match c with
  | 0x00 => some fp32 | 0x01 => some bf16 | 0x02 => some fp16
  | 0x03 => some (.int 8) | 0x04 => some (.int 16) | 0x05 => some (.int 32)
  | c => if c < 64 ∧ c / 8 % 2 = 1 ∧ c % 8 ≠ 0 ∧ (Config.capability 4).getLsbD (8 * (c / 16) + c % 8) then some (.b8 (c % 8) (c / 32 = 1) (c / 16 % 2 = 1)) else none

/-- Width of an element, in bits. -/
def fmtBits : Fmt → Nat
  | .wide e t => 1 + e + t
  | .b8 _ _ _ => 8
  | .int b => b

def isFloat : Fmt → Bool
  | .int _ => false
  | _ => true

def isB8 : Fmt → Bool
  | .b8 _ _ _ => true
  | _ => false

/-- Precision, trailing bits, exponent bias, and the exponent of the smallest spacing. -/
def fmtP : Fmt → Nat
  | .wide _ t => t + 1
  | .b8 p _ _ => p
  | .int b => b

def fmtBias : Fmt → Nat
  | .wide e _ => 2 ^ (e - 1) - 1
  | .b8 p u _ => if u then 2 ^ (8 - p) else 2 ^ (7 - p)
  | .int _ => 0

def fmtEmin (f : Fmt) : Int := 1 - (fmtBias f : Int) - ((fmtP f : Int) - 1)

/-- The finite value of exponent field `e` and trailing bits `t` (R125, R129). -/
def finVal (f : Fmt) (neg : Bool) (e t : Nat) : Num :=
  let T := fmtP f - 1
  if e = 0 then .fin neg t (fmtEmin f) false
  else .fin neg (2 ^ T + t) ((e : Int) - fmtBias f - T) false

/-- A pattern as an exact value (R125, R127, R129). A binary8 NaN carries cause 1, which it becomes when widened. -/
def decodeNum (f : Fmt) (v : Nat) : Num :=
  match f with
  | .wide eb tb =>
    let neg := v / 2 ^ (eb + tb) % 2 = 1
    let e := v / 2 ^ tb % 2 ^ eb
    let t := v % 2 ^ tb
    if e = 2 ^ eb - 1 then (if t = 0 then .inf neg else .nan neg (t % 8)) else finVal f neg e t
  | .b8 p u hi =>
    let v := v % 256
    if u then
      if v = 0 then .fin false 0 0 false
      else if v = 0xFF then .nan false 1
      else if hi ∧ v = 0xFE then .inf false
      else finVal f false (v / 2 ^ (p - 1)) (v % 2 ^ (p - 1))
    else
      if v = 0 then .fin false 0 0 false
      else if v = 0x80 then .nan false 1
      else if hi ∧ v % 128 = 0x7F then .inf (v ≥ 128)
      else finVal f (v ≥ 128) (v % 128 / 2 ^ (p - 1)) (v % 2 ^ (p - 1))
  | .int b =>
    let v := v % 2 ^ b
    if v < 2 ^ (b - 1) then .fin false v 0 false else .fin true (2 ^ b - v) 0 false

/-- Whether a format is unsigned, and has infinities. -/
def fmtUnsigned : Fmt → Bool
  | .b8 _ u _ => u
  | _ => false

def fmtHasInf : Fmt → Bool
  | .wide _ _ => true
  | .b8 _ _ h => h
  | .int _ => false

/-- The largest finite pattern without its sign (R129, R130). -/
def maxPattern : Fmt → Nat
  | .wide eb tb => (2 ^ eb - 2) * 2 ^ tb + (2 ^ tb - 1)
  | .b8 _ true true => 0xFD
  | .b8 _ true false => 0xFE
  | .b8 _ false true => 0x7E
  | .b8 _ false false => 0x7F
  | .int b => 2 ^ (b - 1) - 1

/-- The largest finite value, as m × 2^e. -/
def maxFin (f : Fmt) : Nat × Int :=
  match decodeNum f (maxPattern f) with
  | .fin _ m e _ => (m, e)
  | _ => (0, 0)

def signBit (f : Fmt) (neg : Bool) : Nat := if neg && !fmtUnsigned f then 2 ^ (fmtBits f - 1) else 0

/-- The NaN of a format (R126, R127, R129). -/
def nanPattern (f : Fmt) (neg : Bool) (cause : Nat) : Nat :=
  match f with
  | .wide eb tb => signBit f neg + (2 ^ eb - 1) * 2 ^ tb + 2 ^ (tb - 1) + cause % 8
  | .b8 _ true _ => 0xFF
  | .b8 _ false _ => 0x80
  | .int _ => 0

def infPattern (f : Fmt) (neg : Bool) : Nat :=
  match f with
  | .wide eb tb => signBit f neg + (2 ^ eb - 1) * 2 ^ tb
  | .b8 _ true _ => 0xFE
  | .b8 _ false _ => signBit f neg + 0x7F
  | .int _ => 0

/-- A grid value n × 2^q as a pattern; q is at least the smallest spacing and n is normalised. -/
def encodeFin (f : Fmt) (neg : Bool) (n : Nat) (q : Int) : Nat :=
  let T := fmtP f - 1
  if n < 2 ^ T then signBit f neg + n
  else signBit f neg + ((q - fmtEmin f + 1).toNat * 2 ^ T + (n - 2 ^ T))

/-- Rounding modes (R131): 0 nearest even, 1 towards zero, 2 down, 3 up. Whether a magnitude with quotient `n`, remainder `r` of
`d` and a sticky bit rounds up; `even` is the parity that a tie goes by. -/
def roundsUp (mode : Nat) (neg even : Bool) (r d : Nat) (sticky : Bool) : Bool :=
  match mode with
  | 0 => decide (2 * r > d) || (decide (2 * r = d) && (sticky || !even)) 
  | 1 => false
  | 2 => neg && (decide (r ≠ 0) || sticky)
  | _ => !neg && (decide (r ≠ 0) || sticky)

/-- Position of the highest bit plus one. -/
def bitLen (n : Nat) : Nat := if n = 0 then 0 else Nat.log2 n + 1

/-- The magnitude m × 2^e rounded to the format's grid, the exponent unbounded above (R132): n and q with the value n × 2^q. A
precision of 1 takes the even exponent field at a tie (R131). -/
def roundGrid (f : Fmt) (mode : Nat) (neg : Bool) (m : Nat) (e : Int) (sticky : Bool) : Nat × Int :=
  let p := fmtP f
  let q := max (fmtEmin f) (e + bitLen m - p)
  if q ≤ e then
    let n := m * 2 ^ (e - q).toNat
    if sticky ∧ (mode = 2 ∧ neg ∨ mode = 3 ∧ ¬neg) then (n + 1, q) else (n, q)
  else
    let k := (q - e).toNat
    let n := m / 2 ^ k
    let even := if p = 1 ∧ n ≠ 0 then (q + fmtBias f) % 2 = 0 else n % 2 = 0
    let n' := if roundsUp mode neg even (m % 2 ^ k) (2 ^ k) sticky then n + 1 else n
    if n' = 2 ^ p ∧ p ≠ 0 then (2 ^ (p - 1), q + 1) else (n', q)

/-- Whether n × 2^q exceeds the largest finite value. -/
def aboveMax (f : Fmt) (n : Nat) (q : Int) : Bool :=
  let M := maxFin f
  if q ≥ M.2 then decide (M.1 < n * 2 ^ (q - M.2).toNat) else decide (M.1 * 2 ^ (M.2 - q).toNat < n)

/-- The rounding function of R132, on a floating format. -/
def roundNum (f : Fmt) (mode : Nat) (sat : Bool) (x : Num) : Nat :=
  match x with
  | .nan neg c => nanPattern f neg c
  | .inf neg =>
    if fmtUnsigned f && neg then (if sat then 0 else nanPattern f false 0)
    else if sat then signBit f neg + maxPattern f
    else if fmtHasInf f then infPattern f neg else nanPattern f false 0
  | .fin neg m e st =>
    let g := roundGrid f mode neg m e st
    if fmtUnsigned f && neg && (decide (m ≠ 0) || st) then
      if g.1 = 0 then 0 else if sat then 0 else nanPattern f false 0
    else if aboveMax f g.1 g.2 then
      if sat || mode == 1 || (mode == 2 && !neg) || (mode == 3 && neg) then signBit f neg + maxPattern f
      else if fmtHasInf f then infPattern f neg else nanPattern f false 0
    else if g.1 = 0 then (if isB8 f then 0 else signBit f neg)
    else encodeFin f neg g.1 g.2

/-- An exact value as an integer under a mode and a saturate flag (R133); the result is the pattern of the integer format. -/
def roundInt (bits mode : Nat) (sat : Bool) (x : Num) : Nat :=
  let lo : Int := -(2 ^ (bits - 1) : Nat)
  let hi : Int := (2 ^ (bits - 1) : Nat) - 1
  let pat := fun (i : Int) => (i % (2 ^ bits : Nat)).toNat
  match x with
  | .nan _ _ => if sat then 0 else pat lo
  | .inf neg => if sat then pat (if neg then lo else hi) else pat lo
  | .fin neg m e st =>
    let n : Nat := if 0 ≤ e then m * 2 ^ (min e 4096).toNat
      else
        let k := (-e).toNat
        let n := m / 2 ^ k
        if roundsUp mode neg (n % 2 = 0) (m % 2 ^ k) (2 ^ k) st then n + 1 else n
    let i : Int := if neg then -(n : Int) else n
    if i < lo then (if sat then pat lo else pat lo)
    else if hi < i then (if sat then pat hi else pat lo)
    else pat i

/-! ### Exact arithmetic -/

/-- The sum of two exact finite values as a signed integer at the lower exponent. -/
def sumFin (n1 : Bool) (m1 : Nat) (e1 : Int) (n2 : Bool) (m2 : Nat) (e2 : Int) : Int × Int :=
  let e := min e1 e2
  let a : Int := (m1 * 2 ^ (e1 - e).toNat : Nat)
  let b : Int := (m2 * 2 ^ (e2 - e).toNat : Nat)
  ((if n1 then -a else a) + (if n2 then -b else b), e)

/-- An exact sum; a zero sum takes the sign of two equal-signed zeros, else − under round-down and + otherwise (IEEE 754, R137). -/
def addNum (mode : Nat) : Num → Num → Num
  | .nan n c, _ => .nan n c
  | _, .nan n c => .nan n c
  | .inf n1, .inf n2 => if n1 = n2 then .inf n1 else .nan false 3
  | .inf n, .fin _ _ _ _ => .inf n
  | .fin _ _ _ _, .inf n => .inf n
  | .fin n1 m1 e1 _, .fin n2 m2 e2 _ =>
    let r := sumFin n1 m1 e1 n2 m2 e2
    if r.1 = 0 then .fin (if m1 = 0 ∧ m2 = 0 ∧ n1 = n2 then n1 else mode = 2) 0 r.2 false
    else .fin (r.1 < 0) r.1.natAbs r.2 false

def negNum : Num → Num
  | .nan n c => .nan n c
  | .inf n => .inf (!n)
  | .fin n m e s => .fin (!n) m e s

/-- An exact product; zero × Inf is the NaN of cause 4 (R126). -/
def mulNum : Num → Num → Num
  | .nan n c, _ => .nan n c
  | _, .nan n c => .nan n c
  | .inf n1, .inf n2 => .inf (n1 != n2)
  | .inf n1, .fin n2 m _ _ => if m = 0 then .nan false 4 else .inf (n1 != n2)
  | .fin n1 m _ _, .inf n2 => if m = 0 then .nan false 4 else .inf (n1 != n2)
  | .fin n1 m1 e1 _, .fin n2 m2 e2 _ => .fin (n1 != n2) (m1 * m2) (e1 + e2) false

/-- A quotient to 200 bits with its sticky bit (R140). -/
def divNum : Num → Num → Num
  | .nan n c, _ => .nan n c
  | _, .nan n c => .nan n c
  | .inf _, .inf _ => .nan false 5
  | .inf n1, .fin n2 _ _ _ => .inf (n1 != n2)
  | .fin n1 _ _ _, .inf n2 => .fin (n1 != n2) 0 0 false
  | .fin n1 m1 e1 _, .fin n2 m2 e2 _ =>
    if m2 = 0 then (if m1 = 0 then .nan false 5 else .inf (n1 != n2))
    else
      let a := m1 * 2 ^ 200
      .fin (n1 != n2) (a / m2) (e1 - e2 - 200) (a % m2 ≠ 0)

/-- Integer square root, by bits from the highest. -/
def isqrtFuel (n : Nat) (r : Nat) : Nat → Nat
  | 0 => r
  | k + 1 => isqrtFuel n (if (r + 2 ^ k) * (r + 2 ^ k) ≤ n then r + 2 ^ k else r) k

def isqrt (n : Nat) : Nat := isqrtFuel n 0 (bitLen n / 2 + 1)

/-- A square root to more than 100 bits (R140). -/
def sqrtNum : Num → Num
  | .nan n c => .nan n c
  | .inf n => if n then .nan false 6 else .inf false
  | .fin n m e _ =>
    if m = 0 then .fin n 0 0 false
    else if n then .nan false 6
    else
      let odd := e % 2 ≠ 0
      let a := (if odd then m * 2 else m) * 2 ^ 240
      let r := isqrt a
      .fin false r (((if odd then e - 1 else e) / 2) - 120) (r * r ≠ a)

def oneNum : Num := .fin false 1 0 false

/-- The reciprocal square root: the root of the exact reciprocal, with its sticky bit (R140). -/
def rsqrtNum : Num → Num
  | .nan n c => .nan n c
  | .inf n => if n then .nan false 6 else .fin false 0 0 false
  | .fin n m e _ =>
    if m = 0 then .inf n
    else if n then .nan false 6
    else
      let odd := e % 2 ≠ 0
      let d := if odd then m * 2 else m
      let a := 2 ^ 400 / d
      let r := isqrt a
      .fin false r (-(((if odd then e - 1 else e) / 2)) - 200) (r * r * d ≠ 2 ^ 400)

/-! ### 2^x and log2 x, in fixed point of 320 bits (R140) -/

def fixF : Nat := 320

/-- ln 2 × 2^320, by 2 atanh(1/3). -/
def ln2Fix : Nat := (List.range 110).foldl (fun acc k => acc + 2 * 2 ^ fixF / ((2 * k + 1) * 3 ^ (2 * k + 1))) 0

/-- e^y × 2^320 for y = v / 2^320 below 1, by its series. -/
def expFix (v : Nat) : Nat :=
  ((List.range 80).foldl (fun (acc : Nat × Nat) k => (acc.1 + acc.2, acc.2 * v / 2 ^ fixF / (k + 1))) (0, 2 ^ fixF)).1

/-- ln z × 2^320 for z = v / 2^320 in [1, 2), by 2 atanh((z − 1)/(z + 1)). -/
def lnFix (v : Nat) : Nat :=
  let t := (v - 2 ^ fixF) * 2 ^ fixF / (v + 2 ^ fixF)
  let t2 := t * t / 2 ^ fixF
  2 * ((List.range 110).foldl (fun (acc : Nat × Nat) k => (acc.1 + acc.2 / (2 * k + 1), acc.2 * t2 / 2 ^ fixF)) (0, t)).1

/-- 2^x (R140); exact for an integer x. -/
def exp2Num : Num → Num
  | .nan n c => .nan n c
  | .inf n => if n then .fin false 0 0 false else .inf false
  | .fin neg m e _ =>
    if m = 0 then oneNum
    else if (bitLen m : Int) + e > 12 then .fin false 1 (if neg then -5000 else 5000) (true)
    else
      -- x × 2^320 as an integer, exact for every FP32 operand
      let v : Int := if 0 ≤ e + fixF then (m * 2 ^ (e + fixF).toNat : Nat) else (m / 2 ^ (-(e + fixF)).toNat : Nat)
      let x : Int := if neg then -v else v
      let i := x / (2 ^ fixF : Nat)
      let fr := (x % (2 ^ fixF : Nat)).toNat
      if fr = 0 then .fin false 1 i false
      else .fin false (expFix (fr * ln2Fix / 2 ^ fixF)) (i - fixF) true

/-- log2 x (R140); exact for a power of two. -/
def log2Num : Num → Num
  | .nan n c => .nan n c
  | .inf n => if n then .nan false 6 else .inf false
  | .fin neg m e _ =>
    if m = 0 then .inf true
    else if neg then .nan false 6
    else
      let k := bitLen m - 1
      let E : Int := e + k
      if m = 2 ^ k then .fin (E < 0) E.natAbs 0 false
      else
        let z := m * 2 ^ fixF / 2 ^ k
        let l := lnFix z * 2 ^ fixF / ln2Fix
        let v : Int := E * (2 ^ fixF : Nat) + l
        .fin (v < 0) (if v < 0 then v.natAbs - 1 else v.natAbs) (-(fixF : Int)) true

/-! ### FP32 words -/

def num32 (w : Word) : Num := decodeNum fp32 w.toNat
def isNaN32 (w : Word) : Bool := (w.extractLsb' 23 8 == 0xFF#8) && (w.extractLsb' 0 23 != 0#23)

/-- A NaN operand as a result: its quiet bit set, the rest kept (R127). -/
def quiet (w : Word) : Word := w ||| 0x00400000#32

def round32 (mode : Nat) (sat : Bool) (x : Num) : Word := BitVec.ofNat 32 (roundNum fp32 mode sat x)

/-- `add` of R137 on FP32: the first NaN is returned, quiet (R125), Inf − Inf is cause 3, else one rounding to nearest even. -/
def fadd32 (a b : Word) : Word :=
  if isNaN32 a then quiet a else if isNaN32 b then quiet b else round32 0 false (addNum 0 (num32 a) (num32 b))

/-- The NaN that the device generates (R126). -/
def nan32 (cause : Nat) : Word := 0x7FC00000#32 ||| BitVec.ofNat 32 cause

end Sys2Proof.Machine
end

