-- ==== Sys2Proof/Machine/Lanes.lean ====
section
/-! DEFINITION. Lanes and elements of rows (R245), and the element arithmetic of the vector unit on patterns of a format (R127, R132,
R140, R247 to R250, R263). -/

namespace Sys2Proof.Machine

/-! ### Lanes -/

/-- Lane `i` of a row (R245). -/
def lane (r : Row) (i : Nat) : Word := r.extractLsb' (32 * i) 32

/-- A row from its lanes. -/
def rowOfLanes (f : Nat → Word) : Row := BitVec.ofNat 2048 ((List.range 64).foldr (fun i acc => (f i).toNat + 2 ^ 32 * acc) 0)

/-- The row with lane `i` replaced. -/
def setLane (r : Row) (i : Nat) (w : Word) : Row := rowOfLanes fun k => if k = i then w else lane r k

/-- Active lanes take the new value, the others keep the old (R245). -/
def mergeLanes (act : BitVec 64) (old new : Row) : Row := rowOfLanes fun i => if act.getLsbD i then lane new i else lane old i

/-- Element `e` of a row, `w` bytes wide (R245). -/
def elem (r : Row) (w e : Nat) : Nat := r.toNat / 2 ^ (8 * w * e) % 2 ^ (8 * w)

/-- The row with element `e` replaced. -/
def setElem (r : Row) (w e v : Nat) : Row :=
  BitVec.ofNat 2048 (r.toNat - elem r w e * 2 ^ (8 * w * e) + v % 2 ^ (8 * w) * 2 ^ (8 * w * e))

def maskBits (f : Nat → Bool) : BitVec 64 := BitVec.ofNat 64 ((List.range 64).foldr (fun i acc => (if f i then 1 else 0) + 2 * acc) 0)

def popCount (m : BitVec 64) : Nat := ((List.range 64).filter fun i => m.getLsbD i).length

/-! ### NaN operands (R127) -/

def isNaNOf (f : Fmt) (v : Nat) : Bool :=
  match decodeNum f v with
  | .nan _ _ => true
  | _ => false

/-- A NaN operand as a result: its quiet bit set, the rest kept; a binary8 format has one NaN. -/
def quietOf (f : Fmt) (v : Nat) : Nat :=
  match f with
  | .wide _ tb => v ||| 2 ^ (tb - 1)
  | _ => v

/-- The first NaN operand decides the result; else the rounded exact result. An infinity stays one whatever the flag, but a negative one has no
place in an unsigned format, where the flag gives zero (R132, R140). -/
def elemRound (f : Fmt) (mode : Nat) (sat : Bool) (xs : List Nat) (r : Num) : Nat :=
  match xs.find? (isNaNOf f) with
  | some v => quietOf f v
  | none => match r with
    | .inf n => roundNum f mode (sat && n && fmtUnsigned f) (.inf n)
    | r => roundNum f mode sat r

/-! ### Element operations -/

def fpAdd (f : Fmt) (mode : Nat) (sat : Bool) (a b : Nat) : Nat :=
  elemRound f mode sat [a, b] (addNum mode (decodeNum f a) (decodeNum f b))

def fpSub (f : Fmt) (mode : Nat) (sat : Bool) (a b : Nat) : Nat :=
  elemRound f mode sat [a, b] (addNum mode (decodeNum f a) (negNum (decodeNum f b)))

def fpMul (f : Fmt) (mode : Nat) (sat : Bool) (a b : Nat) : Nat :=
  elemRound f mode sat [a, b] (mulNum (decodeNum f a) (decodeNum f b))

/-- a × b + c, exact before rounding; `np` negates the product and `nc` the addend. -/
def fpFma (f : Fmt) (mode : Nat) (sat np nc : Bool) (a b c : Nat) : Nat :=
  let p := mulNum (decodeNum f a) (decodeNum f b)
  let p := if np then (match p with
    | .nan n k => .nan n k
    | p => negNum p) else p
  let d := decodeNum f c
  elemRound f mode sat [a, b, c] (addNum mode p (if nc then negNum d else d))

/-- The order of non-NaN patterns with −0 below +0 (R248). -/
def fpOrd (f : Fmt) (v : Nat) : Int :=
  let h := 2 ^ (fmtBits f - 1)
  if !fmtUnsigned f && decide (h ≤ v) then -((v - h : Nat) : Int) - 1 else v

def fpMin (f : Fmt) (a b : Nat) : Nat :=
  if isNaNOf f a then quietOf f a else if isNaNOf f b then quietOf f b else if fpOrd f b < fpOrd f a then b else a

def fpMax (f : Fmt) (a b : Nat) : Nat :=
  if isNaNOf f a then quietOf f a else if isNaNOf f b then quietOf f b else if fpOrd f a < fpOrd f b then b else a

/-- Whether exact finite or infinite values compare less, and equal (R250). -/
def numEq : Num → Num → Bool
  | .inf a, .inf b => a == b
  | .fin n1 m1 e1 _, .fin n2 m2 e2 _ => (sumFin n1 m1 e1 (!n2) m2 e2).1 == 0
  | _, _ => false

def numLt : Num → Num → Bool
  | .inf a, .inf b => a && !b
  | .inf a, .fin _ _ _ _ => a
  | .fin _ _ _ _, .inf b => !b
  | .fin n1 m1 e1 _, .fin n2 m2 e2 _ => decide ((sumFin n1 m1 e1 (!n2) m2 e2).1 < 0)
  | _, _ => false

/-- An integer narrowed to `bits` with clamping or by its low bits (R249, R263). -/
def intNarrow (bits : Nat) (sat : Bool) (i : Int) : Nat :=
  let lo : Int := -(2 ^ (bits - 1) : Nat)
  let hi : Int := (2 ^ (bits - 1) : Nat) - 1
  ((if sat then max lo (min hi i) else i) % (2 ^ bits : Nat)).toNat

/-- A pattern of `bits` as a signed integer. -/
def intVal (bits v : Nat) : Int := (BitVec.ofNat bits v).toInt

/-- `vscale`'s step (R137, R255). -/
def scaleStep (mode : Nat) (sat : Bool) (a sa sb : Nat) : Nat :=
  let x := decodeNum fp32 a
  let y := decodeNum bf16 sa
  let z := decodeNum bf16 sb
  if isNaNOf fp32 a then quietOf fp32 a
  else if isNaNOf bf16 sa || isNaNOf bf16 sb then nanPattern fp32 false 2
  else
    let isZero := fun n => match n with
      | .fin _ m _ _ => decide (m = 0)
      | _ => false
    let isInf := fun n => match n with
      | .inf _ => true
      | _ => false
    if (isZero x || isZero y || isZero z) && (isInf x || isInf y || isInf z) then nanPattern fp32 false 4
    else match mulNum (mulNum x y) z with
      | .inf n => roundNum fp32 mode false (.inf n)
      | r => roundNum fp32 mode sat r

/-- A conversion between formats (R127, R132, R133, R253, R254). DEDUCED (log 182): one of a format to itself is a conversion too, so `sat` saturates its
infinities. -/
def convert (sf df : Fmt) (mode : Nat) (sat : Bool) (v : Nat) : Nat :=
  match df with
  | .int bits => (match sf with
    | .int sb => intNarrow bits sat (intVal sb v)
    | _ => roundInt bits mode sat (decodeNum sf v))
  | _ => roundNum df mode sat (decodeNum sf v)

end Sys2Proof.Machine
end

