-- ==== Sys2Proof/Machine/Access.lean ====
section
/-! DEFINITION. How an access leaves a tile or dock core: the checks at its trigger (R16, R80, R216), the holds by acquires and fences
(R87 to R91), its way to its home and the cycle in which it is performed there (R78, R79, R81, R214, R217, R225). -/

namespace Sys2Proof.Machine

/-! ### Units that keep a calendar (R66) -/

/-- A trigger of `mx` or `lm`: in a booked step it is a use of the unit, and in another it waits while somebody else holds the unit (R66). -/
def unitTrigger (cls : Nat) (op : OpFn) : OpFn := fun x s =>
  match op x s with
  | .go k =>
    if useHeld s x.a (ridTile cls x.a 0) then .hold (.booked (ridTile cls x.a 0))
    else .go fun t => k (checkUse (useOk t x.a (ridTile cls x.a 0) t.now) x.a t)
  | o => o

/-! ### Homes -/

/-- The agent at whose banks or channels a location stands (R78, R92). -/
def locHome : Loc → Nat
  | .sram a => addrTile a
  | .mem h pa _ _ => if h then 2048 else paDock pa

/-- The queue of locks and waits that serves a location (R86, R224). -/
def locKey : Loc → Nat
  | .sram a => bankKey a
  | .mem h pa _ _ => if h then 2 ^ 21 else chanKey pa

/-- The calendared resource of an SRAM line: its data bank. Instruction memory, scenes and Loam state keep no calendar (R56, R323). -/
def bankRid (addr : Nat) : List Nat := if offData (addrOff addr) then [ridTile 4 (addrTile addr) (addrBank addr)] else []

/-- The data bank that an SRAM line shares in turn with others (R79). -/
def turnKey (addr : Nat) : List Nat := if offData (addrOff addr) then [bankKey addr] else []

/-- The resource that an access of a location uses (R57, R217). -/
def locRid : Loc → Nat
  | .sram a => ridTile 4 (addrTile a) (addrBank a)
  | .mem _ pa _ _ => ridHbm pa

/-- The address that `xaddr` and error records name. -/
def locAddr : Loc → Nat
  | .sram a => a
  | .mem _ _ _ va => va

/-- The Prompt Book's object of a word (R115). -/
def locObj : Loc → BitVec 64
  | .sram a => objSram a
  | .mem _ _ _ va => objHbm va

def locRead (s : State) (l : Loc) (n : Nat) : Nat :=
  match l with
  | .sram a => loadN s a n
  | .mem h pa k _ => physN s ⟨h, pa, k⟩ n

def locWrite (s : State) (l : Loc) (n v : Nat) : State :=
  match l with
  | .sram a => plainStore s a n v
  | .mem h pa k _ => physWrite s ⟨h, pa, k⟩ n v

/-- The lines and units of `n` bytes at a location. -/
def locUnits (s : State) (l : Loc) (n : Nat) : List Nat × List Nat :=
  match l with
  | .sram a => (linesOf a n, [])
  | .mem true _ _ _ => ([], [])
  | .mem false pa _ _ =>
    let p := hbmFront s pa
    ([], (List.range ((p + n - 1) / 32 - p / 32 + 1)).map (p / 32 + ·))

/-- A reader of `n` bytes at a location meets the errors that stand there (R390). -/
def meetLoc (s : State) (l : Loc) (n : Nat) : State := meetErrors s (locUnits s l n).1 (locUnits s l n).2

/-- The cause with which a home refuses an access to `n` bytes (R18, R392). -/
def locCause (s : State) (slot : Nat) (l : Loc) (n : Nat) (reads : Bool) : Option Nat :=
  match l with
  | .sram a => if !tagsOk s slot a n then some 0x41 else if reads && poisoned s a n then some 0x4E else none
  | .mem h pa _ _ => if reads && !h && hpoisonedRange s (hbmFront s pa) n then some 0x4F else none

/-! ### Order within the tile (R81, R87 to R91) -/

/-- Whether classes `c` and `d` may touch the same bytes (R81). -/
def classMeets (c d : Nat) : Bool := c == 0 || d == 0 || c == d

/-- An acquire not yet granted, or an incomplete fence, holds an access of class `c` (R87, R89, R91). -/
def accessHeld (s : State) (a c : Nat) : Bool :=
  ((ag s a).acqs.any fun q => classMeets q.cls c) || ((ag s a).fences.any fun f => !f.ids.isEmpty && classMeets f.cls c)

/-- An incomplete fence holds `nt.put`, `nt.putb` and `ch` triggers (R91). -/
def fenceHeld (s : State) (a : Nat) : Bool := (ag s a).fences.any fun f => !f.ids.isEmpty

/-- The earliest cycle in which an access of class `c` may be performed at these banks (R81). -/
def orderedFrom (s : State) (a c : Nat) (keys : List Nat) : Nat :=
  (ag s a).outs.foldl (fun m o => if !o.put && classMeets o.cls c && (o.keys.any fun k => keys.contains k) then max m o.perfAt else m) 0

/-- Earlier accesses that a release of class `c` waits for (R88): those before operation `id`. -/
def releaseCovers (s : State) (a c id : Nat) : List Out :=
  (ag s a).outs.filter fun o => decide (o.id < id) && (if o.put then !o.remote else classMeets o.cls c)

def addOut (s : State) (a : Nat) (o : Out) : State := modAg s a fun g => { g with outs := g.outs ++ [o] }

/-- An earlier access of the agent, of this step or of one before, at one of the banks `keys` that operation `id` now touches, which R81 orders before it,
or an earlier row of its handle (R261), is still to be performed. -/
def behind (s : State) (a id : Nat) (keys : List Nat) : Bool :=
  match (ag s a).outs.find? fun o => o.id == id with
  | none => false
  | some o => (ag s a).outs.any fun p => decide (p.id < id) && !p.put &&
      ((classMeets p.cls o.cls && p.keys.any fun k => keys.contains k) || (p.key == o.key && p.hnd.isSome && p.hnd == o.hnd))

/-- An access has been performed, or refused: nothing waits for it any longer. -/
def removeOut (s : State) (a id : Nat) : State :=
  modAg s a fun g =>
    { g with outs := g.outs.filter fun o => o.id ≠ id
             fences := (g.fences.map fun f => { f with ids := f.ids.filter fun i => i ≠ id }).filter fun f => !f.ids.isEmpty }

/-- One of the accesses of an operation has been performed or refused: with the last the operation is over (R260). -/
def doneOut (s : State) (a id : Nat) : State :=
  match (ag s a).outs.find? fun o => o.id == id with
  | none => s
  | some o =>
    if o.left ≤ 1 then removeOut s a id
    else modAg s a fun g => { g with outs := g.outs.map fun o => if o.id = id then { o with left := o.left - 1 } else o }

/-- A lock has been granted. -/
def removeAcq (s : State) (a id : Nat) : State :=
  removeOut (modAg s a fun g => { g with acqs := (g.acqs.filter fun q => q.id ≠ id) }) a id

/-- Compute die of an agent (R9, R20, R77). -/
def agentDie (a : Nat) : Nat := if isTile a then tileDie a else (a - 2048) / 4 / 3

/-- Whether a home lies within a scope, seen from an agent (R90). A dock core's own channels are its tile and cluster scope. -/
def inScope (a home scope : Nat) : Bool :=
  match scope with
  | 0 => home == a
  | 1 => home == a || (isTile a && isTile home && tileCluster a == tileCluster home)
  | 2 => agentDie home == agentDie a
  | _ => true

/-! ### The way to the home -/

/-- Priority of an access among those that reach a home in one cycle (R79): booked, the home's own, deliveries, other; and after them the credits
that meet an arm (R96). -/
def homePri (group agent : Nat) : Nat := 10000 + group * 8192 + agent

/-- The group of a step's `ls` or `vx` access at a home (R79). -/
def stepGroup (s : State) (a : Nat) (k : StepKey) (home : Nat) : Nat := if stepBooked s a k then 0 else if home = a then 1 else 3

/-- The group of an access that leaves now. -/
def accessGroup (s : State) (a home : Nat) : Nat := if isBooked s a then 0 else if home = a then 1 else 3

/-- Cycles from the trigger to the performance, as far as the spec promises them (R214, R225), and whether it does. -/
def pathCycles (s : State) (a : Nat) (l : Loc) : Nat × Bool :=
  match l with
  | .sram addr =>
    let h := addrTile addr
    if h = a then (4, true)
    else if tileCluster h = tileCluster a then (8, true)
    else (8 + transit a h, isBooked s a)
  | .mem host pa _ _ => (8, !host && paDock pa == a && isBooked s a)

/-- Cycles from the performance of an access to the return of its data: 512 from HBM (R74, R214). -/
def dataReturn : Loc → Nat
  | .sram _ => 0
  | .mem _ _ _ _ => 512

/-- The bank cycles of an access to SRAM lines from cycle `c` on: a bank takes one line a cycle (R79, R217, R246). -/
def lineUses (c : Nat) (lines : List Nat) : List (Nat × Nat) :=
  ((lines.filter fun l => offData (addrOff l)).foldl (fun (acc : List Nat × List (Nat × Nat)) l =>
    (bankKey l :: acc.1, acc.2 ++ [(ridTile 4 (addrTile l) (addrBank l), c + acc.1.count (bankKey l))])) ([], [])).2

/-- The lines of `n` bytes. -/
def byteLines (addr n : Nat) : List Nat := (linesOf addr n).map (64 * ·)

/-- The pseudo-channels of the 64-byte units that `n` bytes of HBM touch, one for each access. -/
def hbmUnits (pa n : Nat) : List Nat := (linesOf pa n).map fun l => ridHbm (64 * l)

/-- The resources that `n` bytes at a location take: the banks of their lines, or the pseudo-channels of HBM. -/
def locRids (l : Loc) (n : Nat) : List Nat :=
  match l with
  | .sram a => (bankRid a ++ ((byteLines a n).drop 1).flatMap bankRid).eraseDups
  | .mem true _ _ _ => []
  | .mem false pa _ _ => (hbmUnits pa n).eraseDups

/-- Accesses to HBM by operation `id` of agent `a` in a cycle: each is a use of its window, which admits four in a slot (R74). -/
def hbmUse (s : State) (a id pa n cycle : Nat) : State :=
  let slot := (gtOf s + (cycle - s.now)) / 16
  (hbmUnits pa n).foldl (fun s rid =>
    let old := kget (0, 0) s.hbmUses (calKey rid slot)
    let k := (if old.1 = slot then old.2 else 0) + 1
    let s := { s with hbmUses := kset (0, 0) s.hbmUses (calKey rid slot) (slot, k) }
    opUses (if 4 < k then misuse s a 0 cycle id else s) a id [(rid, cycle)]) s

/-- The uses of a booked step's access that sets out in cycle `start`: its bank cycles with the links on its way, or its channel (R74, R217). -/
def accessUses (s : State) (a id : Nat) (l : Loc) (lines : List Nat) (start perf : Nat) : State :=
  if isBooked s a then (match l with
    | .sram addr => opUses s a id (lineUses perf lines ++ routeUses a (addrTile addr) start)
    | .mem true _ _ _ => opUses s a id [(locRid l, perf)]
    | .mem false pa _ _ => hbmUse s a id pa 1 perf)
  else s

/-- An operation on its way: its identifier, its location, the cycle of its performance, and whether that cycle is promised. -/
structure Leave where
  id : Nat
  loc : Loc
  perf : Nat
  fixed : Bool

/-- The step's Prompt Book mode: 3 where the context is excluded or no step runs (R110, R112). -/
def pbOf (s : State) (a : Nat) : Nat :=
  match (bk s a).run with
  | some r => r.pbMode
  | none => 3

/-- Where an `ls` address stands: an SRAM address of a tile, or an offset of the task's window that the dock core's `ch` translates
(R21, R213, R225). -/
def locate (s : State) (a addr : Nat) (write : Bool) : State × Except Nat Loc :=
  if isDock a then
    let va := (match (bk s a).run with
      | some r => r.window
      | none => 0) + addr
    let t := translate s a (slotOf s a) va write
    (t.1, match t.2 with
      | .error c => .error c
      | .ok (p, _) => if p.host || paOk p.pa then .ok (.mem p.host p.pa p.key va) else .error 0x42)
  else (s, .ok (.sram addr))

/-- The cycle of the last row on its way to a handle's buffer, which a later row of the handle comes no earlier than (R261). -/
def handleFrom (s : State) (a : Nat) (hnd : Option Nat) : Nat :=
  if hnd.isNone then 0 else (ag s a).outs.foldl (fun m o => if o.hnd = hnd then max m o.perfAt else m) 0

/-- Sends an access of class `c` to the lines of a place on its way. A cycle that is not promised is free, and no earlier than the accesses it is
ordered behind; `start` is the cycle from which it travels (R88). -/
def leaveLines (s : State) (a c : Nat) (l : Loc) (keys lines : List Nat) (hnd : Option Nat) (store : Bool) (start : Nat) (named : Bool)
    (writes : Bool := store) : State × Leave :=
  let i := newId s
  let p := pathCycles s a l
  let d := if p.2 then (0, i.2) else freeDelay i.2
  let perf := max (start + p.1 + d.1) (max (orderedFrom s a c keys) (handleFrom s a hnd))
  let t := addOut d.2 a { id := i.1, cls := c, store := store, writes := writes, put := false, addr := locAddr l, home := locHome l, keys := keys, perfAt := perf,
                          key := stepOf s a, hnd := hnd }
  (accessUses t a (if named then i.1 else 0) l lines start perf, { id := i.1, loc := l, perf := perf, fixed := p.2 })

/-- An `ls` access of `n` bytes leaves. -/
def leave (s : State) (a c : Nat) (l : Loc) (n : Nat) (store : Bool) (start : Nat) (writes : Bool := store) : State × Leave :=
  let keys := match l with
    | .sram addr => [bankKey addr, bankKey (addr + n - 1)]
    | l => [locKey l]
  leaveLines s a c l keys [locAddr l] none store start true writes

/-- The due cycle of a result, `extra` cycles after the data of the performance are back, if it is promised. -/
def Leave.due (x : Leave) (extra : Nat) : Option Nat := if x.fixed then some (x.perf + dataReturn x.loc + extra) else none

/-- A translation that fails at a dock core is refused there (R225, R380). -/
def refuseTranslation (s : State) (x : OpCtx) (addr cause : Nat) (write : Bool) : State :=
  let i := newId s
  let d := freeDelay i.2
  deferFault d.2 x.a { cause := cause, addr := addr, org := orgOf s x.a x.slot, id := i.1,
                       va := some ((match (bk s x.a).run with
                         | some r => r.window
                         | none => 0) + addr, write) } (s.now + d.1)

/-- The causes of an address at the trigger (R16, R80, R216, R219): unmapped or outside the data banks before misaligned. -/
def addrCause (a addr n align : Nat) (data : Bool) : Option Nat :=
  if isTile a && !(if data then inData addr n else allMapped addr n) then some 0x40
  else if addr % align ≠ 0 then some 0x43 else none

/-- The step of a request stands Parked (R381). -/
def isParked (s : State) (k : StepKey) : Bool :=
  match stepRec s k with
  | some r => r.st == .parked
  | none => false

/-- The tile has no other parked fault, and the step is not booked, so that it may park (R41, R381). -/
def mayPark (s : State) (a : Nat) (k : StepKey) : Bool :=
  !stepBooked s a k && (isParked s k || isDock a || !(match (ag s a).wings.run with
    | some x => isParked s x.key
    | none => false))

/-- A dock core's access under a pager region is kept as it would have left, and its task learns of the fault (R381). -/
def keepAccess (s t : State) (x : OpCtx) (addr cause va : Nat) (write : Bool) : State :=
  let id := s.seq
  let mine := fun (e : Entry) => match e.what with
    | .ev i o => if occId o = id then some ({ id := id, ev := i, occ := o } : Kept) else none
    | .issue _ => none
  let t := { t with agenda := t.agenda.filter fun e => (mine e).isNone }
    |> fun u => modAg u x.a fun g => { g with kept := g.kept ++ t.agenda.filterMap mine }
  let d := freeDelay t
  deferFault d.2 x.a { cause := cause, addr := addr, org := orgOf s x.a x.slot, id := 0, va := some (va, write) } (s.now + d.1)

/-- The host's copy of a line that an access meets must be recalled first: any copy before a write, a modified one before a read (R412). -/
def recallDue (s : State) (l : Loc) (n : Nat) (write : Bool) : Bool :=
  match l with
  | .mem false pa _ _ => (linesOf pa n).any fun i => decide ((if write then 1 else 2) ≤ kget 0 s.hostLines i)
  | _ => false

/-- The host's copies are recalled for an access of a step, in cycles that are not promised; to a booked one the first of them is a use outside the
booking (R412). -/
def recallLines (s : State) (a : Nat) (k : StepKey) (l : Loc) (n : Nat) : Nat × State :=
  let s := match l with
    | .mem false pa _ _ => { s with hostLines := (linesOf pa n).foldl (fun m i => kset 0 m i 0) s.hostLines }
    | _ => s
  freeDelay (if stepBooked s a k then checkUse false a s else s)

/-- The recalls that an access to several places needs first, all at once: the cycles they take; none where no copy is due (R412). -/
def recallAll (s : State) (a : Nat) (k : StepKey) (write : Bool) (ls : List (Loc × Nat)) : Option (Nat × State) :=
  match ls.filter fun l => recallDue s l.1 l.2 write with
  | [] => none
  | l :: ls => some (ls.foldl (fun d l => let r := recallLines d.2 a k l.1 l.2; (max d.1 r.1, r.2)) (recallLines s a k l.1 l.2))

/-- A page that blocks writes holds a dock core's write to it (R384). -/
def dockBlocked (s : State) (a addr : Nat) (write : Bool) : Bool :=
  write && isDock a && (match (bk s a).run with
    | none => false
    | some r => !pinnedPage s r.slot (r.window + addr) && match (tlbOf s a).find? fun t => tlbHits t r.slot (r.window + addr) with
      | some t => pteWb t.leaf
      | none => (match walk s r.slot (r.window + addr) with
        | .ok (l, _, _) => pteWb l
        | .error _ => false))

/-- Locates an access at its trigger and goes on; where its translation fails the refusal sets out, or the access is kept (R225, R381). -/
def withLoc (s : State) (x : OpCtx) (addr : Nat) (write : Bool) (k : State → Loc → State) : State :=
  let r := locate s x.a addr write
  match r.2 with
  | .ok l => k r.1 l
  | .error c =>
    let va := (match (bk s x.a).run with
      | some r => r.window
      | none => 0) + addr
    if 0xA0 ≤ c ∧ (pagerRegion s (slotOf s x.a) va).isSome then keepAccess r.1 (k r.1 (.mem false 0 none va)) x addr c va write
    else refuseTranslation r.1 x addr c write

end Sys2Proof.Machine
end

