-- ==== Sys2Proof/Machine/Units.lean ====
section
/-! DEFINITION. What a tile's units do at the start and the end of a step (R307, R320, R430). -/

namespace Sys2Proof.Machine

/-! ### Routers (R232) -/

def rtr (s : State) (t : Nat) : Router := kget {} s.routers t

def modRouter (s : State) (t : Nat) (f : Router → Router) : State := { s with routers := kmod {} s.routers t f }

def treeAt (s : State) (t : Nat) (n : Fin 16) : Tree := kget {} (rtr s t).trees n.val

def modTree (s : State) (t : Nat) (n : Fin 16) (f : Tree → Tree) : State := modRouter s t fun r => { r with trees := kmod {} r.trees n.val f }

/-! ### Loam units (R299 to R301) -/

def lmOf (s : State) (t : Nat) : Loam := (bk s t).lm

def modLm (s : State) (t : Nat) (f : Loam → Loam) : State := modBk s t fun b => { b with lm := f b.lm }

def lmBank (l : Loam) (b : Nat) : LmBank := kget {} l.banks b

/-- Whether tick x precedes tick y (R300). -/
def precedes (x y : Nat) : Bool :=
  let d := (y % 2 ^ 20 + 2 ^ 20 - x % 2 ^ 20) % 2 ^ 20
  decide (1 ≤ d) && decide (d ≤ 2 ^ 19 - 1)

def evTime (w : BitVec 64) : Nat := w.toNat / 2 ^ 44
def evBank (w : BitVec 64) : Nat := w.toNat / 2 ^ 29 % 16

/-! ### Matrix units (R268) -/

def mxOf (s : State) (t : Nat) : Mx := kget {} s.mx t

def modMx (s : State) (t : Nat) (f : Mx → Mx) : State := { s with mx := kmod {} s.mx t f }

/-- A handle of a step, wherever its bank stands. -/
def stepHandle (s : State) (a : Nat) (k : StepKey) (n : Nat) : Option (BitVec 128) :=
  let has_ := fun (b : Bank) => b.run.any fun r => r.key == k
  if has_ (ag s a).front then some (kget 0 (ag s a).front.h n)
  else if has_ (ag s a).wings then some (kget 0 (ag s a).wings.h n) else none

/-- Changes the bank that holds a step. -/
def modStepBank (s : State) (a : Nat) (k : StepKey) (f : Bank → Bank) : State :=
  let own := fun (b : Bank) => match b.run with
    | some r => r.key == k
    | none => false
  modAg s a fun g => if own g.front then { g with front := f g.front } else if own g.wings then { g with wings := f g.wings } else g

/-- The handle that a row of step `k` streams through: in the step's bank, or as the step left it (R261). -/
def rowHandle (s : State) (a : Nat) (k : StepKey) (n : Nat) : BitVec 128 :=
  match stepHandle s a k n with
  | some h => h
  | none => (((ag s a).oldH.find? fun o => o.key == k && o.no == n).map (·.h)).getD 0

def setRowHandle (s : State) (a : Nat) (k : StepKey) (n : Nat) (h : BitVec 128) : State :=
  if (stepHandle s a k n).isSome then modStepBank s a k fun b => { b with h := kset 0 b.h n h }
  else modAg s a fun g => { g with oldH := g.oldH.map fun o => if o.key = k ∧ o.no = n then { o with h := h } else o }

/-- A row's claim on its handle ends (R261). A handle kept for a step that is over goes with the last of its rows. -/
def unclaim (s : State) (a : Nat) (k : StepKey) (n : Nat) : State :=
  let s := modStepBank s a k fun b => { b with claimed := kmod 0 b.claimed n (· - 1) }
  modAg s a fun g => { g with oldH := g.oldH.filter fun o => o.key ≠ k || g.outs.any fun p => p.key == k && p.hnd == some o.no }

/-- The handles of a step's rows that are still on their way when it ends are kept (R261). -/
def keepHandles (s : State) (a : Nat) (k : StepKey) : State :=
  modAg s a fun g => { g with oldH := g.oldH ++ ((g.outs.filterMap fun o => if o.key = k then o.hnd else none).eraseDups.map fun n =>
    { key := k, no := n, h := (stepHandle s a k n).getD 0 }) }

/-- The handle field of a command's configuration: `ha`, `hb` or `hd` (R269). -/
def mxHandleNo (c : MxCmd) : Nat :=
  match c.op with
  | .run _ _ _ _ _ _ _ => c.cfg.toNat % 16
  | .drainc _ _ _ _ _ => c.cfg.toNat / 2 ^ 8 % 16
  | _ => c.cfg.toNat / 2 ^ 4 % 16

/-! ### Copy engines -/

def cceOf (s : State) (e : Nat) : Cce := kget {} s.cces e

def modCce (s : State) (e : Nat) (f : Cce → Cce) : State := { s with cces := kmod {} s.cces e f }

/-- Changes every command of an engine's lanes and buffer. -/
def mapCopies (f : Copy → Copy) (c : Cce) : Cce :=
  { c with
    lanes := c.lanes.map fun l => (l.1, { l.2 with queue := l.2.queue.map f, run := l.2.run.map f, tail := l.2.tail.map f })
    timed := c.timed.map f }

/-- Commands of an engine that are accepted and not complete. -/
def copiesOf (c : Cce) : List Copy := (c.lanes.flatMap fun l => l.2.queue ++ l.2.run.toList ++ l.2.tail) ++ c.timed

/-- The units of a tile at a step's start: the array's priority and key are reset (R268, R273), and so are the counters of `nt` (R240). The
Loam unit is the bank's (R307). -/
def unitsStart (s : State) (a : Nat) : State :=
  let s := if kget {} s.mx a = {} then s else modMx s a fun m => { m with key := 0, prio := 0 }
  modRouter (modAg s a fun g => { g with refusals := 0, blockHits := 0 }) a fun r => { r with discards := 0 }

/-- The units when the running step reaches Done or Yielded: its queued matrix commands, its copies and its rows on their way keep their handles
(R196, R261, R268), and the Loam unit stops (R307). -/
def unitsStop (s : State) (a : Nat) : State :=
  let keep := fun (c : MxCmd) => match (bk s a).run with
    | some r => if c.step = r.key ∧ c.h.isNone then { c with h := stepHandle s a r.key (mxHandleNo c) } else c
    | none => c
  let s := if kget {} s.mx a = {} then s else modMx s a fun m => { m with q := m.q.map keep }
  let keepCopy := fun (c : Copy) => match (bk s a).run, c.x.hnd with
    | some r, some n => if c.req.agent = a ∧ c.req.step = r.key ∧ c.h.isNone then { c with h := stepHandle s a r.key n } else c
    | _, _ => c
  let s := if kget {} s.cces (engineOf a) = {} then s else modCce s (engineOf a) (mapCopies keepCopy)
  let s := match (bk s a).run with
    | some r => keepHandles s a r.key
    | none => s
  modBk s a fun b => { b with lm := {} }

/-- The step that an operation on its way belongs to. -/
def occStep : Occ → Option StepKey
  | .access x => some x.step
  | .amo _ x => some x.step
  | .sync x => some x.step
  | .pkt x => some x.step
  | .pktPos x _ => some x.step
  | _ => none

def entryStep (e : Entry) : Option StepKey :=
  match e.what with
  | .ev _ o => occStep o
  | .issue _ => none

/-- The packet of an entry. -/
def entryPkt (e : Entry) : Option Nat :=
  match e.what with
  | .ev _ (.pkt p) => some p.id
  | .ev _ (.pktPos p _) => some p.id
  | _ => none

/-- The sender of an entry's packet. -/
def entrySender (e : Entry) : Option Nat :=
  match e.what with
  | .ev _ (.pkt p) => some p.agent
  | .ev _ (.pktPos p _) => some p.agent
  | _ => none

/-- Operations of a step that are not yet complete, but for the packets `skip` and the copies `apart`. -/
def busyBut (s : State) (k : StepKey) (skip apart : List Nat) : Bool :=
  (s.agenda.any fun e => entryStep e == some k && !(entryPkt e).any skip.contains) ||
  (s.mx.any fun e => e.2.q.any fun c => c.step == k) ||
  (s.cces.any fun e => ((copiesOf e.2).any fun c => c.req.step == k && !apart.contains c.req.id) ||
    (e.2.pend ++ e.2.kept ++ e.2.pubs).any fun q => q.step == k) ||
  s.agents.any fun e => (e.2.outs.any fun o => o.key == k) ||
    e.2.chans.any fun c => (c.2.pkts.any fun p => p.1.step == k && !skip.contains p.1.id) ||
      (c.2.refused.any fun p => p.1.step == k && !skip.contains p.1.id)

/-- Operations of a step that are not yet complete (R196, R365, R430). -/
def stepBusy (s : State) (k : StepKey) : Bool := busyBut s k [] []

/-- A contribution to a tree. -/
def isReduce (p : Pkt) : Bool :=
  match p.kind with
  | .reduce _ _ _ _ => true
  | _ => false

/-- An agent's contributions that its router has refused. -/
def refusedReduce (s : State) (a : Nat) : List Pkt :=
  (ag s a).chans.flatMap fun c => (c.2.refused.map (·.1)).filter isReduce

/-- Operations of a step that have neither landed nor completed in the sense of `sy.yield`: a waiting `copyt` and a refused contribution count as
complete (R375, R422). -/
def stepUnlanded (s : State) (a : Nat) (k : StepKey) : Bool :=
  busyBut s k ((refusedReduce s a).map (·.id)) ((cceOf s (engineOf a)).timed.map (·.req.id))

end Sys2Proof.Machine
end

