-- ==== Sys2Proof/Machine/MxMath.lean ====
section
/-! DEFINITION. The matrix array's arithmetic (R134 to R139, R274, R275): elements of panels and rows, one panel's partial, its scaling, and
the accumulation. -/

namespace Sys2Proof.Machine

/-- The 16-bit class (R134): 16; binary8: 8; other formats: none. -/
def widthClass (code : Nat) : Option Nat :=
  match fmtOf code with
  | some (.b8 _ _ _) => some 8
  | some f => if f = bf16 ∨ f = fp16 then some 16 else none
  | none => none

def fmtD (code : Nat) : Fmt := (fmtOf code).getD fp32

/-- K-positions of a panel (R136). -/
def panelDepth (cls : Nat) : Nat := if cls = 16 then 32 else 64

/-- Element k of a row of A, and element (k, n) of a panel (R274, R277). -/
def aElem (row cls k : Nat) : Nat := row / 2 ^ (cls * k) % 2 ^ cls
def bElem (panel cls k n : Nat) : Nat := panel / 2 ^ (cls * (32 * k + n)) % 2 ^ cls

def isZeroNum : Num → Bool
  | .fin _ m _ s => m == 0 && !s
  | _ => false

def isInfNum : Num → Bool
  | .inf _ => true
  | _ => false

def isNaNNum : Num → Bool
  | .nan _ _ => true
  | _ => false

/-- One term of a step: the exact values of a[m][k] and b[k][n]. -/
abbrev Term := Num × Num

/-- The cause of a term (R137): a NaN operand, or zero × Inf. -/
def termCause (t : Term) : Option Nat :=
  if isNaNNum t.1 || isNaNNum t.2 then some 1
  else if (isZeroNum t.1 && isInfNum t.2) || (isInfNum t.1 && isZeroNum t.2) then some 4 else none

/-- `step` of R137: the terms checked in order, then one rounded exact sum. A step without terms leaves the partial. -/
def mxStep (part : Word) (ts : List Term) : Word :=
  if isNaN32 part || ts.isEmpty then part
  else match ts.findSome? termCause with
    | some c => nan32 c
    | none =>
      let prod := ts.foldl (fun (a : Option Num) t => some (match a with
        | some x => addNum 0 x (mulNum t.1 t.2)
        | none => mulNum t.1 t.2)) none
      match prod with
      | some p => round32 0 false (addNum 0 (num32 part) p)
      | none => part

/-- The steps of a panel: single K-positions, or pairs in binary8 (R137); pruned positions are omitted (R139). DESIGN CHOICE (log 158): no operand of
a command carries K, so every position of each panel is summed, and a K that falls short of the depth reaches the array as zeros in the stream or as
pruned positions (R136). -/
def panelSteps (af bf cls row panel pruned n : Nat) : List (List Term) :=
  let term := fun (k : Nat) => if pruned.testBit (32 * k + n) then [] else
    [(decodeNum (fmtD af) (aElem row cls k), decodeNum (fmtD bf) (bElem panel cls k n))]
  if cls = 16 then (List.range 32).map term else (List.range 32).map fun i => term (2 * i) ++ term (2 * i + 1)

/-- One panel's partial, scaled with one rounding (R137). -/
def panelPart (af bf cls row panel pruned n : Nat) (sa sb : BitVec 16) : Word :=
  let part := (panelSteps af bf cls row panel pruned n).foldl mxStep 0#32
  if isNaN32 part then part else BitVec.ofNat 32 (scaleStep 0 false part.toNat sa.toNat sb.toNat)

def saOf (w : MxSet) (row panel : Nat) : BitVec 16 := kget 0x3F80#16 w.sa (8 * row + panel)
def sbOf (w : MxSet) (col panel : Nat) : BitVec 16 := kget 0x3F80#16 w.sb (8 * col + panel)

/-- An accumulator row after one panel: 32 columns, the A row as a number (R137). -/
def accRow (w : MxSet) (af : Nat) (acc : Row) (row arow panel : Nat) : Row :=
  let cls := (widthClass w.held).getD 16
  rowOfLanes fun n => if n < 32 then
    fadd32 (lane acc n) (panelPart af w.held cls arow (kget 0 w.w panel) (kget 0 w.pruned panel) n (saOf w row panel) (sbOf w n panel)) else 0

/-- The cause of the first NaN to enter an accumulator row, lowest column first (R138). -/
def newNaN (old new : Row) : Option Nat :=
  ((List.range 32).find? fun n => isNaN32 (lane new n) && !isNaN32 (lane old n)).map fun n => (lane new n).toNat % 8

/-- Replaces `n` bits of a number at bit `at_`. -/
def putBits (v at_ n x : Nat) : Nat := v - v / 2 ^ at_ % 2 ^ n * 2 ^ at_ + x % 2 ^ n * 2 ^ at_

/-! ### Sparse passes (R275) -/

/-- Byte n of group g of an index block: legal positions of the two kept values. -/
def indexOk (b : Nat) : Bool := decide (b < 16) && decide (b % 4 < b / 4 % 4)

/-- Bytes of an index block. -/
def indexBytes (cls : Nat) : Nat := panelDepth cls / 2 * 32

/-- A sparse pass as two dense panels with +0 at the pruned positions, and their pruned bits: `vals` is the kept values and `idx` the index
block. -/
def expandPass (cls vals idx : Nat) : (Nat × Nat) × (Nat × Nat) :=
  let groups := panelDepth cls / 2
  let perPanel := panelDepth cls / 4
  let cells := (List.range groups).flatMap fun g => (List.range 32).flatMap fun n =>
    let b := idx / 2 ^ (8 * (32 * g + n)) % 256
    [(g, b % 4, n, bElem vals cls (2 * g) n), (g, b / 4 % 4, n, bElem vals cls (2 * g + 1) n)]
  let all := 2 ^ (32 * panelDepth cls) - 1
  cells.foldl (fun (r : (Nat × Nat) × (Nat × Nat)) c =>
    let k := 4 * (c.1 % perPanel) + c.2.1
    let bit := 32 * k + c.2.2.1
    if c.1 < perPanel then ((putBits r.1.1 (cls * bit) cls c.2.2.2, putBits r.1.2 bit 1 0), r.2)
    else (r.1, (putBits r.2.1 (cls * bit) cls c.2.2.2, putBits r.2.2 bit 1 0))) ((0, all), (0, all))

/-- Every index byte of 64 is legal. -/
def blockOk (v : Nat) : Bool := (List.range 64).all fun i => indexOk (v / 2 ^ (8 * i) % 256)

end Sys2Proof.Machine
end

