-- ==== Sys2Proof/Machine/Kernel.lean ====
section
/-! DEFINITION. Kernel objects and operator blocks as the walker reads them (R26 to R28, R346 to R356). -/

namespace Sys2Proof.Machine

/-- `n` bytes at a virtual address; 0 where they cannot be read. -/
def rdVa (s : State) (slot va n : Nat) : Nat := (vread s slot va n).getD 0

/-- Every page of a span translates with read permission (R349). -/
def spanReadable (s : State) (slot va n : Nat) : Bool :=
  (List.range ((va + n - 1) / 65536 - va / 65536 + 1)).all fun i => match translateIo s slot ((va / 65536 + i) * 65536) false with
    | .ok _ => true
    | .error _ => false

/-! ### Sections (R348, R349) -/

/-- A section: type, key, offset, length. -/
structure Sect where
  type : Nat
  key : Nat
  off : Nat
  len : Nat
  deriving DecidableEq, Repr

def sectOf (v : Nat) : Sect := { type := fld v 0 2, key := fld v 2 2, off := fld v 4 4, len := fld v 8 4 }

def sectTypes : List Nat := [0x01, 0x02, 0x03, 0x04, 0x05, 0x06, 0x07, 0x08, 0x10, 0x11, 0x20]

def keyed (t : Nat) : Bool := t == 0x10 || t == 0x11

/-- Two sections that may not stand together: they overlap, or both are the one of their type and key. -/
def sectsClash (x y : Sect) : Bool :=
  (x.type == y.type && (!keyed x.type || x.key == y.key)) ||
    (decide (x.off < y.off + y.len) && decide (y.off < x.off + x.len))

def sectsApart : List Sect → Bool
  | [] => true
  | x :: xs => (xs.all fun y => !sectsClash x y) && sectsApart xs

/-- The stepping id of the device (R406). -/
def stepping : Nat := (Config.capability 1).toNat % 65536

/-- The section of a keyed type that R351 chooses. -/
def chooseSect (ss : List Sect) (t : Nat) : Option Sect :=
  match ss.find? fun x => x.type == t && x.key == stepping with
  | some x => some x
  | none => ss.find? fun x => x.type == t && x.key == 0xFFFF

def oneSect (ss : List Sect) (t : Nat) : Option Sect := ss.find? fun x => x.type == t

/-- The words of a blob: `n` items of `k` bytes. -/
def items (v k n : Nat) : List Nat := (List.range n).map fun i => fld v (k * i) k

/-! ### The portable operation list (R352, R353) -/

/-- Operations that CLZ-1 does not contain. -/
def clz1Has : Instr → Bool
  | .sqScene _ | .sqBrswap _ | .mxWloadx _ | .mxRunsp _ | .mxGrp _ | .chExpand _ _ | .chShadow _ _ | .chPublish _
  | .ntSpawn _ | .ntEvent _ | .ntMxcmd _ | .syPbmark _ => false
  | _ => true

/-- A value code that may be read or written. -/
def valCode (c : Nat) : Bool := decide (c < 0x80) || c == 0xFE || c == 0xFF || (decide (0x8000 ≤ c) && decide (c < 0xFFFF))

/-- The format codes that a record's immediate names, where its operand with the formats is the immediate (R252, R269, R271, R353). -/
def immFormats (u : Sock) (op a0 tv imm : Nat) : List Nat :=
  if a0 = 0xFE ∧ u = .vx ∧ (op = 0x301 ∨ op = 0x303) then [imm / 2 ^ 8 % 64, imm % 64]
  else if a0 = 0xFE ∧ u = .mx ∧ (op = 0x002 ∨ op = 0x004) then [imm % 64]
  else if tv = 0xFE ∧ u = .mx ∧ op = 0x001 then [imm / 2 ^ 12 % 64]
  else []

/-- A binary8 format code, of a precision from 1 to 7 (R124). -/
def b8Code (c : Nat) : Bool := c / 8 % 2 == 1 && c % 8 != 0

/-- One record's own checks. -/
def recordOk (v : Nat) : Bool :=
  let b0 := fld v 0 1
  let op := fld v 1 2
  let b3 := fld v 3 1
  let u := sockOfId (b0 % 64)
  let res := fld v 4 2
  let gon := b0 / 128 = 1
  (b0 / 64 % 2 == 0) && decide (op < 4096) && (gon || b3 % 16 == 0) && (decide (b3 / 128 = 1) || b3 / 16 % 8 == 0) &&
  (match u with
    | none => false
    | some u => u != .lm && u != .cq &&
        (if op = 0 then decide (res < 64) && decide (res < sockPorts u) && valCode (fld v 6 2) && fld v 8 4 == 0xFF00FF
         else valCode res && res != 0xFE && valCode (fld v 6 2) && valCode (fld v 8 2) && valCode (fld v 10 2) &&
           (match decOp u (BitVec.ofNat 12 op) ⟨none, .zero⟩ with
            | some i => clz1Has i
            | none => false) &&
           (immFormats u op (fld v 6 2) (fld v 10 2) (fld v 12 4)).all fun c => !b8Code c))

/-- Virtual values are written before they are read. -/
def virtualsOk : List Nat → List Nat → Bool
  | [], _ => true
  | v :: vs, written =>
    let op := fld v 1 2
    let reads := if op = 0 then [fld v 6 2] else [fld v 6 2, fld v 8 2, fld v 10 2]
    (reads.all fun c => decide (c < 0x8000) || written.contains c) &&
      virtualsOk vs (if op ≠ 0 ∧ 0x8000 ≤ fld v 4 2 then fld v 4 2 :: written else written)

/-- Each record with `op` = 0 belongs to the operation that follows: it names a port of the same socket beyond those that the operation's own record
fills, and the ports of one operation stand in ascending order (R353). `last` is the socket and the port of the record before, where it was such a
record. DEDUCED (log 176). -/
def portsOk : List Nat → Option (Nat × Nat) → Bool
  | [], last => last.isNone
  | v :: vs, last =>
    let u := fld v 0 1 % 64
    let c := fld v 4 2
    if fld v 1 2 = 0 then decide (2 ≤ c) && (last.all fun l => l.1 == u && decide (l.2 < c)) && portsOk vs (some (u, c))
    else (last.all fun l => l.1 == u) && portsOk vs none

/-! ### The object -/

/-- The header's own checks (R348, R356). -/
def headerOk (h : Nat) : Bool :=
  fld h 0 4 == 0x4B4F4233 && fld h 4 1 == 1 && decide (fld h 6 1 ≤ fld h 5 1) && decide (fld h 6 1 ≤ 3) && decide (fld h 7 1 < 4) &&
    decide (1 ≤ fld h 8 2) && decide (fld h 10 2 < 4096) && decide (fld h 12 4 < 2 ^ 17) && decide (fld h 22 1 ≤ 8) && fld h 23 1 == 0 &&
    decide (1 ≤ fld h 28 1) && decide (fld h 28 1 ≤ 32) && fld h 29 35 == 0

/-- The section table's checks (R348, R349). -/
def tableOk (h : Nat) (rows : List Nat) : Bool :=
  let ss := rows.map sectOf
  rows.all (fun r => fld r 12 4 == 0) && ss.all (fun x => sectTypes.contains x.type && x.off % 64 == 0 &&
    decide (64 + 16 * rows.length ≤ x.off) && decide (x.off + x.len ≤ 2 ^ 32)) && sectsApart ss &&
    fld h 24 4 == (match oneSect ss 0x08 with
      | some x => x.len
      | none => 0)

/-- A section's length and reserved fields (R349). `v` is its content. -/
def contentOk (overlay : Bool) (x : Sect) (v : Nat) : Bool :=
  match x.type with
  | 0x01 => x.len % 8 == 0 && decide (8 ≤ x.len) && decide (x.len ≤ 48) &&
      (items v 8 (x.len / 8)).all fun e => decide (fld e 0 1 ≤ 2) && fld e 3 1 == 0 && fld e 6 2 == 0
  | 0x02 => x.len % 16 == 0
  | 0x03 => x.len == 576 && fld v 514 62 == 0
  | 0x04 => x.len % 4 == 0 && decide (x.len ≤ 256) && (items v 4 (x.len / 4)).all fun e => fld e 3 1 == 0
  | 0x05 => x.len % 12 == 0 && (items v 12 (x.len / 12)).all fun e => fld e 5 1 == 0 && decide (fld e 8 2 < 4096) && fld e 10 2 == 0
  | 0x06 => x.len % 16 == 0 && decide (x.len ≤ 4096)
  | 0x07 => x.len % 4 == 0 && (items v 4 (x.len / 4)).all fun e =>
      (fld e 1 1 == 1 || fld e 1 1 == 2) && decide (fld e 2 1 < 16) && fld e 3 1 == 0
  | 0x10 => x.len % 64 == 0 && decide (x.len ≤ (if overlay then 512 else 65536) * 64)
  | 0x11 => decide (128 ≤ x.len) && (x.len - 128) % 64 == 0 && decide (x.len ≤ 128 + 16384) &&
      (items v 2 64).all fun e => e / 256 % 128 == 0
  | 0x20 => x.len % 16 == 0 && (items v 16 (x.len / 16)).all recordOk && virtualsOk (items v 16 (x.len / 16)) [] && portsOk (items v 16 (x.len / 16)) none
  | _ => true

/-- Bytes of a section that the checks read: all but the data image's and the native bundles'. -/
def checkedBytes (x : Sect) : Nat := if x.type = 0x08 ∨ x.type = 0x10 then 0 else x.len

/-- The kernel object at a virtual address of a slot, or none: unreadable, malformed, without code for the stepping, or too new
(R349, R351, R356). An object whose only code is portable has none that the device can run: translating it is the loader's work. DESIGN CHOICE
(log 160): an object without a loop table has no levels, and a launch of it has one step. -/
def readKernel (s : State) (slot va : Nat) : Option Kern :=
  match vread s slot va 64 with
  | none => none
  | some h =>
    let n := fld h 28 1
    match vread s slot (va + 64) (16 * n) with
    | none => none
    | some tb =>
      let rows := items tb 16 n
      let ss := rows.map sectOf
      let overlay := fld h 7 1 / 2 % 2 = 1
      let span := (ss.map fun x => x.off + x.len).foldl max (64 + 16 * n)
      let body := fun (o : Option Sect) => match o with
        | some x => rdVa s slot (va + x.off) x.len
        | none => 0
      let len := fun (o : Option Sect) => match o with
        | some x => x.len
        | none => 0
      if va % 64 ≠ 0 ∨ !headerOk h ∨ !tableOk h rows ∨ !spanReadable s slot va span ∨
          !(ss.all fun x => contentOk overlay x (rdVa s slot (va + x.off) (checkedBytes x))) then none
      else match chooseSect ss 0x10 with
        | none => none
        | some code =>
          let sc := chooseSect ss 0x11
          let lv := oneSect ss 0x01
          let pi := oneSect ss 0x07
          some
            { restartable := fld h 7 1 % 2 = 1
              overlay := overlay
              maxIter := fld h 8 2
              fumode := BitVec.ofNat 12 (fld h 10 2)
              tvec := BitVec.ofNat 17 (fld h 12 4)
              overstated := decide (3 < fld h 5 1)
              needG := fld h 16 1
              needLoop := fld h 18 1
              needCalls := fld h 19 1
              needFrame := 64 * fld h 20 2
              needPairs := fld h 22 1
              levels := (items (body lv) 8 (len lv / 8)).map fun e => (fld e 0 1, fld e 1 1, fld e 2 1, fld e 4 2)
              cues := (oneSect ss 0x02).map fun x => items (body (some x)) 16 (x.len / 16)
              image := body (oneSect ss 0x03)
              entries := (items (body (oneSect ss 0x04)) 4 (len (oneSect ss 0x04) / 4)).map fun e => (e % 65536, e / 65536 % 256)
              spawns := items (body (oneSect ss 0x06)) 16 (len (oneSect ss 0x06) / 16)
              pipes := (items (body pi) 4 (len pi / 4)).map fun e => (fld e 0 1, fld e 1 1, fld e 2 1)
              dataLen := len (oneSect ss 0x08)
              data := body (oneSect ss 0x08)
              codeVa := va + code.off
              codeLen := code.len / 64
              code := if overlay then body (some code) else 0
              sceneTab := fld (body sc) 0 128
              sceneLen := (len sc - 128) / 64
              scenes := fld (body sc) 128 (len sc - 128) }

/-! ### The operator block (R26 to R29) -/

/-- A tensor descriptor (R26). -/
def tensorOk (v : Nat) : Bool :=
  let r := fld v 9 1
  fld v 6 2 / 16 == 0 && decide (fld v 8 1 < 64) && (fmtOf (fld v 8 1)).isSome && decide (1 ≤ r) && decide (r ≤ 5) && fld v 10 2 == 0 &&
    fld v (12 + 4 * r) (20 - 4 * r) == 0 && fld v (32 + 4 * r) (20 - 4 * r) == 0 && fld v 52 12 == 0

/-- The extent table of the operator block at a virtual address; none for a block that cannot be read or breaks R26. -/
def readOpBlock (s : State) (slot va : Nat) : Option (List Nat) :=
  match vread s slot va 128 with
  | none => none
  | some h =>
    let n := fld h 6 1
    let k := fld h 5 1
    match vread s slot (va + 128) (64 * k) with
    | none => none
    | some ts =>
      if va % 64 = 0 ∧ fld h 0 4 = 0x4F504231 ∧ fld h 4 1 = 1 ∧ k ≤ 16 ∧ n ≤ 16 ∧ fld h 7 1 < 2 ∧ fld h 8 56 = 0 ∧
          fld h (64 + 4 * n) (64 - 4 * n) = 0 ∧ (items ts 64 k).all tensorOk then some (items (fld h 64 64) 4 n)
      else none

/-- Level kinds stand in the order dies, tiles, temporal (R28). -/
def kindsOrdered : List Nat → Bool
  | [] => true
  | k :: ks => ks.all (· ≤ k) && kindsOrdered ks

/-- The loop table against the block (R28). -/
def levelsOk (k : Kern) (ext : List Nat) : Bool :=
  kindsOrdered (k.levels.map (·.1)) && k.levels.all fun l => decide (l.2.1 < ext.length) && (l.1 == 0 || decide (l.2.2.1 < 120))

/-- The needs of a kernel against one tile (R34, R346). -/
def needsOk (k : Kern) : Bool :=
  decide (k.needLoop ≤ 6) && decide (k.needFrame + k.dataLen ≤ 0x170000) && decide (k.needG ≤ 114)

/-- A task's kernel (R350): cache mode, no spatial level, no cue list. -/
def taskKernel (k : Kern) : Bool := !k.overlay && k.levels.all (·.1 == 0) && k.cues.isNone

/-- The kernel that entry `e` of a spawn table names, or none where it counts as not present (R350). -/
def spawnEntry (s : State) (slot : Nat) (spawns : List Nat) (e : Nat) : Option Kern :=
  match spawns[e]? with
  | none => none
  | some v =>
    if fld v 8 1 ≠ 1 ∨ fld v 9 7 ≠ 0 ∨ 2 ^ 52 ≤ fld v 0 8 then none
    else (readKernel s slot (fld v 0 8)).filter taskKernel

end Sys2Proof.Machine
end

