-- ==== Sys2Proof/Machine/Nest.lean ====
section
/-! DEFINITION. The loop nest that runs on `vx` (R262 to R266): its points, rows, element results and cycles. -/

namespace Sys2Proof.Machine

/-- Extent of a level (R171). -/
def nestExt (n : Nest) (l : Nat) : Nat := (n.ext.extractLsb' (12 * l) 12).toNat

/-- Stride of operand `o` (0 dst, 1 a, 2 b) at level `l` (R171). -/
def nestStride (n : Nest) (o l : Nat) : Int := (n.stride.extractLsb' (11 * (5 * o + l)) 11).toInt

/-- How many points there are (R264). -/
def nestPoints (n : Nest) : Nat := nestExt n 0 * nestExt n 1 * nestExt n 2 * nestExt n 3 * nestExt n 4

/-- Index of point `k` at level `l`, level 0 fastest (R264). -/
def nestIdx (n : Nest) (k l : Nat) : Nat :=
  k / ((List.range l).foldl (fun m j => m * nestExt n j) 1) % nestExt n l

/-- Row address of operand `o` at point `k` (R264). -/
def nestAddr (n : Nest) (base o k : Nat) : Nat :=
  let off := (List.range 5).foldl (fun acc l => acc + nestStride n o l * (nestIdx n k l : Int)) (0 : Int)
  (((base : Int) + 64 * off) % (2 ^ 32 : Nat)).toNat

/-- Element format; reserved codes are refused at the trigger. -/
def nestFmt (n : Nest) : Fmt := (fmtOf n.efmt.toNat).getD fp32

/-- Bytes of an element and of a row (R263). -/
def nestWidth (n : Nest) : Nat := fmtBits (nestFmt n) / 8
def nestRow (n : Nest) : Nat := 64 * nestWidth n

/-- The integer element operations (R263). -/
def nestInt (n : Nest) : Bool := 0x101#12 ≤ n.eop

/-- Whether a point reads its destination row. -/
def nestReadsD (n : Nest) : Bool := n.eop == 0x004#12

/-- Element latency Lop (R265). -/
def nestLat (n : Nest) : Nat := if n.eop == 0x001#12 || n.eop == 0x002#12 || n.eop == 0x003#12 || n.eop == 0x004#12 then 6 else 2

/-- One element's result (R263). -/
def nestElem (n : Nest) (a b d : Nat) : Nat :=
  let f := nestFmt n
  let bits := fmtBits f
  let m := n.rnd.toNat
  match n.eop.toNat with
  | 0x001 => fpAdd f m n.sat a b
  | 0x002 => fpSub f m n.sat a b
  | 0x003 => fpMul f m n.sat a b
  | 0x004 => fpFma f m n.sat false false a b d
  | 0x007 => fpMin f a b
  | 0x008 => fpMax f a b
  | 0x101 => intNarrow bits n.sat (intVal bits a + intVal bits b)
  | 0x102 => intNarrow bits n.sat (intVal bits a - intVal bits b)
  | 0x103 => intNarrow bits n.sat (intVal bits a * intVal bits b)
  | 0x10A => intNarrow bits false (min (intVal bits a) (intVal bits b))
  | _ => intNarrow bits false (max (intVal bits a) (intVal bits b))

/-- A row's result from its operand rows. -/
def nestResult (n : Nest) (a b d : Nat) : Nat :=
  let w := 8 * nestWidth n
  (List.range 64).foldr (fun e acc =>
    nestElem n (a / 2 ^ (w * e) % 2 ^ w) (b / 2 ^ (w * e) % 2 ^ w) (d / 2 ^ (w * e) % 2 ^ w) + 2 ^ w * acc) 0

/-- The causes at the trigger (R171, R263, R264), the lowest first to be taken. -/
def nestCauses (a : Nat) (n : Nest) (dst ra rb : Nat) : List (Bool × Nat) :=
  let f := fmtOf n.efmt.toNat
  let base := fun (b : Nat) => addrTile b == a && offData (addrOff b)
  [(!(base dst && base ra && base rb), 0x40), (dst % 64 != 0 || ra % 64 != 0 || rb % 64 != 0, 0x43),
   (f.isNone, 0x70), (4 ≤ n.rnd.toNat, 0x71),
   ((match f with
     | some f => !isFloat f && n.rnd.toNat != 0
     | none => false), 0x73),
   ((match f with
     | some f => isFloat f == nestInt n
     | none => false), 0x74),
   ((List.range 5).any (fun l => n.redm.getLsbD l && nestStride n 0 l != 0), 0x75)]

/-- The rows a point touches: (address, is written), in the order destination, a, b, and the destination once more if it is read. -/
def nestRows (r : NestRun) (k : Nat) : List (Nat × Bool) :=
  let d := nestAddr r.nest r.dst 0 k
  [(d, true), (nestAddr r.nest r.a 1 k, false), (nestAddr r.nest r.b 2 k, false)] ++ (if nestReadsD r.nest then [(d, false)] else [])

/-- The lines of a row of the nest. -/
def rowLinesOf (r : NestRun) (addr : Nat) : List Nat := (List.range (nestWidth r.nest)).map fun j => addr + 64 * j

/-- lines(k): the most lines of a point in any one bank (R265). -/
def nestLines (r : NestRun) (k : Nat) : Nat :=
  let banks := (nestRows r k).flatMap fun x => (rowLinesOf r x.1).map bankKey
  banks.foldl (fun m b => max m (banks.filter (· == b)).length) 0

/-- A row lies in the tile's data banks (R264). -/
def nestInTile (a addr len : Nat) : Bool := addrTile addr == a && inData addr len

/-- The cause with which a point stops the nest, and the address of the row (R264). DESIGN CHOICE (log 35): of several rows that fail, the first in the
order of `nestRows`, for an address outside the data banks before an owner tag before poison. -/
def nestStop (s : State) (a slot : Nat) (r : NestRun) : Option (Nat × Nat) :=
  let len := nestRow r.nest
  let rows := nestRows r r.point
  match rows.find? fun x => !nestInTile a x.1 len with
  | some x => some (0x40, x.1)
  | none => match rows.find? fun x => !tagsOk s slot x.1 len with
    | some x => some (0x41, x.1)
    | none => (rows.find? fun x => !x.2 && poisoned s x.1 len).map fun x => (0x4E, x.1)

/-- A row of an agent's nest still to be written. -/
def nestRowOut (a : Nat) (e : Entry) : Option Nat :=
  match e.what with
  | .ev .homeAccess (.access w) => if w.agent = a ∧ w.op = .nestWrite then (match w.loc with
      | .sram d => some d
      | .mem _ _ _ _ => none) else none
  | _ => none

/-- With `redm` ≠ 0 a point waits for the writes of earlier points whose rows it reads, however late they are (R265). -/
def nestLate (s : State) (acc : Access) : Bool :=
  match (ag s acc.agent).nest with
  | none => false
  | some r =>
    let len := nestRow r.nest
    r.nest.redm ≠ 0 && (s.agenda.filterMap (nestRowOut acc.agent)).any fun d =>
      (nestRows r r.point).any fun x => !x.2 && decide (x.1 < d + len) && decide (d < x.1 + len)

/-- The cycle in which the next point reads (R265). -/
def nestNext (r : NestRun) (now : Nat) : Nat :=
  let c := now + nestLines r r.point
  if r.nest.redm = 0 then c
  else
    let len := nestRow r.nest
    let reads := (nestRows r (r.point + 1)).filterMap fun x => if x.2 then none else some x.1
    r.writes.foldl (fun m w => if reads.any fun a => decide (a < w.1 + len) && decide (w.1 < a + len) then max m (w.2 + 1) else m) c

def setNest (s : State) (a : Nat) (r : Option NestRun) : State := modAg s a fun g => { g with nest := r }

/-- The nest ends: its last row is written in cycle `lastWrite` (R265). -/
def endNest (s : State) (a : Nat) (r : NestRun) : State :=
  sched (setNest s a (some r)) (max r.lastWrite s.now) priEnd .vnestComplete (.at a)

/-- A point reads its rows in this cycle and its result row is written Lop + 1 cycles later (R265). Each cycle up to the next point's, or to the nest's
last, is a use of `vx` (R266). -/
def nestPoint (s : State) (acc : Access) : State :=
  match (ag s acc.agent).nest with
  | none => s
  | some r => match nestStop s acc.agent acc.slot r with
    | some (cause, addr) =>
      let d := freeDelay s
      let t := stepUses d.2 acc.agent 0 acc.step (spanUses d.2 (ridTile 2 acc.agent 0) s.now (r.lastWrite + 1 - s.now))
      endNest (deferFault t acc.agent { cause := cause, addr := addr, org := r.org, id := r.id } (s.now + d.1)) acc.agent r
    | none =>
      let len := nestRow r.nest
      let dst := nestAddr r.nest r.dst 0 r.point
      let v := nestResult r.nest (loadN s (nestAddr r.nest r.a 1 r.point) len) (loadN s (nestAddr r.nest r.b 2 r.point) len)
        (if nestReadsD r.nest then loadN s dst len else 0)
      let w := s.now + nestLat r.nest + 1
      let vx := ridTile 2 acc.agent 0
      let r' := { r with writes := (dst, w) :: r.writes.filter (fun x => s.now < x.2), lastWrite := w }
      let more := decide (r.point + 1 < nestPoints r.nest)
      let c := if more then nestNext r' s.now else w + 1
      let s := stepUses s acc.agent 0 acc.step (spanUses s vx s.now (c - s.now) ++
        lineUses s.now (((nestRows r r.point).filter fun x => !x.2).flatMap fun x => rowLinesOf r x.1) ++ lineUses w (rowLinesOf r dst))
      let s := sched s w (homePri 1 acc.agent) .homeAccess (.access { acc with op := .nestWrite, loc := .sram dst, data := BitVec.ofNat 2048 v })
      if more then
        sched (setNest s acc.agent (some { r' with point := r.point + 1 })) c (homePri 1 acc.agent) .homeAccess (.access acc)
      else endNest s acc.agent r'

/-- The row of a point is written. -/
def nestWriteRow (s : State) (acc : Access) : State :=
  match (ag s acc.agent).nest, acc.loc with
  | some r, .sram addr => plainStore s addr (nestRow r.nest) acc.data.toNat
  | _, _ => s

end Sys2Proof.Machine
end

