-- ==== Sys2Proof/Machine/Home.lean ====
section
/-! DEFINITION. What a home does (R78, R83, R86 to R96, R216, R219 to R224): plain accesses, atomics, locks, credits, arms and waits,
and the answers that reach the issuing tile. -/

namespace Sys2Proof.Machine

/-! ### Answers -/

/-- A home refuses an operation: it performs nothing, its results never land, and the refusal sets out for the issuing agent (R216). -/
def refuseOp (s : State) (a id cause addr : Nat) (org : Org) : State :=
  let k := ((ag s a).outs.find? fun o => o.id == id).map (·.key)
  let d := freeDelay (removeAcq (stallResults s a id) a id)
  deferFault d.2 a { cause := cause, addr := addr, org := org, id := id, step := k } (s.now + d.1)

/-- An answer whose cycle is not promised reaches the tile at a free time (R214). -/
def answer (s : State) (a id : Nat) (fixed : Bool) : State :=
  if fixed then s
  else
    let d := freeDelay s
    sched d.2 (s.now + d.1) priLand .replyArrival (.reply a id [])

/-- An access, of a booked step or of another, waits for a slot that nobody else holds (R66): the cycle in which it may be performed. -/
def homeWait (s : State) (k : StepKey) (rid : Nat) : Option Nat :=
  if !slotKept s k rid (slotNow s) then none else some (s.now + (16 * nextFreeSlot s k rid (slotNow s) 8192 - gtOf s))

/-- The resource that keeps a step's operation from its home, if one does, and until when. -/
def keptOf (s : State) (k : StepKey) (rids : List Nat) : Option (Nat × Nat) := rids.findSome? fun r => (homeWait s k r).map fun t => (r, t)

/-- The links and modules on the way of an access whose cycle is not promised (R66). -/
def wayRids (a : Nat) (l : Loc) (fixed : Bool) : List Nat :=
  match l with
  | .sram addr => if fixed || !isTile a then [] else (route a (addrTile addr)).map (·.1)
  | .mem _ _ _ _ => []

/-- A data bank that has performed an access in this cycle (R79). -/
def bankTaken (s : State) (k : Nat) : Bool := kget 0 s.banks k == s.now + 1

def takeBank (s : State) (k : Nat) : State := { s with banks := kset 0 s.banks k (s.now + 1) }

/-- Why and until when an operation of agent `a`, made for step `k`, waits at its home: an earlier one of its tile is still to be performed at
one of its banks `keys` (R81, R261); somebody else's booking or aged reservation keeps a resource that it uses (R53, R66); or one of `banks` has performed
an access in this cycle (R79). -/
def homeHold (s : State) (a id : Nat) (k : StepKey) (rids keys banks : List Nat) : Option (Option Nat × Nat) :=
  if behind s a id keys then some (none, s.now + 1)
  else match keptOf s k rids with
    | some w => some (some w.1, w.2)
    | none => if banks.any (bankTaken s) then some (none, s.now + 1) else none

/-- An unbooked step ages while a resource is kept from it (R53). -/
def ageKept (s : State) (a : Nat) (k : StepKey) (t : Nat) (rid : Option Nat) : State :=
  match rid with
  | some r => ageOf s a k r t
  | none => s

/-- A logged event of an operation waits for the ring or the replay: each cycle is charged to a booked step as a log-full stall (R67,
R113, R119). -/
def chargeLog (s : State) (a : Nat) (k : StepKey) : State :=
  if stepBooked s a k then chargeDelay s a else s

/-! ### Plain accesses -/

/-- Bytes of a plain access. -/
def accBytes : AccOp → Nat
  | .load n _ => n
  | .store n => n
  | .swRead => 16
  | _ => 4

/-- The row that four lines hold. -/
def linesRow (s : State) (lines : List Nat) : Row := BitVec.ofNat 2048 (lines.foldr (fun a acc => loadN s a 64 + 2 ^ 512 * acc) 0)

/-- Address of lane `i` in a row of four lines. -/
def laneAddr (lines : List Nat) (i : Nat) : Nat := lines.getD (i / 16) 0 + 4 * (i % 16)

/-- The lines in which some lane is active. -/
def activeLines (lines : List Nat) (act : BitVec 64) : List Nat :=
  (lines.zipIdx.filter fun x => (List.range 16).any fun i => act.getLsbD (16 * x.2 + i)).map (·.1)

/-- The first refusal of a set of lines or words (R18, R392). -/
def linesCause (s : State) (slot n : Nat) (reads : Bool) (as : List Nat) : Option (Nat × Nat) :=
  match as.find? fun a => !tagsOk s slot a n with
  | some a => some (0x41, a)
  | none => if reads then (as.find? fun a => poisoned s a n).map fun a => (0x4E, a) else none

/-- A row streamed through a handle of its step has been performed: the handle advances, its peer is told, and the claim ends (R210, R261). -/
def advanceRow (s : State) (acc : Access) (h : Option (Fin 16)) (prod : Bool) : State :=
  match h with
  | none => s
  | some n =>
    let a := acc.agent
    let v := rowHandle s a acc.step n.val
    let c := hCons v + 256
    unclaim (if prod then pushStep s a acc.step acc.slot acc.org v 256 fun s h => setRowHandle s a acc.step n.val h
      else sendUpdate (setRowHandle s a acc.step n.val (setHCons v c)) a acc.step v false c) a acc.step n.val

/-- A row is refused: its claim on its handle ends (R216, R261). -/
def refuseRow (s : State) (acc : Access) (h : Option (Fin 16)) (c : Nat × Nat) : State :=
  let s := refuseOp s acc.agent acc.id c.1 c.2 acc.org
  match h with
  | none => s
  | some n => unclaim s acc.agent acc.step n.val

/-- Stores the active lanes of one line, the `i`-th of its row; a line written whole loses its poison (R106, R245, R392). -/
def storeLine (s : State) (addr i : Nat) (act : BitVec 64) (v : Row) : State :=
  if (List.range 16).all fun j => act.getLsbD (16 * i + j) then plainStore s addr 64 (v.toNat / 2 ^ (512 * i))
  else (List.range 16).foldl (fun s j => if act.getLsbD (16 * i + j) then plainStore s (addr + 4 * j) 4 (lane v (16 * i + j)).toNat else s) s

/-- Stores the active lanes of a row. -/
def storeLanes (s : State) (lines : List Nat) (act : BitVec 64) (v : Row) : State :=
  lines.zipIdx.foldl (fun s x => storeLine s x.1 x.2 act v) s

/-- A load's value (R218). -/
def loadVal (n : Nat) (signed : Bool) (v : Nat) : Word :=
  if signed then (if n = 1 then (BitVec.ofNat 8 v).signExtend 32 else if n = 2 then (BitVec.ofNat 16 v).signExtend 32 else wd v) else wd v

/-- The host's accesses by physical address reach plain memory, and a read of poison writes a record (R392, R402). The host holds the lines from then
on: clean after a read, modified after a write (R412). -/
def hostMem (s : State) (pa n : Nat) (write : Bool) (v : Nat) : State :=
  if !(paOk pa && paOk (pa + n - 1)) then s
  else
    let s := { s with hostLines := (linesOf pa n).foldl (fun m l => kset 0 m l (if write then 2 else max 1 (kget 0 m l))) s.hostLines }
    if write then afterWrite (setHbmN s pa n (tableBytes s ⟨false, pa, none⟩ v n)) pa pa n
    else
      let s := { s with readData := BitVec.ofNat 2048 (hbmN s pa n) }
      if hpoisonedRange s pa n then recordUnit s (pa / 32 * 32) else s

def hostAccess (s : State) (acc : Access) (write : Bool) : State :=
  match acc.loc with
  | .mem _ pa _ _ => hostMem s pa 8 write acc.data.toNat
  | .sram _ => s

/-- Some access of an operation is refused; the first refusal sets out for the tile, and no result lands (R216, R260). DEDUCED (log 155). -/
def refuseOnce (s : State) (acc : Access) (cause addr : Nat) : State :=
  match (ag s acc.agent).outs.find? fun o => o.id == acc.id with
  | none => s
  | some o =>
    if o.refused then s
    else
      let s := modAg (stallResults s acc.agent acc.id) acc.agent fun g =>
        { g with outs := g.outs.map fun o => if o.id = acc.id then { o with refused := true } else o }
      let d := freeDelay s
      deferFault d.2 acc.agent { cause := cause, addr := addr, org := acc.org, id := acc.id, step := some o.key } (s.now + d.1)

/-- Elements of a gather or scatter, each an access of its own: a refused one performs nothing, and the others are performed (R260). -/
def performEls (s : State) (acc : Access) (reads : Bool) (els : List (Nat × Nat)) (f : State → List (Nat × Nat) → State) : State :=
  let bad := els.filterMap fun e => linesCause s acc.slot 4 reads [e.2]
  let s := f s (els.filter fun e => (linesCause s acc.slot 4 reads [e.2]).isNone)
  doneOut (match bad with
    | [] => s
    | c :: _ => refuseOnce s acc c.1 c.2) acc.agent acc.id

/-- A plain access is performed (R78). -/
def performAccess (s : State) (acc : Access) : State :=
  let a := acc.agent
  let done := fun (s : State) => doneOut s a acc.id
  match acc.op with
  | .load n sg => (match locCause s acc.slot acc.loc n true with
    | some c => refuseOp s a acc.id c (locAddr acc.loc) acc.org
    | none => answer (done (setResult s a acc.id [(0, rowOf (loadVal n sg (locRead s acc.loc n)))])) a acc.id acc.fixed)
  | .store n => (match locCause s acc.slot acc.loc n false with
    | some c => refuseOp s a acc.id c (locAddr acc.loc) acc.org
    | none => done (locWrite s acc.loc n acc.data.toNat))
  | .swRead => (match locCause s acc.slot acc.loc 16 true with
    | some c => refuseOp s a acc.id c (locAddr acc.loc) acc.org
    | none =>
      let v := locRead s acc.loc 16
      answer (done (setResult s a acc.id [(0, rowOf (wd v)), (1, rowOf (wd (v / 2 ^ 32))), (2, rowOf (wd (v / 2 ^ 64))),
        (3, rowOf (wd (v / 2 ^ 96)))])) a acc.id acc.fixed)
  | .vload lines act adv => (match linesCause s acc.slot 64 true (activeLines lines act) with
    | some c => refuseRow s acc adv c
    | none => answer (advanceRow (done (setVector s a acc.id fun old => mergeLanes act old (linesRow s lines))) acc adv false) a acc.id acc.fixed)
  | .vstore lines act adv => (match linesCause s acc.slot 64 false (activeLines lines act) with
    | some c => refuseRow s acc adv c
    | none =>
      let s := advanceRow (done (storeLanes s lines act acc.data)) acc adv true
      if adv.isSome then answer s a acc.id acc.fixed else s)
  | .gather els => performEls s acc true els fun s els => setVector s a acc.id fun old => els.foldl (fun r e => setLane r e.1 (load32 s e.2)) old
  | .scatter els => performEls s acc false els fun s els => els.foldl (fun s e => plainStore s e.2 4 (lane acc.data e.1).toNat) s
  | .nestRead => nestPoint s acc
  | .nestWrite => nestWriteRow s acc
  | .hostWrite => hostAccess s acc true
  | .hostRead => hostAccess s acc false

/-- A row stored through a handle is a push, and its record must wait for the ring (R113, R261). -/
def rowHeld (s : State) (acc : Access) : Bool :=
  match acc.op with
  | .vstore _ _ (some n) => pushHeld s acc.step (rowHandle s acc.agent acc.step n.val)
  | _ => false

/-- The lines of SRAM that an access touches. -/
def accLines (s : State) (acc : Access) : List Nat :=
  match acc.op, acc.loc with
  | .vload lines act _, _ => activeLines lines act
  | .vstore lines act _, _ => activeLines lines act
  | .gather els, _ => (els.take 1).map (·.2)
  | .scatter els, _ => (els.take 1).map (·.2)
  | .nestRead, _ => (match (ag s acc.agent).nest with
    | some r => ((nestRows r r.point).filter fun x => !x.2).flatMap fun x => rowLinesOf r x.1
    | none => [])
  | .nestWrite, .sram addr => (match (ag s acc.agent).nest with
    | some r => rowLinesOf r addr
    | none => [])
  | _, .sram addr => [addr]
  | _, .mem _ _ _ _ => []

/-- The resources that an access uses, and the banks that it takes. -/
def accRids (s : State) (acc : Access) : List Nat :=
  (match acc.loc with
    | .sram _ => ((accLines s acc).flatMap bankRid).eraseDups
    | l => locRids l (accBytes acc.op)) ++ wayRids acc.agent acc.loc acc.fixed

def accKeys (s : State) (acc : Access) : List Nat := ((accLines s acc).map bankKey).eraseDups

/-- The banks or the channel at which an access is ordered behind others (R81). -/
def accHomes (s : State) (acc : Access) : List Nat :=
  match acc.loc with
  | .sram _ => accKeys s acc
  | l => [locKey l]

/-- The data banks that an access shares in turn with others (R79). DESIGN CHOICE (log 27): the lines of a row are one access. -/
def accBanks (s : State) (acc : Access) : List Nat := ((accLines s acc).flatMap turnKey).eraseDups

/-- An operation planned for this cycle is performed in cycle `t`: its results are as much later as its last access is (R214, R260). -/
def postpone (s : State) (a id t : Nat) : State :=
  let p := (((ag s a).outs.find? fun o => o.id == id).map (·.perfAt)).getD s.now
  modAg (delayResult s a id (t - max s.now p)) a fun g => { g with outs := g.outs.map fun o => if o.id = id then { o with perfAt := max p t } else o }

/-- An access tried again at its home in cycle `t`. -/
def retryAccess (s : State) (acc : Access) (t : Nat) : State :=
  sched (postpone s acc.agent acc.id t) t (homePri (stepGroup s acc.agent acc.step (locHome acc.loc)) acc.agent) .homeAccess (.access acc)

/-- Whether an operation of a booked step has overrun on its way, or does so by one of the uses, each with its cycle, that it now comes to make: it then
performs nothing (R217, R241). -/
def opVoid (s : State) (a id : Nat) (k : StepKey) (us : List (Nat × Nat)) : Bool :=
  s.voids.contains id || (stepBooked s a k && us.any fun u => !useOk s a u.1 u.2)

/-- An operation that overran is performed nowhere: its results never land, and a lock or a wait that it asked for is at an end (R241). A use that
overruns only now, because the operation waited at its home, is recorded (R217). -/
def voidOp (s : State) (a id : Nat) (k : StepKey) (us : List (Nat × Nat)) : State :=
  let s := if s.voids.contains id then s else stepUses s a 0 k us
  let s := removeAcq (stallResults { s with voids := s.voids.filter (· ≠ id) } a id) a id
  endWait s a (· == .sync id)

/-- A plain store. -/
def accWrites : AccOp → Bool
  | .store _ => true
  | _ => false

/-- An access of `ls` and not of `vx`. -/
def isLs : AccOp → Bool
  | .load _ _ => true
  | .store _ => true
  | .swRead => true
  | _ => false

/-- A cycle in which a nest's point waits is a use of `vx` by its step (R266). -/
def nestWaits (s : State) (acc : Access) : State :=
  if acc.op == .nestRead then stepUses s acc.agent 0 acc.step [(ridTile 2 acc.agent 0, s.now)] else s

/-- A dock core's access to `n` bytes of memory counts in its entry of the page (R383). -/
def noteLoc (s : State) (a slot : Nat) (l : Loc) (n : Nat) (write : Bool) : State :=
  match l with
  | .mem _ _ _ va => if isDock a then noteAccess s a slot va (linesOf va n).length write else s
  | .sram _ => s

/-- R78, R79: an access at its home. -/
def homeAccess (s : State) (acc : Access) : State :=
  match homeHold s acc.agent acc.id acc.step (accRids s acc) (accHomes s acc) (accBanks s acc) with
  | some w => retryAccess (ageKept (nestWaits s acc) acc.agent acc.step w.2 w.1) acc w.2
  | none =>
    let us := (locRids acc.loc 1).map fun r => (r, s.now)
    if isLs acc.op && opVoid s acc.agent acc.id acc.step us then voidOp s acc.agent acc.id acc.step us
    else if rowHeld s acc then retryAccess (chargeLog s acc.agent acc.step) acc (s.now + 1)
    else if isLs acc.op && recallDue s acc.loc (accBytes acc.op) (accWrites acc.op) then
      let d := recallLines s acc.agent acc.step acc.loc (accBytes acc.op)
      retryAccess d.2 acc (s.now + d.1)
    else if acc.op == .nestRead && nestLate s acc then retryAccess (nestWaits s acc) acc (s.now + 1)
    else
      let s := (accBanks s acc).foldl takeBank s
      -- a row that has been put off makes its uses now (R246)
      let s := if isLs acc.op then s else stepUses s acc.agent 0 acc.step (lineUses s.now (accLines s acc))
      performAccess (noteLoc s acc.agent acc.slot acc.loc (accBytes acc.op) (accWrites acc.op)) acc

/-! ### Operations that a home performs in one cycle -/

/-- The group of an operation at its home (R79): a copy engine's credit is a delivery, and a launch's comes from elsewhere. -/
def opGroup (s : State) (op : SyncOp) : Nat :=
  if isIssuer op.agent then stepGroup s op.agent op.step (locHome op.loc)
  else if op.agent = 4094 then 3
  else if stepBooked s op.issuer op.step then 0 else 2

/-- Retries an operation at its home `d` cycles later. -/
def retryOp (s : State) (op : SyncOp) (i : Instr) (o : Occ) (d : Nat) : State :=
  sched (if isIssuer op.agent then postpone s op.agent op.id (s.now + d) else s) (s.now + d) (homePri (opGroup s op) op.agent) i o

/-- The banks of `n` bytes at a place. -/
def locBanks (l : Loc) (n : Nat) : List Nat :=
  match l with
  | .sram addr => (turnKey addr ++ ((byteLines addr n).drop 1).flatMap turnKey).eraseDups
  | .mem _ _ _ _ => []

/-- The agent whose step an operation is made for: a copy's credit is its issuer's; a launch's is no step's. -/
def opWho (op : SyncOp) : Nat := if op.agent = 4094 then 4094 else op.issuer

/-- What an operation that a home performs in one cycle meets there first: it waits, it is void, or it is performed by `k` (R66, R79, R81, R241). -/
def atHome (s : State) (op : SyncOp) (i : Instr) (o : Occ) (k : State → State) : State :=
  match homeHold s op.agent op.id op.step (locRids op.loc 1 ++ wayRids (opWho op) op.loc op.fixed) [locKey op.loc] (locBanks op.loc 1) with
  | some w => retryOp (ageKept s (opWho op) op.step w.2 w.1) op i o (w.2 - s.now)
  | none =>
    let us := (locRids op.loc 1).map fun r => (r, s.now)
    if isIssuer op.agent && opVoid s op.agent op.id op.step us then voidOp s op.agent op.id op.step us
    else if recallDue s op.loc 1 (i != .syncWaitReissue) then
      let d := recallLines s (opWho op) op.step op.loc 1
      retryOp d.2 op i o d.1
    else k s

/-- An operation that nothing holds any longer makes its access at its home: it takes its bank for the cycle (R79), and a dock core's counts in its entry of
the page (R383). -/
def homeTurn (s : State) (op : SyncOp) (write : Bool) : State :=
  noteLoc ((locBanks op.loc 1).foldl takeBank s) op.agent op.slot op.loc 1 write

/-- Retries because the Prompt Book holds the event (R113, R119). -/
def holdOp (s : State) (op : SyncOp) (i : Instr) (o : Occ) : State := retryOp (chargeLog s (opWho op) op.step) op i o 1

/-- The earlier accesses that a release waits for are performed (R88, R94). -/
def releaseReady (s : State) (op : SyncOp) : Bool :=
  !isIssuer op.agent || (releaseCovers s op.agent op.cls op.id).isEmpty

/-- An operation of a booked step sets out for its home in cycle `c`, and crosses its links anew (R66, R217). -/
def crossUses (s : State) (op : SyncOp) (c : Nat) : State :=
  match op.loc with
  | .sram addr => if isIssuer op.agent then stepUses s op.agent op.id op.step (routeUses op.agent (addrTile addr) c) else s
  | .mem _ _ _ _ => s

/-- A release whose accesses have been put off sets out anew once they are performed, as far as the way is promised (R88, R217). -/
def releaseAgain (s : State) (op : SyncOp) (i : Instr) (o : Occ) : State :=
  let start := (releaseCovers s op.agent op.cls op.id).foldl (fun m o => max m o.perfAt) 0
  let p := pathCycles s op.agent op.loc
  if p.2 ∧ s.now ≤ start then retryOp (crossUses s op start) op i o (max 1 (start + p.1 - s.now)) else retryOp s op i o 1

/-- The fault of an operation that the Prompt Book finds diverging (R118). -/
def divergeOp (s : State) (op : SyncOp) (k : StreamKey) (cause seq : Nat) : State :=
  refuseOp (diverged s op.slot op.agent k cause seq) op.agent op.id cause (locAddr op.loc) op.org

/-- The journal record of an effect (R121, R122). -/
def journalOp (s : State) (op : SyncOp) (type opcode value : Nat) : State :=
  journalAs s op.slot op.agent op.step op.eff type opcode (locObj op.loc) value

/-- The writer lacks room for a journalled effect, whose record comes after `before` others (R122). -/
def journalStalled (s : State) (op : SyncOp) (before : Nat) : Bool := op.eff.isSome && ringLacks s op.slot (before + 1)

def amoCode : Amo → Nat
  | .add => 0x20 | .and => 0x21 | .or => 0x22 | .xor => 0x23 | .min => 0x24 | .max => 0x25 | .minu => 0x26 | .maxu => 0x27
  | .swap => 0x28 | .cas => 0x29 | .fadd => 0x2A | .chunk => 0x2B

/-- The word an atomic writes (R219, R220). -/
def amoVal (f : Amo) (old a b : Word) : Word :=
  match f with
  | .add => old + a
  | .and => old &&& a
  | .or => old ||| a
  | .xor => old ^^^ a
  | .min => if a.slt old then a else old
  | .max => if old.slt a then a else old
  | .minu => if a.ult old then a else old
  | .maxu => if old.ult a then a else old
  | .swap => a
  | .cas => if old = a then b else old
  | .fadd => fadd32 old a
  | .chunk => old

/-- Bytes of an atomic's object. -/
def amoBytes : Amo → Nat
  | .chunk => 16
  | _ => 4

/-- The draw of R48 on a dispenser of R47: the new record, and start with size; none for a malformed one. -/
def chunkDraw (v : Nat) : Option (Nat × Nat × Nat) :=
  let next := v % 2 ^ 32
  let rem := v / 2 ^ 32 % 2 ^ 32
  let mn := max 1 (v / 2 ^ 64 % 2 ^ 16)
  let dv := max 1 (v / 2 ^ 80 % 2 ^ 16)
  if v / 2 ^ 96 ≠ 0 then none
  else
    let size := min (max mn ((rem + dv - 1) / dv)) rem
    some ((next + size) % 2 ^ 32 + 2 ^ 32 * (rem - size) + 2 ^ 64 * (v / 2 ^ 64 % 2 ^ 32), next, size)

/-- An atomic's new bytes and its result as records hold it; none for a malformed dispenser (R219 to R221). -/
def amoStep (f : Amo) (v : Nat) (a b : Word) : Option (Nat × Nat) :=
  match f with
  | .chunk => (chunkDraw v).map fun r => (r.1, r.2.1 + 2 ^ 32 * r.2.2)
  | f => some ((amoVal f (wd v) a b).toNat, v)

/-- R92, R219: an atomic at its home. -/
def atomicAtHome (s : State) (f : Amo) (op : SyncOp) : State :=
  let here := Occ.amo f op
  let n := amoBytes f
  atHome s op .atomicAtHome here fun s => match locCause s op.slot op.loc n true with
    | some c => refuseOp (uncountValue s op.slot op.pb op.agent op.ord) op.agent op.id c (locAddr op.loc) op.org
    | none => match amoStep f (locRead s op.loc n) op.a op.b with
      | none => refuseOp (uncountValue s op.slot op.pb op.agent op.ord) op.agent op.id 0x44 (locAddr op.loc) op.org
      | some (new, res) =>
        let code := op.cls * 256 + amoCode f
        let type := if f = .chunk then 0x02 else 0x01
        if journalStalled s op (if op.pb = 1 then 1 else 0) then holdOp s op .atomicAtHome here
        else match valueEvent s op.slot op.pb op.agent op.ord type code (locObj op.loc) res with
          | .wait _ => holdOp s op .atomicAtHome here
          | .diverge c q => divergeOp s op ⟨type, locObj op.loc⟩ c q
          | .go k =>
            let s := journalOp (k (locWrite (homeTurn s op true) op.loc n new)) op 0x28 code res
            answer (removeOut (setResult s op.agent op.id [(0, rowOf (wd res)), (1, rowOf (wd (res / 2 ^ 32)))]) op.agent op.id)
              op.agent op.id op.fixed

/-! ### Locks (R86 to R88) -/

def homeQ (s : State) (k : Nat) : HomeQ := kget {} s.homes k
def setHomeQ (s : State) (k : Nat) (q : HomeQ) : State := { s with homes := kset {} s.homes k q }

/-- A grant sets out for its tile; when it arrives is not promised. -/
def sendGrant (s : State) (a id : Nat) : State :=
  let d := freeDelay s
  sched d.2 (s.now + d.1) priLand .lockGrantArrival (.at2 a id)

/-- A request that found the queue full is issued again by the tile so that one comes every 16 cycles (R87, R222). -/
def lockAcquireAtHome (s : State) (op : SyncOp) : State :=
  atHome s op .lockAcquireAtHome (.sync op) fun s => match locCause s op.slot op.loc 8 true with
    | some c => refuseOp s op.agent op.id c (locAddr op.loc) op.org
    | none =>
      let v := locRead s op.loc 8
      let holder := v % 2 ^ 32
      let q := homeQ s (locKey op.loc)
      if v / 2 ^ 48 ≠ 0 then refuseOp s op.agent op.id 0x44 (locAddr op.loc) op.org
      else if holder = 0 then
        match orderEvent s op.slot op.pb ⟨0x08, locObj op.loc⟩ op.agent 0 with
        | .wait _ => holdOp s op .lockAcquireAtHome (.sync op)
        | .diverge c n => divergeOp s op ⟨0x08, locObj op.loc⟩ c n
        | .go k => sendGrant (k (locWrite (homeTurn s op true) op.loc 8 (v + 1 + op.agent))) op.agent op.id
      else if q.locks.length ≥ 32 then sched (homeTurn s op true) (s.now + (16 - (pathCycles s op.agent op.loc).1)) priLand .lockReissue (.sync op)
      else setHomeQ (locWrite (homeTurn s op true) op.loc 8 (v % 2 ^ 32 + 2 ^ 32 * ((v / 2 ^ 32 + 1) % 2 ^ 16))) (locKey op.loc) { q with locks := q.locks ++ [op] }

/-- What the Prompt Book says of granting a lock to each waiter in turn: the first that may have it (R87, R119). -/
def pickGrant (s : State) (l : Loc) : List SyncOp → Option (SyncOp × Verdict)
  | [] => none
  | q :: qs =>
    if q.loc = l then
      match orderEvent s q.slot q.pb ⟨0x08, locObj l⟩ q.agent 0 with
      | .wait k => if k = 0 then some (q, .wait 0) else (match pickGrant s l qs with
        | some r => some r
        | none => some (q, .wait k))
      | v => some (q, v)
    else pickGrant s l qs

/-- R88: a release at the lock's home. -/
def lockReleaseAtHome (s : State) (op : SyncOp) : State :=
  if !releaseReady s op then releaseAgain s op .lockReleaseAtHome (.sync op)
  else atHome s op .lockReleaseAtHome (.sync op) fun s => match locCause s op.slot op.loc 8 true with
    | some c => refuseOp s op.agent op.id c (locAddr op.loc) op.org
    | none =>
      let v := locRead s op.loc 8
      let waiters := v / 2 ^ 32 % 2 ^ 16
      let q := homeQ s (locKey op.loc)
      let done := fun (s : State) => removeOut (homeTurn s op true) op.agent op.id
      if v / 2 ^ 48 ≠ 0 then refuseOp s op.agent op.id 0x44 (locAddr op.loc) op.org
      else if v % 2 ^ 32 ≠ 1 + op.agent then refuseOp s op.agent op.id 0x49 (locAddr op.loc) op.org
      else if waiters = 0 then done (locWrite s op.loc 8 0)
      else match pickGrant s op.loc q.locks with
        | none => done (locWrite s op.loc 8 0)
        | some (w, .wait _) => holdOp (chargeLog s w.agent w.step) op .lockReleaseAtHome (.sync op)
        | some (w, .diverge c n) =>
          divergeOp (done (setHomeQ (locWrite s op.loc 8 (2 ^ 32 * (waiters - 1))) (locKey op.loc) { q with locks := q.locks.erase w }))
            w ⟨0x08, locObj op.loc⟩ c n
        | some (w, .go k) =>
          sendGrant (k (done (setHomeQ (locWrite s op.loc 8 (1 + w.agent + 2 ^ 32 * (waiters - 1))) (locKey op.loc)
            { q with locks := q.locks.erase w }))) w.agent w.id

/-! ### Sync words (R93 to R96) -/

/-- A sync word's fields. -/
structure SyncWord where
  target : Nat
  count : Nat
  gen : Nat
  armed : Bool
  carry : Bool
  bad : Bool

def syncWord (v : Nat) : SyncWord :=
  let t := v % 2 ^ 32
  let f := v / 2 ^ 96
  { target := t, count := v / 2 ^ 32 % 2 ^ 32, gen := v / 2 ^ 64 % 2 ^ 32, armed := f % 2 = 1, carry := f / 2 % 2 = 1,
    bad := decide (f / 4 ≠ 0) || (decide (f % 2 = 1) && decide (t = 0)) }

def syncVal (w : SyncWord) : Nat :=
  w.target + 2 ^ 32 * w.count + 2 ^ 64 * w.gen + 2 ^ 96 * ((if w.armed then 1 else 0) + (if w.carry then 2 else 0))

/-- A credit of n bytes (R94). -/
def creditWord (w : SyncWord) (n : Nat) : SyncWord :=
  let c := (w.count + n) % 2 ^ 32
  if w.armed then
    { w with count := c % w.target, gen := (w.gen + c / w.target) % 2 ^ 32, carry := w.carry || decide (w.target < c) }
  else { w with count := c }

/-- The condition of a wait (R95). -/
def waitDone (gen : Nat) (g : Word) : Bool := (0#32).slt (wd gen - g)

/-- The answer to a wait reaches the tile at a time that the spec does not promise (R224). -/
def sendWaitAnswer (s : State) (op : SyncOp) (gen : Nat) : State :=
  let d := freeDelay (removeOut s op.agent op.id)
  sched d.2 (s.now + d.1) priLand .syncWaitAnswer (.reply op.agent op.id [(0, rowOf (wd gen))])

/-- The home answers every pending wait on a word whose condition now holds (R224). -/
def answerWaits (s : State) (l : Loc) (gen : Nat) : State :=
  let q := homeQ s (locKey l)
  let hit := q.waits.filter fun w => w.loc == l && waitDone gen w.a
  hit.foldl (fun s w => sendWaitAnswer s w gen) (setHomeQ s (locKey l) { q with waits := q.waits.filter fun w => !(w.loc == l && waitDone gen w.a) })

/-- A write has been performed at a bank or channel: its waits are answered as far as their words now stand (R95, R224). -/
def answerBank (s : State) (k : Nat) : State :=
  ((homeQ s k).waits.map (·.loc)).eraseDups.foldl (fun s l => answerWaits s l (syncWord (locRead s l 16)).gen) s

/-- A launch goes on to its next part once its credit has been performed or refused (R93, R365). -/
def nextPart (s : State) (op : SyncOp) : State :=
  if op.agent = 4094 then sched s (s.now + 1) priEngine .launchComplete (.at2 op.id 2) else s

/-- A credit that a copy engine or a matrix unit makes for a step is an effect of that step: numbered and sent, or suppressed where a restarted step's
journal holds it, or at odds with the journal (R121, R123). -/
def stepCredit (s : State) (op : SyncOp) (send : State → SyncOp → State) : State :=
  match effectOf s op.step 0x29 (locObj op.loc) with
  | .again _ => countEffect s op.step
  | .bad => deferFault s op.issuer { cause := 0x63, addr := locAddr op.loc, org := op.org, id := 0, step := some op.step } (s.now + 1)
  | .fresh =>
    let e := takeEffect s op.step
    send e.2 { op with eff := e.1 }

/-- A credit or arm that its home refuses: at the issuing tile for a tile's own, for a copy's at the tile that issued it, and for a
launch's release an error record (R93). -/
def refuseCredit (s : State) (op : SyncOp) (cause : Nat) : State :=
  if isIssuer op.agent then refuseOp s op.agent op.id cause (locAddr op.loc) op.org
  else if op.agent ≠ 4094 ∧ isIssuer op.issuer ∧ !(stepRec s op.step).all stepOver then
    let d := freeDelay { s with deadCredits := op.id :: s.deadCredits }
    deferFault d.2 op.issuer { cause := cause, addr := locAddr op.loc, org := op.org, id := op.id, step := some op.step } (s.now + d.1)
  else nextPart (errorRecord { (if cause = 0x4E ∨ cause = 0x4F then holdSlot s op.slot else s) with deadCredits := if op.agent = 4094 then s.deadCredits else op.id :: s.deadCredits }
    { cause := cause, slot := op.slot, agent := op.agent, addr := locAddr op.loc, pos := op.step.pos, round := op.step.round,
      wave := op.step.wave }) op

/-- An arm of the word reaches the home in this cycle (R96). -/
def armComing (s : State) (l : Loc) : Bool :=
  s.agenda.any fun e => e.at_ == s.now && (match e.what with
    | .ev .armAtHome (.sync o) => o.loc == l
    | _ => false)

/-- A credit or an arm at the word's home (R94, R96). -/
def syncWrite (s : State) (op : SyncOp) (arm : Bool) : State :=
  let i : Instr := if arm then .armAtHome else .creditAtHome
  if !arm && s.deadCredits.contains op.id then s
  else if !arm && isIssuer op.agent && !releaseReady s op then releaseAgain s op i (.sync op)
  else if !arm && armComing s op.loc then sched s s.now (homePri 4 op.agent) i (.sync op)
  else atHome s op i (.sync op) fun s => match locCause s op.slot op.loc 16 true with
    | some c => refuseCredit s op c
    | none =>
      let w := syncWord (locRead s op.loc 16)
      if w.bad || (arm && op.a == 0#32) then refuseCredit s op 0x44
      else if !arm && journalStalled s op (if op.pb = 1 ∧ fillsRecord (bookOf s op.slot) ⟨0x09, locObj op.loc⟩ (op.agent, 0) then 1 else 0) then
        holdOp s op i (.sync op)
      else match orderEvent s op.slot op.pb ⟨0x09, locObj op.loc⟩ op.agent (if arm then 1 else 0) with
        | .wait _ => holdOp s op i (.sync op)
        | .diverge c n => refuseCredit (diverged s op.slot op.agent ⟨0x09, locObj op.loc⟩ c n) op c
        | .go k =>
          let w' := if arm then { w with target := op.a.toNat, armed := true, count := 0, carry := false } else creditWord w op.a.toNat
          let s := k (locWrite (homeTurn s op true) op.loc 16 (syncVal w'))
          let s := if arm then s else journalOp s op 0x29 0 op.a.toNat
          let s := if isIssuer op.agent then answer (removeOut (setResult s op.agent op.id [(0, rowOf (wd w'.gen))]) op.agent op.id) op.agent op.id
              (op.fixed || arm) else s
          nextPart (answerWaits s op.loc w'.gen) op

/-- A wait at the word's home: answered, kept, or refused for want of room and issued again 16 cycles later (R95, R224). -/
def syncWaitAtHome (s : State) (op : SyncOp) : State :=
  atHome s op .syncWaitReissue (.sync op) fun s => match locCause s op.slot op.loc 16 true with
    | some c => refuseOp s op.agent op.id c (locAddr op.loc) op.org
    | none =>
      let w := syncWord (locRead s op.loc 16)
      let q := homeQ s (locKey op.loc)
      if w.bad then refuseOp s op.agent op.id 0x44 (locAddr op.loc) op.org
      else if waitDone w.gen op.a then sendWaitAnswer (homeTurn s op false) op w.gen
      else if q.waits.length ≥ 32 then sched (crossUses (homeTurn s op false) op (s.now + (16 - (pathCycles s op.agent op.loc).1))) (s.now + 16) (homePri (opGroup s op) op.agent) .syncWaitReissue (.sync op)
      else setHomeQ (homeTurn s op false) (locKey op.loc) { q with waits := q.waits ++ [op] }

/-- The tile goes on after `ls.sw.wait` (R224). -/
def endSyncWait (s : State) (a id : Nat) : State :=
  endWait s a (· == .sync id)

/-! ### Device events -/

/-- R78: an access is performed at its home. -/
def execHomeAccess (s : State) : Host.Outcome State Fault Refusal :=
  match s.occ with
  | .access acc => .next (homeAccess s acc)
  | _ => .refused (.noOccasion "HOME_ACCESS")

/-- R92: an atomic is performed at its home. -/
def execAtomicAtHome (s : State) : Host.Outcome State Fault Refusal :=
  match s.occ with
  | .amo f op => .next (atomicAtHome s f op)
  | _ => .refused (.noOccasion "ATOMIC_AT_HOME")

/-- R87: an acquire reaches the lock's home. -/
def execLockAcquireAtHome (s : State) : Host.Outcome State Fault Refusal :=
  match s.occ with
  | .sync op => .next (lockAcquireAtHome s op)
  | _ => .refused (.noOccasion "LOCK_ACQUIRE_AT_HOME")

/-- R88: a release reaches the lock's home. -/
def execLockReleaseAtHome (s : State) : Host.Outcome State Fault Refusal :=
  match s.occ with
  | .sync op => .next (lockReleaseAtHome s op)
  | _ => .refused (.noOccasion "LOCK_RELEASE_AT_HOME")

/-- R87: a grant reaches the tile. -/
def execLockGrantArrival (s : State) : Host.Outcome State Fault Refusal :=
  match s.occ with
  | .at2 a id => .next (removeAcq s a id)
  | _ => .refused (.noOccasion "LOCK_GRANT_ARRIVAL")

/-- R87, R222: a refused acquire is issued again, at the latest as it was refused. -/
def execLockReissue (s : State) : Host.Outcome State Fault Refusal :=
  match s.occ with
  | .sync op =>
    let p := pathCycles s op.agent op.loc
    let d := if p.2 then (0, s) else freeDelay s
    .next (sched (crossUses d.2 op s.now) (s.now + min 16 p.1 + d.1) (homePri (opGroup s op) op.agent) .lockAcquireAtHome (.sync op))
  | _ => .refused (.noOccasion "LOCK_REISSUE")

/-- R94: a credit reaches the sync word's home. -/
def execCreditAtHome (s : State) : Host.Outcome State Fault Refusal :=
  match s.occ with
  | .sync op => .next (syncWrite s op false)
  | _ => .refused (.noOccasion "CREDIT_AT_HOME")

/-- R96: an arm reaches the sync word's home. -/
def execArmAtHome (s : State) : Host.Outcome State Fault Refusal :=
  match s.occ with
  | .sync op => .next (syncWrite s op true)
  | _ => .refused (.noOccasion "ARM_AT_HOME")

/-- R224: the answer to `ls.sw.wait` reaches the tile, which goes on in the same cycle. -/
def execSyncWaitAnswer (s : State) : Host.Outcome State Fault Refusal :=
  match s.occ with
  | .reply a id vals => .next (endSyncWait (fillReply s a id vals) a id)
  | _ => .refused (.noOccasion "SYNC_WAIT_ANSWER")

/-- R95, R224: a wait is tried at its home: on its first arrival, and again when the list was full; or a bank looks at its waits after a write. -/
def execSyncWaitReissue (s : State) : Host.Outcome State Fault Refusal :=
  match s.occ with
  | .sync op => .next (syncWaitAtHome s op)
  | .at k => .next (answerBank s k)
  | _ => .refused (.noOccasion "SYNC_WAIT_REISSUE")

/-- R214: an answer whose cycle is not promised reaches the tile. -/
def execReplyArrival (s : State) : Host.Outcome State Fault Refusal :=
  match s.occ with
  | .reply a id vals => .next (fillReply s a id vals)
  | _ => .refused (.noOccasion "REPLY_ARRIVAL")

end Sys2Proof.Machine
end

