-- ==== Sys2Proof/Machine/Ls.lean ====
section
/-! DEFINITION. The operations of the `ls` socket (R213 to R225). -/

namespace Sys2Proof.Machine

/-- The address of an `ls` operation (R213). -/
def lsAddr (x : OpCtx) (s : State) : Word := portW s x.a .ls 0 + x.t

/-- An `ls` operation holds while its socket is occupied, while its latch has no room for `k` more results (R147), and behind acquires
and fences that cover its class (R87, R91). -/
def lsHeld (x : OpCtx) (s : State) (cls k : Nat) : Bool :=
  sockHeld s x.a .ls || decide (32 < inFlight s x.a .ls 0x20 + k) || accessHeld s x.a cls

/-- The frame of an `ls` operation: the address checks (R216), the holds, and then its way out. -/
def lsOp (x : OpCtx) (s : State) (cls n align k : Nat) (data write : Bool) (held : Bool) (go : State → Loc → State) : OpOut :=
  let addr := lsAddr x s
  match addrCause x.a addr.toNat n align data with
  | some c => .fault c (some addr)
  | none => if lsHeld x s cls k || held || dockBlocked s x.a addr.toNat write then .hold .lock else .go fun t => withLoc t x addr.toNat write go

/-- The results of an operation set out: `k` results, the first due `extra` cycles after the performance (R214, R215). -/
def flyResults (s : State) (a : Nat) (l : Leave) (extra k : Nat) : State :=
  (List.range k).foldl (fun s j => flyId s a .ls 0x20 l.id (l.due (extra + j)) 0) s

/-- A plain access as it leaves. -/
def plainAccess (s : State) (x : OpCtx) (op : AccOp) (cls : Fin 8) (l : Leave) (data : Row) : Access :=
  { id := l.id, agent := x.a, slot := slotOf s x.a, op := op, cls := cls.val, loc := l.loc, data := data, fixed := l.fixed,
    org := orgOf s x.a x.slot, step := stepOf s x.a }

/-- A load of `n` bytes (R218). -/
def lsLoad (n : Nat) (signed : Bool) (cls : Fin 8) : OpFn := fun x s =>
  lsOp x s cls.val n n 1 false false false fun t loc =>
    let r := leave t x.a cls.val loc n false t.now
    let acc := plainAccess r.1 x (.load n signed) cls r.2 0
    sched (flyResults r.1 x.a r.2 0 1) r.2.perf (homePri (accessGroup t x.a (locHome loc)) x.a) .homeAccess (.access acc)

/-- A store of the low `n` bytes of `o1` (R218). -/
def lsStore (n : Nat) (cls : Fin 8) : OpFn := fun x s =>
  lsOp x s cls.val n n 0 false true false fun t loc =>
    let r := leave t x.a cls.val loc n true t.now
    let acc := plainAccess r.1 x (.store n) cls r.2 (rowOf (portW t x.a .ls 1))
    sched r.1 r.2.perf (homePri (accessGroup t x.a (locHome loc)) x.a) .homeAccess (.access acc)

def opLsLdB (cls : Fin 8) : OpFn := lsLoad 1 true cls
def opLsLdBz (cls : Fin 8) : OpFn := lsLoad 1 false cls
def opLsLdH (cls : Fin 8) : OpFn := lsLoad 2 true cls
def opLsLdHz (cls : Fin 8) : OpFn := lsLoad 2 false cls
def opLsLdW (cls : Fin 8) : OpFn := lsLoad 4 false cls
def opLsStB (cls : Fin 8) : OpFn := lsStore 1 cls
def opLsStH (cls : Fin 8) : OpFn := lsStore 2 cls
def opLsStW (cls : Fin 8) : OpFn := lsStore 4 cls

/-- A synchronisation operation as it leaves. -/
def syncOf (s : State) (x : OpCtx) (cls : Fin 8) (l : Leave) (eff : Option Nat) : SyncOp :=
  { id := l.id, agent := x.a, issuer := x.a, slot := slotOf s x.a, cls := cls.val, loc := l.loc, a := portW s x.a .ls 1, b := portW s x.a .ls 2,
    fixed := l.fixed, org := orgOf s x.a x.slot, step := stepOf s x.a, pb := pbOf s x.a, eff := eff }

/-- Latency of a result that the restart journal answers: as of the operation itself where the spec promises one (R123, R214). -/
def replayedAt (s : State) (x : OpCtx) (loc : Loc) : Nat × State :=
  let p := pathCycles s x.a loc
  let d := if p.2 then (0, s) else freeDelay s
  (s.now + p.1 + dataReturn loc + d.1 + 2, d.2)

/-- An effect of a restarted step: its object must match the journal (R123). -/
def effectObj (s : State) (x : OpCtx) : BitVec 64 := objWord s x.a (lsAddr x s).toNat

/-- An atomic (R219 to R221). -/
def lsAmo (f : Amo) (cls : Fin 8) : OpFn := fun x s =>
  let n := amoBytes f
  let k := if f = .chunk then 2 else 1
  match restartEffect s x.a 0x28 (effectObj s x) with
  | .bad => .fault 0x63 none
  | .again v => lsOp x s cls.val n n k true true false fun t loc =>
      let d := replayedAt t x loc
      let t := countEffect d.2 (stepOf s x.a)
      (List.range k).foldl (fun t j => flyId t x.a .ls 0x20 0 (some (d.1 + j)) (rowOf (wd (v / 2 ^ (32 * j))))) t
  | .fresh => lsOp x s cls.val n n k true true false fun t loc =>
      let r := leave t x.a cls.val loc n true t.now
      let e := takeEffect r.1 (stepOf t x.a)
      let op := { syncOf t x cls r.2 e.1 with ord := nextOrdinal t x.a (slotOf t x.a) }
      sched (flyResults (countValue e.2 op.slot op.pb x.a) x.a r.2 2 k) r.2.perf (homePri (accessGroup t x.a (locHome loc)) x.a) .atomicAtHome
        (.amo f op)

def opLsAmoAdd (cls : Fin 8) : OpFn := lsAmo .add cls
def opLsAmoAnd (cls : Fin 8) : OpFn := lsAmo .and cls
def opLsAmoOr (cls : Fin 8) : OpFn := lsAmo .or cls
def opLsAmoXor (cls : Fin 8) : OpFn := lsAmo .xor cls
def opLsAmoMin (cls : Fin 8) : OpFn := lsAmo .min cls
def opLsAmoMax (cls : Fin 8) : OpFn := lsAmo .max cls
def opLsAmoMinu (cls : Fin 8) : OpFn := lsAmo .minu cls
def opLsAmoMaxu (cls : Fin 8) : OpFn := lsAmo .maxu cls
def opLsAmoSwap (cls : Fin 8) : OpFn := lsAmo .swap cls
def opLsAmoCas (cls : Fin 8) : OpFn := lsAmo .cas cls
def opLsAmoFadd (cls : Fin 8) : OpFn := lsAmo .fadd cls
def opLsAmoChunk (cls : Fin 8) : OpFn := lsAmo .chunk cls

/-- A lock request or release holds behind every acquire not yet granted (R87). -/
def acqOutstanding (s : State) (a : Nat) : Bool := !(ag s a).acqs.isEmpty

/-- An acquire issues at once; later accesses of its class hold until the grant (R87, R89, R222). -/
def opLsAcq (cls : Fin 8) : OpFn := fun x s =>
  lsOp x s cls.val 8 8 0 true true (acqOutstanding s x.a) fun t loc =>
    let r := leave t x.a cls.val loc 8 false t.now true
    let s := modAg r.1 x.a fun g => { g with acqs := g.acqs ++ [{ id := r.2.id, cls := cls.val, addr := locAddr loc }] }
    sched s r.2.perf (homePri (accessGroup t x.a (locHome loc)) x.a) .lockAcquireAtHome (.sync (syncOf t x cls r.2 none))

/-- The cycle in which the earlier accesses that a release covers are planned to be performed (R88). -/
def releaseStart (s : State) (a c : Nat) : Nat := (releaseCovers s a c s.seq).foldl (fun m o => max m o.perfAt) s.now

/-- A release waits for the accesses it covers and is then performed (R88, R222). -/
def opLsRel (cls : Fin 8) : OpFn := fun x s =>
  lsOp x s cls.val 8 8 0 true true (acqOutstanding s x.a) fun t loc =>
    let r := leave t x.a cls.val loc 8 false (releaseStart t x.a cls.val) true
    sched r.1 r.2.perf (homePri (accessGroup t x.a (locHome loc)) x.a) .lockReleaseAtHome (.sync (syncOf t x cls r.2 none))

/-- The accesses that a fence waits for (R91): those of its classes within its scope, the acquires among them, and the puts. -/
def fenceIds (s : State) (a c scope : Nat) : List Nat :=
  ((ag s a).outs.filter fun o => if o.put then !o.remote || scope == 4 else classMeets o.cls c && inScope a o.home scope).map (·.id)

/-- The fence (R90, R91, R222). -/
def opLsFence (cls : Fin 8) : OpFn := fun x s =>
  let scope := x.t.toNat % 8
  if scope > 4 then .fault 0x48 none
  else effect x s .ls fun t =>
    let ids := fenceIds t x.a cls.val scope
    if ids.isEmpty then t else modAg t x.a fun g => { g with fences := g.fences ++ [{ cls := cls.val, ids := ids }] }

def opLsSwArm (cls : Fin 8) : OpFn := fun x s =>
  lsOp x s cls.val 16 16 0 true true false fun t loc =>
    let r := leave t x.a cls.val loc 16 false t.now true
    sched r.1 r.2.perf (homePri (accessGroup t x.a (locHome loc)) x.a) .armAtHome (.sync (syncOf t x cls r.2 none))

/-- The wait: it issues, and the tile issues nothing further until the answer (R95, R223, R224). -/
def opLsSwWait (cls : Fin 8) : OpFn := fun x s =>
  lsOp x s cls.val 16 16 1 true false false fun t loc =>
    let r := leave t x.a cls.val loc 16 false t.now
    let s := flyId r.1 x.a .ls 0x20 r.2.id none 0
    let s := modBk s x.a fun b => { b with wait := .sync r.2.id }
    sched s r.2.perf (homePri (accessGroup t x.a (locHome loc)) x.a) .syncWaitReissue (.sync (syncOf t x cls r.2 none))

/-- The credit: a release of its class, then R94 (R223). A credit that the restart journal holds is suppressed, and the generation it
would return is not stated (R123). -/
def opLsSwAdd (cls : Fin 8) : OpFn := fun x s =>
  match restartEffect s x.a 0x29 (effectObj s x) with
  | .bad => .fault 0x63 none
  | .again _ => lsOp x s cls.val 16 16 1 true true false fun t loc =>
      let d := replayedAt t x loc
      let f := draw d.2
      flyId (countEffect f.2 (stepOf s x.a)) x.a .ls 0x20 0 (some d.1) (rowOf ((Config.freeWord f.1).extractLsb' 0 32))
  | .fresh => lsOp x s cls.val 16 16 1 true true false fun t loc =>
      let r := leave t x.a cls.val loc 16 false (releaseStart t x.a cls.val) true
      let e := takeEffect r.1 (stepOf t x.a)
      sched (flyResults e.2 x.a r.2 2 1) r.2.perf (homePri (accessGroup t x.a (locHome loc)) x.a) .creditAtHome
        (.sync (syncOf t x cls r.2 e.1))

/-- The plain read of all 16 bytes (R96, R223). -/
def opLsSwRead (cls : Fin 8) : OpFn := fun x s =>
  lsOp x s cls.val 16 16 4 true false false fun t loc =>
    let r := leave t x.a cls.val loc 16 false t.now
    sched (flyResults r.1 x.a r.2 2 4) r.2.perf (homePri (accessGroup t x.a (locHome loc)) x.a) .homeAccess
      (.access (plainAccess r.1 x .swRead cls r.2 0))

/-! ### Images -/

/-- Stores an image of `n` bytes as class-0 stores of at most 64 bytes each, one a cycle (R309, R317). -/
def storeChunks (s : State) (x : OpCtx) (addr n v : Nat) : State :=
  (List.range ((n + 63) / 64)).foldl (fun s i =>
    let k := min 64 (n - 64 * i)
    let l := leave s x.a 0 (.sram (addr + 64 * i)) k true (s.now + i)
    sched l.1 l.2.perf (homePri 1 x.a) .homeAccess
      (.access (plainAccess l.1 x (.store k) 0 l.2 (BitVec.ofNat 2048 (v / 2 ^ (512 * i) % 2 ^ 512))))) s

/-- The accesses that the agent has on its way to a tile's banks are performed. -/
def performedAt (s : State) (a home : Nat) : Bool := (ag s a).outs.all fun o => o.put || o.home != home

/-! ### The operations of `ls` as instructions -/

/-- R218: `ls.ld.b` as an instruction. -/
def execLsLdB (cls : Fin 8) (m : Trig) (s : State) : Host.Outcome State Fault Refusal := execOne m (opLsLdB cls) s
/-- R218: `ls.ld.bz` as an instruction. -/
def execLsLdBz (cls : Fin 8) (m : Trig) (s : State) : Host.Outcome State Fault Refusal := execOne m (opLsLdBz cls) s
/-- R218: `ls.ld.h` as an instruction. -/
def execLsLdH (cls : Fin 8) (m : Trig) (s : State) : Host.Outcome State Fault Refusal := execOne m (opLsLdH cls) s
/-- R218: `ls.ld.hz` as an instruction. -/
def execLsLdHz (cls : Fin 8) (m : Trig) (s : State) : Host.Outcome State Fault Refusal := execOne m (opLsLdHz cls) s
/-- R218: `ls.ld.w` as an instruction. -/
def execLsLdW (cls : Fin 8) (m : Trig) (s : State) : Host.Outcome State Fault Refusal := execOne m (opLsLdW cls) s
/-- R218: `ls.st.b` as an instruction. -/
def execLsStB (cls : Fin 8) (m : Trig) (s : State) : Host.Outcome State Fault Refusal := execOne m (opLsStB cls) s
/-- R218: `ls.st.h` as an instruction. -/
def execLsStH (cls : Fin 8) (m : Trig) (s : State) : Host.Outcome State Fault Refusal := execOne m (opLsStH cls) s
/-- R218: `ls.st.w` as an instruction. -/
def execLsStW (cls : Fin 8) (m : Trig) (s : State) : Host.Outcome State Fault Refusal := execOne m (opLsStW cls) s
/-- R219: `ls.amo.add` as an instruction. -/
def execLsAmoAdd (cls : Fin 8) (m : Trig) (s : State) : Host.Outcome State Fault Refusal := execOne m (opLsAmoAdd cls) s
/-- R219: `ls.amo.and` as an instruction. -/
def execLsAmoAnd (cls : Fin 8) (m : Trig) (s : State) : Host.Outcome State Fault Refusal := execOne m (opLsAmoAnd cls) s
/-- R219: `ls.amo.or` as an instruction. -/
def execLsAmoOr (cls : Fin 8) (m : Trig) (s : State) : Host.Outcome State Fault Refusal := execOne m (opLsAmoOr cls) s
/-- R219: `ls.amo.xor` as an instruction. -/
def execLsAmoXor (cls : Fin 8) (m : Trig) (s : State) : Host.Outcome State Fault Refusal := execOne m (opLsAmoXor cls) s
/-- R219: `ls.amo.min` as an instruction. -/
def execLsAmoMin (cls : Fin 8) (m : Trig) (s : State) : Host.Outcome State Fault Refusal := execOne m (opLsAmoMin cls) s
/-- R219: `ls.amo.max` as an instruction. -/
def execLsAmoMax (cls : Fin 8) (m : Trig) (s : State) : Host.Outcome State Fault Refusal := execOne m (opLsAmoMax cls) s
/-- R219: `ls.amo.minu` as an instruction. -/
def execLsAmoMinu (cls : Fin 8) (m : Trig) (s : State) : Host.Outcome State Fault Refusal := execOne m (opLsAmoMinu cls) s
/-- R219: `ls.amo.maxu` as an instruction. -/
def execLsAmoMaxu (cls : Fin 8) (m : Trig) (s : State) : Host.Outcome State Fault Refusal := execOne m (opLsAmoMaxu cls) s
/-- R219: `ls.amo.swap` as an instruction. -/
def execLsAmoSwap (cls : Fin 8) (m : Trig) (s : State) : Host.Outcome State Fault Refusal := execOne m (opLsAmoSwap cls) s
/-- R219: `ls.amo.cas` as an instruction. -/
def execLsAmoCas (cls : Fin 8) (m : Trig) (s : State) : Host.Outcome State Fault Refusal := execOne m (opLsAmoCas cls) s
/-- R220: `ls.amo.fadd` as an instruction. -/
def execLsAmoFadd (cls : Fin 8) (m : Trig) (s : State) : Host.Outcome State Fault Refusal := execOne m (opLsAmoFadd cls) s
/-- R221: `ls.amo.chunk` as an instruction. -/
def execLsAmoChunk (cls : Fin 8) (m : Trig) (s : State) : Host.Outcome State Fault Refusal := execOne m (opLsAmoChunk cls) s
/-- R222: `ls.acq` as an instruction. -/
def execLsAcq (cls : Fin 8) (m : Trig) (s : State) : Host.Outcome State Fault Refusal := execOne m (opLsAcq cls) s
/-- R222: `ls.rel` as an instruction. -/
def execLsRel (cls : Fin 8) (m : Trig) (s : State) : Host.Outcome State Fault Refusal := execOne m (opLsRel cls) s
/-- R91: `ls.fence` as an instruction. -/
def execLsFence (cls : Fin 8) (m : Trig) (s : State) : Host.Outcome State Fault Refusal := execOne m (opLsFence cls) s
/-- R223: `ls.sw.arm` as an instruction. -/
def execLsSwArm (cls : Fin 8) (m : Trig) (s : State) : Host.Outcome State Fault Refusal := execOne m (opLsSwArm cls) s
/-- R224: `ls.sw.wait` as an instruction. -/
def execLsSwWait (cls : Fin 8) (m : Trig) (s : State) : Host.Outcome State Fault Refusal := execOne m (opLsSwWait cls) s
/-- R223: `ls.sw.add` as an instruction. -/
def execLsSwAdd (cls : Fin 8) (m : Trig) (s : State) : Host.Outcome State Fault Refusal := execOne m (opLsSwAdd cls) s
/-- R223: `ls.sw.read` as an instruction. -/
def execLsSwRead (cls : Fin 8) (m : Trig) (s : State) : Host.Outcome State Fault Refusal := execOne m (opLsSwRead cls) s


end Sys2Proof.Machine
end

