-- ==== Sys2Proof/Machine/Router.lean ====
section
/-! DEFINITION. The routers' reduction and broadcast trees (R232 to R236, R327). -/

namespace Sys2Proof.Machine

/-! ### Entries -/

def teParent (e : TreeEntry) : Nat := e.ctl.toNat % 8
def teChild (e : TreeEntry) (p : Nat) : Bool := e.ctl.getLsbD (4 + p)
def teLocal (e : TreeEntry) : Bool := e.ctl.getLsbD 8
def teValid (e : TreeEntry) : Bool := e.ctl.getLsbD 9
def teOwnBit (e : TreeEntry) : BitVec 64 := 1#64 <<< (e.ctl.toNat / 2 ^ 10 % 64)
def teTmo (e : TreeEntry) : Nat := 64 * (e.ctl.toNat / 2 ^ 16)
def teExpect (e : TreeEntry) : BitVec 64 := e.hi ++ e.lo

def portNo : RPort → Nat
  | .west => 0 | .north => 1 | .east => 2 | .south => 3 | .own => 4

def portOf : Nat → RPort
  | 0 => .west | 1 => .north | 2 => .east | 3 => .south | _ => .own

/-- The neighbour of a tile through a port; none off the edge of the package mesh (R9, R232). -/
def neighbour (t p : Nat) : Option Nat :=
  let x := tileX t
  let y := tileY t
  match p with
  | 0 => if x = 0 then none else some (tileAt (x - 1) y)
  | 1 => if y = 0 then none else some (tileAt x (y - 1))
  | 2 => if x = 63 then none else some (tileAt (x + 1) y)
  | 3 => if y = 31 then none else some (tileAt x (y + 1))
  | _ => none

/-- A control word that an entry may hold at an agent (R232); a dock core stands nowhere in the mesh. -/
def ctlOk (a : Nat) (w : Word) : Bool :=
  let par := w.toNat % 8
  let ports := (List.range 4).filter fun p => w.getLsbD (4 + p)
  (par == 7 || decide (par < 4)) && !ports.contains par && !w.getLsbD 3 &&
    (ports ++ (if par = 7 then [] else [par])).all fun p => isTile a && (neighbour a p).isSome

/-! ### Terms and their combination (R233) -/

/-- A term's row with the lanes beyond its count read as −0.0. -/
def padded (p : TreePkt) : Row := if p.wide then p.data else rowOfLanes fun i => if i < 32 then lane p.data i else 0x80000000#32

/-- Lane by lane, `add` of R137 over the terms in order; `n` lanes. -/
def combine (n : Nat) : List TreePkt → Row
  | [] => 0
  | p :: ps => ps.foldl (fun acc u => rowOfLanes fun i => if i < n then fadd32 (lane acc i) (lane (padded u) i) else lane acc i) (padded p)

/-- Children by port, those on the node's die before those across a boundary (R233). -/
def childOrder (t : Nat) : List Nat :=
  let cross := fun (p : Nat) => match neighbour t p with
    | some u => tileDie u != tileDie t
    | none => false
  ([0, 1, 2, 3].filter fun p => !cross p) ++ [0, 1, 2, 3].filter cross

def kidAt (i : TreeInst) (p : Nat) : Option TreePkt := (i.kids.find? fun k => k.1 == portOf p).map (·.2)

/-- The terms present, in the order of their combination. -/
def termsOf (t : Nat) (i : TreeInst) : List TreePkt := i.own.toList ++ (childOrder t).filterMap (kidAt i)

/-- The mask of missing contributors that goes with a result (R233, R235, R327). -/
def missingOf (i : TreeInst) : BitVec 64 :=
  let kids := i.kids.map (·.2)
  let m := kids.foldl (fun m k => m ||| k.missing) 0#64
  if !i.expired then m
  else
    let have_ := kids.foldl (fun m k => m ||| k.expect) (if i.own.isSome then teOwnBit i.entry else 0#64)
    m ||| (teExpect i.entry &&& ~~~have_) ||| (if teLocal i.entry && i.own.isNone then teOwnBit i.entry else 0#64)

/-- What a replay makes of a contributor's bit: masked, it is missing (R119). -/
def drivenOut (drive : Option (Nat × BitVec 64)) (m : BitVec 64) : Bool := drive.any fun d => m &&& ~~~d.2 == 0

/-- Every child has delivered, and the own payload where the node contributes (R233, R327). Under replay the masked contributors count as missing,
and a child all of whose contributors are masked is not waited for (R119, R235). -/
def instComplete (i : TreeInst) : Bool :=
  let rest := i.kids.foldl (fun m k => m &&& ~~~k.2.expect) (teExpect i.entry &&& ~~~teOwnBit i.entry)
  (([0, 1, 2, 3].all fun p => !teChild i.entry p || (kidAt i p).isSome) || drivenOut i.drive rest) &&
    (!teLocal i.entry || i.own.isSome || drivenOut i.drive (teOwnBit i.entry))

/-- An instance that is complete with a child or its own term absent. -/
def instShort (i : TreeInst) : Bool :=
  ([0, 1, 2, 3].any fun p => teChild i.entry p && (kidAt i p).isNone) || (teLocal i.entry && i.own.isNone)

/-- The mask that a replay gives the next instance of a tree at a node: that of the next time-out record that none has yet (R119). DEDUCED
(log 153): a record names no instance. -/
def treeDrive (s : State) (tr : Tree) (k : TreePkt) : Option (Nat × BitVec 64) :=
  if k.pb = 2 ∧ pbEnabled s k.slot then
    ((occasionsLeft s k.slot 0x1B (objTree k.tree.val)).find? fun r => decide (tr.drove ≤ r.seq)).map fun r => (r.seq, BitVec.ofNat 64 (r.payload % 2 ^ 64))
  else none

/-! ### Delivery -/

/-- `nt.redwait` returns once the count differs from its operand (R236): its result. -/
def redwaitVal (tr : Tree) : Word := wd (tr.count.toNat + if tr.masked then 256 else 0)

def wakeRedwait (s : State) (t : Nat) (n : Fin 16) : State :=
  let tr := treeAt s t n
  (waitsOf s t).foldl (fun s w => match w with
    | .tree m c i => if m = n ∧ tr.count ≠ c then endWait (fillReply s t i [(0, rowOf (redwaitVal tr))]) t (· == w) else s
    | _ => s) s

/-- The bytes of a result area: up to 256 of lanes, and the mask (R232, R233). -/
def areaLines (e : TreeEntry) (wide : Bool) : List Nat :=
  let addr := e.addr.toNat
  ((linesOf addr (if wide then 256 else 128)).map (64 * ·)) ++ [addr + 256]

/-- The step that a tile runs. -/
def stepAt (s : State) (t : Nat) : StepKey := ((bk s t).run.map (·.key)).getD {}

/-- Whether, and until when, a result waits for the banks of its area: another step's booking keeps one, or it has performed an access in this cycle (R66,
R79). -/
def areaHold (s : State) (t : Nat) (e : TreeEntry) (wide : Bool) : Option Nat :=
  let ls := areaLines e wide
  (homeHold s t 0 (stepAt s t) (ls.flatMap bankRid).eraseDups [] (ls.flatMap turnKey).eraseDups).map (·.2)

/-- Result lanes and mask reach the node's result area, and its delivery count advances (R233, R234). Lines of another slot are not written: the tile takes
the deferred cause 0x41, and nothing is delivered (R18). An area that no word 3 has been written for is not the tile's, and is not written: DESIGN CHOICE
(log 57). The banks are uses of the tile's step (R66, R236); where one overruns, nothing is delivered (R241). -/
def deliver (s : State) (t : Nat) (n : Fin 16) (e : TreeEntry) (p : TreePkt) (mask : BitVec 64) : State :=
  let addr := e.addr.toNat
  let here := addrTile addr == t && inData addr 264
  if here && !tagsOk s p.slot addr 264 then
    deferFault s t { cause := 0x41, addr := addr, org := orgOf s t 7, id := 0 } (s.now + 1)
  else
    let us := if isBooked s t && here then lineUses s.now (areaLines e p.wide) else []
    if us.any fun u => !useOk s t u.1 u.2 then opUses s t 0 us
    else
    let s := if here then plainStore (plainStore s addr (if p.wide then 256 else 128) p.data.toNat) (addr + 256) 8 mask.toNat else s
    let s := ((areaLines e p.wide).flatMap turnKey).foldl takeBank s
    wakeRedwait (modTree s t n fun r => { r with count := r.count + 1, masked := mask != 0 }) t n

/-! ### Packets at a node -/

def discardTree (s : State) (t : Nat) : State := modRouter s t fun r => { r with discards := min 0xFFFFFFFF (r.discards + 1) }

/-- The link through a port, and the module where it crosses to another die (R12, R57). -/
def portRids (t u p : Nat) : List Nat := ridTile 6 t p :: if tileDie u ≠ tileDie t then [moduleOf t u] else []

/-- The cycle in which a packet leaves through a port: an unbooked one when no other step keeps the link or the module (R66). -/
def leaveAt (s : State) (k : TreePkt) (rids : List Nat) : Nat :=
  if k.booked then s.now else rids.foldl (fun m r => max m ((homeWait s k.step r).getD 0)) s.now

/-- Sends a packet through a port: 2 cycles for the hop and 48 for a crossing (R12, R236, R328). Its flits are uses of the step whose packet it is, `own`
telling whether there is one (R66); where one overruns, the packet does not leave (R241). -/
def sendTree (s : State) (t p : Nat) (k : TreePkt) (own : Bool) : State :=
  match neighbour t p with
  | none => s
  | some u =>
    let rids := portRids t u p
    let n := if k.wide then 5 else 3
    let us := if own && stepBooked s k.agent k.step then rids.flatMap fun r => (List.range n).map fun i => (r, s.now + i) else []
    if us.any fun u => !useOk s k.agent u.1 u.2 then opUses s k.agent 0 us
    else
    let c := leaveAt s k rids
    let s := if c = s.now then s else rids.foldl (fun s r => ageOf s k.agent k.step r c) s
    let r := pathArrival s t u (32 + p) c true
    sched r.2 r.1 priLand .treePacketArrival (.tree u (portOf ((p + 2) % 4)) { k with again := false })

/-- The numbers of the instances that a node has forwarded, the last one first: of the 256 that there are those that may still be met (R233, R235). Of the
older half, the numbers that are about to come again go. -/
def goneAfter (gone : List Nat) (n : Nat) : List Nat :=
  (n :: (gone.take 127 ++ (gone.drop 127).filter fun g => decide (8 ≤ (g + 256 - n) % 256))).take 254

/-- An instance whose number the node has forwarded already (R235). -/
def forwarded (tr : Tree) (inst : Nat) : Bool :=
  tr.gone.contains inst && !(tr.opens.any fun i => i.num == inst)

/-- What becomes of a term at a node: it is taken, discarded, or refused for want of a place (R233). -/
inductive TermOut where
  | taken (s : State)
  | discarded (s : State)
  | refused

/-- A complete instance is forwarded 8 cycles later (R233). -/
def closeInst (s : State) (t : Nat) (n : Fin 16) (inst : Nat) (expired : Bool) : State :=
  let s := modTree s t n fun r => { r with opens := r.opens.map fun i => if i.num = inst then { i with closing := true, expired := expired } else i }
  sched s (s.now + 8) priLand .treeForward (.at3 t n.val inst)

/-- The cycle from which timers of a slot's instances run: they count while the slot is Active (R423). -/
def timerNow (s : State) (slot : Nat) : Nat := ((s.timersOff.find? fun p => p.1 == slot).map (·.2)).getD s.now

/-- A node's time-out comes before what arrives in its cycle, so that a child whose gap is no more than its link cost is late (R328). -/
def timeoutAt (s : State) (t n inst due : Nat) : State := sched s due (priLand - 1) .treeTimeout (.at3 t n inst)

/-- A term of instance `k.inst` arrives at a port (R232, R233, R235). -/
def treeTerm (s : State) (t : Nat) (port : RPort) (k : TreePkt) : TermOut :=
  let tr := treeAt s t k.tree
  let old := tr.opens.find? fun i => i.num == k.inst
  let e := match old with
    | some i => i.entry
    | none => tr.entry
  let here := match old with
    | some i => i.closing || (if port = .own then i.own.isSome else i.kids.any fun x => x.1 == port)
    | none => false
  let drive := match old with
    | some i => i.drive
    | none => treeDrive s tr k
  let out := drivenOut drive (if port = .own then teOwnBit e else k.expect)
  if !teValid e || (if port = .own then !teLocal e else !teChild e (portNo port)) || here || forwarded tr k.inst || out then .discarded (discardTree s t)
  else
    let add := fun (i : TreeInst) => if port = .own then { i with own := some k } else { i with kids := i.kids ++ [(port, k)] }
    match old with
    | some i =>
      let s := modTree s t k.tree fun r => { r with opens := r.opens.map fun x => if x.num = k.inst then add x else x }
      .taken (if instComplete (add i) then closeInst s t k.tree k.inst (instShort (add i)) else s)
    | none =>
      if tr.opens.length ≥ 2 then .refused
      else
        let due := if teTmo e = 0 then none else some (timerNow s k.slot + teTmo e)
        let i := add { num := k.inst, entry := e, due := due, drive := drive }
        let s := modTree s t k.tree fun r => { r with opens := r.opens ++ [i], drove := (drive.map (·.1 + 1)).getD r.drove }
        .taken (if instComplete i then closeInst s t k.tree k.inst (instShort i)
          else match due with
          | some d => timeoutAt s t k.tree.val k.inst d
          | none => s)

/-- A broadcast arrives at a node: it is written and forwarded 8 cycles later (R234). -/
def treeCast (s : State) (t : Nat) (port : RPort) (k : TreePkt) : State :=
  let e := (treeAt s t k.tree).entry
  if !teValid e then discardTree s t
  else
    let i := newId s
    let s := modTree i.2 t k.tree fun r => { r with casts := r.casts ++ [{ num := i.1, entry := e }] }
    sched s (s.now + 8) priLand .treeForward (.tree t port { k with cast := i.1 })

/-- A router stands still for a slot: its cluster is saved, or every tile of the slot has yielded (R422). -/
def routerStill (s : State) (t slot : Nat) : Bool :=
  s.routersOff.contains slot || (ctxState s slot != 3 && kget 0 s.owners (tileCluster t) != slot)

/-- The slot whose packets an instance holds. -/
def instSlot (i : TreeInst) : Nat :=
  match i.own.toList ++ i.kids.map (·.2) with
  | k :: _ => k.slot
  | [] => 0

/-- The broadcast goes on: the local write, then the child ports in order (R234); a router that stands still keeps it
(R422). -/
def forwardCast (s : State) (t : Nat) (port : RPort) (k : TreePkt) : State :=
  match (treeAt s t k.tree).casts.find? fun i => i.num == k.cast with
  | none => s
  | some i =>
    match if teLocal i.entry && !routerStill s t k.slot then areaHold s t i.entry k.wide else none with
    | some c => sched s c priLand .treeForward (.tree t port k)
    | none =>
    let s := modTree s t k.tree fun r => { r with casts := r.casts.filter fun x => x.num ≠ k.cast }
    if routerStill s t k.slot then { s with heldTrees := s.heldTrees ++ [{ tile := t, port := port, pkt := k }] } else
    let s := if teLocal i.entry then deliver s t k.tree i.entry k 0 else s
    [0, 1, 2, 3].foldl (fun s p => if teChild i.entry p then sendTree s t p k true else s) s

/-- The root's record of a result with missing contributors, and the passing of the record that a replay gave the instance (R119, R235). -/
def timeoutRecord (s : State) (t : Nat) (k : TreePkt) (i : TreeInst) (mask : BitVec 64) : State :=
  match i.drive with
  | some d => ((occasionsLeft s k.slot 0x1B (objTree k.tree.val)).find? fun r => r.seq == d.1).elim s fun r => markMade s k.slot r
  | none => if mask = 0 then s else occasion s k.slot k.pb t 0x1B 0 0 (objTree k.tree.val) mask.toNat

/-- A complete instance is combined and forwarded, or written at the root (R233). -/
def forwardInst (s : State) (t : Nat) (n : Fin 16) (inst : Nat) : State :=
  match (treeAt s t n).opens.find? fun i => i.num == inst && i.closing with
  | none => s
  | some i =>
    if routerStill s t (instSlot i) then s
    -- the root's record waits for the ring (R113)
    else if teParent i.entry = 7 ∧ missingOf i ≠ 0 ∧ (termsOf t i).any (fun k => pbStalled s k.slot k.pb) then
      sched s (s.now + 1) priLand .treeForward (.at3 t n.val inst)
    else match if teParent i.entry = 7 ∧ !(termsOf t i).isEmpty then areaHold s t i.entry ((termsOf t i).any (·.wide)) else none with
    -- the root's result waits for its banks (R66)
    | some c => sched s c priLand .treeForward (.at3 t n.val inst)
    | none =>
    let s := modTree s t n fun r => { r with opens := r.opens.filter fun x => x.num ≠ inst, gone := goneAfter r.gone inst }
    match termsOf t i with
    | [] => s
    | p :: ps =>
      let own := i.own.getD p
      let wide := (p :: ps).any (·.wide)
      let mask := missingOf i
      let k : TreePkt := { tree := n, inst := inst, bcast := false, wide := wide, data := combine (if wide then 64 else 32) (p :: ps), missing := mask,
                           expect := teExpect i.entry, slot := p.slot, booked := (p :: ps).all (·.booked), pb := p.pb,
                           agent := own.agent, step := own.step }
      if teParent i.entry = 7 then timeoutRecord (deliver s t n i.entry k mask) t k i mask
      else sendTree s t (teParent i.entry) k i.own.isSome

/-- R233, R234: an instance or a broadcast is forwarded. -/
def execTreeForward (s : State) : Host.Outcome State Fault Refusal :=
  match s.occ with
  | .at3 t n i => if h : n < 16 then .next (forwardInst s t ⟨n, h⟩ i) else .refused (.noOccasion "TREE_FORWARD")
  | .tree t port k => .next (forwardCast s t port k)
  | _ => .refused (.noOccasion "TREE_FORWARD")

/-- What the Prompt Book says of a time-out at a node: under replay an instance with a recorded mask waits for every contributor that the mask does
not name, and one without a record diverges (R118 to R120). -/
def timeoutVerdict (s : State) (n : Fin 16) (i : TreeInst) : Verdict :=
  match i.own.toList ++ i.kids.map (·.2) with
  | [] => .go id
  | k :: _ =>
    if k.pb = 2 ∧ pbEnabled s k.slot then
      if i.drive.isSome then .wait 1 else .diverge (noOccasion s k.slot ⟨0x1B, objTree n.val⟩) 0
    else .go id

/-- The time of an instance has passed (R235); the timer of a slot that is not Active stands (R423). A divergence is the fault of the step at the node, and the instance stays open. -/
def treeTimeout (s : State) (t : Nat) (n : Fin 16) (inst : Nat) : State :=
  match (treeAt s t n).opens.find? fun i => i.num == inst && !i.closing && i.due.any (· ≤ s.now) with
  | none => s
  | some i => if routerStill s t (instSlot i) || s.timersOff.any (·.1 == instSlot i) then s else match timeoutVerdict s n i with
    | .go _ => closeInst s t n inst true
    | .wait _ => s
    | .diverge c q => deferFault (diverged s (instSlot i) t ⟨0x1B, objTree n.val⟩ c q) t { cause := c, addr := 0, org := orgOf s t 7, id := 0 } (s.now + 1)

/-- R235: a node's time passes. -/
def execTreeTimeout (s : State) : Host.Outcome State Fault Refusal :=
  match s.occ with
  | .at3 t n i => if h : n < 16 then .next (treeTimeout s t ⟨n, h⟩ i) else .refused (.noOccasion "TREE_TIMEOUT")
  | _ => .refused (.noOccasion "TREE_TIMEOUT")

end Sys2Proof.Machine
end

