-- ==== Sys2Proof/Machine/Nt.lean ====
section
/-! DEFINITION. The network socket (R226 to R240): its operations, the send channels, and what happens to a packet at its target. -/

namespace Sys2Proof.Machine

/-! ### Send channels (R226) -/

def chanOf (s : State) (a c : Nat) : Chan := kget {} (ag s a).chans c

def modChan (s : State) (a c : Nat) (f : Chan → Chan) : State := modAg s a fun g => { g with chans := kmod {} g.chans c f }

def chanFlits (c : Chan) : Nat := (c.pkts.map (·.2)).foldl (· + ·) 0

/-- The channel of a packet (R226). -/
def pktChan : PktKind → Nat
  | .send _ _ _ _ _ _ => 0
  | .put _ _ _ => 1
  | .putb _ _ _ => 1
  | .reduce _ _ _ _ => 2
  | .bcast _ _ _ => 2
  | _ => 3

/-- The flits of a packet (R226). -/
def pktFlits : PktKind → Nat
  | .put _ _ _ => 1
  | .event _ => 1
  | .mxcmd _ _ _ _ => 1
  | .spawn _ _ _ _ => 2
  | .send _ _ n _ _ _ => 1 + n / 64
  | .putb _ n _ => 1 + n / 64
  | .reduce _ w _ _ => if w then 5 else 3
  | .bcast _ w _ => if w then 5 else 3

/-- The agent that a packet is for. -/
def pktDst (a : Nat) : PktKind → Nat
  | .put ad _ _ => addrTile ad
  | .putb ad _ _ => addrTile ad
  | .send p _ _ _ _ _ => p
  | .spawn t _ _ _ => t
  | .event w => w.toNat / 2 ^ 33 % 2048
  | .mxcmd t _ _ _ => t
  | .reduce _ _ _ _ => a
  | .bcast _ _ _ => a

/-- The next injection of a tile's channels. -/
def wantInject (s : State) (a : Nat) : State :=
  if (ag s a).injecting then s
  else sched (modAg s a fun g => { g with injecting := true }) (s.now + 1) priEngine .flitInject (.at a)

/-- A packet of an operation, whose identifier it takes. -/
def packet (s : State) (x : OpCtx) (id : Nat) (k : PktKind) (eff : Option Nat) (pkg : Option Nat := none) (addr : Word := 0) : Pkt :=
  { id := id, agent := x.a, slot := slotOf s x.a, kind := k, flits := pktFlits k, booked := isBooked s x.a,
    org := orgOf s x.a x.slot, step := stepOf s x.a, pb := pbOf s x.a, eff := eff, pkg := pkg, addr := addr }

/-- A packet joins its channel. -/
def sendPkt (s : State) (p : Pkt) : State :=
  wantInject (modChan s p.agent (pktChan p.kind) fun c => { c with pkts := c.pkts ++ [(p, p.flits)] }) p.agent

/-- A packet enters its channel; the identifier is its operation's. -/
def enqueue (s : State) (x : OpCtx) (id : Nat) (k : PktKind) (eff : Option Nat) (pkg : Option Nat := none) (addr : Word := 0) : State :=
  sendPkt s (packet s x id k eff pkg addr)

/-- A trigger holds while its packet does not fit in its channel (R226), or its socket or latch has no room (R147). -/
def ntHeld (x : OpCtx) (s : State) (k : PktKind) (res : Bool) : Bool :=
  sockHeld s x.a .nt || decide (16 < chanFlits (chanOf s x.a (pktChan k)) + pktFlits k) || (res && decide (32 ≤ inFlight s x.a .nt 0x20))

/-- Issues a packet. -/
def ntOp (x : OpCtx) (s : State) (k : PktKind) (res : Bool) (go : State → State) : OpOut :=
  if ntHeld x s k res then .hold .lock else .go go

/-! ### Injection -/

/-- Whether the head of a channel may inject: behind a refused packet the later ones wait until it is accepted, but a packet that has begun goes on
(R226). -/
def chanReady (s : State) (a c : Nat) : Bool :=
  let ch := chanOf s a c
  match ch.pkts with
  | [] => false
  | (p, n) :: _ => decide (n < p.flits) || !ch.refused.any fun r => !ch.untold.contains r.1.id && decide (r.1.id < p.id)

/-- The links and modules on a packet's way; none for a tree's packet, which goes to its own router, and for one that leaves the package. -/
def pktWay (p : Pkt) : List (Nat × Nat) :=
  let d := pktDst p.agent p.kind
  if p.pkg.isSome || !isTile p.agent || !isTile d then [] else route p.agent d

/-- Another step's booking, or an aged reservation, keeps the channel or the first link of the way from the packet's unbooked step (R66): the resource. -/
def chanKept (s : State) (a c : Nat) : Option Nat :=
  match (chanOf s a c).pkts with
  | [] => none
  | p :: _ => (keptOf s p.1.step (ridTile 5 a c :: ((pktWay p.1).filter fun r => r.2 == 0).map (·.1))).map (·.1)

/-- The pod direction's Fly port from this package to another (R414). -/
def flyPort (s : State) (a pkg : Nat) : Nat :=
  let me := regF s 0x7000 9 0
  let axis := fun (m n ext : Nat) =>
    let d := (n + ext - m % ext) % ext
    if d = 0 then none else some (decide (d ≤ ext - d))
  let pick := fun (d : Nat) (pos : Bool) => 3 * (2 * d + (if pos then 0 else 1)) + agentTile a % 3
  match axis (me % 8) (pkg % 8) (regF s 0x7000 16 14 + 1), axis (me / 8 % 8) (pkg / 8 % 8) (regF s 0x7000 19 17 + 1),
    axis (me / 64) (pkg / 64) (regF s 0x7000 23 20 + 1) with
  | some p, _, _ => pick 0 p
  | none, some p, _ => pick 1 p
  | none, none, some p => pick 2 p
  | none, none, none => pick 0 true

/-- A put that leaves this package (R231). -/
def putRemote (p : Pkt) : Bool := p.pkg.isSome

/-- A packet's place among the accesses of its target (R79): puts and sends are deliveries. -/
def pktPri (s : State) (p : Pkt) : Nat :=
  match p.kind with
  | .put _ _ _ | .putb _ _ _ | .send _ _ _ _ _ _ => homePri (if stepBooked s p.agent p.step then 0 else 2) p.agent
  | _ => priLand

/-- The event of a packet's arrival. -/
def pktEvent (p : Pkt) : Instr :=
  match p.kind with
  | .put _ _ _ => .putArrival
  | .putb _ _ _ => .putArrival
  | .send _ _ _ _ _ _ => .sendArrival
  | .spawn _ _ _ _ => .spawnArrival
  | .event _ => .siltEventArrival
  | .mxcmd _ _ _ _ => .mxcmdArrival
  | _ => .treePacketArrival

/-- A packet's last flit has left: it arrives after its route (R12, R66, R226). -/
def depart (s : State) (p : Pkt) : State :=
  let booked := stepBooked s p.agent p.step
  if putRemote p then
    let r := freeDelay s
    sched r.2 (s.now + r.1) priLand .putArrival (.pkt p)
  else
    let r := pathArrival s p.agent (pktDst p.agent p.kind) (pktChan p.kind) s.now booked
    sched r.2 r.1 (pktPri s p) (pktEvent p) (.pkt p)

/-- What a flit of channel `c` uses that injects now: the channel, and the links and modules of its way (R66, R217), or the module towards the I/O die and
the Fly port (R231). -/
def flitUses (s : State) (a c : Nat) (p : Pkt) : List (Nat × Nat) :=
  (ridTile 5 a c, s.now) :: match p.pkg with
    | some g => [(ridModule (4 + agentDie a) (Config.ioModule a % 4), s.now + Config.ioTransit a),
                 (10 * 2 ^ 24 + flyPort s a g, s.now + Config.ioTransit a)]
    | none => (pktWay p).map fun r => (r.1, s.now + r.2)

/-- One flit of channel `c` injects; a use outside the booking overruns, and the packet is delivered nowhere (R66, R217, R241). -/
def injectOne (s : State) (a c : Nat) : State :=
  match (chanOf s a c).pkts with
  | [] => s
  | (p, n) :: ps =>
    let s := modChan s a c fun ch => { ch with pkts := if n ≤ 1 then ps else (p, n - 1) :: ps }
    let t := if n ≤ 1 then depart s p else s
    if stepBooked s a p.step then opUses t a p.id (flitUses s a c p) else t

/-- The steps whose packets stand ready in channels of a tile that a resource is kept from in this cycle, each with the resource. -/
def chansHeld (s : State) (a : Nat) : List (StepKey × Nat) :=
  ([0, 1, 2, 3].filter (chanReady s a)).filterMap fun c => (chanKept s a c).bind fun r => (chanOf s a c).pkts.head?.map fun p => (p.1.step, r)

/-- One cycle of a tile's channels: the lowest-numbered ready one injects (R226). The steps of those that are held age, whatever another injects (R53). -/
def flitInject (s : State) (a : Nat) : State :=
  let s := modAg s a fun g => { g with injecting := false }
  let s := (chansHeld s a).foldl (fun s x => ageOf s a x.1 x.2 s.now) s
  let s := match ([0, 1, 2, 3].filter (chanReady s a)).find? fun c => (chanKept s a c).isNone with
    | some c => injectOne s a c
    | none => s
  if [0, 1, 2, 3].any (chanReady s a) then wantInject s a else s

/-- R226: a tile's channels inject. -/
def execFlitInject (s : State) : Host.Outcome State Fault Refusal :=
  match s.occ with
  | .at a => .next (flitInject s a)
  | _ => .refused (.noOccasion "FLIT_INJECT")

/-! ### Refusal and acceptance (R226, R228) -/

/-- A packet for which its sender waits while it stands refused: a send held for room, or an event held for Silt room (R217). -/
def isAwaited : PktKind → Bool
  | .send _ _ _ _ _ _ => true
  | .event _ => true
  | _ => false

/-- A booked step's send or event stands refused (R67, R217, R228). -/
def sendRefused (s : State) (a c : Nat) : Bool := (chanOf s a c).refused.any fun r => isAwaited r.1.kind && stepBooked s a r.1.step

/-- The target refuses a packet, which stays with its sender; the refusal is on its way back. From the refusal of a booked step's send or event on, each cycle
is charged (R67, R217, R228). -/
def refusePkt (s : State) (p : Pkt) (target : Nat) : State :=
  let c := pktChan p.kind
  let old := sendRefused s p.agent c
  let s := modChan s p.agent c fun ch =>
    if ch.refused.any fun r => r.1.id == p.id then ch else { ch with refused := ch.refused ++ [(p, none)], untold := p.id :: ch.untold }
  let s := if !old && sendRefused s p.agent c then sched s s.now priEngine .resend (.at3 p.agent c 0) else s
  let r := pathArrival s target p.agent 8 s.now (stepBooked s p.agent p.step)
  sched r.2 r.1 priLand .refusalArrival (.pkt p)

/-- The target takes a packet, or discards it: its channel goes on. -/
def settlePkt (s : State) (p : Pkt) : State :=
  let c := pktChan p.kind
  let s := modChan s p.agent c fun ch =>
    { ch with refused := ch.refused.filter fun r => r.1.id ≠ p.id, untold := ch.untold.filter (· ≠ p.id) }
  if chanReady s p.agent c then wantInject s p.agent else s

/-- A packet is discarded with a cause that the sender takes deferred (R216, R228). -/
def failPkt (s : State) (p : Pkt) (cause : Nat) (addr : Word) : State :=
  let d := freeDelay (removeOut (stallResults (settlePkt s p) p.agent p.id) p.agent p.id)
  deferFault d.2 p.agent { cause := cause, addr := addr.toNat, org := p.org, id := p.id, step := some p.step } (s.now + d.1)

/-- An earlier packet of the same channel to the same agent waits at its target (R226, R238). -/
def pktBehind (s : State) (p : Pkt) : Bool := s.agenda.any fun e => match e.what with
  | .ev i (.pkt q) => i == pktEvent q && q.agent == p.agent && decide (q.id < p.id) && pktChan q.kind == pktChan p.kind &&
      pktDst q.agent q.kind == pktDst p.agent p.kind && q.pkg == p.pkg
  | _ => false

/-- A packet at its target: it waits there behind an earlier one of its channel that waits (R226), and while another step's booking keeps what it uses, or
its bank has performed an access in this cycle (R66, R79). In a booked step it takes a line of its bank a cycle (R217), and one of which a use overruns is
delivered nowhere (R241); else `k` delivers it. -/
def landPkt (s : State) (p : Pkt) (lines : List Nat) (k : State → State) : State :=
  let booked := stepBooked s p.agent p.step
  let rids := (lines.flatMap bankRid).eraseDups
  let keys := (lines.map bankKey).eraseDups
  let banks := (lines.flatMap turnKey).eraseDups
  let us := lineUses s.now lines
  if pktBehind s p then sched s (s.now + 1) (pktPri s p) (pktEvent p) (.pkt p)
  else match homeHold s p.agent p.id p.step (rids ++ if booked then [] else (pktWay p).map (·.1)) keys banks with
  | some w => sched (ageKept s p.agent p.step w.2 w.1) w.2 (pktPri s p) (pktEvent p) (.pkt p)
  | none =>
    if opVoid s p.agent p.id p.step us then settlePkt (voidOp s p.agent p.id p.step us) p
    else k (banks.foldl takeBank s)

/-- A refusal reaches the sender: it is counted, and the packet is sent again 16 cycles later (R226, R240). -/
def refusalArrival (s : State) (p : Pkt) : State :=
  let c := pktChan p.kind
  let s := modAg s p.agent fun g => { g with refusals := min 0xFFFFFFFF (g.refusals + 1) }
  let s := modChan s p.agent c fun ch =>
    { ch with refused := ch.refused.map fun r => if r.1.id = p.id then (r.1, some (s.now + 16)) else r, untold := ch.untold.filter (· ≠ p.id) }
  sched s (s.now + 16) (priEngine - 1) .resend (.at2 p.agent c)

/-- R226: a refusal reaches the sending tile. -/
def execRefusalArrival (s : State) : Host.Outcome State Fault Refusal :=
  match s.occ with
  | .pkt p => .next (refusalArrival s p)
  | _ => .refused (.noOccasion "REFUSAL_ARRIVAL")

/-- A re-sent packet comes before every later one, but not before one that has begun (R226). -/
def requeue (p : Pkt) : List (Pkt × Nat) → List (Pkt × Nat)
  | [] => [(p, p.flits)]
  | x :: xs => if x.2 < x.1.flits ∨ x.1.id < p.id then x :: requeue p xs else (p, p.flits) :: x :: xs

/-- A tile's channels inject in this cycle. -/
def injectNow (s : State) (a : Nat) : State :=
  let mine := fun (e : Entry) => match e.what with
    | .ev .flitInject (.at b) => b == a
    | _ => false
  sched (modAg { s with agenda := s.agenda.filter fun e => !mine e } a fun g => { g with injecting := true }) s.now priEngine .flitInject (.at a)

/-- Refused packets of a channel whose time has come go to its head again (R226). -/
def resendTurn (s : State) (a c : Nat) : State :=
  let due := (chanOf s a c).refused.filter fun r => r.2.any (· ≤ s.now)
  if due.isEmpty then s
  else injectNow (modChan s a c fun ch =>
    { ch with pkts := due.foldl (fun ps r => requeue r.1 ps) ch.pkts
              refused := ch.refused.map fun r => if r.2.any (· ≤ s.now) then (r.1, none) else r }) a

/-- While a booked step's send or event stands refused, each cycle is charged as held for room (R67, R217, R228). -/
def chargeRefused (s : State) (a c : Nat) : State :=
  if sendRefused s a c then sched (chargeDelay s a) (s.now + 1) priEngine .resend (.at3 a c 0) else s

/-- R226: a channel re-sends a refused packet; R228: a refused send is charged for a cycle. -/
def execResend (s : State) : Host.Outcome State Fault Refusal :=
  match s.occ with
  | .at2 a c => .next (resendTurn s a c)
  | .at3 a c _ => .next (chargeRefused s a c)
  | _ => .refused (.noOccasion "RESEND")

/-- A packet tried at its target again in the next cycle, because the Prompt Book holds its event (R113, R119). -/
def holdPkt (s : State) (p : Pkt) (i : Instr) : State := sched (chargeLog s p.agent p.step) (s.now + 1) (pktPri s p) i (.pkt p)

/-- A packet whose event the Prompt Book finds diverging (R118). -/
def divergePkt (s : State) (p : Pkt) (k : StreamKey) (cause seq : Nat) : State :=
  failPkt (diverged s p.slot p.agent k cause seq) p cause 0

/-! ### Puts (R230, R231) -/

/-- An earlier put of the tile to the same destination tile is still to be performed (R230). -/
def putBehind (s : State) (p : Pkt) (home : Nat) : Bool :=
  (ag s p.agent).outs.any fun o => o.put && !o.remote && decide (o.id < p.id) && o.home == home

/-- A put at its home; one that leaves the package is no longer outstanding (R231). -/
def performPut (s : State) (p : Pkt) (addr n v : Nat) : State :=
  if putRemote p then removeOut { s with voids := s.voids.filter (· ≠ p.id) } p.agent p.id
  else if putBehind s p (addrTile addr) then sched s (s.now + 1) (pktPri s p) .putArrival (.pkt p)
  else landPkt s p (byteLines addr n) fun s => match locCause s p.slot (.sram addr) n false with
    | some c => failPkt s p c (wd addr)
    | none => removeOut (plainStore s addr n v) p.agent p.id

/-- The slot to which a flit of a Fly port belongs: while a switch is under way, the outgoing one before the peer's marker; the incoming one after it
(R421). -/
def flySlot (s : State) (port slot : Nat) : Nat :=
  let st := regF s 0x7118 2 0
  if st = 0 then slot
  else if s.switch.came.contains port then s.switch.in_
  else if st ≤ 5 then s.switch.out
  else slot

/-- A flit after its peer's marker waits until the incoming slot is Active (R421). -/
def flyHeld (s : State) (port : Nat) : Bool :=
  regF s 0x7118 2 0 != 0 && s.switch.came.contains port && ctxState s s.switch.in_ != 3

/-- A put of another package reaches a Fly port (R231). What a peer sends whose marker is late is discarded up to it (R421). -/
def flyArrival (s : State) (port slot addr n v : Nat) : State :=
  let slot' := flySlot s port slot
  if s.switch.lost.contains port then s
  else if flyHeld s port then sched s (s.now + 1) (homePri 3 4095) .putArrival (.fly port slot addr n (BitVec.ofNat 2048 v))
  else if !inData addr n then errorRecord s { cause := 0x40, slot := slot', agent := 4095, addr := addr }
  else
    let lines := byteLines addr n
    match homeHold s 4095 0 noStep (lines.flatMap bankRid).eraseDups [] (lines.flatMap turnKey).eraseDups with
    | some w => sched s w.2 (homePri 3 4095) .putArrival (.fly port slot addr n (BitVec.ofNat 2048 v))
    | none =>
      let s := ((lines.flatMap turnKey).eraseDups).foldl takeBank s
      match locCause s slot' (.sram addr) n false with
      | some c => errorRecord s { cause := c, slot := slot', agent := 4095, addr := addr }
      | none => plainStore s addr n (v % 256 ^ n)

/-- R230: a put is performed at its home. -/
def execPutArrival (s : State) : Host.Outcome State Fault Refusal :=
  match s.occ with
  | .fly port slot addr n v => .next (flyArrival s port slot addr n v.toNat)
  | .pkt p => (match p.kind with
    | .put ad lo hi => .next (performPut s p ad 8 (lo.toNat + 2 ^ 32 * hi.toNat))
    | .putb ad n v => .next (performPut s p ad n (v.toNat % 2 ^ (8 * n)))
    | _ => .refused (.noOccasion "PUT_ARRIVAL"))
  | _ => .refused (.noOccasion "PUT_ARRIVAL")

/-! ### Sends (R228, R229) -/

/-- Writes `n` bytes at a position of a buffer, wrapping within it. -/
def writeRing (s : State) (h : BitVec 128) (pos : Word) (n v : Nat) : State :=
  let k := min n (hSize h - pos.toNat % hSize h)
  let s := plainStore s (hAt h pos) k v
  if k < n then plainStore s (hBase h) (n - k) (v / 256 ^ k) else s

/-- The lines that a packet would fill are the sender's (R228). -/
def ringCause (s : State) (slot : Nat) (h : BitVec 128) (pos : Word) (n : Nat) : Option Nat :=
  let k := min n (hSize h - pos.toNat % hSize h)
  if tagsOk s slot (hAt h pos) k && (decide (k = n) || tagsOk s slot (hBase h) (n - k)) then none else some 0x41

/-- The lines that `n` bytes at a position of a buffer fill. -/
def ringLines (h : BitVec 128) (pos : Word) (n : Nat) : List Nat :=
  let k := min n (hSize h - pos.toNat % hSize h)
  byteLines (hAt h pos) k ++ if k < n then byteLines (hBase h) (n - k) else []

/-- A send at the consumer's home. -/
def sendArrival (s : State) (p : Pkt) (peer : Nat) (ph : Fin 16) (n : Nat) (data : Row) : State :=
  let h := if isIssuer peer then hReg s peer ph.val else 0
  let fits := (handleCause h [2]).isNone && (ringCause s p.slot h (hProd h) n).isNone && decide (n ≤ hRoom h)
  landPkt s p (if fits then ringLines h (hProd h) n else []) fun s => match handleCause h [2] with
  | some c => failPkt s p c (wd (hBase h))
  | none => match ringCause s p.slot h (hProd h) n with
    | some c => failPkt s p c (wd (hAt h (hProd h)))
    | none =>
      if hRoom h < n then refusePkt s p peer
      else match orderEvent s p.slot p.pb ⟨0x0B, objSram (hBase h)⟩ p.agent 0 with
        | .wait 0 => holdPkt s p .sendArrival
        | .wait _ => refusePkt s p peer
        | .diverge c q => divergePkt s p ⟨0x0B, objSram (hBase h)⟩ c q
        | .go k =>
          let s := settlePkt (takeUpdate (writeRing (k s) h (hProd h) n data.toNat) peer ph.val true (hProd h + wd n)) p
          let r := pathArrival s peer p.agent 9 s.now (stepBooked s p.agent p.step)
          sched r.2 r.1 priLand .sendAcceptance (.pktPos p (hProd h))

/-- R228: a send reaches the consumer's home. -/
def execSendArrival (s : State) : Host.Outcome State Fault Refusal :=
  match s.occ with
  | .pkt p => (match p.kind with
    | .send peer ph n v _ _ => .next (sendArrival s p peer ph n v)
    | _ => .refused (.noOccasion "SEND_ARRIVAL"))
  | _ => .refused (.noOccasion "SEND_ARRIVAL")

/-- The acceptance reaches the sender: its position advances, a push that is journalled, and `sendw` gets the consumer's position
(R121, R228, R229). -/
def sendAcceptance (s : State) (p : Pkt) (h : Fin 16) (n : Nat) (wantPos : Bool) (pos : Word) : State :=
  let v := (stepHandle s p.agent p.step h.val).getD 0
  let s := journalAs s p.slot p.agent p.step p.eff 0x2A 0 (objSram (hBase v)) (hProd v + wd n).toNat
  let s := modStepBank s p.agent p.step fun b => { b with h := kmod 0 b.h h.val fun v => setHProd v (hProd v + wd n) }
  if wantPos then fillReply s p.agent p.id [(0, rowOf pos)] else s

/-- R228: an acceptance reaches the sender. -/
def execSendAcceptance (s : State) : Host.Outcome State Fault Refusal :=
  match s.occ with
  | .pktPos p pos => (match p.kind with
    | .send _ _ n _ w h =>
      -- the push waits for the ring (R113)
      if p.eff.isSome && ringLacks s p.slot 1 then .next (sched (chargeLog s p.agent p.step) (s.now + 1) priLand .sendAcceptance s.occ)
      else .next (sendAcceptance s p h n w pos)
    | _ => .refused (.noOccasion "SEND_ACCEPTANCE"))
  | _ => .refused (.noOccasion "SEND_ACCEPTANCE")

/-! ### Spawns at their target (R45, R46, R237) -/

def spawnArrival (s : State) (p : Pkt) (target window entry : Nat) (args : Row) : State :=
  landPkt s p [] fun s =>
  if isTile target && kget 0 s.owners (tileCluster target) != p.slot then failPkt s p 0x41 p.addr
  else match spawnEntry s p.slot [entry] 0 with
    | none => failPkt s p 0x4B p.addr
    | some k =>
      if (ag s target).spawnQ.length ≥ (if isTile target then 32 else 64) then refusePkt s p target
      else match orderEvent s p.slot p.pb ⟨0x0C, objAgent target⟩ p.agent 0 with
        | .wait _ => holdPkt s p .spawnArrival
        | .diverge c q => divergePkt s p ⟨0x0C, objAgent target⟩ c q
        | .go f =>
          let t : Task := { sender := p.agent, slot := p.slot, pbMode := p.pb, kern := k, window := window, args := args }
          let s := settlePkt (modAg (f s) target fun g => { g with spawnQ := g.spawnQ ++ [t] }) p
          sched s (s.now + 1) priEngine .stepTurn (.at target)

/-- R237: a task packet reaches its target. -/
def execSpawnArrival (s : State) : Host.Outcome State Fault Refusal :=
  match s.occ with
  | .pkt p => (match p.kind with
    | .spawn t w e v => .next (spawnArrival s p t w e v)
    | _ => .refused (.noOccasion "SPAWN_ARRIVAL"))
  | _ => .refused (.noOccasion "SPAWN_ARRIVAL")

/-! ### Tree packets (R232, R233) -/

/-- An earlier contribution of the tile to the same tree stands refused, and this one must not overtake it (R226, R233). -/
def termBehind (s : State) (p : Pkt) (n : Fin 16) : Bool :=
  (chanOf s p.agent 2).refused.any fun r => decide (r.1.id < p.id) && (match r.1.kind with
    | .reduce m _ _ _ => m == n
    | _ => false)

/-- The cycle in which a packet that a node has refused comes again at this port, for which a later packet of its tree waits too (R226, R233). -/
def retryAhead (s : State) (t : Nat) (port : RPort) (k : TreePkt) : Option Nat :=
  s.agenda.findSome? fun e => match e.what with
    | .ev .treePacketArrival (.tree u q l) =>
      if u = t ∧ q = port ∧ l.tree = k.tree ∧ l.again ∧ (if k.again then s.now < e.at_ else s.now ≤ e.at_) then some e.at_ else none
    | _ => none

/-- A tree's packet at a router. One of a slot whose routers stand still is held (R422). A contribution that the tile's own router refuses stays in the
channel; a packet of another node is sent again 16 cycles later, and those behind it wait (R226). -/
def treePacket (s : State) (t : Nat) (port : RPort) (k : TreePkt) (own : Option Pkt) : State :=
  let settle := fun (s : State) => own.elim s (settlePkt s)
  let later := fun (s : State) (c : Nat) => own.elim (sched s c priLand .treePacketArrival (.tree t port { k with again := true })) fun p => refusePkt s p t
  if routerStill s t k.slot then
    own.elim { s with heldTrees := s.heldTrees ++ [{ tile := t, port := port, pkt := k }] } fun p => refusePkt s p t
  else if k.bcast then settle (treeCast s t port k)
  else if own.any fun p => termBehind s p k.tree then later s s.now
  else match own.elim (retryAhead s t port k) (fun _ => none) with
    | some c => later s c
    | none => match treeTerm s t port k with
      | .taken s => settle s
      | .discarded s => settle s
      | .refused => later s (s.now + 16)

/-- A tile's own packet as its router sees it. -/
def ownTree (s : State) (p : Pkt) : Option TreePkt :=
  let b := stepBooked s p.agent p.step
  match p.kind with
  | .reduce n w v i =>
    some
      { tree := n, inst := i, bcast := false, wide := w, data := v, missing := 0, expect := teOwnBit (treeAt s p.agent n).entry,
        slot := p.slot, booked := b, pb := p.pb, agent := p.agent, step := p.step }
  | .bcast n w v =>
    some { tree := n, inst := 0, bcast := true, wide := w, data := v, missing := 0, expect := 0, slot := p.slot, booked := b, pb := p.pb, agent := p.agent,
           step := p.step }
  | _ => none

/-- R232: a tree packet reaches a router. -/
def execTreePacketArrival (s : State) : Host.Outcome State Fault Refusal :=
  match s.occ with
  | .tree t port k => .next (treePacket s t port k none)
  | .pkt p => (match ownTree s p with
    | some k => .next (landPkt s p [] fun s => treePacket s p.agent .own k (some p))
    | none => .refused (.noOccasion "TREE_PACKET_ARRIVAL"))
  | _ => .refused (.noOccasion "TREE_PACKET_ARRIVAL")

/-! ### The operations -/

/-- `nt.send` and `nt.sendw` (R228, R229). DEDUCED (log 33): a `sendw` that a restart suppresses is answered with a free word after a free time, since the
journal holds the sender's position only. -/
def ntSendOp (wantPos : Bool) : OpFn := fun x s =>
  let len := portW s x.a .nt 1
  match handleNo x.t with
  | none => .fault 0x2A none
  | some hn =>
    if 4 ≤ len.toNat then .fault 0x2A none
    else
      let h := hReg s x.a hn
      let n := 64 * (len.toNat + 1)
      match handleCause h [1] with
      | some c => .fault c none
      | none =>
        let k : PktKind := .send (hPeer h) ⟨hPhandle h % 16, Nat.mod_lt _ (by decide)⟩ n (portR s x.a .nt 2) wantPos ⟨hn % 16, Nat.mod_lt _ (by decide)⟩
        match restartEffect s x.a 0x2A (objSram (hBase h)) with
        | .bad => .fault 0x63 none
        | .again v => if wantPos && decide (32 ≤ inFlight s x.a .nt 0x20) then .hold .lock else effect x s .nt fun t =>
            let t := countEffect (setH t x.a hn (setHProd h (wd v))) (stepOf t x.a)
            if wantPos then
              let d := freeDelay t
              let f := draw d.2
              flyId f.2 x.a .nt 0x20 0 (some (t.now + d.1)) (rowOf ((Config.freeWord f.1).extractLsb' 0 32))
            else t
        | .fresh => ntOp x s k wantPos fun t =>
            let i := newId t
            let t := if wantPos then flyId i.2 x.a .nt 0x20 i.1 none 0 else i.2
            let e := takeEffect t (stepOf t x.a)
            enqueue e.2 x i.1 k e.1

def opNtSend : OpFn := ntSendOp false
def opNtSendw : OpFn := ntSendOp true

/-- A put (R230, R231): its checks, and its way out. -/
def ntPutOp (addr n align : Nat) (bad : Bool) (k : PktKind) : OpFn := fun x s =>
  if !inData addr n then .fault 0x40 (some (wd addr))
  else if addr % align ≠ 0 then .fault 0x43 (some (wd addr))
  else if bad then .fault 0x4A none
  else if fenceHeld s x.a then .hold .lock
  else ntOp x s k false fun t =>
    let i := newId t
    let pkg := (bk t x.a).c.ntpkg
    let remote := pkg.getLsbD 15 && pkg.toNat % 1024 != regF t 0x7000 9 0
    let t := addOut i.2 x.a { id := i.1, cls := 0, store := true, put := true, remote := remote, addr := addr, home := addrTile addr, perfAt := t.now,
                              key := stepOf t x.a }
    enqueue t x i.1 k none (if remote then some (pkg.toNat % 1024) else none)

def opNtPut : OpFn := fun x s =>
  let addr := (portW s x.a .nt 0).toNat
  ntPutOp addr 8 8 false (.put addr (portW s x.a .nt 1) x.t) x s

def opNtPutb : OpFn := fun x s =>
  let addr := (portW s x.a .nt 0).toNat
  let n := 64 * (x.t.toNat % 4 + 1)
  ntPutOp addr n 64 (decide (4 ≤ x.t.toNat)) (.putb addr n (portR s x.a .nt 2)) x s

/-- The tree that t[3:0] names. -/
def treeNo (t : Word) : Fin 16 := ⟨t.toNat % 16, Nat.mod_lt _ (by decide)⟩

/-- `nt.reduce`: the tile's contribution takes its instance number at its trigger (R233). -/
def opNtReduce : OpFn := fun x s =>
  let n := treeNo x.t
  let tr := treeAt s x.a n
  if 32 ≤ x.t.toNat then .fault 0x4A none
  else if !teValid tr.entry || !teLocal tr.entry then .fault 0x4D none
  else
    let k : PktKind := .reduce n (x.t.getLsbD 4) (portR s x.a .nt 2) tr.inst
    ntOp x s k false fun t =>
      let i := newId t
      enqueue (modTree i.2 x.a n fun r => { r with inst := (r.inst + 1) % 256 }) x i.1 k none

/-- `nt.bcast` is legal at a root only (R234). -/
def opNtBcast : OpFn := fun x s =>
  let n := treeNo x.t
  if 32 ≤ x.t.toNat ∨ teParent (treeAt s x.a n).entry ≠ 7 then .fault 0x4A none
  else
    let k : PktKind := .bcast n (x.t.getLsbD 4) (portR s x.a .nt 2)
    ntOp x s k false fun t =>
      let i := newId t
      enqueue i.2 x i.1 k none

/-- The entry that a kernel's spawn table holds at a number; 0, which no present entry is, beyond its end (R237, R350). -/
def spawnTableEntry (s : State) (a e : Nat) : Nat := match (bk s a).run with
  | some r => r.spawns.getD e 0
  | none => 0

/-- `nt.spawn` (R237). In a booked step a target whose translation is not pinned is an overrun, and nothing is sent (R73, R241). -/
def opNtSpawn : OpFn := fun x s =>
  let o0 := portW s x.a .nt 0
  let o1 := portW s x.a .nt 1
  let hbm := o1.getLsbD 31
  let args := portR s x.a .nt 2
  if 256 ≤ x.t.toNat ∨ o1.toNat / 2 ^ 20 % 2 ^ 11 ≠ 0 ∨ (!hbm ∧ o1.toNat % 2 ^ 20 ≠ 0) then .fault 0x4A none
  else
    let e := spawnTableEntry s x.a x.t.toNat
    let send := fun (t : State) (k : PktKind) =>
      let i := newId t
      enqueue i.2 x i.1 k none none o0
    if ntHeld x s (.spawn 0 0 0 0) false then .hold .lock
    else if !hbm then .go fun t => send t (.spawn (addrTile o0.toNat) 0 e args)
    else .go fun t =>
      let va := o1.toNat % 2 ^ 20 * 2 ^ 32 + o0.toNat
      let r := translate t (engineOf x.a) (slotOf t x.a) va false
      if isBooked r.1 x.a && !(match r.2 with
        | .ok (_, pinned) => pinned
        | .error _ => false) then overrun r.1 x.a 0x53
      else match r.2 with
      | .error c =>
        if 0xA0 ≤ c ∧ (pagerRegion r.1 (slotOf r.1 x.a) va).isSome ∧ mayPark r.1 x.a (stepOf r.1 x.a) then keep r.1 x va c e args o0
        else refuseTranslation' r.1 x va c
      | .ok (p, _) =>
        if p.host || !paOk p.pa then refuseTranslation' r.1 x va 0x42
        else send r.1 (.spawn (paDock p.pa) (va / 65536 * 65536) e args)
where
  /-- A spawn under a pager region is kept, its target's address in place of the target, and its step learns of the fault (R381). -/
  keep (t : State) (x : OpCtx) (va cause e : Nat) (args : Row) (o0 : Word) : State :=
    let i := newId t
    let p := packet i.2 x i.1 (.spawn 0 va e args) none none o0
    let d := freeDelay (modAg i.2 x.a fun g => { g with kept := g.kept ++ [{ id := i.1, ev := .spawnArrival, occ := .pkt p }] })
    deferFault d.2 x.a { cause := cause, addr := va, org := p.org, id := 0, va := some (va, false), step := some p.step } (t.now + d.1)
  /-- A target that does not translate (R380). -/
  refuseTranslation' (t : State) (x : OpCtx) (va cause : Nat) : State :=
    let i := newId t
    let d := freeDelay i.2
    deferFault d.2 x.a { cause := cause, addr := va, org := orgOf t x.a x.slot, id := i.1,
                         va := if 0xA0 ≤ cause then some (va, false) else none } (t.now + d.1)

/-- `nt.event` (R238). -/
def opNtEvent : OpFn := fun x s =>
  let w : BitVec 64 := x.t ++ portW s x.a .nt 0
  if 4 ≤ w.toNat % 8 then .fault 0x4A none
  else ntOp x s (.event w) false fun t =>
    let i := newId t
    enqueue i.2 x i.1 (.event w) none

/-- `nt.mxcmd` (R239). -/
def opNtMxcmd : OpFn := fun x s =>
  let o0 := portW s x.a .nt 0
  if 2048 ≤ o0.toNat ∨ 4096 ≤ x.t.toNat then .fault 0x4A none
  else
    let k : PktKind := .mxcmd o0.toNat (portW s x.a .nt 1) (portR s x.a .nt 2) (x.t.extractLsb' 0 12)
    ntOp x s k true fun t =>
      let i := newId t
      enqueue (flyId i.2 x.a .nt 0x20 i.1 none 0) x i.1 k none

/-- `nt.tree` writes a word of the tile's entry (R232). -/
def opNtTree : OpFn := fun x s =>
  let v := portW s x.a .nt 0
  let w := (portW s x.a .nt 1).toNat
  let put := fun (f : TreeEntry → TreeEntry) => effect x s .nt fun t => modTree t x.a (treeNo x.t) fun r => { r with entry := f r.entry }
  if 16 ≤ x.t.toNat ∨ 4 ≤ w then .fault 0x4A none
  else match w with
    | 0 => if ctlOk x.a v then put fun e => { e with ctl := v } else .fault 0x4A none
    | 1 => put fun e => { e with lo := v }
    | 2 => put fun e => { e with hi := v }
    | _ =>
      if addrTile v.toNat ≠ x.a ∨ !inData v.toNat 264 then .fault 0x40 (some v)
      else if v.toNat % 64 ≠ 0 then .fault 0x43 (some v)
      else put fun e => { e with addr := v }

/-- `nt.stat` (R240). -/
def opNtStat : OpFn := fun x s =>
  let flits := fun (c : Nat) => min 16 (chanFlits (chanOf s x.a c)) * 2 ^ (8 * c)
  match x.t.toNat with
  | 0 => result x s .nt 1 (wd (flits 0 + flits 1 + flits 2 + flits 3))
  | 1 => result x s .nt 1 (wd (rtr s x.a).discards)
  | 2 => result x s .nt 1 (wd (ag s x.a).refusals)
  | 3 =>
    let tr := treeAt s x.a (treeNo (portW s x.a .nt 0))
    result x s .nt 1 (wd (tr.count.toNat + 256 * tr.inst + (if teValid tr.entry then 65536 else 0)))
  | _ => .fault 0x4A none

/-- `nt.redwait` (R236): where the count differs already, the result lands in the next cycle. -/
def opNtRedwait : OpFn := fun x s =>
  let n := treeNo x.t
  let c := (portW s x.a .nt 0).extractLsb' 0 8
  if 16 ≤ x.t.toNat then .fault 0x4A none
  else
    let tr := treeAt s x.a n
    if tr.count ≠ c then result x s .nt 1 (redwaitVal tr)
    else if sockHeld s x.a .nt || decide (32 ≤ inFlight s x.a .nt 0x20) then .hold .lock
    else .go fun t =>
      let i := newId t
      modBk (flyId i.2 x.a .nt 0x20 i.1 none 0) x.a fun b => { b with wait := .tree n c i.1 }

/-! ### The operations of `nt` as instructions -/

/-- R228: `nt.send` as an instruction. -/
def execNtSend (m : Trig) (s : State) : Host.Outcome State Fault Refusal := execOne m opNtSend s
/-- R229: `nt.sendw` as an instruction. -/
def execNtSendw (m : Trig) (s : State) : Host.Outcome State Fault Refusal := execOne m opNtSendw s
/-- R230: `nt.put` as an instruction. -/
def execNtPut (m : Trig) (s : State) : Host.Outcome State Fault Refusal := execOne m opNtPut s
/-- R230: `nt.putb` as an instruction. -/
def execNtPutb (m : Trig) (s : State) : Host.Outcome State Fault Refusal := execOne m opNtPutb s
/-- R233: `nt.reduce` as an instruction. -/
def execNtReduce (m : Trig) (s : State) : Host.Outcome State Fault Refusal := execOne m opNtReduce s
/-- R234: `nt.bcast` as an instruction. -/
def execNtBcast (m : Trig) (s : State) : Host.Outcome State Fault Refusal := execOne m opNtBcast s
/-- R237: `nt.spawn` as an instruction. -/
def execNtSpawn (m : Trig) (s : State) : Host.Outcome State Fault Refusal := execOne m opNtSpawn s
/-- R238: `nt.event` as an instruction. -/
def execNtEvent (m : Trig) (s : State) : Host.Outcome State Fault Refusal := execOne m opNtEvent s
/-- R239: `nt.mxcmd` as an instruction. -/
def execNtMxcmd (m : Trig) (s : State) : Host.Outcome State Fault Refusal := execOne m opNtMxcmd s
/-- R232: `nt.tree` as an instruction. -/
def execNtTree (m : Trig) (s : State) : Host.Outcome State Fault Refusal := execOne m opNtTree s
/-- R240: `nt.stat` as an instruction. -/
def execNtStat (m : Trig) (s : State) : Host.Outcome State Fault Refusal := execOne m opNtStat s
/-- R236: `nt.redwait` as an instruction. -/
def execNtRedwait (m : Trig) (s : State) : Host.Outcome State Fault Refusal := execOne m opNtRedwait s


end Sys2Proof.Machine
end

