-- ==== Sys2Proof/Machine/Mx.lean ====
section
/-! DEFINITION. The matrix unit (R268 to R283): its queue and two engines, remote commands (R239), and the operations of the `mx` socket. -/

namespace Sys2Proof.Machine

/-! ### Sets and the queue -/

/-- Weight set 0 or 1. -/
def mxSet (m : Mx) (i : Nat) : MxSet := if i = 0 then m.s0 else m.s1

def setMxSet (m : Mx) (i : Nat) (w : MxSet) : Mx := if i = 0 then { m with s0 := w } else { m with s1 := w }

/-- Numbers of the active and the standby set (R270). -/
def actNo (m : Mx) : Nat := if m.act then 1 else 0
def standNo (m : Mx) : Nat := 1 - actNo m

def accOf (m : Mx) (bank row : Nat) : Row := kget 0 m.acc (256 * bank + row)

def setAcc (m : Mx) (bank row : Nat) (v : Row) : Mx := { m with acc := kset 0 m.acc (256 * bank + row) v }

def isLoadOp : MxOp → Bool
  | .load _ _ _ => true
  | .scale _ _ _ => true
  | .sclr => true
  | _ => false

/-- The accumulator bank that an array command names. -/
def opBank : MxOp → Option Nat
  | .run _ _ b _ _ _ _ => some b
  | .drainc b _ _ _ _ => some b
  | _ => none

def cmdOf (m : Mx) (id : Nat) : Option MxCmd := m.q.find? (·.id = id)

def modCmd (s : State) (t id : Nat) (f : MxCmd → MxCmd) : State :=
  modMx s t fun m => { m with q := m.q.map fun c => if c.id = id then f c else c }

/-- Load commands queued before a command on its set are still to complete (R270). -/
def behindLoad (m : Mx) (c : MxCmd) : Bool := m.q.any fun d => isLoadOp d.op && d.set == c.set && decide (d.id < c.id)

/-- Array commands queued before a load are bound to the set it writes (R270). -/
def behindArray (m : Mx) (c : MxCmd) : Bool := m.q.any fun d => !isLoadOp d.op && d.set == c.set && decide (d.id < c.id)

/-- The engines look for work. -/
def wakeArray (s : State) (t d : Nat) : State := sched s (s.now + d) (priEnd - 4) .mxArraySelect (.at2 t 0)
def wakeLoad (s : State) (t d : Nat) : State := sched s (s.now + d) (priEnd - 4) .mxLoadStart (.at2 t 0)

/-- A command enters the queue (R268 to R270); a load sets the panel count, kind and format that later triggers are checked against. -/
def mxEnqueue (s : State) (t : Nat) (c : MxCmd) : State :=
  let s := modMx s t fun m =>
    let m := match c.op with
      | .load sp f n => setMxSet m c.set { mxSet m c.set with panels := if sp then 2 * n else n, fmt := f, sparse := sp }
      | _ => m
    { m with q := m.q ++ [c] }
  if isLoadOp c.op then wakeLoad s t 1 else wakeArray s t 0

/-! ### Status (R281) -/

def statusWord (m : Mx) : Word :=
  let a := mxSet m (actNo m)
  let b := mxSet m (standNo m)
  wd ((if m.nv then 2 ^ 31 else 0) + 2 ^ 28 * (m.ncause % 8) + 2 ^ 24 * m.err + 2 ^ 19 * m.q.length + (if m.array.isSome then 2 ^ 18 else 0) +
    (if m.load.isSome then 2 ^ 17 else 0) + 2 ^ 16 * actNo m + (if a.sparse then 2 ^ 15 else 0) + (if b.sparse then 2 ^ 14 else 0) +
    2 ^ 10 * a.panels + 2 ^ 6 * b.panels + m.done % 64)

/-- Status reads whose commands are all complete deliver 2 cycles later (R281). -/
def mxAnswer (s : State) (t : Nat) : State :=
  let m := mxOf s t
  let ready := m.stats.filter fun x => !(m.q.any fun c => !c.remote && decide (c.id < x.2))
  ready.foldl (fun s x => sched (modMx s t fun m => { m with stats := m.stats.erase x }) (s.now + 2) priLand .replyArrival
    (.reply t x.1 [(0, rowOf (statusWord m))])) s

/-! ### Completion and errors (R274, R278, R281) -/

/-- A command leaves the queue, complete or at an error, and its engine looks for the next. -/
def mxEnd (s : State) (t : Nat) (c : MxCmd) (ok : Bool) : State :=
  let s := modMx s t fun m =>
    { m with
      q := m.q.filter fun d => d.id ≠ c.id
      done := if ok then m.done + 1 else m.done
      array := if isLoadOp c.op then m.array else none
      arrayEnd := if isLoadOp c.op then m.arrayEnd else some s.now
      load := if isLoadOp c.op then none else m.load }
  let s := mxAnswer s t
  if isLoadOp c.op then wakeArray (wakeLoad s t 1) t 1 else wakeLoad (wakeArray s t 0) t 1

/-- R278: a queued command completes in its last cycle. -/
def execMxCommandComplete (s : State) : Host.Outcome State Fault Refusal :=
  match s.occ with
  | .at2 t id => (match cmdOf (mxOf s t) id with
    | some c => .next (mxEnd s t c true)
    | none => .next s)
  | _ => .refused (.noOccasion "MX_COMMAND_COMPLETE")

/-- A command ends at an error: the issuing tile's deferred fault, or for a remote command an error record (R216, R281). -/
def mxFail (s : State) (t : Nat) (c : MxCmd) (cause err addr : Nat) : State :=
  let s := modMx (mxEnd s t c false) t fun m => { m with err := if err = 0 then m.err else err }
  let s := if cause = 0x79 ∧ err = 1 then holdSlot s c.slot else s
  if c.remote then errorRecord s { cause := cause, slot := c.slot, agent := t, addr := addr, pos := c.step.pos, round := c.step.round, wave := c.step.wave }
  else deferFault s t { cause := cause, addr := addr, org := c.org, id := 0, step := some c.step } (s.now + 1)

/-! ### Streams -/

/-- The handle that a command reads or writes: its step's, or the copy kept when the step was over. -/
def cmdHandle (s : State) (t : Nat) (c : MxCmd) : BitVec 128 :=
  match stepHandle s t c.step (mxHandleNo c) with
  | some h => h
  | none => c.h.getD 0

/-- The step of a command runs in the front bank. -/
def isFrontStep (s : State) (t : Nat) (k : StepKey) : Bool := match (bk s t).run with
  | some r => r.key == k
  | none => false

def setCmdHandle (s : State) (t : Nat) (c : MxCmd) (h : BitVec 128) : State :=
  if (stepHandle s t c.step (mxHandleNo c)).isSome then modStepBank s t c.step fun b => { b with h := kset 0 b.h (mxHandleNo c) h }
  else modCmd s t c.id fun c => { c with h := some h }

/-- Advances `cons` by 64 and tells the peer (R208, R274, R277). -/
def cmdPop (s : State) (t : Nat) (c : MxCmd) : State :=
  if isFrontStep s t c.step then popHandle s t (mxHandleNo c) 64
  else
    let h := cmdHandle s t c
    sendUpdate (setCmdHandle s t c (setHCons h (hCons h + 64#32))) t c.step h false (hCons h + 64#32)

/-- Advances `prod` by `n` and tells the peer; the push of a restartable step is journalled, wherever its step stands (R121, R280). -/
def cmdPush (s : State) (t : Nat) (c : MxCmd) (n : Nat) : State :=
  pushStep s t c.step c.slot c.org (cmdHandle s t c) n fun s h => setCmdHandle s t c h

/-- `n` bytes at a handle's `cons`, wrapping within its buffer. -/
def ringRead (s : State) (h : BitVec 128) (n : Nat) : Nat :=
  let k := min n (hSize h - (hCons h).toNat % hSize h)
  loadN s (hAt h (hCons h)) k + 256 ^ k * loadN s (hBase h) (n - k)

/-- What keeps a stream read of `n` bytes: a fault, or bytes not yet filled. -/
inductive Feed where
  | ready (v : Nat)
  | wait
  | fail (cause err : Nat)

/-- A stream read of `n` bytes at a handle's `cons`, over the lines that it touches in the buffer. DESIGN CHOICE (log 156): a handle that is rewritten
invalid or malformed after the trigger stops the command, with the cause that its trigger would have met (R206). -/
def feed (s : State) (c : MxCmd) (h : BitVec 128) (n : Nat) : Feed :=
  let off := hAt h (hCons h)
  let k := min n (hSize h - (hCons h).toNat % hSize h)
  let rest := decide (k < n)
  match handleCause h [0, 2] with
  | some x => .fail x 0
  | none =>
    if hFilled h < n then .wait
    else if !tagsOk s c.slot off k || (rest && !tagsOk s c.slot (hBase h) (n - k)) then .fail 0x41 0
    else if poisoned s off k || (rest && poisoned s (hBase h) (n - k)) then .fail 0x79 1
    else .ready (ringRead s h n)

/-- The banks of `n` bytes at a position of a handle's buffer. -/
def ringRids (h : BitVec 128) (pos : Word) (n : Nat) : List Nat :=
  let k := min n (hSize h - pos.toNat % hSize h)
  let ends := [hAt h pos, hAt h pos + k - 1] ++ if k < n then [hBase h, hBase h + (n - k) - 1] else []
  (ends.map fun a => ridTile 4 (addrTile a) (addrBank a)).eraseDups

/-- A stream read of `n` bytes at a position of a handle's buffer meets the errors of its lines (R390). -/
def ringMeet (s : State) (h : BitVec 128) (pos : Word) (n : Nat) : State :=
  let k := min n (hSize h - pos.toNat % hSize h)
  let t := meetLoc s (.sram (hAt h pos)) k
  if k < n then meetLoc t (.sram (hBase h)) (n - k) else t

/-- The command is one of a booked step of the tile. -/
def mxBooked (s : State) (t : Nat) (c : MxCmd) : Bool := !c.remote && stepBooked s t c.step

/-- `n` cycles of an engine from cycle `at_` on, and of the banks that it touches in them, are uses of a booked step (R66, R283); a bank that it touches now
performs nothing else in this cycle (R79, log 27). DEDUCED (log 157): which cycles an engine spends on a command. -/
def mxUse (s : State) (t : Nat) (c : MxCmd) (banks : List Nat) (at_ n : Nat) : State :=
  let s := if at_ = s.now then banks.foldl (fun s r => takeBank s (r % 2 ^ 24)) s else s
  if mxBooked s t c then opUses s t 0 ((ridTile 1 t 0 :: banks).flatMap fun r => spanUses s r at_ n) else s

/-- A waiting cycle of a booked command is a handle wait of its step (R67, R278, R280), and a use of the unit (R283). -/
def mxWaits (s : State) (t : Nat) (c : MxCmd) : State := if mxBooked s t c then chargeDelay (mxUse s t c [] s.now 1) t else s

/-- Whether a slot of a resource is kept from a command: another agent's command is no part of any step of the tile (R239, R283). -/
def mxSlotKept (s : State) (c : MxCmd) (rid slot : Nat) : Bool := if c.remote then (calAt s rid slot).isSome else slotKept s c.step rid slot

/-- What keeps a command from the banks of its stream in this cycle: somebody else's holding of one, named (R66), or a bank that has performed an
access (R79). -/
def mxBank (s : State) (c : MxCmd) (banks : List Nat) : Option (Option Nat) :=
  match banks.find? fun r => mxSlotKept s c r (slotNow s) with
  | some r => some (some r)
  | none => if banks.any fun r => bankTaken s (r % 2 ^ 24) then some none else none

/-- Somebody else holds a slot of the tile's `mx` in the `n` cycles from `at_` on (R66, R283). -/
def mxKept (s : State) (t : Nat) (c : MxCmd) (at_ n : Nat) : Bool :=
  let g := gtOf s + (at_ - s.now)
  (List.range ((g + n - 1) / 16 + 1 - g / 16)).any fun i => mxSlotKept s c (ridTile 1 t 0) (g / 16 + i)

/-- The cycles for which `mx` must be free to a command that comes to a cycle of its pass or panel: an unbooked one begins only what ends before the next
slot that is held (R283). -/
def mxSpan (s : State) (t : Nat) (c : MxCmd) (first : Bool) (n : Nat) : Nat := if first && !mxBooked s t c then n else 1

/-- A command's step ages while `mx` or a bank is kept from it (R53). -/
def mxAges (s : State) (c : MxCmd) (rid : Option Nat) : State := ageKept s c.agent c.step s.now rid

/-! ### The load engine (R274 to R276) -/

/-- 64-byte reads of a load command, and how many make one panel, pass or table. -/
def loadUnits (c : MxCmd) : Nat × Nat :=
  match c.op with
  | .load false _ n => (32 * n, 32)
  | .load true f n =>
    let p := 32 + indexBytes ((widthClass f).getD 16) / 64
    (p * n, p)
  | .scale cols _ n => if cols then (n, 1) else (8 * n, 8)
  | _ => (1, 1)

/-- The set after read number `i` of value `v`; none where it holds a malformed index byte (R281). -/
def loadChunk (c : MxCmd) (w : MxSet) (i v buf : Nat) : Option MxSet :=
  match c.op with
  | .load false f _ => some { w with held := f, w := kmod 0 w.w (i / 32) fun p => putBits p (512 * (i % 32)) 512 v, pruned := kset 0 w.pruned (i / 32) 0 }
  | .load true f _ =>
    let cls := (widthClass f).getD 16
    let per := (loadUnits c).2
    let w := { w with held := f }
    if decide (32 ≤ i % per) && !blockOk v then none
    else if i % per + 1 < per then some w
    else
      let all := buf + 2 ^ (512 * (per - 1)) * v
      let x := expandPass cls (all % 2 ^ 16384) (all / 2 ^ 16384)
      let q := 2 * (i / per)
      some { w with w := kset 0 (kset 0 w.w q x.1.1) (q + 1) x.2.1, pruned := kset 0 (kset 0 w.pruned q x.1.2) (q + 1) x.2.2 }
  | .scale cols pan0 _ =>
    let put := fun (m : KMap (BitVec 16)) (base panel : Nat) =>
      (List.range 32).foldl (fun m j => kset 0x3F80#16 m (8 * (base + j) + panel) (BitVec.ofNat 16 (v / 2 ^ (16 * j)))) m
    some (if cols then { w with sb := put w.sb 0 (pan0 + i) } else { w with sa := put w.sa (i % 8 * 32) (pan0 + i / 8) })
  | _ => some { w with sa := [], sb := [] }

/-- The load engine's next turn for a command. -/
def loadAgain (s : State) (t id : Nat) : State :=
  sched (modMx s t fun m => { m with load := some (id, s.now + 1) }) (s.now + 1) priEngine .mxLoadStart (.at2 t id)

/-- A later load of weights into the same set is queued, whose panel count the set has from its trigger on (R270). -/
def loadAfter (m : Mx) (c : MxCmd) : Bool :=
  m.q.any fun d => d.set == c.set && decide (c.id < d.id) && (match d.op with
    | .load _ _ _ => true
    | _ => false)

/-- A load is kept from its unit: an unbooked one leaves the engine to a booked one, and comes back to it without another selection (R66, R283).
DESIGN CHOICE (log 187). -/
def loadPut (s : State) (t : Nat) (c : MxCmd) : State :=
  let s := mxAges s c (some (ridTile 1 t 0))
  if mxBooked s t c then loadAgain s t c.id else wakeLoad (modMx s t fun m => { m with load := none }) t 1

/-- The cycles for which a load needs its unit now. -/
def loadSpan (s : State) (t : Nat) (c : MxCmd) : Nat := mxSpan s t c (c.done % (loadUnits c).2 == 0) (loadUnits c).2

/-- One cycle of a load. -/
def loadTurn (s : State) (t : Nat) (c : MxCmd) : State :=
  let u := loadUnits c
  if mxKept s t c s.now (loadSpan s t c) then loadPut s t c
  else
    let h := cmdHandle s t c
    let s := if c.op = .sclr ∨ hFilled h < 64 then s else ringMeet s h (hCons h) 64
    let f := if c.op = .sclr then .ready 0 else feed s c h 64
    let banks := if c.op = .sclr then [] else ringRids h (hCons h) 64
    match f with
    | .wait => loadAgain (mxWaits s t c) t c.id
    | .fail cause err => mxFail s t c cause err (hAt h (hCons h))
    | .ready v =>
      match mxBank s c banks with
      | some r => loadAgain (mxAges s c r) t c.id
      | none =>
      let s := mxUse s t c banks s.now 1
      match loadChunk c (mxSet (mxOf s t) c.set) c.done v c.buf with
      | none => mxFail (modMx s t fun m => if loadAfter m c then m else setMxSet m c.set { mxSet m c.set with panels := 0 }) t c 0x79 2 (hAt h (hCons h))
      | some w =>
        let s := modMx s t fun m => setMxSet m c.set { w with panels := (mxSet m c.set).panels, fmt := (mxSet m c.set).fmt, sparse := (mxSet m c.set).sparse }
        let s := if c.op = .sclr then s else cmdPop s t c
        let i := c.done % u.2
        let s := modCmd s t c.id fun c => { c with done := c.done + 1, buf := if i + 1 = u.2 then 0 else c.buf + 2 ^ (512 * i) * v }
        if c.done + 1 < u.1 then loadAgain s t c.id else sched s s.now (priEnd - 5) .mxCommandComplete (.at2 t c.id)

/-- What the Prompt Book says of a selection (R108, R282): the issuing agent is the choice, the rank its kind. -/
def selVerdict (s : State) (t : Nat) (c : MxCmd) (rank : Nat) : Verdict := orderEvent s c.slot c.pb ⟨0x0F, objAgent t⟩ c.agent rank

/-- The rank of a command among its agent's candidates, in trigger order. -/
def rankOf (cs : List MxCmd) (c : MxCmd) : Nat := (cs.filter fun d => d.agent == c.agent && decide (d.id < c.id)).length

/-- The load that the engine takes next: a booked one ahead of an unbooked one that is kept from the unit, else the first in queue order, whose set no
array command before it still uses (R270, R282, R283). Under replay it is the one that the record names, of the loads that may begin. -/
def nextLoad (s : State) (t : Nat) : Option MxCmd :=
  let m := mxOf s t
  let ls := m.q.filter fun c => isLoadOp c.op
  let free := ls.filter fun c => !behindArray m c
  match (ls.find? (·.chosen)).or ls.head? with
  | none => none
  | some h =>
    if (free.contains h) && mxKept s t h s.now (loadSpan s t h) && !mxBooked s t h then free.find? fun c => mxBooked s t c
    else if !h.chosen && h.pb == 2 && pbEnabled s h.slot then free.find? fun c => (match selVerdict s t c (rankOf ls c) with
        | .wait _ => false
        | _ => true)
      else free.find? (· == h)

/-- The load engine takes the next load command, once its conditions hold (R270, R274); one that it comes back to is no new selection. -/
def loadSelect (s : State) (t : Nat) : State :=
  let m := mxOf s t
  if m.load.isSome then s
  else match nextLoad s t with
    | none => match m.q.find? fun c => isLoadOp c.op && !behindArray m c with
      | none => s
      | some c => wakeLoad (if mxKept s t c s.now (loadSpan s t c) then mxAges s c (some (ridTile 1 t 0)) else chargeLog s t c.step) t 1
    | some c =>
      let begin_ := fun (s : State) => loadTurn (modMx (modCmd s t c.id fun c => { c with chosen := true }) t fun m => { m with load := some (c.id, s.now) }) t c
      if c.chosen then begin_ s
      else match selVerdict s t c (rankOf (m.q.filter fun c => isLoadOp c.op) c) with
        | .wait _ => wakeLoad (chargeLog s t c.step) t 1
        | .diverge k q => mxFail (diverged s c.slot t ⟨0x0F, objAgent t⟩ k q) t c k 0 0
        | .go f => begin_ (f s)

/-- R274: the load engine begins a command, and reads 64 bytes a cycle. -/
def execMxLoadStart (s : State) : Host.Outcome State Fault Refusal :=
  match s.occ with
  | .at2 t 0 => .next (loadSelect s t)
  | .at2 t id => .next (match cmdOf (mxOf s t) id with
    | some c => if (mxOf s t).load = some (id, s.now) then loadTurn s t c else s
    | none => s)
  | _ => .refused (.noOccasion "MX_LOAD_START")

/-! ### Selection by the array engine (R278, R282) -/

/-- A command's effective priority. -/
def effPrio (s : State) (c : MxCmd) : Nat :=
  min 7 (c.prio + (c.waited + (match c.since with
    | some n => s.now - n
    | none => 0)) / 4096)

/-- The eligible commands, those first that could update within 9 cycles of now (R270, R282). -/
def candidates (s : State) (t : Nat) : List MxCmd :=
  let m := mxOf s t
  let all := m.q.filter fun c => !isLoadOp c.op && !behindLoad m c && (m.array.all fun x => x.1 != c.id)
  let soon := all.filter fun c => c.started || decide (c.trig + 70 ≤ s.now + 9)
  if soon.isEmpty then all else soon

/-- Whether `x` goes before `y` (R282). -/
def goesBefore (s : State) (t : Nat) (x y : MxCmd) : Bool :=
  let bx := mxBooked s t x
  let by_ := mxBooked s t y
  if bx != by_ then bx
  else if bx then decide (x.id < y.id)
  else decide (effPrio s y < effPrio s x) || (effPrio s x == effPrio s y && decide (x.id < y.id))

def bestOf (s : State) (t : Nat) : List MxCmd → Option MxCmd
  | [] => none
  | c :: cs => match bestOf s t cs with
    | some d => if goesBefore s t c d then some c else some d
    | none => some c

/-- The cycle of a command's next row: the first of a pass comes by R278, and one that was put off inside its pass comes next, or after the panel change
when another command has run since. -/
def nextUpdate (s : State) (t : Nat) (c : MxCmd) : Nat :=
  let last := ((mxOf s t).arrayEnd.map (· + 9)).getD 0
  if c.chosen then max (s.now + 1) last
  else
    let base := max (s.now + 9) last
    if c.started then base else max (c.trig + 70) base

/-- A selected command's next row, at its cycle. -/
def startPass (s : State) (t : Nat) (c : MxCmd) : State :=
  let u := nextUpdate s t c
  let s := modCmd s t c.id fun c =>
    { c with
      started := true
      chosen := true
      waited := c.waited + (match c.since with
        | some n => s.now - n
        | none => 0)
      since := none }
  sched (modMx s t fun m => { m with array := some (c.id, u) }) u priEngine .mxArraySelect (.at2 t c.id)

/-- Rows of the pass that a command is in. -/
def passCycles (c : MxCmd) : Nat :=
  match c.op with
  | .run _ _ _ _ _ gs _ => ((gs[c.group]?).map (·.rows)).getD 1
  | .drainc _ _ n _ _ => n * (if fmtBits (fmtD (c.cfg.toNat / 2 ^ 12 % 64)) = 32 then 2 else 1)
  | _ => 1

/-- The cycles for which an array command needs its unit from its next row on. -/
def arraySpan (s : State) (t : Nat) (c : MxCmd) : Nat := mxSpan s t c (c.row == 0) (passCycles c)

/-- The candidates that may begin now: an unbooked one starts only a pass that ends before the next slot that is held, and one put off inside its pass
is displaced by no other unbooked one (R283). DESIGN CHOICE (log 187). -/
def mayBegin (s : State) (t : Nat) (cs : List MxCmd) : List MxCmd :=
  let off := cs.any (·.chosen)
  cs.filter fun c => mxBooked s t c || ((c.chosen || !off) && !mxKept s t c (nextUpdate s t c) (arraySpan s t c))

/-- The array engine selects (R282). Under replay it takes the candidate that the record names. -/
def arraySelect (s : State) (t : Nat) : State :=
  let m := mxOf s t
  if m.array.isSome then s
  else
    let cs := candidates s t
    let ok := mayBegin s t cs
    match bestOf s t ok with
    | none => if cs.isEmpty then s else wakeArray (cs.foldl (fun s c => mxAges s c (some (ridTile 1 t 0))) s) t 1
    | some b =>
      if b.chosen then startPass s t b
      else if b.pb = 2 ∧ pbEnabled s b.slot then
        match ok.find? fun c => (match selVerdict s t c (rankOf cs c) with
            | .wait _ => false
            | _ => true) with
        | none => wakeArray (chargeLog s t b.step) t 1
        | some c => take s c (rankOf cs c)
      else take s b (rankOf cs b)
where
  /-- Takes one candidate. -/
  take (s : State) (c : MxCmd) (rank : Nat) : State :=
    match selVerdict s t c rank with
    | .wait _ => wakeArray (chargeLog s t c.step) t 1
    | .diverge k q => mxFail (diverged s c.slot t ⟨0x0F, objAgent t⟩ k q) t c k 0 0
    | .go f => startPass (f s) t c

/-! ### Rows of the array engine (R277 to R280) -/

/-- Credits 1 to the sync word of a `grp` (R94, R279). -/
def grpCredit (s : State) (t : Nat) (c : MxCmd) (addr : Nat) : State :=
  if addr = 0 then s
  else
    let op : SyncOp := { id := c.id, agent := if c.remote then t else c.agent, issuer := c.agent, slot := c.slot, cls := 0, loc := .sram addr, a := 1#32,
                         b := 0#32, fixed := true, org := c.org, step := c.step, pb := c.pb, eff := none }
    stepCredit s op fun s op =>
      let d := freeDelay s
      sched d.2 (s.now + d.1) (homePri (opGroup s op) op.agent) .creditAtHome (.sync op)

/-- Groups of no rows are credited at their turn (R279). -/
def skipEmpty (s : State) (t : Nat) (c : MxCmd) (gs : List MxGroup) (credit : Nat) : Nat → State × MxCmd
  | 0 => (s, c)
  | n + 1 => match gs[c.group]? with
    | some g => if g.rows = 0 then
        let c := { c with group := c.group + 1, pass := 0, row := 0 }
        skipEmpty (grpCredit s t c credit) t c gs credit n
      else (s, c)
    | none => (s, c)

/-- The accumulator row at which a group begins (R279). -/
def groupRow (gs : List MxGroup) (row0 g : Nat) : Nat := row0 + ((gs.take g).map (·.rows)).foldl (· + ·) 0

/-- The array engine's next turn for a command. -/
def arrayAgain (s : State) (t id d : Nat) : State :=
  sched (modMx s t fun m => { m with array := some (id, s.now + d) }) (s.now + d) priEngine .mxArraySelect (.at2 t id)

/-- An array command is kept from its unit: an unbooked one leaves the engine to a booked one until its next row (R66, R283). DESIGN CHOICE (log 187). -/
def arrayPut (s : State) (t : Nat) (c : MxCmd) : State :=
  let s := mxAges s c (some (ridTile 1 t 0))
  if mxBooked s t c then arrayAgain s t c.id 1 else wakeArray (modMx s t fun m => { m with array := none }) t 0

/-- A pass has ended and the command has more: a booked one goes on after the panel change, an unbooked one is selected anew (R278, R282). -/
def panelBoundary (s : State) (t : Nat) (c : MxCmd) : State :=
  if mxBooked s t c then arrayAgain (mxUse s t c [] (s.now + 1) 8) t c.id 9
  else
    let s := modCmd (modMx s t fun m => { m with array := none, arrayEnd := some s.now }) t c.id fun c => { c with since := some s.now, chosen := false }
    arraySelect s t

/-- The command has done its last row. -/
def arrayDone (s : State) (t : Nat) (c : MxCmd) : State := sched s s.now (priEnd - 5) .mxCommandComplete (.at2 t c.id)

/-- The next position after a row: within the pass, at a boundary, or complete. -/
def advanceRun (s : State) (t : Nat) (c : MxCmd) (g : MxGroup) (sparse : Bool) (gs : List MxGroup) (credit : Nat) : State :=
  let passes := if sparse then g.npanel / 2 else g.npanel
  if c.row + 1 < g.rows then arrayAgain (modCmd s t c.id fun d => { d with row := c.row + 1 }) t c.id 1
  else if c.pass + 1 < passes then panelBoundary (modCmd s t c.id fun d => { d with row := 0, pass := c.pass + 1 }) t c
  else
    let s := grpCredit s t c credit
    let r := skipEmpty s t { c with group := c.group + 1, pass := 0, row := 0 } gs credit 16
    let s := modCmd r.1 t c.id fun d => { d with group := r.2.group, pass := 0, row := 0 }
    if r.2.group < gs.length then panelBoundary s t c else arrayDone s t c

/-- One row of a product: its 64 or 128 bytes of A update one accumulator row (R137, R139, R277). -/
def runTurn (s : State) (t : Nat) (c : MxCmd) (sparse : Bool) (af bank row0 : Nat) (zero : Bool) (gs : List MxGroup) (credit : Nat) : State :=
  let r := skipEmpty s t c gs credit 16
  let s := modCmd r.1 t c.id fun d => { d with group := r.2.group }
  let c := r.2
  match gs[c.group]? with
  | none => arrayDone s t c
  | some g =>
    let h := cmdHandle s t c
    let n := if sparse then 128 else 64
    if mxKept s t c s.now (arraySpan s t c) then arrayPut s t c
    else
    let s := if hFilled h < n then s else ringMeet s h (hCons h) n
    match feed s c h n with
      | .wait => arrayAgain (mxWaits s t c) t c.id 1
      | .fail cause err => mxFail s t c cause err (hAt h (hCons h))
      | .ready v =>
        let banks := ringRids h (hCons h) n
        match mxBank s c banks with
        | some r => arrayAgain (mxAges s c r) t c.id 1
        | none =>
        let s := mxUse s t c banks s.now 1
        let base := groupRow gs row0 c.group
        let s := if zero ∧ c.pass = 0 ∧ c.row = 0 then
            modMx s t fun m => (List.range g.rows).foldl (fun m i => setAcc m bank (base + i) 0) m else s
        let m := mxOf s t
        let w := mxSet m c.set
        let row := base + c.row
        let old := accOf m bank row
        let p := g.pan0 + (if sparse then 2 * c.pass else c.pass)
        let new := if sparse then accRow w af (accRow w af old row (v % 2 ^ 512) p) row (v / 2 ^ 512) (p + 1) else accRow w af old row v p
        let s := modMx s t fun m =>
          let m := setAcc m bank row new
          match newNaN old new with
          | some k => if m.nv then m else { m with nv := true, ncause := k }
          | none => m
        let s := cmdPop s t c
        let s := if sparse then cmdPop s t c else s
        advanceRun s t c g sparse gs credit

/-- The pair of a tile that covers an offset (R103, R292). -/
def pairOf (s : State) (tile off : Nat) : Option Nat :=
  (List.range 8).find? fun i =>
    let w0 := pairWord s tile i 0
    let v := ((pairWord s tile i 1).extractLsb' 0 15).toNat * 64
    w0.getLsbD 15 && decide (v ≤ off) && decide (off < v + (w0.extractLsb' 0 14).toNat * 64)

/-- A tile of the context. -/
def slotOwns (s : State) (slot tile : Nat) : Bool := kget 0 s.owners (tileCluster tile) == slot

/-- Every byte lies in some pair of the context (R103, R280). -/
def inPairs (s : State) (slot addr n : Nat) : Bool :=
  (List.range n).all fun i => slotOwns s slot (addrTile (addr + i)) && (pairOf s (addrTile (addr + i)) (addrOff (addr + i))).isSome

/-- Writes `n` bytes to the current shadow (R103). -/
def storeShadow (s : State) (addr : Nat) : Nat → Nat → State
  | 0, _ => s
  | n + 1, v =>
    let a := shadowAddr s addr
    let s := { s with poison := if addr % 64 = 0 ∧ 63 ≤ n then kset false s.poison (a / 64) false else s.poison }
    storeShadow (writeRaw s a (BitVec.ofNat 8 v)) (addr + 1) n (v / 256)

/-- The converted row of a drain, 32 elements (R132, R280). -/
def drainRow (cfg : Word) (r : Row) : Nat × Nat :=
  let f := fmtD (cfg.toNat / 2 ^ 12 % 64)
  let b := fmtBits f
  (32 * b / 8, (List.range 32).foldr (fun i acc => roundNum f (cfg.toNat / 2 ^ 18 % 4) (cfg.getLsbD 21) (decodeNum fp32 (lane r i).toNat) % 2 ^ b + 2 ^ b * acc) 0)

/-- One row of `drainc`: it waits for room, is written, and the handle advances (R280). DESIGN CHOICE (log 156): a handle that is rewritten invalid
or malformed after the trigger stops the command, with the cause that its trigger would have met (R206). -/
def drainTurn (s : State) (t : Nat) (c : MxCmd) (bank row0 count : Nat) (clear shadow : Bool) : State :=
  let h := cmdHandle s t c
  let m := mxOf s t
  let d := drainRow c.cfg (accOf m bank (row0 + c.row))
  let n := d.1
  let cyc := if n = 128 then 2 else 1
  let at_ := hAt h (hProd h)
  let k := min n (hSize h - (hProd h).toNat % hSize h)
  match handleCause h [0, 1] with
  | some x => mxFail s t c x 0 0
  | none =>
  if pushHeld s c.step h then arrayAgain (chargeLog (mxUse s t c [] s.now 1) c.agent c.step) t c.id 1
  else if mxKept s t c s.now (arraySpan s t c) then arrayPut s t c
  else if hRoom h < n then arrayAgain (mxWaits s t c) t c.id 1
  else match ringCause s c.slot h (hProd h) n with
    | some x => mxFail s t c x 0 at_
    | none =>
      let banks := ringRids h (hProd h) n
      if shadow && !(inPairs s c.slot at_ k && inPairs s c.slot (hBase h) (n - k)) then mxFail s t c 0x45 0 at_
      else match mxBank s c banks with
      | some r => arrayAgain (mxAges s c r) t c.id 1
      | none =>
        let s := mxUse s t c banks s.now cyc
        let s := if shadow then storeShadow (storeShadow s at_ k d.2) (hBase h) (n - k) (d.2 / 256 ^ k) else writeRing s h (hProd h) n d.2
        let s := if clear then modMx s t fun m => setAcc m bank (row0 + c.row) 0 else s
        let s := cmdPush s t c n
        let s := modCmd s t c.id fun d => { d with row := c.row + 1 }
        if c.row + 1 < count then arrayAgain s t c.id cyc
        else sched s (s.now + cyc - 1) (priEnd - 5) .mxCommandComplete (.at2 t c.id)

/-- R277, R278, R282: the array engine selects, or its command takes its next row. -/
def execMxArraySelect (s : State) : Host.Outcome State Fault Refusal :=
  match s.occ with
  | .at2 t 0 => .next (arraySelect s t)
  | .at2 t id => .next (match cmdOf (mxOf s t) id with
    | some c => if (mxOf s t).array = some (id, s.now) then (match c.op with
        | .run sp f b r z gs w => runTurn s t c sp f b r z gs w
        | .drainc b r n cl sh => drainTurn s t c b r n cl sh
        | _ => s) else s
    | none => s)
  | _ => .refused (.noOccasion "MX_ARRAY_SELECT")

/-! ### Trigger-time checks (R271, R272) -/

/-- The operands of a command: `t` and ports `o0` to `o3`. -/
structure MxIn where
  t : Word
  o0 : Word
  o1 : Word
  o2 : Word
  o3 : Word

/-- The lowest cause among the checks that fail. -/
def lowest (l : List (Bool × Nat)) : Option Nat :=
  (l.filter (·.1)).foldl (fun m c => match m with
    | some x => some (min x c.2)
    | none => some c.2) none

/-- A handle is invalid or of the wrong role, or malformed. -/
def handleBad (s : State) (t n : Nat) (roles : List Nat) : Option Nat := handleCause (hReg s t n) roles

def handleCheck (s : State) (t n : Nat) (roles : List Nat) : List (Bool × Nat) := match handleBad s t n roles with
  | some c => [(true, c)]
  | none => []

/-- A format code is not one that the array accepts (R134, R272). -/
def fmtBad (code : Nat) : Bool := (widthClass code).isNone

/-- The checks of a format operand: a reserved code, and a format outside the array's classes (R124, R134, R272). -/
def fmtChecks (code : Nat) : List (Bool × Nat) := [((fmtOf code).isNone, 0x70), (fmtBad code, 0x72)]

/-- The run family's checks on its set: emptiness and kind, A's format, the bank rows (R272). -/
def runChecks (w : MxSet) (sparse : Bool) (af : Nat) (zeroBits : Bool) : List (Bool × Nat) :=
  fmtChecks af ++ [(w.panels == 0 || w.sparse != sparse, 0x78), (w.panels != 0 && widthClass af != widthClass w.fmt, 0x72), (zeroBits, 0x76)]

/-- Panels beyond those of a set; an empty set is the check of its own (R272). -/
def beyondSet (w : MxSet) (pan0 n : Nat) : Bool := w.panels != 0 && decide (w.panels < pan0 + n)

/-- A command to queue, from a trigger's operands; or the cause of a check that fails (R271, R272). The group table of `grp` is `tab`. -/
def mxParse (s : State) (t : Nat) (op : Nat) (x : MxIn) (tab : List Nat) : Except Nat MxOp :=
  let m := mxOf s t
  let cfg := (bk s t).c.mxcfg
  let act := mxSet m (actNo m)
  let ha := handleCheck s t (cfg.toNat % 16) [0, 2]
  let hb := handleCheck s t (cfg.toNat / 16 % 16) [0, 2]
  let hd := handleCheck s t (cfg.toNat / 256 % 16) [0, 1]
  let bad0 := (x.t != 0#32, 0x76)
  let check := fun (l : List (Bool × Nat)) (o : MxOp) => match lowest l with
    | some c => Except.error c
    | none => .ok o
  let row0 := x.o2.toNat % 256
  let bank := x.o2.toNat / 256 % 2
  match op with
  | 2 =>
    let n := x.o1.toNat
    check (hb ++ [bad0, (decide (64 ≤ x.o0.toNat) || decide (16 ≤ n), 0x76), (n % 16 == 0 || decide (8 < n % 16), 0x77)] ++ fmtChecks (x.o0.toNat % 64))
      (.load false (x.o0.toNat % 64) n)
  | 3 =>
    let n := x.o1.toNat
    check (hb ++ [bad0, (decide (64 ≤ x.o0.toNat) || decide (8 ≤ n), 0x76), (n % 8 == 0 || decide (4 < n % 8), 0x77)] ++ fmtChecks (x.o0.toNat % 64))
      (.load true (x.o0.toNat % 64) n)
  | 7 => check (hb ++ [bad0]) .sclr
  | 10 =>
    let n := x.o2.toNat
    let p := x.o1.toNat
    check (hb ++ [bad0, (decide (2 ≤ x.o0.toNat) || decide (8 ≤ p) || decide (16 ≤ n), 0x76),
      (n % 16 == 0 || decide (8 < n % 16) || decide (8 < p % 8 + n % 16), 0x77)]) (.scale (x.o0.getLsbD 0) p n)
  | 9 =>
    let r := x.o0.toNat % 256
    let n := x.o1.toNat % 512
    check (hd ++ [bad0, (decide (512 ≤ x.o0.toNat) || decide (2048 ≤ x.o1.toNat), 0x76), (n == 0 || decide (256 < n) || decide (256 < r + n), 0x77)])
      (.drainc (x.o0.toNat / 256 % 2) r n (x.o1.getLsbD 9) (x.o1.getLsbD 10))
  | 6 =>
    let g := x.o1.toNat % 32
    let af := x.o1.toNat / 2 ^ 8 % 64
    let gs := tab.map fun w => ({ rows := w % 512, pan0 := w / 2 ^ 12 % 8, npanel := w / 2 ^ 16 % 16 } : MxGroup)
    let dirty := tab.any fun w => w / 2 ^ 9 % 8 != 0 || w / 2 ^ 15 % 2 != 0 || decide (2 ^ 20 ≤ w)
    let beyond := gs.any fun k => decide (256 < k.rows) || k.npanel == 0 || decide (8 < k.npanel) || beyondSet act k.pan0 k.npanel
    check (ha ++ runChecks act false af (x.o1.toNat / 2 ^ 5 % 8 != 0 || decide (2 ^ 14 ≤ x.o1.toNat) || decide (1024 ≤ x.o2.toNat) || dirty) ++
        [bad0, (g == 0 || decide (16 < g) || beyond || decide (256 < row0 + (gs.map (·.rows)).foldl (· + ·) 0), 0x77)])
      (.run false af bank row0 (x.o2.getLsbD 9) gs x.o3.toNat)
  | _ =>
    let sparse := op == 5
    let af := x.o0.toNat % 64
    let n := x.o1.toNat % 512
    let np := x.o3.toNat % 16
    let p0 := x.o3.toNat / 16 % 8
    check (ha ++ runChecks act sparse af (decide (64 ≤ x.o0.toNat) || decide (512 ≤ x.o1.toNat) || decide (1024 ≤ x.o2.toNat) || decide (128 ≤ x.o3.toNat)) ++
        [bad0, (n == 0 || decide (256 < n) || np == 0 || decide (8 < np) || (sparse && (np % 2 == 1 || p0 % 2 == 1)) || decide (256 < row0 + n) ||
          beyondSet act p0 np, 0x77)])
      (.run sparse af bank row0 (x.o2.getLsbD 9) [{ rows := n, pan0 := p0, npanel := np }] 0)

/-- The set that a command is bound to or writes (R270). -/
def parsedSet (m : Mx) (o : MxOp) : Nat := if isLoadOp o then standNo m else actNo m

/-! ### Operations -/

def mxIn (x : OpCtx) (s : State) : MxIn :=
  { t := x.t, o0 := portW s x.a .mx 0, o1 := portW s x.a .mx 1, o2 := portW s x.a .mx 2, o3 := portW s x.a .mx 3 }

/-- The words of a group table. -/
def groupTable (s : State) (addr n : Nat) : List Nat := (List.range n).map fun i => loadN s (addr + 4 * i) 4

/-- A command that the tile itself triggers. -/
def localCmd (t : State) (x : OpCtx) (o : MxOp) : State :=
  let i := newId t
  let m := mxOf t x.a
  mxEnqueue i.2 x.a
    { id := i.1, agent := x.a, remote := false, slot := slotOf t x.a, pb := pbOf t x.a, step := stepOf t x.a, org := orgOf t x.a x.slot, trig := t.now,
      op := o, set := parsedSet m o, cfg := (bk t x.a).c.mxcfg, prio := m.prio, since := some t.now }

/-- A queued operation: its checks, the hold while the queue is full, and its command (R268). -/
def mxQueued (op : Nat) : OpFn := fun x s =>
  match mxParse s x.a op (mxIn x s) [] with
  | .error c => .fault c none
  | .ok o => if decide (16 ≤ (mxOf s x.a).q.length) || sockHeld s x.a .mx then .hold .lock else .go fun t => localCmd t x o

def opMxWload : OpFn := unitTrigger 1 (mxQueued 2)
def opMxWloadx : OpFn := unitTrigger 1 (mxQueued 3)
def opMxRun : OpFn := unitTrigger 1 (mxQueued 4)
def opMxRunsp : OpFn := unitTrigger 1 (mxQueued 5)
def opMxSclr : OpFn := unitTrigger 1 (mxQueued 7)
def opMxDrainc : OpFn := unitTrigger 1 (mxQueued 9)
def opMxScale : OpFn := unitTrigger 1 (mxQueued 10)

/-- The checks of a `grp`'s addresses: the table in the issuing tile's data banks, and the sync word (R80, R279). -/
def grpAddr (a : Nat) (x : MxIn) : Option Nat :=
  let g := x.o1.toNat % 32
  let tab := x.o0.toNat
  let sw := x.o3.toNat
  if tab % 4 ≠ 0 ∨ addrTile tab ≠ a ∨ !inData tab (4 * g) then some 0x40
  else if sw ≠ 0 ∧ !inData sw 16 then some 0x40
  else if sw % 16 ≠ 0 then some 0x43 else none

/-- The reads of a group table's words by a local `grp`, one a cycle from `c` on (R279, R283). -/
def tableUses (a addr g c : Nat) : List (Nat × Nat) := (List.range g).map fun k => (ridTile 4 a (addrBank (addr + 4 * k)), c + 1 + k)

/-- `mx.grp` reads its table at the trigger and holds 1 + G cycles (R279); in a booked step the words are uses of their banks, one a cycle (R283), and they
wait while somebody else holds a bank of them (R66). DESIGN CHOICE (log 188): it also holds until the tile's own earlier accesses are performed. -/
def opMxGrp : OpFn := unitTrigger 1 fun x s =>
  let i := mxIn x s
  let g := i.o1.toNat % 32
  let tab := if addrTile i.o0.toNat = x.a ∧ inData i.o0.toNat (4 * g) then groupTable s i.o0.toNat g else []
  let p := mxParse s x.a 6 i tab
  match grpAddr x.a i, p with
  | some c, .error d => .fault (min c d) (some i.o0)
  | some c, .ok _ => .fault c (some i.o0)
  | none, .error d => .fault d none
  | none, .ok o =>
    if decide (16 ≤ (mxOf s x.a).q.length) || sockHeld s x.a .mx || !performedAt s x.a x.a then .hold .lock
    else match usesHeld s x.a (tableUses x.a i.o0.toNat g s.now) with
    | some r => .hold (.booked r)
    | none => .go fun t =>
      let t := if isBooked t x.a then opUses t x.a 0 (spanUses t (ridTile 1 x.a 0) t.now (2 + g) ++ tableUses x.a i.o0.toNat g t.now) else t
      let t := modBk t x.a fun b => { b with wait := .usr (t.now + 2 + g) }
      let t := meetLoc t (.sram i.o0.toNat) (4 * g)
      match locCause t (slotOf t x.a) (.sram i.o0.toNat) (4 * g) true with
      | some c => deferFault t x.a { cause := c, addr := i.o0.toNat, org := orgOf t x.a x.slot, id := 0 } (t.now + 4)
      | none => localCmd t x o

/-- `mx.cfg` (R269, R272, R273). -/
def opMxCfg : OpFn := unitTrigger 1 fun x s =>
  let d := x.t.toNat / 2 ^ 12 % 64
  let int := match fmtOf d with
    | some f => !isFloat f
    | none => false
  match lowest [(decide (2 ^ 22 ≤ x.t.toNat), 0x76), (decide (4 ≤ x.t.toNat / 2 ^ 18 % 8), 0x71), ((fmtOf d).isNone, 0x70), (int, 0x76)] with
  | some c => .fault c none
  | none => effect x s .mx fun t => modC t x.a fun c => { c with mxcfg := x.t }

/-- `mx.cap` sets the remote key (R273). -/
def opMxCap : OpFn := unitTrigger 1 fun x s => effect x s .mx fun t => modMx t x.a fun m => { m with key := x.t }

/-- `mx.prio` (R273). -/
def opMxPrio : OpFn := unitTrigger 1 fun x s =>
  if 8 ≤ x.t.toNat then .fault 0x76 none else effect x s .mx fun t => modMx t x.a fun m => { m with prio := x.t.toNat }

/-- `mx.swap` exchanges the sets for later triggers (R270). -/
def opMxSwap : OpFn := unitTrigger 1 fun x s =>
  if x.t ≠ 0#32 then .fault 0x76 none else effect x s .mx fun t => modMx t x.a fun m => { m with act := !m.act }

/-- The row that a drain reads in cycle `y`: the value from before a clear that has not yet come. -/
def drainRead (m : Mx) (bank row y : Nat) : Row :=
  let c := kget (0, 0) m.clears (256 * bank + row)
  if y ≤ c.1 then c.2 else accOf m bank row

/-- `mx.drain` (R280). -/
def opMxDrain : OpFn := unitTrigger 1 fun x s =>
  let row0 := x.t.toNat % 256
  let bank := x.t.toNat / 256 % 2
  let n := x.t.toNat / 512 % 32 + 1
  let clear := x.t.getLsbD 14
  match lowest [(decide (2 ^ 15 ≤ x.t.toNat), 0x76), (decide (256 < row0 + n), 0x77)] with
  | some c => .fault c none
  | none =>
    if (mxOf s x.a).q.any (fun c => opBank c.op == some bank) || sockHeld s x.a .mx || decide (32 < inFlight s x.a .mx 0x20 + n) then .hold .lock
    else .go fun t => (List.range n).foldl (fun t k =>
      let m := mxOf t x.a
      let v := drainRead m bank (row0 + k) (t.now + 1 + k)
      let t := fly t x.a .mx 0x20 (2 + k) v
      if clear then modMx t x.a fun m =>
        { setAcc m bank (row0 + k) 0 with clears := kset (0, 0) m.clears (256 * bank + row0 + k) (t.now + 1 + k, v) } else t) t

/-- `mx.stat` (R281). -/
def opMxStat : OpFn := unitTrigger 1 fun x s =>
  let m := mxOf s x.a
  let out := fun (k : State → State) => if sockHeld s x.a .mx || decide (32 ≤ inFlight s x.a .mx 0x21) then OpOut.hold .lock else .go k
  match x.t.toNat with
  | 0 => out fun t => fly t x.a .mx 0x21 2 (rowOf (statusWord m))
  | 1 => out fun t =>
    if !(m.q.any fun c => !c.remote) then fly t x.a .mx 0x21 2 (rowOf (statusWord m))
    else
      let i := newId t
      modMx (flyId i.2 x.a .mx 0x21 i.1 none 0) x.a fun m => { m with stats := m.stats ++ [(i.1, i.1)] }
  | 2 => out fun t => modMx (fly t x.a .mx 0x21 2 (rowOf (statusWord m))) x.a fun m => { m with nv := false, ncause := 0, err := 0 }
  | _ => .fault 0x76 none

/-! ### Remote commands (R239, R271) -/

def remoteOps : List Nat := [2, 3, 4, 5, 6, 7, 9, 10, 14]

/-- A remote command that passed the three conditions (R239). -/
def remoteCmd (s : State) (p : Pkt) (t : Nat) (vals : Row) (op : Nat) : State :=
  let i : MxIn := { t := 0#32, o0 := lane vals 0, o1 := lane vals 1, o2 := lane vals 2, o3 := lane vals 3 }
  let bad := fun (s : State) (c : Nat) => modMx (errorRecord s { cause := c, slot := p.slot, agent := t }) t fun m => { m with err := 3 }
  if op = 14 then modMx s t fun m => { m with act := !m.act }
  else
    let g := i.o1.toNat % 32
    let grp := if op = 6 then grpAddr p.agent i else none
    let tab := if op = 6 ∧ grp.isNone then groupTable s i.o0.toNat g else []
    let s := if op = 6 ∧ grp.isNone then meetLoc s (.sram i.o0.toNat) (4 * g) else s
    match grp.or (if op = 6 then locCause s p.slot (.sram i.o0.toNat) (4 * g) true else none), mxParse s t op i tab with
    | some c, _ => bad s c
    | none, .error c => bad s c
    | none, .ok o =>
      let n := newId s
      let m := mxOf s t
      mxEnqueue n.2 t
        { id := n.1, agent := p.agent, remote := true, slot := p.slot, pb := p.pb, step := stepOf s t, org := p.org, trig := s.now, op := o,
          set := parsedSet m o, cfg := (bk s t).c.mxcfg, prio := 0, since := some s.now }

/-- The lines of the issuing tile that a remote command reads: the group table of a `grp` (R279). -/
def remoteLines (s : State) (p : Pkt) (t : Nat) (key : Word) (vals : Row) (op : Nat) : List Nat :=
  let i : MxIn := { t := 0#32, o0 := lane vals 0, o1 := lane vals 1, o2 := lane vals 2, o3 := lane vals 3 }
  let m := mxOf s t
  if op = 6 ∧ m.key ≠ 0#32 ∧ key = m.key ∧ m.q.length < 16 ∧ (grpAddr p.agent i).isNone then byteLines i.o0.toNat (4 * (i.o1.toNat % 32)) else []

/-- A remote command arrives, and its acknowledgement goes back (R239). -/
def mxArrival (s : State) (p : Pkt) (t : Nat) (key : Word) (vals : Row) (op : Nat) : State :=
  landPkt s p (remoteLines s p t key vals op) fun s =>
  let m := mxOf s t
  let s := settlePkt s p
  let ack := fun (s : State) (v : Nat) =>
    let r := pathArrival s t p.agent 10 s.now (stepBooked s p.agent p.step)
    sched r.2 r.1 priLand .replyArrival (.reply p.agent p.id [(0, rowOf (wd v))])
  if m.key = 0#32 ∨ key ≠ m.key then ack (errorRecord s { cause := 0x4C, slot := p.slot, agent := t }) 1
  else if !remoteOps.contains op then ack s 2
  else if op ≠ 14 ∧ 16 ≤ m.q.length then ack s 3
  else ack (remoteCmd s p t vals op) 0

/-- R239: a remote matrix command reaches its target. -/
def execMxcmdArrival (s : State) : Host.Outcome State Fault Refusal :=
  match s.occ with
  | .pkt p => (match p.kind with
    | .mxcmd t key vals op => .next (mxArrival s p t key vals op.toNat)
    | _ => .refused (.noOccasion "MXCMD_ARRIVAL"))
  | _ => .refused (.noOccasion "MXCMD_ARRIVAL")

/-! ### The operations of `mx` as instructions -/

/-- R273: `mx.cfg` as an instruction. -/
def execMxCfg (m : Trig) (s : State) : Host.Outcome State Fault Refusal := execOne m opMxCfg s
/-- R274: `mx.wload` as an instruction. -/
def execMxWload (m : Trig) (s : State) : Host.Outcome State Fault Refusal := execOne m opMxWload s
/-- R275: `mx.wloadx` as an instruction. -/
def execMxWloadx (m : Trig) (s : State) : Host.Outcome State Fault Refusal := execOne m opMxWloadx s
/-- R277: `mx.run` as an instruction. -/
def execMxRun (m : Trig) (s : State) : Host.Outcome State Fault Refusal := execOne m opMxRun s
/-- R277: `mx.runsp` as an instruction. -/
def execMxRunsp (m : Trig) (s : State) : Host.Outcome State Fault Refusal := execOne m opMxRunsp s
/-- R279: `mx.grp` as an instruction. -/
def execMxGrp (m : Trig) (s : State) : Host.Outcome State Fault Refusal := execOne m opMxGrp s
/-- R276: `mx.sclr` as an instruction. -/
def execMxSclr (m : Trig) (s : State) : Host.Outcome State Fault Refusal := execOne m opMxSclr s
/-- R280: `mx.drain` as an instruction. -/
def execMxDrain (m : Trig) (s : State) : Host.Outcome State Fault Refusal := execOne m opMxDrain s
/-- R280: `mx.drainc` as an instruction. -/
def execMxDrainc (m : Trig) (s : State) : Host.Outcome State Fault Refusal := execOne m opMxDrainc s
/-- R276: `mx.scale` as an instruction. -/
def execMxScale (m : Trig) (s : State) : Host.Outcome State Fault Refusal := execOne m opMxScale s
/-- R273: `mx.cap` as an instruction. -/
def execMxCap (m : Trig) (s : State) : Host.Outcome State Fault Refusal := execOne m opMxCap s
/-- R273: `mx.prio` as an instruction. -/
def execMxPrio (m : Trig) (s : State) : Host.Outcome State Fault Refusal := execOne m opMxPrio s
/-- R281: `mx.stat` as an instruction. -/
def execMxStat (m : Trig) (s : State) : Host.Outcome State Fault Refusal := execOne m opMxStat s
/-- R270: `mx.swap` as an instruction. -/
def execMxSwap (m : Trig) (s : State) : Host.Outcome State Fault Refusal := execOne m opMxSwap s


end Sys2Proof.Machine
end

