-- ==== Sys2Proof/Machine/Channel.lean ====
section
/-! DEFINITION. The copy engines (R284 to R297): the form of a command, its acceptance with its translations, and the lanes that move it. -/

namespace Sys2Proof.Machine

/-! ### The form of a command (R284, R290, R291) -/

/-- An address with its space, virtual or SRAM, from its low and high words; none where it breaks R284. -/
def chAddr (lo hi : Word) : Option (Bool × Nat) :=
  let top := hi.toNat % 2 ^ 20
  let sp := hi.toNat / 2 ^ 20 % 4
  if hi.toNat / 2 ^ 22 ≠ 0 ∨ 2 ≤ sp ∨ (sp = 0 ∧ top ≠ 0) then none else some (sp == 1, lo.toNat + top * 2 ^ 32)

/-- What a command of the copy family is given: its kind, the words of its source and destination where it names them, row bytes, rows,
strides, issue time and command word. -/
structure ChForm where
  kind : XferKind
  src : Option (Word × Word)
  dst : Option (Word × Word)
  rb : Word
  rows : Word
  ss : Word
  ds : Word
  gt : Option Nat
  t : Word

/-- Whether the form's kind may deliver into a handle: `expand` and `crc` name their own destinations (R291). -/
def kindHnd : XferKind → Bool
  | .expand _ => false
  | .crc _ => false
  | _ => true

/-- The destination of `expand` and the records of `expand` and `crc` (R291). -/
def kindOk (k : XferKind) (dst : Bool × Nat) : Bool :=
  match k with
  | .expand r => !dst.1 && dst.2 % 64 == 0 && decide (0x180000 ≤ addrOff dst.2) && decide (addrOff dst.2 < 0x190000) && r % 16 == 0
  | .crc r => r % 16 == 0
  | _ => true

/-- The command that a form gives, with its completion action and targets; none where it breaks R284. Lane 8 is the engine's choice. -/
def xferOf (f : ChForm) (booked : Bool) (act sw dc : Nat) : Option Xfer :=
  let hnd := f.t.getLsbD 9
  let any := f.t.getLsbD 3
  let lane := f.t.toNat % 8
  let loc := fun (x : Option (Word × Word)) => match x with
    | none => some (false, 0)
    | some w => chAddr w.1 w.2
  match loc f.src, (if hnd then some (false, 0) else loc f.dst) with
  | some a, some d =>
    if f.t.toNat / 2 ^ 10 ≠ 0 ∨ f.t.getLsbD 4 ∨ (any ∧ (lane ≠ 0 ∨ booked)) ∨ (hnd ∧ !kindHnd f.kind) ∨ a.2 % 8 ≠ 0 ∨ d.2 % 8 ≠ 0 ∨
        f.rb.toNat % 8 ≠ 0 ∨ 2 ^ 20 < f.rb.toNat ∨ 65535 < f.rows.toNat ∨ f.ss.toNat % 8 ≠ 0 ∨ f.ds.toNat % 8 ≠ 0 ∨
        !kindOk f.kind d then none
    else some { kind := f.kind, srcVirt := a.1, src := a.2, dstVirt := d.1, dst := d.2, rowBytes := f.rb.toNat, rows := f.rows.toNat,
                sstr := f.ss.toInt, dstr := f.ds.toInt, gt := f.gt, lane := if any then 8 else lane,
                hnd := if hnd then some (f.t.toNat / 2 ^ 5 % 16) else none, act := act, sw := sw, dc := dc }
  | _, _ => none

/-- What a command's destination handle does not allow (R284, R297). -/
def xferHandle (s : State) (a : Nat) (x : Xfer) : Option Nat :=
  match x.hnd with
  | none => none
  | some n => match handleCause (hReg s a n) [0, 1] with
    | some c => some c
    | none => if x.rowBytes % 64 ≠ 0 ∨ hSize (hReg s a n) < x.rowBytes then some 0x80 else none

/-- The form in a parameter block (R290): none where its reserved bytes are set. -/
def blockForm (v : Nat) : Option (ChForm × Nat × Nat) :=
  let w := fun i => wd (fld v i 4)
  if fld v 46 2 ≠ 0 ∨ fld v 52 12 ≠ 0 ∨ fld v 40 4 % 16 ≠ 0 then none
  else some ({ kind := .copy, src := some (w 0, w 4), dst := some (w 8, w 12), rb := w 16, rows := w 20, ss := w 24, ds := w 28,
               gt := if fld v 32 8 = 0 then none else some (fld v 32 8), t := w 48 }, fld v 40 4, fld v 44 2)

/-! ### Lanes and commands -/

def laneOf (s : State) (e l : Nat) : Lane := kget {} (cceOf s e).lanes l

def modLane (s : State) (e l : Nat) (f : Lane → Lane) : State := modCce s e fun c => { c with lanes := kmod {} c.lanes l f }

/-- Whether a request is a command of a lane's queue. -/
def reqLane (r : ChReq) : Option Nat :=
  match r.op with
  | .xfer x => if x.gt.isNone then some x.lane else none
  | _ => none

/-- Commands that a lane's queue holds or has been given (R286). DESIGN CHOICE (log 194): the command that the lane performs is not among them. -/
def laneLoad (s : State) (e l : Nat) : Nat := (laneOf s e l).queue.length + ((cceOf s e).pend.filter fun r => reqLane r == some l).length

/-- Timed copies that the buffer holds or has been given (R289). -/
def timedLoad (s : State) (e : Nat) : Nat :=
  (cceOf s e).timed.length + ((cceOf s e).pend.filter fun r => match r.op with
    | .xfer x => x.gt.isSome
    | _ => false).length

/-- The lane with the fewest queued commands, the lowest-numbered on a tie (R286). -/
def freestLane (s : State) (e : Nat) : Nat :=
  (List.range 8).foldl (fun m l => if laneLoad s e l < laneLoad s e m then l else m) 0

/-- A command of an engine that is accepted and not complete. -/
def copyOf (s : State) (e id : Nat) : Option Copy := (copiesOf (cceOf s e)).find? (·.req.id == id)

def modCopy (s : State) (e id : Nat) (f : Copy → Copy) : State := modCce s e (mapCopies fun c => if c.req.id = id then f c else c)

/-- A decrement of a dependence counter sets out (R98, R99). -/
def decrement (s : State) (slot dc agent : Nat) : State := sched s (s.now + 1) priEngine .dcDec (.at3 slot dc agent)

/-- The timed copy of a lane that goes first among those due at GT `g`: by issue time, then by acceptance (R289). -/
def dueCopy (s : State) (e l g : Nat) : Option Copy :=
  match (cceOf s e).timed.filter fun c => c.x.lane == l && c.x.gt.any (· ≤ g) with
  | [] => none
  | c :: cs => some (cs.foldl (fun m c => if c.x.gt.getD 0 < m.x.gt.getD 0 then c else m) c)

/-- The next command of a free lane: a timed copy whose time has come by the next cycle, earliest issue time and then earliest acceptance
first, before the queue (R286, R289). -/
def nextCopy (s : State) (e l : Nat) : Option Copy :=
  match dueCopy s e l (gtOf s + 1) with
  | some c => some c
  | none => (laneOf s e l).queue.head?

/-- Sets a command in its lane, with its first cycle in cycle `t`. -/
def startCopy (s : State) (e l : Nat) (c : Copy) (t : Nat) : State :=
  let s := modCce s e fun u => { u with timed := u.timed.filter fun d => d.req.id != c.req.id }
  let s := modLane s e l fun u => { u with queue := u.queue.filter fun d => d.req.id != c.req.id, run := some c }
  sched s t priEngine .copyRowWrite (.at3 e l c.req.id)

/-- A lane with nothing to move takes its next command. -/
def kickLane (s : State) (e l : Nat) : State :=
  if (laneOf s e l).run.isSome then s
  else match nextCopy s e l with
    | some c => startCopy s e l c (s.now + 1)
    | none => s

/-- Invalidations whose commands are all complete end (R294). -/
def endInvs (s : State) (e : Nat) : State :=
  let alive := (copiesOf (cceOf s e)).map (·.req.id)
  ((cceOf s e).invs.filter fun v => !(v.2.2.2.any fun i => alive.contains i)).foldl (fun s v => sched s s.now (priEnd - 6) .tlbinvComplete (.at2 e v.1)) s

/-- A command that stops makes no credit beyond those already made: acknowledgements of its writes to HBM that are still to come credit nothing (R286, R295). -/
def dropAcks (s : State) (id : Nat) : State :=
  { s with agenda := s.agenda.filter fun e => match e.what with
      | .ev .copyWriteAck (.sync o) => o.id != id
      | _ => true }

/-- A command leaves the engine: it is complete, has stopped on a fault, or is cancelled. -/
def dropCopy (s : State) (e id : Nat) : State :=
  let out := fun (l : List Copy) => l.filter fun c => c.req.id != id
  let s := modCce s e fun c =>
    { c with
      timed := out c.timed
      lanes := c.lanes.map fun l => (l.1, { l.2 with queue := out l.2.queue, run := l.2.run.filter fun c => c.req.id != id, tail := out l.2.tail }) }
  let s := modCce s e fun c => { c with lanes := c.lanes.filter fun l => l.2 ≠ {} }
  endInvs ((List.range 8).foldl (fun s l => kickLane s e l) s) e

/-! ### Translations (R286, R380, R383, R384) -/

/-- Why a command is not accepted: a cause with its address, translation faults with the access that met them, or a page that blocks writes,
for which it is tried again. -/
inductive NoPages where
  | fault (cause addr : Nat) (va : Option (Nat × Bool))
  /-- a booked step's translation is not pinned: an overrun with cause 0x53 -/
  | unpinned
  /-- a booked step's page of host memory: a use outside the booking -/
  | hostPage
  | blocked
  /-- the host's copy of a line is recalled first, which takes so many cycles (R412) -/
  | recalled (d : Nat)
  /-- somebody else's booking keeps a resource, or a bank has performed an access in this cycle -/
  | kept (rid : Option Nat)

def heldAt (ps : List HeldPage) (va : Nat) : Option HeldPage :=
  ps.find? fun p => if p.big then p.page / 32 == va / 2 ^ 21 else p.page == va / 2 ^ 16

/-- Translates one page for a command, unless it holds it (R20, R73, R286, R380, R384, R412). -/
def holdPage (s : State) (e slot : Nat) (booked write : Bool) (ps : List HeldPage) (va : Nat) : State × Except NoPages (List HeldPage) :=
  let r := translate s e slot va write
  match r.2 with
  | .error c =>
    let pinned := (tlbOf s e).any fun t => tlbHits t slot va && t.pinned
    (r.1, .error (if booked && !pinned then .unpinned else .fault c va (some (va, write))))
  | .ok (p, pinned) =>
    let big := ((tlbOf r.1 e).find? fun t => tlbHits t slot va).any (·.big)
    let wb := !pinnedPage r.1 slot va && ((tlbOf r.1 e).find? fun t => tlbHits t slot va).any fun t => pteWb t.leaf
    if booked && !pinned then (r.1, .error .unpinned)
    else if !p.host && !paOk p.pa then (r.1, .error (.fault 0x42 va none))
    else if write && wb then (r.1, .error .blocked)
    else if (heldAt ps va).isSome then (r.1, .ok ps)
    else if ps.length ≥ 256 then (r.1, .error (.fault 0x80 va none))
    else
      let size := if big then 2 ^ 21 else 2 ^ 16
      (r.1, .ok (ps ++ [{ page := va / size * size / 2 ^ 16, big := big, host := p.host, pa := p.pa - va % size, key := p.key }]))

/-- Address of byte `off` of row `r` (R284). -/
def rowAddr (base : Nat) (stride : Int) (virt : Bool) (r off : Nat) : Nat :=
  (((base : Int) + stride * r + off) % (if virt then 2 ^ 52 else 2 ^ 32 : Nat)).toNat

/-- The pages of a block, row by row. -/
def holdBlock (s : State) (e slot : Nat) (booked write : Bool) (base rb rows : Nat) (stride : Int) (ps : List HeldPage) :
    State × Except NoPages (List HeldPage) :=
  (List.range rows).foldl (fun acc r =>
    let a := rowAddr base stride true r 0
    (List.range ((a % 65536 + rb + 65535) / 65536)).foldl (fun acc i => match acc.2 with
      | .error c => (acc.1, .error c)
      | .ok ps => holdPage acc.1 e slot booked write ps ((a / 65536 + i) % 2 ^ 36 * 65536 + (if i = 0 then a % 65536 else 0))) acc) (s, .ok ps)

/-- A booked step's command that holds a page of host memory is outside its booking, once every translation has been found pinned (R68, R412). -/
def noHost (booked : Bool) (r : State × Except NoPages (List HeldPage)) : State × Except NoPages (List HeldPage) :=
  match r.2 with
  | .error c => (r.1, .error c)
  | .ok ps => if booked && ps.any (·.host) then (r.1, .error .hostPage) else (r.1, .ok ps)

/-- Every page that a command's source and destination touch. -/
def holdPages (s : State) (e slot : Nat) (booked : Bool) (x : Xfer) : State × Except NoPages (List HeldPage) :=
  let r := if x.srcVirt ∧ x.rowBytes ≠ 0 then holdBlock s e slot booked false x.src x.rowBytes x.rows x.sstr [] else (s, .ok [])
  noHost booked (match r.2 with
    | .error c => (r.1, .error c)
    | .ok ps => if x.dstVirt ∧ x.rowBytes ≠ 0 then holdBlock r.1 e slot booked true x.dst x.rowBytes x.rows x.dstr ps else (r.1, .ok ps))

/-- Where an address of a command stands, through the pages it holds. -/
def copyLoc (ps : List HeldPage) (virt : Bool) (addr : Nat) : Option Loc :=
  if virt then (heldAt ps addr).map fun p => .mem p.host (p.pa + addr % (if p.big then 2 ^ 21 else 2 ^ 16)) p.key addr
  else some (.sram addr)

/-! ### Moving (R286, R287) -/

/-- Transit between a command's tile and the home of a location; dock cores and HBM channels stand off the mesh. -/
def copyTransit (a : Nat) (l : Loc) : Nat :=
  match l with
  | .sram addr => if isTile a then transit a (addrTile addr) else 0
  | .mem _ _ _ _ => 0

/-- The uses of a booked copy at a location in a cycle: the bank, or the windows of the channels (R74, R287); instruction memory, scenes and Loam
state keep no calendar (R323). -/
def locUse (s : State) (a : Nat) (l : Loc) (n cycle : Nat) : State :=
  match l with
  | .sram _ => checkUses s a ((locRids l n).map fun r => (r, cycle))
  | .mem true _ _ _ => s
  | .mem false pa _ _ => hbmUse s a 0 pa n cycle

/-- The links of the route between a command's tile and a location (R66). -/
def linkUse (s : State) (a : Nat) (l : Loc) (toHome : Bool) (cycle : Nat) : State :=
  match l with
  | .sram addr =>
    let h := addrTile addr
    if isTile a then checkUses s a (if toHome then routeUses a h cycle else routeUses h a cycle) else s
  | .mem _ _ _ _ => s

/-- What keeps the step `k` of agent `a`, booked or not, from `n` bytes at a location in this cycle: somebody else's holding of a resource, named, or of the
way between the agent and the home; or a bank that has performed an access (R66, R75, R79). -/
def locKept (s : State) (a : Nat) (k : StepKey) (l : Loc) (n : Nat) (toHome : Bool) : Option (Option Nat) :=
  let way := match l with
    | .sram addr => if isTile a then (if toHome then route a (addrTile addr) else route (addrTile addr) a).map (·.1) else []
    | .mem _ _ _ _ => []
  match (locRids l n ++ way).find? fun r => slotKept s k r (slotNow s) with
  | some r => some (some r)
  | none => if (locBanks l n).any (bankTaken s) then some none else none

/-- An access of a copy engine to `n` bytes takes their banks for the cycle (R79). -/
def takeLoc (s : State) (l : Loc) (n : Nat) : State := (locBanks l n).foldl takeBank s

/-- A held command's step ages while a resource is kept from it (R53). -/
def ageFor (s : State) (a : Nat) (k : StepKey) (rid : Option Nat) : State := ageKept s a k s.now rid

/-- The credit of `n` bytes for a command (R94, R102, R287). -/
def copyCredit (c : Copy) (e n : Nat) : SyncOp :=
  { id := c.req.id, agent := e, issuer := c.req.agent, slot := c.req.slot, cls := 0, loc := .sram c.x.sw, a := wd n, b := 0#32, fixed := true,
    org := c.req.org, step := c.req.step, pb := c.req.pb, eff := none }

/-- A credit sets out: in the cycle after its write to a word of the issuing tile, or with its transit for a booked command. -/
def sendCredit (s : State) (op : SyncOp) : State :=
  if s.deadCredits.contains op.id then s
  else
    let near := match op.loc with
      | .sram a => addrTile a == op.issuer
      | _ => false
    stepCredit s op fun s op =>
      let booked := stepBooked s op.issuer op.step
      let d := if near then (0, s) else if booked then (copyTransit op.issuer op.loc, s) else freeDelay s
      let t := s.now + 1 + d.1
      let s := if booked then linkUse (locUse d.2 op.issuer op.loc 16 t) op.issuer op.loc true (s.now + 1) else d.2
      sched s t (homePri (opGroup s op) op.agent) .creditAtHome (.sync op)

/-- The command has moved all and every write is performed: it completes (R287). -/
def settleCopy (s : State) (e id : Nat) : State :=
  match copyOf s e id with
  | some c => if c.out.isEmpty && (c.x.hnd.isNone || c.pushed == c.x.rows) && ((laneOf s e c.x.lane).tail.any fun d => d.req.id == id) then
      sched s s.now (priEnd - 7) .copyComplete (.at2 e id) else s
  | none => s

/-- The last unit has been moved: the lane is free. -/
def endMoving (s : State) (e l : Nat) (c : Copy) : State :=
  let s := modLane s e l fun u => { u with run := none, tail := u.tail ++ [c] }
  settleCopy (kickLane s e l) e c.req.id

/-- The next turn of a lane's command. -/
def laneAgain (s : State) (e l id : Nat) : State := sched s (s.now + 1) priEngine .copyRowWrite (.at3 e l id)

/-- Performs a command's write of `n` bytes at its home (R103, R383). -/
def copyStore (s : State) (e slot : Nat) (shadow : Bool) (l : Loc) (n v : Nat) : State :=
  match l with
  | .sram a => if shadow then storeShadow s a n v else plainStore s a n v
  | .mem h pa k va =>
    let s := noteAccess s e slot va (linesOf va n).length true
    if shadow && !h then
      let v := tableBytes s ⟨false, hbmShadow s pa, k⟩ v n
      afterWrite ((List.range n).foldl (fun s i => setPhysRaw s ⟨false, hbmShadow s (pa + i), k⟩ (v / 256 ^ i % 256)) s) pa (hbmShadow s pa) n
    else physWrite s ⟨h, pa, k⟩ n v

/-- A write to an unmapped offset, then the home's own refusals (R16, R18). -/
def copyCause (s : State) (slot : Nat) (l : Loc) (n : Nat) (reads : Bool) : Option Nat :=
  match l with
  | .sram a => if !allMapped a n then some 0x40 else locCause s slot l n reads
  | _ => locCause s slot l n reads

/-! ### Delivery into a handle (R287) -/

/-- The handle of a command, wherever its step stands. -/
def copyHandle (s : State) (c : Copy) (n : Nat) : BitVec 128 :=
  match stepHandle s c.req.agent c.req.step n with
  | some h => h
  | none => c.h.getD 0

/-- Earlier commands of the same step on the same handle. -/
def earlierOn (s : State) (e : Nat) (c : Copy) : List Copy :=
  (copiesOf (cceOf s e)).filter fun d => d.x.hnd == c.x.hnd && d.req.agent == c.req.agent && d.req.step == c.req.step && decide (d.req.id < c.req.id)

/-- Bytes of a command's rows that are begun and not yet pushed. -/
def unpushed (c : Copy) : Nat := (c.row - c.pushed) * c.x.rowBytes

/-- The position at which the present row begins (R287). -/
def rowPos (s : State) (e : Nat) (c : Copy) (h : BitVec 128) : Word :=
  hProd h + wd (unpushed c + ((earlierOn s e c).map unpushed).foldl (· + ·) 0)

/-! ### Shadows (R103, R288) -/

/-- The identifier of the context's pair that covers a location. -/
def locPid (s : State) (slot : Nat) (l : Loc) : Option Nat :=
  match l with
  | .sram a => if slotOwns s slot (addrTile a) then (pairOf s (addrTile a) (addrOff a)).map fun i => (pairWord s (addrTile a) i 0).toNat / 2 ^ 16 else none
  | .mem false pa _ _ => ((hpairOf s pa).filter fun p => p.slot == slot).map (·.pid)
  | .mem true _ _ _ => none

/-- The lines of row `r` of a command's destination, each by its first byte of the row, through its pages or in its handle's buffer (R287, R288). -/
def rowLocs (s : State) (e : Nat) (c : Copy) (r : Nat) : List (Option Loc) :=
  let x := c.x
  match x.hnd with
  | none =>
    let a := rowAddr x.dst x.dstr x.dstVirt r 0
    (a :: (linesOf a x.rowBytes).tail.map (64 * ·)).map fun b => copyLoc c.pages x.dstVirt (if x.dstVirt then b % 2 ^ 52 else b)
  | some n =>
    let h := copyHandle s c n
    let ahead := (earlierOn s e c).map fun d => (d.x.rows - d.pushed) * d.x.rowBytes
    let at_ := (hProd h + wd (ahead.foldl (· + ·) 0 + r * x.rowBytes) - wd (c.pushed * x.rowBytes)).toNat
    (at_ :: (linesOf at_ x.rowBytes).tail.map (64 * ·)).map fun b => some (.sram (hBase h + b % hSize h))

/-- The pairs that a row of a command's destination meets, by the line; none stands for a byte outside every pair of the context. -/
def rowPids (s : State) (e : Nat) (c : Copy) (r : Nat) : List (Option Nat) := (rowLocs s e c r).map fun l => l.bind (locPid s c.req.slot)

/-- Every byte of a shadow copy's destination lies in a pair of the context. -/
def shadowOk (s : State) (e : Nat) (c : Copy) : Bool :=
  c.x.rowBytes == 0 || (List.range c.x.rows).all fun r => (rowPids s e c r).all (·.isSome)

/-- A shadow copy that finds its pair entry invalid as a row begins (R292). -/
def rowLost (s : State) (e : Nat) (c : Copy) : Bool := c.x.kind == .shadow && c.unit_ == 0 && (rowPids s e c c.row).any (·.isNone)

/-- One row has been written whole: `prod` advances, which is a push, wherever its step stands (R121, R287). -/
def pushRow (s : State) (e n : Nat) (c : Copy) : State :=
  let a := c.req.agent
  let put := fun (s : State) (h : BitVec 128) =>
    if (stepHandle s a c.req.step n).isSome then modStepBank s a c.req.step fun b => { b with h := kset 0 b.h n h }
    else modCce s e (mapCopies fun d => if d.req.agent = a ∧ d.req.step = c.req.step ∧ d.x.hnd = some n then { d with h := some h } else d)
  let s := pushStep s a c.req.step c.req.slot c.req.org (copyHandle s c n) c.x.rowBytes put
  modCopy s e c.req.id fun d => { d with pushed := d.pushed + 1 }

/-- Rows of a handle's commands that are written whole are pushed in order; a push that must wait for the ring is tried again (R113). -/
def pushRows (s : State) (e id : Nat) : Nat → State
  | 0 => s
  | f + 1 => match copyOf s e id with
    | none => s
    | some c => match c.x.hnd with
      | none => s
      | some n =>
        if c.row ≤ c.pushed ∨ c.out.any (fun r => decide (r ≤ c.pushed)) ∨ (earlierOn s e c).any (fun d => decide (d.pushed < d.x.rows)) then s
        else if pushHeld s c.req.step (copyHandle s c n) then
          (if s.agenda.any fun x => x.what == .ev .copyRowWrite (.at e) then s else sched (chargeLog s c.req.agent c.req.step) (s.now + 1) (homePri 2 e) .copyRowWrite (.at e))
        else pushRows (pushRow s e n c) e id f

/-- Rows of every command into a handle that may now be pushed are, and a command that this completes completes. -/
def wakeHandles (s : State) (e : Nat) : State :=
  ((copiesOf (cceOf s e)).filter fun d => d.x.hnd.isSome).foldl (fun s d => settleCopy (pushRows s e d.req.id 65536) e d.req.id) s

/-- A fault found at a home stops the command (R286, R287). -/
def failCopy (s : State) (e : Nat) (c : Copy) (cause addr : Nat) : State :=
  let d := freeDelay (wakeHandles (dropCopy (dropAcks s c.req.id) e c.req.id) e)
  deferFault d.2 c.req.agent { cause := cause, addr := addr, org := c.req.org, id := c.req.id, step := some c.req.step } (s.now + d.1)

/-- A unit of a command is performed at its destination; a unit whose command has stopped is not (R286, R295). -/
def copyWrite (s : State) (acc : Access) : State :=
  let e := acc.agent
  match copyOf s e acc.id, acc.op with
  | some c, .store n =>
    match locKept s c.req.agent c.req.step acc.loc n true with
    | some r => sched (ageFor s c.req.agent c.req.step r) (s.now + 1) (homePri 2 e) .copyRowWrite (.access acc)
    | none => if recallDue s acc.loc n true then
        let d := recallLines s c.req.agent c.req.step acc.loc n
        sched d.2 (s.now + d.1) (homePri 2 e) .copyRowWrite (.access acc)
      else match (if c.x.kind == .shadow && (locPid s acc.slot acc.loc).isNone then some 0x45 else copyCause s acc.slot acc.loc n false) with
      | some k => failCopy s e c k (locAddr acc.loc)
      | none =>
        let s := if stepBooked s c.req.agent c.req.step then locUse s c.req.agent acc.loc n s.now else s
        let s := copyStore (takeLoc s acc.loc n) e acc.slot (c.x.kind == .shadow) acc.loc n acc.data.toNat
        let s := modCopy s e acc.id fun d => { d with out := d.out.erase acc.cls }
        let s := if c.x.act % 2 = 1 then (match acc.loc with
            | .sram _ => sendCredit s (copyCredit c e n)
            | .mem _ _ _ _ =>
              let d := if stepBooked s c.req.agent c.req.step then (512, s) else freeDelay s
              sched d.2 (s.now + d.1) priEngine .copyWriteAck (.sync (copyCredit c e n))) else s
        settleCopy (if c.x.hnd.isSome then wakeHandles s e else s) e acc.id
  | _, _ => s

/-- The pattern of a fill from byte `off` of its row (R288). -/
def fillData (p : BitVec 64) (off n : Nat) : Nat :=
  (List.range n).foldr (fun i acc => p.toNat / 256 ^ ((off + i) % 8) % 256 + 256 * acc) 0

/-- Why a command's turn waits: for its lane, or for `n` bytes that it reads or, with `out`, writes (R66, R79). -/
def turnKept (s : State) (e l : Nat) (c : Copy) (z : Option Loc) (n : Nat) (out : Bool) : Option (Option Nat) :=
  let a := c.req.agent
  let lane := ridLane (e - 2112) l
  if isTile a && slotKept s c.req.step lane (slotNow s) then some (some lane)
  else z.bind fun z => locKept s a c.req.step z n out

/-- A command's turn waits for a cycle, and its step ages (R53). -/
def turnWaits (s : State) (e l : Nat) (c : Copy) (rid : Option Nat) : State := laneAgain (ageFor s c.req.agent c.req.step rid) e l c.req.id

/-- The lane's own use in a cycle that moves data for a booked step (R287). -/
def laneUse (s : State) (e l : Nat) (c : Copy) : State :=
  if stepBooked s c.req.agent c.req.step then checkUse (useOk s c.req.agent (ridLane (e - 2112) l) s.now) c.req.agent s else s

/-- One unit of a `copy`, `fill` or `shadow` (R286 to R288): up to 64 bytes of the present row, within one page of either side. It is read in
this cycle; its write is performed when it has reached its home. -/
def moveUnit (s : State) (e l : Nat) (c : Copy) (h : Option (BitVec 128)) : State :=
  let x := c.x
  let a := c.req.agent
  let booked := stepBooked s a c.req.step
  let sa := rowAddr x.src x.sstr x.srcVirt c.row c.unit_
  let pos := match h with
    | some h => rowPos s e c h
    | none => 0
  let da := match h with
    | some h => hBase h + (pos.toNat + c.unit_) % hSize h
    | none => rowAddr x.dst x.dstr x.dstVirt c.row c.unit_
  let n := min (min 64 (x.rowBytes - c.unit_)) (min (65536 - sa % 65536) (65536 - da % 65536))
  let n := match h with
    | some h => min n (hBase h + hSize h - da)
    | none => n
  let src : Option Loc := match x.kind with
    | .fill _ => none
    | _ => copyLoc c.pages x.srcVirt sa
  match turnKept s e l c src n false with
  | some r => turnWaits s e l c r
  | none =>
  if src.any fun z => recallDue s z n false then
    let d := recallLines s a c.req.step (src.getD (.sram 0)) n
    sched d.2 (s.now + d.1) priEngine .copyRowWrite (.at3 e l c.req.id)
  else
  let s := src.elim s fun z => meetLoc s z n
  if rowLost s e c then failCopy s e c 0x45 da
  else match (src.bind fun z => copyCause s c.req.slot z n true), copyLoc c.pages x.dstVirt da with
    | some k, _ => failCopy s e c k sa
    | none, none => s
    | none, some dst =>
      let s := laneUse (src.elim s fun z => takeLoc s z n) e l c
      let v := match x.kind, src with
        | .fill p, _ => fillData p c.unit_ n
        | _, some z => locRead s z n
        | _, none => 0
      let s := match src with
        | some (.mem _ _ _ va) => noteAccess s e c.req.slot va (linesOf va n).length false
        | _ => s
      let back := match src with
        | some (.mem _ _ _ _) => 512
        | some z => copyTransit a z
        | none => 0
      let s := match booked, src with
        | true, some z => linkUse (locUse s a z n s.now) a z false s.now
        | _, _ => s
      let d := if booked then (back + copyTransit a dst, s) else freeDelay s
      let t := s.now + d.1
      let s := if booked then linkUse d.2 a dst true (s.now + back) else d.2
      let acc : Access :=
        { id := c.req.id, agent := e, slot := c.req.slot, op := .store n, cls := c.row, loc := dst, data := BitVec.ofNat 2048 v, fixed := booked,
          org := c.req.org, step := c.req.step }
      let last := c.unit_ + n = x.rowBytes
      let f := fun (d : Copy) => { d with out := d.out ++ [c.row], row := if last then d.row + 1 else d.row, unit_ := if last then 0 else d.unit_ + n }
      let s := sched (modLane s e l fun u => { u with run := u.run.map f }) t (homePri 2 e) .copyRowWrite (.access acc)
      if last && decide (c.row + 1 = x.rows) then endMoving s e l (f c) else laneAgain s e l c.req.id

/-- A turn of a copy into a handle: a row begins once every earlier command on the handle has begun its last and there is room for it; each
cycle that it waits is a handle wait of its step (R287). DESIGN CHOICE (log 156): a handle that is rewritten invalid or malformed after the
trigger stops the command, with the cause that its trigger would have met. -/
def handleTurn (s : State) (e l : Nat) (c : Copy) (n : Nat) : State :=
  let h := copyHandle s c n
  let pend := unpushed c + ((earlierOn s e c).map unpushed).foldl (· + ·) 0
  match handleCause h [0, 1] with
  | some k => failCopy s e c k 0
  | none =>
  if c.unit_ = 0 ∧ ((earlierOn s e c).any (fun d => decide (d.row < d.x.rows)) ∨ hRoom h < pend + c.x.rowBytes) then
    laneAgain (if stepBooked s c.req.agent c.req.step then chargeDelay s c.req.agent else s) e l c.req.id
  else moveUnit s e l c (some h)

/-! ### Expansion and checksums (R179, R180, R291, R323) -/

/-- Slots present in a prefix. -/
def presentSlots (p : Nat) : Nat := ((List.range 7).filter fun i => p.testBit i).length

/-- The bundle that a compressed bundle stands for (R179): header and present slots in place. -/
def expandOne (p v : Nat) : Nat :=
  ((List.range 7).foldl (fun (acc : Nat × Nat) i =>
    if p.testBit i then (acc.1 + v / 2 ^ (64 * (1 + acc.2)) % 2 ^ 64 * 2 ^ (64 * (i + 1)), acc.2 + 1) else acc) (v % 2 ^ 64, 0)).1

/-- The bundles of a stream of `len` bytes, of which `buf` holds the first `got`, written from tile offset `dst`, with the status and the bytes consumed
(R291); none while it takes more bytes to tell. A stream that ends inside a bundle is read to its end (R323). -/
def expandFrom (buf len got dst off : Nat) : Nat → Option (List Nat × Nat × Nat)
  | 0 => some ([], 0, off)
  | f + 1 =>
    let short := if got = len then some ([], 2, off) else none
    if off = len then some ([], 0, off)
    else if 0x190000 < dst + 64 then some ([], 3, off)
    else if got < off + 2 then short
    else
      let p := fld buf off 2
      if p / 2 ^ 7 ≠ 0 then some ([], 1, off)
      else
        let k := 8 + 8 * presentSlots p
        if got < off + 2 + k then short
        else (expandFrom buf len got (dst + 64) (off + 2 + k) f).map fun r => (expandOne p (fld buf (off + 2) k) :: r.1, r.2)

/-- `n` bytes of a command's source row, byte by byte through its pages. -/
def srcBytes (s : State) (c : Copy) (row off : Nat) : Nat → Nat
  | 0 => 0
  | n + 1 => (match copyLoc c.pages c.x.srcVirt (rowAddr c.x.src c.x.sstr c.x.srcVirt row off) with
      | some l => locRead s l 1
      | none => 0) + 256 * srcBytes s c row (off + 1) n

/-- The 16-byte result record (R291). -/
def chRecord (crc bundles status consumed : Nat) : Nat := crc + 2 ^ 32 * bundles + 2 ^ 48 * status + 2 ^ 64 * (consumed % 2 ^ 32)

/-- Writes the record in the command's last cycle; its one credit of 16 follows (R291, R323). -/
def writeRecord16 (s : State) (e l : Nat) (c : Copy) (at_ v : Nat) : State :=
  let loc : Loc := .sram at_
  match copyCause s c.req.slot loc 16 false with
  | some k => failCopy s e c k at_
  | none =>
    let s := laneUse (takeLoc s loc 16) e l c
    let s := if stepBooked s c.req.agent c.req.step then linkUse (locUse s c.req.agent loc 16 s.now) c.req.agent loc true s.now else s
    let s := plainStore s at_ 16 v
    let s := if c.x.act % 2 = 1 then sendCredit s (copyCredit c e 16) else s
    endMoving s e l c

/-- The places of `n` bytes at offset `off` of a row, each with its address and length: two where they cross 64 KiB (R20, R78). -/
def srcParts (c : Copy) (row off n : Nat) : List (Loc × Nat × Nat) :=
  let a := rowAddr c.x.src c.x.sstr c.x.srcVirt row off
  let k := min n (65536 - a % 65536)
  ([(a, k)] ++ if k < n then [(rowAddr c.x.src c.x.sstr c.x.srcVirt row (off + k), n - k)] else []).filterMap fun p =>
    (copyLoc c.pages c.x.srcVirt p.1).map fun l => (l, p.1, p.2)

/-- One cycle of reading `n` bytes at offset `off` of a row, whose homes may refuse (R323); `k` goes on with them. -/
def readCycle (s : State) (e l : Nat) (c : Copy) (row off n : Nat) (k : State → Nat → State) : State :=
  let ps := srcParts c row off n
  match ps.findSome? fun p => turnKept s e l c (some p.1) p.2.2 false with
  | some r => turnWaits s e l c r
  | none => match recallAll s c.req.agent c.req.step false (ps.map fun p => (p.1, p.2.2)) with
  | some d => sched d.2 (s.now + max 1 d.1) priEngine .copyRowWrite (.at3 e l c.req.id)
  | none =>
    let s := ps.foldl (fun s p => meetLoc s p.1 p.2.2) s
    match ps.findSome? fun p => (copyCause s c.req.slot p.1 p.2.2 true).map fun x => (x, p.2.1) with
    | some x => failCopy s e c x.1 x.2
    | none =>
      let v := srcBytes s c row off n
      k (ps.foldl (fun s p =>
        let s := takeLoc s p.1 p.2.2
        let s := if stepBooked s c.req.agent c.req.step then linkUse (locUse s c.req.agent p.1 p.2.2 s.now) c.req.agent p.1 false s.now else s
        match p.1 with
        | .mem _ _ _ va => noteAccess s e c.req.slot va (linesOf va p.2.2).length false
        | .sram _ => s) (laneUse s e l c)) v

/-- A turn of `expand` (R323): the stream's units, one a cycle, as far as its bundles reach; then the bundles, then the record. `row` counts the cycles. -/
def expandTurn (s : State) (e l : Nat) (c : Copy) (rec_ : Nat) : State :=
  let x := c.x
  let c := if c.parsed then c
    else match expandFrom c.buf x.rowBytes (min x.rowBytes (64 * c.row)) (addrOff x.dst) 0 1025 with
      | none => c
      | some r => { c with parsed := true, bundles := r.1, status := r.2.1, consumed := r.2.2, reads := c.row,
                           crc := r.1.foldl (fun k v => crcRun k v 64) 0xFFFFFFFF }
  let next := fun (s : State) (c : Copy) => laneAgain (modLane s e l fun u => { u with run := some { c with row := c.row + 1 } }) e l c.req.id
  let put := fun (s : State) => next s c
  if !c.parsed then readCycle s e l c 0 (64 * c.row) (min 64 (x.rowBytes - 64 * c.row)) fun s v => next s { c with buf := c.buf + v * 256 ^ (64 * c.row) }
  else match c.bundles[c.row - c.reads]? with
    | some v =>
      let at_ := x.dst + 64 * (c.row - c.reads)
      match turnKept s e l c (some (.sram at_)) 64 true with
      | some r => turnWaits s e l c r
      | none => match copyCause s c.req.slot (.sram at_) 64 false with
        | some k => failCopy s e c k at_
        | none =>
          let s := laneUse (takeLoc s (.sram at_) 64) e l c
          let s := if stepBooked s c.req.agent c.req.step then linkUse s c.req.agent (.sram at_) true s.now else s
          put (plainStore s at_ 64 v)
    | none =>
      match turnKept s e l c (some (.sram rec_)) 16 true with
      | some r => turnWaits s e l c r
      | none => writeRecord16 s e l c rec_ (chRecord (c.crc ^^^ 0xFFFFFFFF) c.bundles.length c.status c.consumed)

/-- A turn of `crc` (R291): a unit of the block, or the record. -/
def crcTurn (s : State) (e l : Nat) (c : Copy) (rec_ : Nat) : State :=
  let x := c.x
  if c.row < x.rows ∧ x.rowBytes ≠ 0 then
    let a := rowAddr x.src x.sstr x.srcVirt c.row c.unit_
    let n := min (min 64 (x.rowBytes - c.unit_)) (65536 - a % 65536)
    let last := c.unit_ + n = x.rowBytes
    let c' := { c with row := if last then c.row + 1 else c.row, unit_ := if last then 0 else c.unit_ + n, consumed := c.consumed + n }
    readCycle s e l c c.row c.unit_ n fun s v => laneAgain (modLane s e l fun u => { u with run := some { c' with crc := crcRun c.crc v n } }) e l c.req.id
  else match turnKept s e l c (some (.sram rec_)) 16 true with
    | some r => turnWaits s e l c r
    | none => writeRecord16 s e l c rec_ (chRecord (c.crc ^^^ 0xFFFFFFFF) 0 0 c.consumed)

/-- A lane's cycle (R286). -/
def laneTurn (s : State) (e l id : Nat) : State :=
  match (laneOf s e l).run with
  | none => s
  | some c =>
    if c.req.id ≠ id then s
    else if s.now < (laneOf s e l).line then laneAgain s e l id
    -- GT has not come to a timed copy's issue time, because an increment was repeated (R23, R289)
    else if c.row = 0 && c.unit_ = 0 && c.x.gt.any (fun g => decide (gtOf s < g)) then laneAgain s e l id
    else match c.x.kind with
      | .expand r => expandTurn s e l c r
      | .crc r => crcTurn s e l c r
      | _ => match c.x.hnd with
        | some n => handleTurn s e l c n
        | none => moveUnit s e l c none

end Sys2Proof.Machine
end

