-- ==== Sys2Proof/Machine/Ch.lean ====
section
/-! DEFINITION. The operations of the `ch` socket (R284 to R297) and the events of the copy engines. -/

namespace Sys2Proof.Machine

/-! ### Triggers -/

/-- A request sets out for the engine, which takes it up in the next cycle (R286); its result stands in `q0`. -/
def chPush (x : OpCtx) (op : ChOp) (s : State) : State :=
  let i := newId s
  let e := engineOf x.a
  let r : ChReq := { id := i.1, agent := x.a, slot := slotOf s x.a, step := stepOf s x.a, org := orgOf s x.a x.slot, pb := pbOf s x.a, op := op }
  sched (flyId (modCce i.2 e fun c => { c with pend := c.pend ++ [r] }) x.a .ch 0x20 i.1 none 0) (s.now + 1) priEngine .cceAccept (.at2 e i.1)

/-- A trigger holds behind an incomplete fence (R91), a full latch or a full queue (R147, R286, R289). -/
def chTrigger (x : OpCtx) (s : State) (full : Bool) (op : ChOp) : OpOut :=
  if sockHeld s x.a .ch || decide (32 ≤ inFlight s x.a .ch 0x20) || fenceHeld s x.a || full then .hold .lock else .go (chPush x op)

/-- A command of the copy family, an expansion or a checksum (R284 to R286). -/
def chXfer (x : OpCtx) (s : State) (act : Fin 4) (f : ChForm) : OpOut :=
  let e := engineOf x.a
  let c := (bk s x.a).c
  let h := if f.t.getLsbD 9 && kindHnd f.kind then handleCause (hReg s x.a (f.t.toNat / 2 ^ 5 % 16)) [0, 1] else none
  match h with
  | some k => .fault k none
  | none => match xferOf f (isBooked s x.a) act.val (if act.val = 0 then 0 else c.chsw.toNat) (if act.val = 0 then 0 else c.chdc.toNat) with
    | none => .fault 0x80 none
    | some z => match xferHandle s x.a z with
      | some k => .fault k none
      | none =>
        let z := { z with lane := if z.lane = 8 then freestLane s e else z.lane }
        chTrigger x s (if z.gt.isSome then decide (32 ≤ timedLoad s e) else decide (16 ≤ laneLoad s e z.lane)) (.xfer z)

def chO (x : OpCtx) (s : State) (n : Nat) : Word := portW s x.a .ch n

/-- The ports of `copy` and `shadow` (R288). -/
def copyForm (x : OpCtx) (s : State) (kind : XferKind) : ChForm :=
  { kind := kind, src := some (chO x s 0, chO x s 1), dst := some (chO x s 2, chO x s 3), rb := chO x s 4, rows := chO x s 5, ss := chO x s 6,
    ds := chO x s 7, gt := none, t := x.t }

def opChCopy (act : Fin 4) : OpFn := fun x s => chXfer x s act (copyForm x s .copy)

def opChCopyt (act : Fin 4) : OpFn := fun x s =>
  chXfer x s act { copyForm x s .copy with gt := some ((chO x s 8).toNat + 2 ^ 32 * (chO x s 9).toNat) }

/-- `copyi` names a parameter block (R290). -/
def opChCopyi (act : Fin 4) : OpFn := fun x s =>
  match chAddr (chO x s 0) (chO x s 1) with
  | some (virt, a) => if x.t ≠ 0#32 ∨ a % 64 ≠ 0 then .fault 0x80 none else chTrigger x s false (.block virt a act.val)
  | none => .fault 0x80 none

def opChExpand (act : Fin 4) : OpFn := fun x s =>
  chXfer x s act { kind := .expand (chO x s 5).toNat, src := some (chO x s 0, chO x s 1), dst := some (chO x s 2, chO x s 3), rb := chO x s 4,
                   rows := 1#32, ss := 0#32, ds := 0#32, gt := none, t := x.t }

def opChFill (act : Fin 4) : OpFn := fun x s =>
  chXfer x s act { kind := .fill (chO x s 1 ++ chO x s 0), src := none, dst := some (chO x s 2, chO x s 3), rb := chO x s 4, rows := chO x s 5,
                   ss := 0#32, ds := chO x s 7, gt := none, t := x.t }

def opChShadow (act : Fin 4) : OpFn := fun x s => chXfer x s act (copyForm x s .shadow)

/-- A valid SRAM pair entry of the context with this identifier (R292). -/
def isPair (s : State) (slot pid : Nat) (e : Nat × Word) : Bool :=
  e.1 % 2 == 0 && e.2.getLsbD 15 && e.2.toNat / 2 ^ 16 == pid && slotOwns s slot (e.1 / 16)

/-- Whether the context has a pair with this identifier (R105). -/
def pairExists (s : State) (slot pid : Nat) : Bool :=
  (s.pairs.any (isPair s slot pid)) || s.hpairs.any fun p => p.slot == slot && p.pid == pid

def opChPublish : OpFn := fun x s =>
  let pid := x.t.toNat % 2 ^ 16
  if !pairExists s (slotOf s x.a) pid then .fault 0x45 none
  else if x.t.toNat ≠ pid then .fault 0x80 none
  else chTrigger x s false (.publish pid)

def opChCrc (act : Fin 4) : OpFn := fun x s =>
  chXfer x s act { kind := .crc (chO x s 7).toNat, src := some (chO x s 0, chO x s 1), dst := none, rb := chO x s 4, rows := chO x s 5,
                   ss := chO x s 6, ds := 0#32, gt := none, t := x.t }

/-- The page or block that a control operation names in `o0` and `o1`, a multiple of 8: in space 1 alone, or in either (R284). -/
def chNamed (x : OpCtx) (s : State) (virtOnly : Bool) : Option (Bool × Nat) :=
  match chAddr (chO x s 0) (chO x s 1) with
  | some (v, a) => if (virtOnly && !v) || a % 8 != 0 then none else some (v, a)
  | none => none

def opChPbinv : OpFn := fun x s =>
  if x.t = 1#32 then chTrigger x s false (.pbinv true false 0)
  else match chNamed x s false with
    | some (v, a) => if x.t = 0#32 ∧ a % 64 = 0 then chTrigger x s false (.pbinv false v a) else .fault 0x80 none
    | none => .fault 0x80 none

def opChTlbinv : OpFn := fun x s =>
  if x.t = 1#32 then chTrigger x s false (.tlbinv true 0)
  else match chNamed x s true with
    | some (_, a) => if x.t = 0#32 then chTrigger x s false (.tlbinv false a) else .fault 0x80 none
    | none => .fault 0x80 none

def opChTlbpin : OpFn := fun x s =>
  let n := (chO x s 4).toNat
  match chNamed x s true with
  | some (_, a) => if x.t.toNat < 2 ∧ 1 ≤ n ∧ n ≤ 256 then chTrigger x s false (.tlbpin (x.t = 1#32) a n) else .fault 0x80 none
  | none => .fault 0x80 none

def opChCancel : OpFn := fun x s =>
  if x.t.toNat < 2 ^ 16 then chTrigger x s false (.cancel x.t.toNat) else .fault 0x80 none

def opChStat : OpFn := fun x s =>
  let o := (chO x s 0).toNat
  let sel := x.t.toNat
  if 4 < sel ∨ (sel = 0 ∧ 8 ≤ o) ∨ (sel = 2 ∧ 2 ^ 16 ≤ o) then .fault 0x80 none else chTrigger x s false (.stat sel o)

/-! ### Acceptance (R286, R381) -/

/-- A request is answered: its result is due one cycle later. -/
def chReply (s : State) (e : Nat) (r : ChReq) (v : Nat) : State :=
  sched (modCce s e fun c => { c with pend := c.pend.filter fun q => q.id != r.id, pubs := c.pubs.filter fun q => q.id != r.id }) (s.now + 1)
    priLand .replyArrival (.reply r.agent r.id [(0, rowOf (wd v))])

def chAgain (s : State) (e : Nat) (r : ChReq) : State := sched s (s.now + 1) priEngine .cceAccept (.at2 e r.id)

/-- The request is not accepted: its result never lands, and the refusal sets out (R216, R286). -/
def chRefuse (s : State) (e : Nat) (r : ChReq) (cause addr : Nat) (va : Option (Nat × Bool)) : State :=
  let s := modCce s e fun c => { c with pend := c.pend.filter fun q => q.id != r.id, pubs := c.pubs.filter fun q => q.id != r.id }
  let d := freeDelay (stallResults s r.agent r.id)
  deferFault d.2 r.agent { cause := cause, addr := addr, org := r.org, id := r.id, va := va, step := some r.step } (s.now + d.1)

/-- Whether a request is answered at once, whatever waits before it. -/
def chAtOnce : ChOp → Bool
  | .pbinv _ _ _ => true
  | .cancel _ => true
  | .stat _ _ => true
  | _ => false

/-- A step that was resumed has another parked fault, wherever it stands (R382). -/
def faultAgain (s : State) (a : Nat) (k : StepKey) : State := modRunOf (modAg s a fun g => { g with flipBack := false }) a k fun x => { x with resumed := false }

/-- A translation fault under a pager region: the command and every later one of its tile are kept (R381). A step already Parked gets its
record at once (R382); another learns of it as a deferred fault. -/
def chKeep (s : State) (e : Nat) (r : ChReq) (cause va : Nat) (write : Bool) (idx pager : Nat) : State :=
  let mine := fun (q : ChReq) => q.agent == r.agent && !chAtOnce q.op && decide (r.id ≤ q.id)
  let s := modCce s e fun c => { c with pend := c.pend.filter fun q => !mine q, kept := c.kept ++ c.pend.filter mine }
  if isParked s r.step && (ag s r.agent).flip.isNone then
    upcall (faultAgain s r.agent r.step) r.slot r.agent cause va idx pager write
  else
    let d := freeDelay s
    deferFault d.2 r.agent { cause := cause, addr := va, org := r.org, id := 0, va := some (va, write), step := some r.step } (s.now + d.1)

/-- The request's step still issues. -/
def chGoing (s : State) (r : ChReq) : Bool := (bk s r.agent).run.any fun x => x.key == r.step && x.going

/-- A request whose step an overrun has stopped performs nothing (R241). -/
def chDrop (s : State) (e : Nat) (r : ChReq) : State :=
  modCce (dropResults s r.agent r.id) e fun c => { c with pend := c.pend.filter fun q => q.id != r.id }

/-- What a failed translation comes to at acceptance. An overrun under the demote policy lets the request go on unbooked (R68, R73). -/
def chNoPages (s : State) (e : Nat) (r : ChReq) : NoPages → State
  | .blocked => chAgain s e r
  | .recalled d => sched s (s.now + max 1 d) priEngine .cceAccept (.at2 e r.id)
  | .kept rid => chAgain (ageFor s r.agent r.step rid) e r
  | .unpinned =>
    let s := overrun s r.agent 0x53
    if chGoing s r then chAgain s e r else chDrop s e r
  | .hostPage =>
    let s := checkUse false r.agent s
    chAgain { s with voids := r.id :: s.voids } e r
  | .fault c addr none => chRefuse s e r c addr none
  | .fault c addr (some (va, w)) => match pagerRegion s r.slot va with
    | some (i, p) => if mayPark s r.agent r.step then chKeep s e r c va w i p else chRefuse s e r c addr (some (va, w))
    | none => chRefuse s e r c addr (some (va, w))

/-- Whether a command has nothing to move (R287); an expansion and a checksum write their record all the same (R291). -/
def nothingToMove (x : Xfer) : Bool := kindHnd x.kind && (x.rows == 0 || x.rowBytes == 0)

/-- The command is accepted (R286): its pages are held, its identifier is delivered, and it joins its lane or the time-sorted buffer. -/
def acceptXfer (s : State) (e : Nat) (r : ChReq) (x : Xfer) : State :=
  if x.act % 2 = 1 ∧ !inData x.sw 16 then chRefuse s e r 0x40 x.sw none
  else if (if x.gt.isSome then decide (32 ≤ (cceOf s e).timed.length) else decide (16 ≤ (laneOf s e x.lane).queue.length)) then chAgain s e r
  else
    let p := holdPages s e r.slot (stepBooked s r.agent r.step) x
    match p.2 with
    | .error c => chNoPages p.1 e r c
    | .ok ps =>
      let c : Copy := { req := { r with op := .xfer x }, x := x, cid := (cceOf s e).next, pages := ps }
      if x.kind == .shadow && !shadowOk p.1 e c then chRefuse p.1 e r 0x45 x.dst none
      else
        let cid := c.cid
        let s := chReply (modCce p.1 e fun c => { c with next := (c.next + 1) % 2 ^ 16 }) e r cid
        if nothingToMove x then (if x.act / 2 = 1 then decrement s r.slot x.dc r.agent else s)
        else match x.gt with
          | some g => sched (modCce s e fun u => { u with timed := u.timed ++ [c] }) (max (s.now + 1) (cycleOf s g)) priEngine .timedCopyStart
              (.at3 e x.lane r.id)
          | none => kickLane (modLane s e x.lane fun u => { u with queue := u.queue ++ [c] }) e x.lane

/-- The block's 64 bytes, from the cache or from memory, where an unbooked step's read waits for a free slot (R66, R75, R290). -/
def readBlock (s : State) (e : Nat) (r : ChReq) (virt : Bool) (addr : Nat) : State × Except NoPages Nat :=
  let c := cceOf s e
  match c.blocks.find? fun b => b.slot == r.slot && b.virt == virt && b.addr == addr with
  | some b =>
    let s := modCce s e fun c => { c with blocks := b :: c.blocks.erase b }
    (modAg s r.agent fun g => { g with blockHits := min 0xFFFFFFFF (g.blockHits + 1) }, .ok b.v)
  | none =>
    let booked := stepBooked s r.agent r.step
    let p := if virt then noHost booked (holdPage s e r.slot booked false [] addr) else (s, .ok [])
    match p.2 with
    | .error k => (p.1, .error k)
    | .ok ps => match copyLoc ps virt addr with
      | none => (p.1, .error (.fault 0x42 addr none))
      | some l => match locKept p.1 r.agent r.step l 64 false, recallAll p.1 r.agent r.step false [(l, 64)] with
        | some rid, _ => (p.1, .error (.kept rid))
        | none, some d => (d.2, .error (.recalled d.1))
        | none, none =>
        let t := meetLoc p.1 l 64
        match copyCause t r.slot l 64 true with
        | some k => (t, .error (.fault k addr none))
        | none =>
          let v := locRead t l 64
          let t := match l with
            | .mem _ _ _ va => noteAccess t e r.slot va (linesOf va 64).length false
            | .sram _ => t
          let t := takeLoc (if booked then linkUse (locUse t r.agent l 64 s.now) r.agent l false s.now else t) l 64
          (modCce t e fun c => { c with blocks := ({ slot := r.slot, virt := virt, addr := addr, v := v } :: c.blocks).take 64 }, .ok v)

/-- A `copyi` is accepted with the fields of its block (R290). -/
def acceptBlock (s : State) (e : Nat) (r : ChReq) (virt : Bool) (addr act : Nat) : State :=
  let miss := !(cceOf s e).blocks.any fun b => b.slot == r.slot && b.virt == virt && b.addr == addr
  let b := readBlock s e r virt addr
  match b.2 with
  | .error k => chNoPages b.1 e r k
  | .ok v => match blockForm v with
    | none => chRefuse b.1 e r 0x81 addr none
    | some (f, sw, dc) =>
      let booked := stepBooked s r.agent r.step
      match xferOf f booked act (if act = 0 then 0 else sw) (if act = 0 then 0 else dc) with
      | none => chRefuse b.1 e r 0x81 addr none
      | some x =>
        let hOk := match x.hnd with
          | none => true
          | some n => (match stepHandle s r.agent r.step n with
            | none => false
            | some h => (handleCause h [0, 1]).isNone && x.rowBytes % 64 == 0 && decide (x.rowBytes ≤ hSize h))
        if !hOk then chRefuse b.1 e r 0x81 addr none
        else
          let x := { x with lane := if x.lane = 8 then freestLane s e else x.lane }
          let s := if miss && booked then checkUse (useOk b.1 r.agent (ridLane (e - 2112) x.lane) s.now) r.agent b.1 else b.1
          let r' := { r with op := .xfer x }
          acceptXfer (modCce s e fun c => { c with pend := c.pend.map fun q => if q.id = r.id then r' else q }) e r' x

/-! ### Control operations (R294 to R296) -/

/-- Removes entries from the TLB; the invalidation ends when every command that holds one of them is complete. -/
def acceptTlbinv (s : State) (e : Nat) (r : ChReq) (all : Bool) (va : Nat) : State :=
  let hit := fun (t : Tlb) => t.slot == r.slot && (all || tlbHits t r.slot va)
  let gone := (tlbOf s e).filter hit
  let holds := fun (c : Copy) => c.req.slot == r.slot && c.pages.any fun p => gone.any fun t => t.page == p.page && t.big == p.big
  let ids := ((copiesOf (cceOf s e)).filter holds).map (·.req.id)
  let s := setTlb s e ((tlbOf s e).filter fun t => !hit t)
  let s := modCce s e fun c => { c with pend := c.pend.filter (fun q => q.id != r.id), invs := c.invs ++ [(r.id, r.agent, gone.length, ids)] }
  if ids.isEmpty then sched s s.now (priEnd - 6) .tlbinvComplete (.at2 e r.id) else s

/-- R294: the count of entries removed is delivered. -/
def tlbinvComplete (s : State) (e id : Nat) : State :=
  match (cceOf s e).invs.find? fun v => v.1 == id with
  | none => s
  | some v =>
    let s := modCce s e fun c => { c with invs := c.invs.filter fun v => v.1 != id }
    sched s (s.now + 1) priLand .replyArrival (.reply v.2.1 id [(0, rowOf (wd v.2.2.1))])

/-- The entries of `n` successive pages, each stepped by its own size; the cause where one is not mapped (R294, R380). -/
def pinWalk (s : State) (e slot va : Nat) : Nat → Except Nat (List Tlb)
  | 0 => .ok []
  | n + 1 =>
    let t : Except Nat Tlb := match (tlbOf s e).find? fun t => tlbHits t slot va with
      | some t => .ok t
      | none => match walk s slot va with
        | .error c => .error c
        | .ok (l, big, _) =>
          if pteE l && !((keyOf s (pteKey l)).valid && (keyOf s (pteKey l)).slot == slot) then .error 0xA2
          else .ok (tlbEntry s slot va l big)
    match t with
    | .error c => .error c
    | .ok t =>
      let size := if t.big then 2 ^ 21 else 2 ^ 16
      match pinWalk s e slot ((va / size + 1) * size % 2 ^ 52) n with
      | .error c => .error c
      | .ok ts => .ok (t :: ts)

def pinnedIn (l : List Tlb) (slot : Nat) : Nat := (l.filter fun t => t.pinned && t.slot == slot).length

/-- R294: a pin or unpin of all its pages, or of none. -/
def tlbpinComplete (s : State) (e id : Nat) : State :=
  match (cceOf s e).pubs.find? fun r => r.id == id with
  | none => s
  | some r => match r.op with
    | .tlbpin pin va n =>
      let l := tlbOf s e
      let failed := chReply s e r (2 ^ 31 + pinnedIn l r.slot)
      (match pinWalk s e r.slot va n with
      -- a walk that has consumed poison holds the slot (R392, R393)
      | .error c => if c = 0xA4 then holdSlot failed r.slot else failed
      | .ok ts =>
        let l' := ts.foldl (fun l t => if l.any (fun u => u.slot == t.slot && u.page == t.page && u.big == t.big) then
            l.map fun u => if u.slot == t.slot && u.page == t.page && u.big == t.big then { u with pinned := pin } else u
          else if pin then tlbInsert l { t with pinned := true } else l) l
        if (l'.filter (·.pinned)).length > 256 then failed else chReply (setTlb s e l') e r (pinnedIn l' r.slot))
    | _ => s

/-- R295: what becomes of a command of the issuing tile. -/
def chCancelled (s : State) (e : Nat) (r : ChReq) (cid : Nat) : State :=
  match (copiesOf (cceOf s e)).find? fun c => c.req.agent == r.agent && c.cid == cid with
  | none => chReply s e r 0
  | some c =>
    let waits := (cceOf s e).timed.any (fun d => d.req.id == c.req.id) || (laneOf s e c.x.lane).queue.any fun d => d.req.id == c.req.id
    chReply (wakeHandles (dropCopy (dropAcks s c.req.id) e c.req.id) e) e r ((if waits then 1 else 2) * 2 ^ 30)

/-- R296: the status selectors. -/
def chStatus (s : State) (e : Nat) (r : ChReq) (sel o : Nat) : Nat :=
  let c := cceOf s e
  match sel with
  | 0 => (List.range 8).foldl (fun v l => if (laneOf s e l).run.isSome then v + 2 ^ l else v) 0 + 2 ^ 8 * (laneOf s e o).queue.length
  | 1 => c.timed.length
  | 2 => (match (copiesOf c).find? fun d => d.cid == o with
    | none => 0
    | some d => if c.timed.any fun k => k.req.id == d.req.id then 2
        else if (laneOf s e d.x.lane).queue.any fun k => k.req.id == d.req.id then 1 else 3)
  | 3 => pinnedIn (tlbOf s e) r.slot
  | _ => (ag s r.agent).blockHits

/-- Earlier stores of the tile, of any class, are performed (R100). -/
def storesDone (s : State) (a id : Nat) : Bool :=
  ((ag s a).outs.all fun o => !(o.store && !o.put && decide (o.id < id))) && (ag s a).nest.all fun n => decide (id < n.id)

/-- A publish that waits for its tile's stores or copies is a hold of its step (R104, R106). -/
def publishWaits (s : State) (r : ChReq) : State :=
  match r.op with
  | .publish _ => chargeLog s r.agent r.step
  | _ => s

/-- The engine takes up a request once the tile's earlier stores are performed: those that are answered at once, and the others in their tile's
order (R100, R286). -/
def cceAccept (s : State) (e id : Nat) : State :=
  match (cceOf s e).pend.find? fun r => r.id == id with
  | none => s
  | some r =>
    if s.voids.contains id then
      let s := { s with voids := s.voids.filter (· ≠ id) }
      if chGoing s r then chAgain s e r else chDrop s e r
    else if !storesDone s r.agent id && !(cceOf s e).kept.any fun q => q.agent == r.agent && !chAtOnce r.op then chAgain (publishWaits s r) e r
    else match r.op with
    | .pbinv all virt addr =>
      let hit := fun (b : Block) => b.slot == r.slot && (all || (b.virt == virt && b.addr == addr))
      let n := ((cceOf s e).blocks.filter hit).length
      chReply (modCce s e fun c => { c with blocks := c.blocks.filter fun b => !hit b }) e r n
    | .cancel cid => chCancelled s e r cid
    | .stat sel o => chReply s e r (chStatus s e r sel o)
    | op =>
      if (cceOf s e).kept.any fun q => q.agent == r.agent then
        modCce s e fun c => { c with pend := c.pend.filter fun q => q.id != id, kept := c.kept ++ [r] }
      else if (cceOf s e).pend.any fun q => q.agent == r.agent && !chAtOnce q.op && decide (q.id < id) then chAgain s e r
      else
        let shelve := modCce s e fun c => { c with pend := c.pend.filter fun q => q.id != id, pubs := c.pubs ++ [r] }
        match op with
        | .xfer x => acceptXfer s e r x
        | .block virt addr act => acceptBlock s e r virt addr act
        | .publish _ => sched shelve s.now (priEngine + 1000 + r.agent) .publishReady (.at2 e id)
        | .tlbinv all va => acceptTlbinv s e r all va
        | .tlbpin _ _ _ =>
          let d := freeDelay shelve
          sched d.2 (s.now + d.1) priEngine .tlbpinComplete (.at2 e id)
        | _ => s

/-! ### Publish (R104, R105, R293) -/

/-- A shadow copy of the tile to the pair that was issued before and is not complete. -/
def shadowPending (s : State) (e : Nat) (r : ChReq) (pid : Nat) : Bool :=
  (copiesOf (cceOf s e)).any fun c => c.req.agent == r.agent && decide (c.req.id < r.id) && c.x.kind == .shadow &&
    (List.range c.x.rows).any fun i => (rowPids s e c i).contains (some pid)

/-- Q has come once the copies are complete and the order of publishes is logged; P is 256 cycles later. -/
def publishReady (s : State) (e id : Nat) : State :=
  match (cceOf s e).pubs.find? fun r => r.id == id with
  | none => s
  | some r => match r.op with
    | .publish pid =>
      let again := fun (s : State) => sched s (s.now + 1) (priEngine + 1000 + r.agent) .publishReady (.at2 e id)
      if shadowPending s e r pid then again (publishWaits s r)
      else (match orderEvent s r.slot r.pb ⟨0x0A, objPair pid⟩ r.agent 0 with
        | .wait _ => again (chargeLog s r.agent r.step)
        | .diverge c n => chRefuse (diverged s r.slot r.agent ⟨0x0A, objPair pid⟩ c n) e r c pid none
        | .go k =>
          let s := modCce (k s) e fun c => { c with pubs := c.pubs.filter fun q => q.id != id }
          let p := gtOf s + 256
          let s := sched s (s.now + 2) priLand .replyArrival (.reply r.agent id [(0, rowOf (wd p))])
          sched s (cycleOf s p) (priBegin + 1 + r.agent) .publishExchange (.at3 r.slot pid p))
    | _ => s

/-- Every home of the pair exchanges front and shadow in the cycle that begins at P; a home that keeps waits looks at their words (R95). -/
def publishExchange (s : State) (slot pid : Nat) : State :=
  s.homes.foldl (fun s h => wakeBank s h.1) { s with
    pairs := s.pairs.map fun e => if isPair s slot pid e then (e.1, e.2 ^^^ 0x4000#32) else e
    hpairs := s.hpairs.map fun p => if p.slot = slot ∧ p.pid = pid then { p with swapped := !p.swapped } else p }

/-! ### The operations of `ch` as instructions -/

/-- R288: `ch.copy` as an instruction. -/
def execChCopy (act : Fin 4) (m : Trig) (s : State) : Host.Outcome State Fault Refusal := execOne m (opChCopy act) s
/-- R289: `ch.copyt` as an instruction. -/
def execChCopyt (act : Fin 4) (m : Trig) (s : State) : Host.Outcome State Fault Refusal := execOne m (opChCopyt act) s
/-- R290: `ch.copyi` as an instruction. -/
def execChCopyi (act : Fin 4) (m : Trig) (s : State) : Host.Outcome State Fault Refusal := execOne m (opChCopyi act) s
/-- R291: `ch.expand` as an instruction. -/
def execChExpand (act : Fin 4) (m : Trig) (s : State) : Host.Outcome State Fault Refusal := execOne m (opChExpand act) s
/-- R288: `ch.fill` as an instruction. -/
def execChFill (act : Fin 4) (m : Trig) (s : State) : Host.Outcome State Fault Refusal := execOne m (opChFill act) s
/-- R288: `ch.shadow` as an instruction. -/
def execChShadow (act : Fin 4) (m : Trig) (s : State) : Host.Outcome State Fault Refusal := execOne m (opChShadow act) s
/-- R293: `ch.publish` as an instruction. -/
def execChPublish (m : Trig) (s : State) : Host.Outcome State Fault Refusal := execOne m opChPublish s
/-- R291: `ch.crc` as an instruction. -/
def execChCrc (act : Fin 4) (m : Trig) (s : State) : Host.Outcome State Fault Refusal := execOne m (opChCrc act) s
/-- R294: `ch.pbinv` as an instruction. -/
def execChPbinv (m : Trig) (s : State) : Host.Outcome State Fault Refusal := execOne m opChPbinv s
/-- R294: `ch.tlbinv` as an instruction. -/
def execChTlbinv (m : Trig) (s : State) : Host.Outcome State Fault Refusal := execOne m opChTlbinv s
/-- R294: `ch.tlbpin` as an instruction. -/
def execChTlbpin (m : Trig) (s : State) : Host.Outcome State Fault Refusal := execOne m opChTlbpin s
/-- R295: `ch.cancel` as an instruction. -/
def execChCancel (m : Trig) (s : State) : Host.Outcome State Fault Refusal := execOne m opChCancel s
/-- R296: `ch.stat` as an instruction. -/
def execChStat (m : Trig) (s : State) : Host.Outcome State Fault Refusal := execOne m opChStat s


/-! ### Device events -/

/-- R286: the engine takes up a request. -/
def execCceAccept (s : State) : Host.Outcome State Fault Refusal :=
  match s.occ with
  | .at2 e id => .next (cceAccept s e id)
  | _ => .refused (.noOccasion "CCE_ACCEPT")

/-- A timed copy's time has come: of those due on its lane the first enters it if it is free; a lane in use takes them when it is (R289). -/
def timedCopyStart (s : State) (e l id : Nat) : State :=
  match (cceOf s e).timed.find? fun c => c.req.id == id with
  | none => s
  | some c =>
    let g := c.x.gt.getD 0
    if gtOf s < g then sched s (max (s.now + 1) (cycleOf s g)) priEngine .timedCopyStart (.at3 e l id)
    else if (laneOf s e l).run.isSome then s
    else startCopy s e l ((dueCopy s e l (gtOf s)).getD c) s.now

/-- R289: a timed copy's issue time has come. -/
def execTimedCopyStart (s : State) : Host.Outcome State Fault Refusal :=
  match s.occ with
  | .at3 e l id => .next (timedCopyStart s e l id)
  | _ => .refused (.noOccasion "TIMED_COPY_START")

/-- R287: a lane moves a unit, a unit is performed at its destination, or pushes that waited for the ring are tried again. -/
def execCopyRowWrite (s : State) : Host.Outcome State Fault Refusal :=
  match s.occ with
  | .at3 e l id => .next (laneTurn s e l id)
  | .access acc => .next (copyWrite s acc)
  | .at e => .next (wakeHandles s e)
  | _ => .refused (.noOccasion "COPY_ROW_WRITE")

/-- R102: an HBM write's acknowledgement has returned, and the credit is made. -/
def execCopyWriteAck (s : State) : Host.Outcome State Fault Refusal :=
  match s.occ with
  | .sync op => .next (sendCredit s op)
  | _ => .refused (.noOccasion "COPY_WRITE_ACK")

/-- The command is complete and makes its decrement (R99, R287). -/
def copyComplete (s : State) (e id : Nat) : State :=
  match copyOf s e id with
  | none => s
  | some c =>
    let s := wakeHandles (dropCopy s e id) e
    if c.x.act / 2 = 1 then decrement s c.req.slot c.x.dc c.req.agent else s

/-- R287: every destination write of a command is performed. -/
def execCopyComplete (s : State) : Host.Outcome State Fault Refusal :=
  match s.occ with
  | .at2 e id => .next (copyComplete s e id)
  | _ => .refused (.noOccasion "COPY_COMPLETE")

/-- R104: a publish waits for its tile's shadow copies, and then fixes Q and P. -/
def execPublishReady (s : State) : Host.Outcome State Fault Refusal :=
  match s.occ with
  | .at2 e id => .next (publishReady s e id)
  | _ => .refused (.noOccasion "PUBLISH_READY")

/-- R104: GT reaches P. -/
def execPublishExchange (s : State) : Host.Outcome State Fault Refusal :=
  match s.occ with
  | .at3 slot pid p =>
    if gtOf s < p then .next (sched s (max (s.now + 1) (cycleOf s p)) priBegin .publishExchange (.at3 slot pid p))
    else .next (publishExchange s slot pid)
  | _ => .refused (.noOccasion "PUBLISH_EXCHANGE")

/-- R294: every command that holds a removed entry is complete. -/
def execTlbinvComplete (s : State) : Host.Outcome State Fault Refusal :=
  match s.occ with
  | .at2 e id => .next (tlbinvComplete s e id)
  | _ => .refused (.noOccasion "TLBINV_COMPLETE")

/-- R294: a pin's walk ends. -/
def execTlbpinComplete (s : State) : Host.Outcome State Fault Refusal :=
  match s.occ with
  | .at2 e id => .next (tlbpinComplete s e id)
  | _ => .refused (.noOccasion "TLBPIN_COMPLETE")

end Sys2Proof.Machine
end

