-- ==== Sys2Proof/Machine/Steps.lean ====
section
/-! DEFINITION. The life of a step on its tile (R29 to R35, R41, R45, R46, R430): its turn, its booking, the fill of its tile, the load
of its registers, and its end. -/

namespace Sys2Proof.Machine

/-! ### Launches -/

def launchOf (s : State) (id : Nat) : Option Launch := s.launches.find? (·.id = id)

/-- The launch at a launch-sequence position. -/
def launchAt (s : State) (pos : Nat) : Option Launch := s.launches.find? fun l => l.pos == pos && l.st != .parsed

def modLaunch (s : State) (id : Nat) (f : Launch → Launch) : State :=
  { s with launches := s.launches.map fun l => if l.id = id then f l else l }

/-- The cue field of a launch's packet (R360). -/
def cueMode (l : Launch) : Nat := fld l.pkt 2 1 % 4

/-! ### The end of a step (R35, R71, R122) -/

/-- A retire record of a restartable step (R122). Its object is 0: DESIGN CHOICE (log 151). -/
def retire (s : State) (a : Nat) (r : Run) : State :=
  if stepJournals s r.key then readOn (writeRecord s r.slot 0x2B 0 0 a 0 (gtOf s) (keyBytes r.key)) r.slot else s

/-- The bank without a step: its branch queues are discarded, and its flights land and are discarded with its latches (R196). -/
def clearBank (b : Bank) : Bank :=
  { b with run := none, wait := .none, curtain := none, curtainNext := none, dfaults := [], q := { b.q with bq := [], mq := [], newq := [] } }

/-- The step of a tile or dock core reaches Done: its booking is released from the next slot, its record retires, and the tile takes
its next turn at the end of the cycle, so that a flip to the step in wings takes the next 64 (R35, R41, R46, R71). A Faulted step whose handler went on stays Faulted, and issues nothing more (R35, log 13). -/
def stepDone (s : State) (a : Nat) : State :=
  match (bk s a).run with
  | none => s
  | some r =>
    if isFaulted s r.key then modRun s a fun r => { r with going := false }
    else
    let s := setStepState s r.key .done
    let s := match (stepRec s r.key).bind (·.booking) with
      | some b => releaseBooking s r.key b (slotNow s + 1)
      | none => s
    let s := unitsStop (retire s a r) a
    let s := modBk s a clearBank
    let s := match launchAt s r.key.pos with
      | some l => if r.key.task then s
          else sched (modLaunch s l.id fun l => { l with doneSteps := l.doneSteps + 1 }) (s.now + 1) priEngine .launchComplete (.at2 l.id 0)
      | none => s
    sched s s.now priEnd .stepTurn (.at a)

/-! ### Filling a tile (R18, R320, R430) -/

/-- Writes `n` bytes of a number at a tile's SRAM addresses, in the front images of its pairs. -/
def fillBytes (s : State) (addr n v : Nat) : State :=
  if s.pairs.isEmpty ∧ n ≤ 2 ^ 21 then
    let s := clearPoison s addr n
    { s with sram := kpaste s.sram addr n (kbytes 21 (v % 256 ^ n) 0) }
  else plainStore s addr n v

/-- Lines of a tile's SRAM: every mapped offset. -/
def tileLines : Nat := 0x1C0000 / 64

/-- Sets every owner tag of a tile to a slot (R18). -/
def setTags (s : State) (t slot : Nat) : State :=
  let lo := t * 2 ^ 15
  let keep := fun (p : Nat × BitVec 4) => decide (p.1 < lo)
  let after := fun (p : Nat × BitVec 4) => decide (lo + 2 ^ 15 ≤ p.1)
  let new := if slot % 16 = 0 then [] else (List.range tileLines).map fun i => (lo + i, BitVec.ofNat 4 slot)
  { s with tags := s.tags.filter keep ++ new ++ s.tags.filter after }

/-- Whether some tag of a tile differs from a slot. -/
def tagsDiffer (s : State) (t slot : Nat) : Bool :=
  let own := kslice s.tags (t * 2 ^ 15) tileLines
  (own.any fun e => e.2.toNat != slot) || (slot != 0 && own.length != tileLines)

/-- Clears the pair entries of a tile, when its tags are rewritten for another slot (R320). -/
def clearPairs (s : State) (t : Nat) : State := { s with pairs := s.pairs.filter fun e => e.1 / 16 ≠ t }

/-- Rewrites a tile's tags for a slot where they differ; its accumulators, weight sets and scales return to their bring-up state (R268). -/
def retag (s : State) (t slot : Nat) : State :=
  if tagsDiffer s t slot then
    let s := clearPairs (setTags s t slot) t
    if kget {} s.mx t = {} then s else modMx s t fun m => { m with acc := [], clears := [], s0 := {}, s1 := {} }
  else s

/-- The fill of a tile for a launch (R430). -/
def tileFill (s : State) (t : Nat) (l : Launch) : State :=
  let base := t * 2 ^ 21
  let s := retag s t l.slot
  let s := fillBytes s base l.kern.dataLen l.kern.data
  let s := fillBytes s (base + 0x190000) (64 * l.kern.sceneLen) l.kern.scenes
  let s := if l.kern.overlay then fillBytes s (base + 0x180000) (64 * l.kern.codeLen) l.kern.code else s
  modAg s t fun g => { g with filled := l.id + 1 }

/-- Whether the tile's SRAM stands as the launch's earlier steps left it (R430). -/
def isFilled (s : State) (t : Nat) (l : Launch) : Bool := (ag s t).filled == l.id + 1

/-! ### Loading a bank (R30, R188, R320, R349) -/

/-- Mixed-radix digits of a point over extents, outermost slowest (R32). -/
def digits (p : Nat) : List Nat → List Nat
  | [] => []
  | e :: es => (p / es.foldl (· * ·) 1 % e) :: digits p es

/-- Levels of a kind with their extents. -/
def levelsOf (k : Kern) (ext : List Nat) (kind : Nat) : List ((Nat × Nat × Nat × Nat) × Nat) :=
  (k.levels.zip ext).filter fun l => l.1.1 == kind

/-- The general registers of an image of section type 0x03. -/
def imageRegs (img : Nat) : KMap Word :=
  (List.range 128).foldl (fun m i => kset 0 m i (wd (fld img (4 * i) 4))) []

/-- Spatial indices overwrite their destination registers (R30). -/
def putIndices (m : KMap Word) (ls : List ((Nat × Nat × Nat × Nat) × Nat)) (p : Nat) : KMap Word :=
  (ls.zip (digits p (ls.map (·.2)))).foldl (fun m x => kset 0 m x.1.1.2.2.1 (wd x.2)) m

/-- The fixed levels that the walker pushes (R30, R188). -/
def fixedLoops (ls : List ((Nat × Nat × Nat × Nat) × Nat)) : KMap Loop :=
  (ls.zipIdx).foldl (fun m x => kset {} m x.2 { idx := 0, cnt := wd x.1.2, start := wd x.1.1.2.2.2, stop := 0, fixed := true }) []

/-- The valid entries of a scene table (R156, R349). -/
def sceneTable (tab : Nat) : KMap (Option Nat) :=
  (List.range 64).foldl (fun m i => let e := fld tab (2 * i) 2
    kset none m i (if e / 2 ^ 15 = 1 then some (e % 256) else none)) []

/-- A bank as a step starts in it (R30, R181, R320). -/
def startBank (k : Kern) (ext : List Nat) (img i j : Nat) (run : Run) : Bank :=
  let tl := levelsOf k ext 0
  { g := putIndices (putIndices (imageRegs img) (levelsOf k ext 2) i) (levelsOf k ext 1) j
    p := BitVec.ofNat 16 (fld img 512 2)
    q := { imode := if k.overlay then 1 else 0, depth := tl.length, loops := fixedLoops tl, scenes := sceneTable k.sceneTab,
           entries := k.entries }
    c := { fumode := k.fumode, tvec := k.tvec }
    run := some run }

/-- The run of a step of a launch. -/
def launchRun (s : State) (l : Launch) (r : StepRec) : Run :=
  { key := r.key, slot := l.slot, going := true, codeLen := l.kern.codeLen, codeVa := l.kern.codeVa, maxIter := l.kern.maxIter,
    pbMode := l.pbMode, booking := r.booking, demoted := r.demoted, iterStart := s.now + 1, spawns := l.kern.spawns }

/-- The dies of a packet's mask, ascending (R32). -/
def pktDies (p : Nat) : List Nat := (List.range 4).filter fun d => (fld p 3 1).testBit d

/-- The handles that a gang's pipes bind in a step's bank, with the buffer empty (R44, R206, R361). DEDUCED (log 150): the peer stands on the tile
of the other member that has the same place in its placement. -/
def pipeHandles (s : State) (l : Launch) (t : Nat) : KMap (BitVec 128) :=
  let members := s.launches.filter fun x => x.slot == l.slot && fld x.pkt 57 1 != 0 && fld x.pkt 60 4 == fld l.pkt 60 4 && fld l.pkt 57 1 != 0 &&
    !x.gangOver
  match members.find? fun x => fld x.pkt 58 1 == 0 with
  | none => []
  | some m0 =>
    (items (fld m0.pkt 80 48) 8 6).foldl (fun hs e =>
      if e / 2 ^ 63 = 0 then hs
      else
        let me := fld l.pkt 58 1
        let role := if e / 2 ^ 40 % 16 = me then 1 else if e / 2 ^ 44 % 16 = me then 2 else 0
        let other := if role = 1 then e / 2 ^ 44 % 16 else e / 2 ^ 40 % 16
        let num := e / 2 ^ 48 % 256
        match l.kern.pipes.find? fun p => p.1 == num && p.2.1 == role && role != 0 with
        | none => hs
        | some p =>
          let om := members.find? fun x => fld x.pkt 58 1 == other
          let oh := match om.bind fun x => x.kern.pipes.find? fun q => q.1 == num && q.2.1 == 3 - role with
            | some q => q.2.2
            | none => 0
          let peer := match om with
            | some x => peerTile l x t
            | none => t
          kset 0 hs p.2.2 (BitVec.ofNat 128 (2 ^ 63 + oh * 2 ^ 54 + peer * 2 ^ 42 + e / 2 ^ 37 % 8 * 2 ^ 39 + role * 2 ^ 37 + e % 2 ^ 37))) []
where
  /-- The tile of member `y` that stands where `t` stands among the tiles of member `x`'s placement. -/
  peerTile (x y : Launch) (t : Nat) : Nat :=
    let dx := t % 32 - fld x.pkt 5 1
    let dy := t % 512 / 32 - fld x.pkt 4 1
    let die := (pktDies y.pkt).getD ((pktDies x.pkt).idxOf (tileDie t)) (tileDie t)
    die * 512 + (fld y.pkt 4 1 + dy) % 16 * 32 + (fld y.pkt 5 1 + dx) % 32

/-- A step's bank is loaded (R35, R41). DESIGN CHOICE (log 170): the handles of a gang's pipes stand empty in the bank of every step of a member, not of
its first alone (R44). -/
def loadStep (s : State) (l : Launch) (r : StepRec) (wings : Bool) : State :=
  let t := r.key.tile
  let b := startBank l.kern l.extents l.image r.i r.j (launchRun s l r)
  let b := { b with h := pipeHandles s l t, c := { b.c with act := wd (kget 0 l.acts t) } }
  if wings then modAg s t fun g => { g with wings := b } else unitsStart (modAg s t fun g => { g with front := b }) t

/-- The bank of a Yielded step as its tile loads it again: the general registers from 0x170000, the sequencer's modes, `tvec` and the trap
registers as they were, at `tvec` in the handler with cause 0xB0 (R378). -/
def resumeBank (s : State) (t : Nat) (r : StepRec) (b : Bank) : Bank :=
  let img := loadN s (t * 2 ^ 21 + 0x170000) 576
  { g := imageRegs img
    p := BitVec.ofNat 16 (fld img 512 2)
    q := { pc := b.c.tvec.extractLsb' 0 16, half := if b.q.imode = 1#2 then b.c.tvec.getLsbD 16 else b.q.half, imode := b.q.imode,
           intrap := true, scenes := b.q.scenes, entries := b.q.entries, xscenes := b.q.xscenes, lastPc := b.q.lastPc }
    c := { b.c with mxcfg := 0, ntpkg := 0, chsw := 0, chdc := 0, ien := 0, ipend := 0, gtcmplo := 0, gtcmphi := 0, armed := false, imsg := 0,
                    xcause := 0xB0 }
    run := b.run.map fun x => { x with going := true, booking := r.booking, demoted := r.demoted, delay := 0, iterStart := s.now + 1,
                                       atBoundary := true, ages := [] }
    curtain := b.curtain, curtainNext := b.curtainNext, perf := b.perf }

/-! ### The tile's turn (R33, R46, R407) -/

/-- Whether the waiting step `x` comes before `y` (R33). -/
def stepBefore (x y : StepRec) : Bool :=
  decide (x.key.pos < y.key.pos) || (x.key.pos == y.key.pos && (decide (x.key.round < y.key.round) ||
    (x.key.round == y.key.round && decide (x.key.wave < y.key.wave))))

def isWaiting (r : StepRec) : Bool := r.st == .assigned || r.st == .booking || r.st == .committed

/-- Walker steps that wait on a tile. -/
def waitingSteps (s : State) (t : Nat) : List StepRec := s.steps.filter fun r =>
  r.key.tile == t && !r.key.task && isWaiting r && kget 0 s.owners (tileCluster t) == r.slot

/-- The tile's next walker step (R33). -/
def nextStep (s : State) (t : Nat) : Option StepRec :=
  (waitingSteps s t).foldl (fun b r => match b with
    | some x => if stepBefore r x then some r else some x
    | none => some r) none

/-- Power state of a cluster (R407): 0 is Run. -/
def powerState (s : State) (c : Nat) : Nat := regF s (0x0400 + 8 * (c / 32)) (2 * (c % 32) + 1) (2 * (c % 32))

/-- A power command for the cluster is in progress (R407). -/
def powerMoves (s : State) (c : Nat) : Bool := s.agenda.any fun e => match e.what with
  | .ev .pwrTransitionComplete (.at2 g _) => g == c
  | _ => false

/-- Whether a step of a gang is held: the gang has not started (R43). -/
def gangHeld (l : Launch) : Bool := fld l.pkt 57 1 != 0 && !l.started

/-- A tile stands frozen for its context: its slot is not Active (R371), its cluster is not in Run (R408), or the context does not own it
(R369). -/
def tileHeld (s : State) (t slot : Nat) : Bool :=
  ctxState s slot != 3 || powerState s (tileCluster t) != 0 || powerMoves s (tileCluster t) || kget 0 s.owners (tileCluster t) != slot

/-- A step that has a booking or will search one (R35). -/
def wantsBooking (l : Launch) : Bool := cueMode l != 0 && l.kern.cues.isSome

def cuesOf (l : Launch) : List Cue := ((l.kern.cues).getD []).map cueOf

/-- The cues that a step books: its kernel's, or those that it still had to hold when it was pre-empted (R40). -/
def stepCues (l : Launch) (r : StepRec) : List Cue := r.remain.getD (cuesOf l)

/-- Cycles that a load takes: not promised, and at most 512 (R35). -/
def loadLead (s : State) : Nat × State := (1 + Config.freeLatency s.free % 512, { s with free := s.free + 1 })

/-- The load of an unbooked step begins (R35). -/
def beginLoad (s : State) (t : Nat) (n : Nat) : State := sched s (s.now + 1) priEngine .stepLoadStart (.at2 t n)

/-- The tile decides what it starts next (R46): its verdict in the tile's stream is of kind 1 for a task and 2 for a step. -/
def startChoice (s : State) (t slot mode : Nat) (choice kind : Nat) : Verdict :=
  orderEvent s slot mode ⟨0x0C, objAgent t⟩ choice kind

/-- The tile's turn comes again in the next cycle; under replay the record may name the task at the head of its queue instead (R46). -/
def turnAgain (s : State) (t : Nat) : State :=
  let s := if (ag s t).spawnQ.isEmpty then s else sched s s.now priEngine .taskStart (.at t)
  sched s (s.now + 1) priEngine .stepTurn (.at t)

/-- The step whose turn it is goes to Booking or to Loading (R35). DESIGN CHOICE (log 170): the entry of a booked step's start (R46, R108) is made as
the step leaves Assigned, and again where a pre-emption has brought it back to Assigned. -/
def takeStep (s : State) (t : Nat) (l : Launch) (r : StepRec) : State :=
  match startChoice s t l.slot l.pbMode 0 2 with
  | .wait _ => turnAgain s t
  | .diverge c q => markStepFault (diverged s l.slot t ⟨0x0C, objAgent t⟩ c q) r c
  | .go k =>
    let s := k s
    if wantsBooking l then
      sched (modStep s r.key fun x => { x with st := .booking, bookSince := s.now }) s.now priEngine .bookingProbe (.at t)
    else
      let s := modStep s r.key fun x => { x with st := .loading }
      beginLoad s t 0
where
  /-- A step faults before it runs (R65, R389). -/
  markStepFault (s : State) (r : StepRec) (cause : Nat) : State :=
    let s := noteFault (setStepState s r.key (.faulted cause)) r.key cause
    errorRecord s { cause := cause, faulted := true, slot := r.slot, agent := r.key.tile, pos := r.key.pos, round := r.key.round, wave := r.key.wave }

/-- A step of a tile is on its way into a bank, or stands faulted or Yielded, and so keeps the tile (R33, R35); a task does so where a restore brings it
back (R378). -/
def keepsTile (s : State) (t : Nat) (r : StepRec) : Bool :=
  r.key.tile == t && kget 0 s.owners (tileCluster t) == r.slot && (if r.key.task then r.resume.isSome && (isWaiting r || r.st == .loading || r.st == .yielded)
  else r.st == .loading || (match r.st with
    | .faulted _ => true
    | .yielded => true
    | _ => false))

/-- Some step keeps the tile. -/
def tileTaken (s : State) (t : Nat) : Bool := s.steps.any (keepsTile s t)

/-- The tile loads a step of the same launch ahead into its wings bank (R35, R41): an unbooked one, whose tile is filled. -/
def loadAhead (s : State) (t : Nat) : State :=
  match (bk s t).run, nextStep s t with
  | some run, some r => match launchAt s r.key.pos with
    | some l =>
      if run.key.pos = r.key.pos ∧ !run.key.task ∧ r.st = .assigned ∧ !wantsBooking l ∧ isFilled s t l ∧ (ag s t).wings.run.isNone ∧
          !(ag s t).ahead ∧ !gangHeld l ∧ !tileHeld s t l.slot ∧ (ag s t).spawnQ.isEmpty then
        let s := modStep s r.key fun x => { x with st := .loading }
        beginLoad (modAg s t fun g => { g with ahead := true }) t 0
      else s
    | none => s
  | _, _ => s

/-- A bank flip begins: it ends in the last of its 64 cycles, the first of which is the next one, or where a running step stands at its boundary the
first after that (R41, R42). -/
def beginFlip (s : State) (t : Nat) : State :=
  let last := match (ag s t).front.run with
    | some r => if stepStOf s r.key = .running then max s.now r.iterStart + 63 else s.now + 64
    | none => s.now + 64
  sched (modAg s t fun g => { g with flip := some last }) last priEngine .bankFlipComplete (.at t)

/-- The step in the wings bank waits for its turn: it has been loaded ahead, or a flip back has displaced it (R41, R42). A step that is Yielded, or
that a restore brings back to the front, goes before it. -/
def wingsReady (s : State) (t : Nat) : Bool :=
  match (ag s t).wings.run with
  | some r => (match stepRec s r.key with
    | some x => x.st == .running
    | none => false) && !tileHeld s t r.slot &&
      !(s.steps.any fun x => x.key != r.key && (keepsTile s t x || (x.key.tile == t && isWaiting x && x.resume.isSome)))
  | none => false

/-- The tile flips to its wings bank; the start of a step loaded ahead is an entry of the tile's stream (R41, R46). -/
def takeWings (s : State) (t : Nat) : State :=
  match (ag s t).wings.run with
  | none => beginFlip s t
  | some r =>
    if r.begun then beginFlip s t
    else match startChoice s t r.slot r.pbMode 0 2 with
      | .wait _ => turnAgain s t
      | .diverge c q =>
        let s := modAg (diverged s r.slot t ⟨0x0C, objAgent t⟩ c q) t fun g => { g with wings := {} }
        let s := (stepRec s r.key).elim s fun x => takeStep.markStepFault s x c
        sched s (s.now + 1) priEngine .stepTurn (.at t)
      | .go k => beginFlip (k s) t

/-- Nothing that a Parked step triggered is on its way but the commands that are kept for it (R381). -/
def parkDrained (s : State) (t : Nat) (k : StepKey) : Bool :=
  (ag s t).nest.isNone && !busyBut { s with cces := s.cces.map fun e => (e.1, { e.2 with kept := [] }) } k [] []

/-- Under replay, whether another step ran in front of the Parked one before its flip back: the next record of the flip counts a boundary (R42,
R119). -/
def aheadRecorded (s : State) (t : Nat) (r : Run) : Bool :=
  (nextOccasion s r.slot 0x18 (objAgent t)).any fun x => x.payload % 2 ^ 32 != 0

/-- Under replay nothing but a recorded flip back says that a step came to wings ahead of its turn (R119). -/
def isDriven (s : State) (r : Run) : Bool := r.pbMode == 2 && pbEnabled s r.slot

/-- The step in front is Parked: the tile flips once everything else of the step is performed (R42, R381). Under replay a step that ran in front
meanwhile comes to wings first, if the record says that one did. DESIGN CHOICE (log 185): a load ahead that is on its way ends before the flip. -/
def parkTurn (s : State) (t : Nat) (r : Run) : State :=
  let s := if isDriven s r && aheadRecorded s t r then loadAhead s t else s
  if parkDrained s t r.key && !(ag s t).ahead then takeWings s t else sched s (s.now + 1) priEngine .stepTurn (.at t)

/-- A tile's turn (R33, R42, R46): with the front bank empty it flips to the step in wings, or takes its next walker step, or starts a
task; with the front bank running it loads ahead. DESIGN CHOICE (log 170): with the front bank empty and a Parked step in wings, the tile starts
nothing until the pager has resolved that step's fault (R42, R46). -/
def stepTurn (s : State) (a : Nat) : State :=
  let g := ag s a
  if g.flip.isSome then s
  else if let some r := g.front.run then
    (if !isTile a then s
    else if stepStOf s r.key == .parked then parkTurn s a r
    else if stepStOf s r.key == .running && !isDriven s r then loadAhead s a
    else s)
  else if wingsReady s a then takeWings s a
  else if g.ahead then s
  else if isDock a then (if g.spawnQ.isEmpty then s else sched s s.now priEngine .taskStart (.at a))
  else if g.wings.run.isSome then (if g.flipBack then sched s s.now priEngine .wingsFlipBack (.at a) else s)
  else if tileTaken s a then s
  else match nextStep s a with
    | none => if g.spawnQ.isEmpty then s else sched s s.now priEngine .taskStart (.at a)
    | some r => match launchAt s r.key.pos with
      | none => s
      | some l =>
        if r.st ≠ .assigned ∨ gangHeld l ∨ tileHeld s a l.slot then s
        else takeStep s a l r

/-- R33: a tile's turn comes. -/
def execStepTurn (s : State) : Host.Outcome State Fault Refusal :=
  match s.occ with
  | .at a => .next (stepTurn s a)
  | _ => .refused (.noOccasion "STEP_TURN")

/-! ### Booking a step (R63 to R65) -/

def bookingStep (s : State) (t : Nat) : Option StepRec := s.steps.find? fun r => r.key.tile == t && r.st == .booking

/-- When a committed step's load begins, so that its first bundle issues at GT 16s (R35, R65). -/
def schedLoadFor (s : State) (t n : Nat) : State :=
  let d := loadLead s
  sched d.2 (max s.now (cycleOf s (16 * n) - d.1)) priEngine .stepLoadStart (.at2 t n)

/-- What a booking of step `r` goes by: the mode that its launch latched, whether its policy is demote, and its cues (R65, R312). A step without a launch
or without a policy of the launch's own books afresh what a `cq.book` of its own booked (R40). -/
def bookTerms (s : State) (r : StepRec) : Nat × Bool × List Cue :=
  match if r.key.task then none else launchAt s r.key.pos with
  | some l => (l.pbMode, cueMode l != 1, stepCues l r)
  | none => (((r.resume.bind (·.run)).map (·.pbMode)).getD 0, true, r.remain.getD [])

/-- The walker's commit of a step's cues at start slot `n` (R64). -/
def commitStep (s : State) (r : StepRec) (demote : Bool) (cs : List Cue) (n : Nat) : State :=
  let t := r.key.tile
  let b := mkBooking t cs n ((cs.headD (cueOf 0)).flags = 1) demote
  let s := markHolds s r.key (cs.flatMap (cueHolds t)) n
  schedLoadFor (schedBookingEnd (modStep s r.key fun x => { x with st := .committed, booking := some b }) t b) t n

/-- The tile still completes operations of a step of another launch (R430). -/
def fillWaits (s : State) (t : Nat) (l : Launch) : Bool :=
  s.steps.any fun r => r.key.tile == t && (r.key.task || r.key.pos != l.pos) && stepOver r && stepBusy s r.key

/-- The fill for a step must still wait (R430). -/
def unfilled (s : State) (r : StepRec) : Bool :=
  r.resume.isNone && (launchAt s r.key.pos).any fun l => !isFilled s r.key.tile l && fillWaits s r.key.tile l

/-- One probe with its commit; another comes 4,096 cycles later, up to eight horizons (R65). DESIGN CHOICE (log 185): no probe is made, and no horizon
counted, while the fill of the tile must still wait (R430), so that a booked step's load is never late. -/
def bookingProbe (s : State) (t : Nat) : State :=
  match bookingStep s t with
  | none => s
  | some r =>
    let (mode, demote, cs) := bookTerms s r
    if tileHeld s t r.slot then again s r
    else if unfilled s r then
      sched (modStep s r.key fun x => { x with bookSince := s.now + 1 }) (s.now + 1) priEngine .bookingProbe (.at t)
    else match probe s t cs 0 with
      | some n =>
        if switchRefuses s r.slot n (spanOf t cs) then again s r
        else match commitOrder s r.slot mode (walkerNo t) (commitRids (cs.flatMap (cueHolds t))) with
          | .wait => sched s (s.now + 1) priEngine .bookingProbe (.at t)
          | .diverge k c q => takeStep.markStepFault (diverged s r.slot t k c q) r c
          | .ok s => commitStep s r demote cs n
      | none => again s r
where
  /-- No fit: the next probe, or the end of the search. -/
  again (s : State) (r : StepRec) : State :=
    if s.now - r.bookSince ≥ 1048576 then sched s s.now priEngine .bookingNoFit (.at r.key.tile)
    else sched s (s.now + 4096) priEngine .bookingProbe (.at r.key.tile)

/-- R65: the walker probes for a booking step. -/
def execBookingProbe (s : State) : Host.Outcome State Fault Refusal :=
  match s.occ with
  | .at t => .next (bookingProbe s t)
  | _ => .refused (.noOccasion "BOOKING_PROBE")

/-- Eight horizons without a fit: Faulted with cause 0x55, or unbooked with a demotion record (R65, R70). -/
def bookingNoFit (s : State) (t : Nat) : State :=
  match bookingStep s t with
  | none => s
  | some r =>
    if (bookTerms s r).2.1 then
      let s := modStep s r.key fun x => { x with st := .loading, demoted := true }
      let s := match if r.key.task then none else launchAt s r.key.pos with
        | some l => modLaunch s l.id fun l => { l with demoted := true }
        | none => s
      let s := errorRecord s { cause := 0x55, demoted := true, slot := r.slot, agent := t, pos := r.key.pos, round := r.key.round,
                               wave := r.key.wave }
      beginLoad s t 0
    else takeStep.markStepFault s r 0x55

/-- R65: eight horizons have passed without a fit. -/
def execBookingNoFit (s : State) : Host.Outcome State Fault Refusal :=
  match s.occ with
  | .at t => .next (bookingNoFit s t)
  | _ => .refused (.noOccasion "BOOKING_NO_FIT")

/-! ### Loading (R35, R430) -/

/-- The step of a tile that is Loading and not yet in a bank. -/
def loadingStep (s : State) (t : Nat) : Option StepRec :=
  s.steps.find? fun r => r.key.tile == t && (!r.key.task || r.resume.isSome) && r.st == .loading &&
    ((ag s t).front.run.map (·.key)) != some r.key && ((ag s t).wings.run.map (·.key)) != some r.key

/-- The Committed step of a tile whose start slot is `n`. -/
def committedStep (s : State) (t n : Nat) : Option StepRec :=
  s.steps.find? fun r => r.key.tile == t && r.st == .committed && r.booking.any fun b => b.s == n

/-- The step that a load is for: slot 0, which no booking starts in (R63), stands for an unbooked one. -/
def loadFor (s : State) (t n : Nat) : Option StepRec := if n = 0 then loadingStep s t else committedStep s t n

/-- The cluster of a step's tile does not run, or is about to leave Run (R408). -/
def clusterStill (s : State) (t : Nat) : Bool := isTile t && (powerState s (tileCluster t) != 0 || powerMoves s (tileCluster t))

/-- A step whose cluster is not in Run stays Assigned until it returns, without its booking (R33, R408). -/
def backToAssigned (s : State) (r : StepRec) : State :=
  let s := match r.booking with
    | some b => releaseBooking s r.key b (slotNow s + 1)
    | none => s
  setStepState (modAg s r.key.tile fun g => { g with ahead := false }) r.key .assigned

/-- A load begins: the tile is filled for the launch, if it is not, and the register image is loaded (R35, R430); a step that was Yielded is
loaded as R378 says. -/
def stepLoadStart (s : State) (t n : Nat) : State :=
  match loadFor s t n with
  | none => s
  | some r => if clusterStill s t then backToAssigned s r else match r.resume, launchAt s r.key.pos with
    | some b, _ =>
      let s := modStep s r.key fun x => { x with st := .loading, resume := none, remain := none }
      let s := meetLoc s (.sram (t * 2 ^ 21 + 0x170000)) 576
      let s := modAg s t fun g => { g with front := resumeBank s t r b }
      -- DESIGN CHOICE (log 192): a poisoned register image is the step's deferred fault (R392)
      let s := if poisoned s (t * 2 ^ 21 + 0x170000) 576 then
          deferFault s t { cause := 0x4E, addr := t * 2 ^ 21 + 0x170000, org := ⟨0, 7⟩, id := 0, step := some r.key } (s.now + 1) else s
      -- a step that was in a curtain is still at its combining point (R420)
      let s := if b.curtain.any (·.arrived) then sched s (s.now + 1) priEngine .curtainArrive (.at t) else s
      (match r.booking with
      | some b => sched s (max s.now (cycleOf s (16 * b.s) - 1)) priLand .stepLoaded (.at t)
      | none =>
        let d := freeDelay s
        sched d.2 (s.now + d.1) priLand .stepLoaded (.at t))
    | none, none => s
    | none, some l =>
      if fillWaits s t l ∧ !isFilled s t l then sched s (s.now + 1) priEngine .stepLoadStart (.at2 t n)
      else
        let s := modStep s r.key fun x => { x with st := .loading }
        let s := if isFilled s t l then s else tileFill s t l
        -- a step loaded ahead comes to wings, though the step in front has ended since (R41)
        let d := if (bk s t).run.isSome || (ag s t).ahead then freeDelay s else freeDelay (loadStep s l r false)
        match r.booking with
        | some b => sched (loadStep s l r false) (max s.now (cycleOf s (16 * b.s) - 1)) priLand .stepLoaded (.at t)
        | none => sched d.2 (if l.started ∧ s.now < l.startAt then l.startAt else s.now + d.1) priLand .stepLoaded (.at t)

/-- R35: a load begins. -/
def execStepLoadStart (s : State) : Host.Outcome State Fault Refusal :=
  match s.occ with
  | .at2 t n => .next (stepLoadStart s t n)
  | _ => .refused (.noOccasion "STEP_LOAD_START")

/-- A temporal extent is zero: the step issues no bundle (R29, R188). -/
def emptyStep (b : Bank) : Bool := (List.range b.q.depth).any fun l => (kget {} b.q.loops l).fixed && (kget {} b.q.loops l).cnt == 0

/-- The cycle in which a step that begins now issues its first bundle: a booked one at GT 16s, which an adjustment of GT may bring into this cycle
(R23, R35, R65). -/
def firstCycle (s : State) (r : Run) : Nat :=
  match r.booking with
  | some b => max s.now (cycleOf s (16 * b.s))
  | none => s.now + 1

/-- The step in the front bank begins to run (R35). Where its context is being pre-empted, the request reaches it at once (R375). One that issues no
bundle ends, once its retire record has room (R29, R113). -/
def startFront (s : State) (a : Nat) : State :=
  match (bk s a).run with
  | none => s
  | some r =>
    if emptyStep (bk s a) && journalHeld s r.key then sched s (s.now + 1) priEngine .stepLoaded (.at a)
    else
      let first := firstCycle s r
      let s := setStepState s r.key .running
      let s := modQ (modRun s a fun r => { r with iterStart := first, atBoundary := true, begun := true }) a fun q => { q with trapFrom := first }
      if emptyStep (bk s a) then stepDone s a
      else
        let s := if ctxState s r.slot = 4 then modC s a fun c => { c with ipend := c.ipend ||| 8#4 } else s
        let s := sched s (s.now + 1) priEngine .stepTurn (.at a)
        schedIssue s a first

/-- The step in front has still to begin: it is Loading, or it came from wings (R35, R41). -/
def frontWaits (s : State) (t : Nat) : Bool := (bk s t).run.any fun r => stepStOf s r.key == .loading || !r.begun

/-- A load ends: the front step runs; a step in wings is Running too, and waits there for its turn (R35, R41). -/
def stepLoaded (s : State) (t : Nat) : State :=
  if frontWaits s t then startFront s t
  else match loadingStep s t with
  | some r => match launchAt s r.key.pos with
    | some l =>
      let s := modAg (setStepState (loadStep s l r true) r.key .running) t fun g => { g with ahead := false }
      if (bk s t).run.isNone then sched s s.now priEngine .stepTurn (.at t) else s
    | none => s
  | none => s

/-- R35: a step's register image is loaded. -/
def execStepLoaded (s : State) : Host.Outcome State Fault Refusal :=
  match s.occ with
  | .at t => .next (stepLoaded s t)
  | _ => .refused (.noOccasion "STEP_LOADED")

/-! ### Bank flips (R41, R42) -/

/-- A Loam unit that comes back to the front with its step takes turns again (R307). -/
def resumeLoam (s : State) (a : Nat) : State :=
  if (bk s a).lm.running then
    let i := newId s
    sched (modBk i.2 a fun b => { b with lm := { b.lm with chain := i.1 } }) (s.now + 1) priEngine .deliveryPass (.at2 a i.1)
  else s

/-- The flip ends: the banks have changed places; a step loaded ahead starts, and a parked one runs again (R41, R42, R382). -/
def bankFlipComplete (s : State) (a : Nat) : State :=
  match (ag s a).flip with
  | none => s
  | some _ =>
    -- cycles spent in wings count in the performance counter 7 (R319)
    let back := fun (b : Bank) => match b.wingsAt with
      | some t => { b with wingsAt := none, perf := kmod 0 b.perf 7 fun v => min 0xFFFFFFFF (v + (s.now - t)) }
      | none => b
    let s := modAg s a fun g =>
      { g with
        front := back g.wings
        wings := { g.front with wingsAt := if g.front.run.isSome then some s.now else none }
        flip := none }
    let s := resumeLoam s a
    match (bk s a).run with
    | none => sched s (s.now + 1) priEngine .stepTurn (.at a)
    | some r =>
      -- an armed compare of the bank whose value has come in wings pends now (R326)
      let s := sched s s.now priBegin .gtComparePend (.at a)
      if !r.begun then startFront (unitsStart s a) a
      else match stepStOf s r.key with
      | .parked =>
        let x := restoreX (bk s a).x (s.now + 1)
        let s := setStepState (modX s a fun _ => x) r.key .running
        schedIssue (schedAll (modRun s a fun r => { r with going := true, resumed := false }) a) a (s.now + 1)
      | _ => schedIssue s a (s.now + 1)

/-- R41: a 64-cycle flip ends. -/
def execBankFlipComplete (s : State) : Host.Outcome State Fault Refusal :=
  match s.occ with
  | .at a => .next (bankFlipComplete s a)
  | _ => .refused (.noOccasion "BANK_FLIP_COMPLETE")

/-- The iteration boundaries that the step in front has passed; none without one. -/
def frontBoundaries (s : State) (a : Nat) : Nat := ((ag s a).front.run.map (·.boundaries)).getD 0

/-- The tile stands still at an iteration boundary for a flip back that must wait (R113, R119). -/
def holdFlip (s : State) (a : Nat) : State :=
  sched (modAg s a fun g => { g with front := { g.front with wait := if g.front.run.isSome then .flip else g.front.wait } }) (s.now + 1) priEngine
    .wingsFlipBack (.at a)

/-- Under replay the step in front waits at the boundary whose count the next record names, until its tile may flip back (R42, R119). DEDUCED
(log 152): the record names no step, and the first step that reaches the count is taken. -/
def flipAwaited (s : State) (a : Nat) : Bool := (ag s a).wings.run.any fun wr =>
  stepStOf s wr.key == .parked && wr.pbMode == 2 && pbEnabled s wr.slot && !(bookOf s wr.slot).closed.contains ⟨0x18, objAgent a⟩ &&
    (nextOccasion s wr.slot 0x18 (objAgent a)).any fun r => r.payload % 2 ^ 32 == frontBoundaries s a

/-- R42: the tile flips back to its parked step at the running step's iteration boundary, and the flip is logged with the boundary
count; a running step is displaced into wings. Under replay it comes at the recorded count, and a flip without a record is a divergence, which the
running step, or the parked one, takes (R118 to R120). -/
def wingsFlipBack (s : State) (a : Nat) : State :=
  let g := ag s a
  let s := if g.flip.isNone ∧ g.front.wait = .flip then modAg s a fun g => { g with front := { g.front with wait := .none } } else s
  match g.wings.run with
  | none => modAg s a fun g => { g with flipBack := false }
  | some wr =>
    let count := frontBoundaries s a
    -- a booked step never flips to wings (R41)
    if g.flip.isSome ∨ isBooked s a then s
    else if !g.flipBack then (if flipAwaited s a then holdFlip s a else s)
    else match occasionEvent s wr.slot wr.pbMode a 0x18 (objAgent a) count (fun r => r.payload % 2 ^ 32 == count) with
      | .go f => beginFlip (modAg (f s) a fun g => { g with flipBack := false }) a
      | .wait k => if k = 0 || g.front.run.isNone then holdFlip s a else s
      | .diverge c q =>
        deferFault (diverged s wr.slot a ⟨0x18, objAgent a⟩ c q) a
          { cause := c, addr := 0, org := orgOf s a 7, id := 0, step := some ((g.front.run.getD wr).key) } (s.now + 1)

/-- R42: after the pager has resolved a parked fault, the tile flips back. -/
def execWingsFlipBack (s : State) : Host.Outcome State Fault Refusal :=
  match s.occ with
  | .at a => .next (wingsFlipBack s a)
  | _ => .refused (.noOccasion "WINGS_FLIP_BACK")

/-! ### Spawned tasks (R45, R46, R237, R350) -/

/-- The `fumode` bits of the sockets that an agent has (R14, R148). -/
def fumodeMask (a : Nat) : BitVec 12 := if isDock a then 0b100110011111#12 else 0xFFF#12

/-- The bank of a task: its kernel's image, with the packet's arguments in `g0` to `g15` (R237, R350). Counts of temporal levels, for
which a task has no operator block, are not stated. -/
def taskBank (s : State) (k : Kern) (t : Task) (key : StepKey) : Bank × State :=
  let n := (levelsOf k (k.levels.map fun _ => 0) 0).length
  let ext := (List.range k.levels.length).map fun i => (Config.freeWord (s.free + i)).toNat % 2 ^ 32
  let run : Run := { key := key, slot := t.slot, going := true, codeLen := k.codeLen, codeVa := k.codeVa, maxIter := k.maxIter,
                     pbMode := t.pbMode, window := t.window, iterStart := s.now + 1, spawns := k.spawns }
  let b := startBank k ext k.image 0 0 run
  ({ b with c := { b.c with fumode := b.c.fumode &&& fumodeMask key.tile }
            g := (List.range 16).foldl (fun m i => kset 0 m i (t.args.extractLsb' (32 * i) 32)) b.g },
   { s with free := s.free + n })

/-- A walker step of the tile waits to be started: in Assigned, Booking or Committed, or loaded ahead into wings (R41, R46). -/
def walkerWaits (s : State) (a : Nat) : Bool := !(waitingSteps s a).isEmpty || wingsReady s a

/-- The tile has decided for a walker step, which is on its way into the front bank, or is Parked in wings (R46, log 170). -/
def walkerTaken (s : State) (a : Nat) : Bool :=
  tileTaken s a || ((ag s a).wings.run.isSome && !wingsReady s a) || (nextStep s a).any fun r => r.st != .assigned

/-- The task at the head of a queue cannot start: the agent is not idle, its cluster or the task's context does not run, or a walker step goes first;
under replay the record decides between the task and a step that waits (R46). -/
def taskBlocked (s : State) (a : Nat) (t : Task) : Bool :=
  let g := ag s a
  g.front.run.isSome || g.flip.isSome || ctxState s t.slot != 3 ||
    (isTile a && (powerState s (tileCluster a) != 0 || powerMoves s (tileCluster a) || walkerTaken s a ||
      (walkerWaits s a && !(t.pbMode == 2 && pbEnabled s t.slot))))

/-- The tile starts the task at the head of its queue, if no walker step waits (R46); a dock core's tasks run in queue order. -/
def taskStart (s : State) (a : Nat) : State :=
  match (ag s a).spawnQ with
  | [] => s
  | t :: ts =>
    if taskBlocked s a t then s
    else
      let v := if isTile a then startChoice s a t.slot t.pbMode t.sender 1 else .go id
      match v with
      -- while a walker step waits, the tile's turn comes in every cycle
      | .wait _ => if isTile a && walkerWaits s a then s else sched s (s.now + 1) priEngine .taskStart (.at a)
      | .diverge c q => modAg (diverged s t.slot a ⟨0x0C, objAgent a⟩ c q) a fun g => { g with spawnQ := ts }
      | .go f =>
        let s := modAg (f s) a fun g => { g with spawnQ := ts }
        let i := newId s
        let key : StepKey := { task := true, pos := i.1, tile := a }
        let b := taskBank i.2 t.kern t key
        let s := unitsStart (modAg b.2 a fun g => { g with front := b.1 }) a
        startFront { s with steps := s.steps ++ [{ key := key, slot := t.slot, i := 0, j := 0, st := .loading, restartable := t.kern.restartable }] } a

/-- R46: a task starts. -/
def execTaskStart (s : State) : Host.Outcome State Fault Refusal :=
  match s.occ with
  | .at a => .next (taskStart s a)
  | _ => .refused (.noOccasion "TASK_START")

end Sys2Proof.Machine
end

