-- ==== Sys2Proof/Machine/Cq.lean ====
section
/-! DEFINITION. The operations of the `cq` socket (R311 to R313). -/

namespace Sys2Proof.Machine

/-- The booking that the agent's step holds, from its commit on. -/
def heldBooking (s : State) (a : Nat) : Option Booking := (bk s a).run.bind (·.booking)

/-- The captured list: the fields of `o0` and `o1` are judged, the entries read (R311). `flag` admits bit 6 of `o1`. -/
def cueList (x : OpCtx) (s : State) (flag : Bool) : Except Nat (List Nat) :=
  let o := portW s x.a .cq 1
  let n := (o.extractLsb' 0 6).toNat
  let addr := (portW s x.a .cq 0).toNat
  if n < 1 ∨ 32 < n ∨ o.extractLsb' 7 25 ≠ 0#25 ∨ (!flag ∧ o.getLsbD 6) ∨ addr % 16 ≠ 0 ∨ addrTile addr ≠ x.a ∨ !inData addr (16 * n) then .error 0x58
  else if !tagsOk s (slotOf s x.a) addr (16 * n) then .error 0x41
  else if poisoned s addr (16 * n) then .error 0x4E
  else
    let vs := items (loadN s addr (16 * n)) 16 n
    if !cuesOk x.a vs then .error 0x54
    else if !((cueTiles x.a (vs.map cueOf)).all fun t => kget 0 s.owners (tileCluster t) == slotOf s x.a) then .error 0x41
    else .ok vs

/-- An operation on a list: it faults, or holds, or goes on with the list, unless the reads of its entries meet an uncorrectable error (R390, R392).
`waits` says that its commit waits for the Prompt Book (R64). -/
def withCues (x : OpCtx) (s : State) (flag : Bool) (waits : List Nat → Bool) (k : List Nat → State → State) : OpOut :=
  match cueList x s flag with
  | .error c => .fault c (some (portW s x.a .cq 0))
  | .ok vs =>
    if sockHeld s x.a .cq || decide (32 ≤ inFlight s x.a .cq 0x20) || decide (32 ≤ inFlight s x.a .cq 0x21) then .hold .lock
    else if waits vs then .hold .log
    else .go fun t =>
      let addr := (portW t x.a .cq 0).toNat
      let t := checkUses t x.a ((List.range vs.length).map fun i => (ridTile 4 x.a (addrBank (addr + 16 * i)), t.now + 1 + i))
      let t := meetLoc t (.sram addr) (16 * vs.length)
      match locCause t (slotOf t x.a) (.sram addr) (16 * vs.length) true with
      | some c => deferFault t x.a { cause := c, addr := addr, org := orgOf t x.a x.slot, id := 0 } (t.now + 4)
      | none => k vs t

/-- The results land at a time that is not promised, and the tile issues nothing until then (R311). -/
def cueResults (s : State) (a busy : Nat) (q0 : Word) (q1 : Option Word) : State :=
  let d := freeDelay s
  let due := d.2.now + busy + d.1
  let s := flyId d.2 a .cq 0x20 0 (some due) (rowOf q0)
  let s := match q1 with
    | some v => flyId s a .cq 0x21 0 (some due) (rowOf v)
    | none => s
  modBk s a fun b => { b with wait := .cue due }

/-- The status word with a code (R312). -/
def cueStatus (code hi : Nat) : Word := wd (code * 2 ^ 28 + hi % 2 ^ 28)

/-- The results of a probe that found `n`. -/
def foundAt (s : State) (a busy n : Nat) : State := cueResults s a busy (wd n) (some (cueStatus 0 (n / 2 ^ 32)))

/-- A probe that begins once the list of `k` entries is read, 1 + k cycles after the trigger. -/
def probeAfter (s : State) (t : Nat) (cs : List Cue) (lead k : Nat) : Option Nat :=
  probe s t cs (max lead ((gtOf s + 1 + k + 640 + 15) / 16 - slotNow s))

def opCqProbe : OpFn := fun x s => withCues x s false (fun _ => false) fun vs t =>
  let cs := vs.map cueOf
  let busy := 1 + vs.length
  match probeAfter t x.a cs (portW t x.a .cq 2).toNat vs.length with
  | some n => if switchRefuses t (slotOf t x.a) n (spanOf x.a cs) then cueResults t x.a busy 0 (some (cueStatus 4 0)) else foundAt t x.a busy n
  | none => cueResults t x.a busy 0 (some (cueStatus 1 0))

/-- The policy of bookings that the step makes (R312). -/
def stepDemotes (s : State) (a : Nat) : Bool :=
  match (bk s a).run with
  | some r => (match launchAt s r.key.pos with
    | some l => r.key.task || cueMode l != 1
    | none => true)
  | none => true

/-- The mode that the launch of the agent's step latched (R110). -/
def stepMode (s : State) (a : Nat) : Nat := (bk s a).run.elim 0 (·.pbMode)

/-- The keepers' decisions on a commit by the agent's step (R64, R116). -/
def stepCommit (s : State) (a : Nat) (cs : List Cue) : Commit :=
  commitOrder s (slotOf s a) (stepMode s a) a (commitRids (cs.flatMap (cueHolds a)))

def Commit.waits : Commit → Bool
  | .wait => true
  | _ => false

/-- A commit by the agent's step with its decisions: it goes on, or the step takes the divergence (R118). One that waits has not issued. -/
def commitBy (s : State) (x : OpCtx) (cs : List Cue) (k : State → State) : State :=
  match stepCommit s x.a cs with
  | .ok s => k s
  | .wait => k s
  | .diverge key c q => deferFault (diverged s (slotOf s x.a) x.a key c q) x.a
      { cause := c, addr := 0, org := orgOf s x.a x.slot, id := 0, step := (bk s x.a).run.map (·.key) } (s.now + 1)

/-- The start at which `book` commits, if it commits. -/
def bookStart (x : OpCtx) (s : State) (vs : List Nat) : Option Nat :=
  if (heldBooking s x.a).isSome then none
  else (probeAfter s x.a (vs.map cueOf) (portW s x.a .cq 2).toNat vs.length).filter fun n =>
    !switchRefuses s (slotOf s x.a) n (spanOf x.a (vs.map cueOf))

/-- `book` (R63, R64, R312). DESIGN CHOICE (log 170): bit 6 of `o1` says whether the booking is movable, and the flags of the list's entries do not
(R58, R312). -/
def opCqBook : OpFn := fun x s => withCues x s true (fun vs => (bookStart x s vs).isSome && (stepCommit s x.a (vs.map cueOf)).waits) fun vs t =>
  let cs := vs.map cueOf
  let busy := 1 + vs.length
  if (heldBooking t x.a).isSome then cueResults t x.a busy 0 (some (cueStatus 2 0))
  else match probeAfter t x.a cs (portW t x.a .cq 2).toNat vs.length with
  | none => cueResults t x.a busy 0 (some (cueStatus 1 0))
  | some n =>
    if switchRefuses t (slotOf t x.a) n (spanOf x.a cs) then cueResults t x.a busy 0 (some (cueStatus 4 0))
    else commitBy t x cs fun t =>
      let b := mkBooking x.a cs n ((portW t x.a .cq 1).getLsbD 6) (stepDemotes t x.a)
      let k := stepOf' t x.a
      let t := markHolds t k (cs.flatMap (cueHolds x.a)) n
      let t := modRun (setBooking t k (some b)) x.a fun r => { r with delay := 0, delayAt := 0 }
      foundAt (schedBookingEnd t x.a b) x.a busy n
where
  /-- The key of the agent's step. -/
  stepOf' (s : State) (a : Nat) : StepKey := match (bk s a).run with
    | some r => r.key
    | none => {}

/-- `release` (R71, R312). -/
def opCqRelease : OpFn := fun x s => effect x s .cq fun t =>
  match (bk t x.a).run with
  | some r => (match r.booking with
    | some b => releaseBooking t r.key b (slotNow t + 1)
    | none => t)
  | none => t

/-- The list fits at the booking's own start (R312). -/
def extendFits (s : State) (a : Nat) (cs : List Cue) (b : Booking) : Bool :=
  fitsAt s none (cs.flatMap (cueHolds a)) b.s && decide (b.s + spanOf a cs - 1 ≤ slotNow s + 8191)

/-- `extend` (R312). -/
def opCqExtend : OpFn := fun x s => withCues x s false (fun vs => (bookingOf s x.a).any fun b =>
    extendFits s x.a (vs.map cueOf) b && !switchRefuses s (slotOf s x.a) b.s (spanOf x.a (vs.map cueOf)) && (stepCommit s x.a (vs.map cueOf)).waits) fun vs t =>
  let cs := vs.map cueOf
  let busy := 1 + vs.length
  match (bk t x.a).run, bookingOf t x.a with
  | some r, some b =>
    let hs := cs.flatMap (cueHolds x.a)
    if !extendFits t x.a cs b then cueResults t x.a busy 0 (some (cueStatus 3 0))
    else if switchRefuses t (slotOf t x.a) b.s (spanOf x.a cs) then cueResults t x.a busy 0 (some (cueStatus 4 0))
    else commitBy t x cs fun t =>
      let b' := { b with e := max b.e (16 * (b.s + endOf cs))
                         slack := min b.slack (slackOf cs)
                         span := max b.span (spanOf x.a cs)
                         entries := b.entries + cs.length
                         cues := b.cues ++ cs }
      let t := setBooking (markHolds t r.key hs b.s) r.key (some b')
      cueResults (schedBookingEnd t x.a b') x.a busy 0 (some (cueStatus 0 0))
  | _, _ => cueResults t x.a busy 0 (some (cueStatus 3 0))

/-- The step that `chain` names in the issuing context (R313). DEDUCED (log 45): where steps of several tiles have the key, it is the first in the
walker's order that is Committed. -/
def chainTarget (s : State) (a pos key : Nat) : Option StepRec :=
  let named := s.steps.filter fun r => r.slot == slotOf s a && !r.key.task && r.key.pos == pos &&
    r.key.round == key % 2 ^ 16 && r.key.wave == key / 2 ^ 16
  (named.find? fun r => r.st == .committed && r.booking.isSome).orElse fun _ => named.head?

/-- The outcome of a chaining, without its effect (R313). -/
def chainOutcome (b : Booking) (r : Option StepRec) : Nat :=
  match r with
  | none => 1
  | some r => match r.booking with
    | none => 1
    | some c =>
      if r.st ≠ .committed then 1
      else if !b.movable || !c.movable then 2
      else if b.succ.isSome || c.pred.isSome then 3
      else if c.s < bookEnd b then 4 else 0

/-- Changes the booking of a step. -/
def modBooking (s : State) (k : StepKey) (f : Booking → Booking) : State :=
  setBooking s k (((stepRec s k).bind (·.booking)).map f)

/-- `chain` (R72, R313). -/
def opCqChain : OpFn := fun x s =>
  if x.t ≠ 0#32 then .fault 0x58 none
  else if sockHeld s x.a .cq || decide (32 ≤ inFlight s x.a .cq 0x20) then .hold .lock
  else .go fun t =>
    let r := chainTarget t x.a (portW t x.a .cq 0).toNat (portW t x.a .cq 1).toNat
    match (bk t x.a).run, heldBooking t x.a, r with
    | some run, some b, some r =>
      if chainOutcome b (some r) = 0 then
        let t := modBooking (modBooking t run.key fun b => { b with succ := some r.key }) r.key fun c => { c with pred := some run.key }
        cueResults (pullChain t (some r.key) (bookEnd b) 64).1 x.a 0 0 none
      else cueResults t x.a 0 (wd (chainOutcome b (some r))) none
    | _, _, _ => cueResults t x.a 0 1 none

/-- The heads of a context's chains: bookings with a successor and no predecessor. -/
def chainHeads (s : State) (slot : Nat) : List (StepKey × Booking) :=
  s.steps.filterMap fun r => match r.booking with
    | some b => if r.slot = slot ∧ b.succ.isSome ∧ b.pred.isNone then some (r.key, b) else none
    | none => none

/-- `compact` (R72, R312). -/
def opCqCompact : OpFn := fun x s =>
  if sockHeld s x.a .cq || decide (32 ≤ inFlight s x.a .cq 0x20) then .hold .lock
  else .go fun t =>
    let p := (chainHeads t (slotOf t x.a)).foldl (fun (acc : State × Nat) h =>
      let q := pullChain acc.1 h.2.succ (bookEnd h.2) 64
      (q.1, acc.2 + q.2)) (t, 0)
    cueResults p.1 x.a 0 (wd p.2) none

/-- `demote` (R69, R70, R312): nothing for a step that is unbooked, as one is before GT 16s. -/
def demoteStep (s : State) (a cause : Nat) : State :=
  match (bk s a).run with
  | none => s
  | some r => match runBooking s r with
    | none => s
    | some b =>
      let s := releaseBooking s r.key b (slotNow s + 1)
      let s := modStep (modRun s a fun r => { r with demoted := true }) r.key fun x => { x with demoted := true }
      errorRecord s { cause := cause, demoted := true, slot := r.slot, agent := a, pos := r.key.pos, round := r.key.round,
                      wave := r.key.wave, detail := r.delay + 2 ^ 32 * b.slack + 2 ^ 64 * b.e }

def opCqDemote : OpFn := fun x s => effect x s .cq fun t => demoteStep t x.a 0x56

/-- `slack` (R312). -/
def opCqSlack : OpFn := fun x s =>
  match (bk s x.a).run, bookingOf s x.a with
  | some r, some b => result2 x s .cq 1 (BitVec.ofInt 32 ((b.slack : Int) - r.delay)) (wd r.delay)
  | _, _ => result2 x s .cq 1 0 0

/-- The launch's own policy is demote (R312). -/
def launchDemotes (s : State) (a : Nat) : Bool :=
  match (bk s a).run with
  | some r => (launchAt s r.key.pos).any fun l => !r.key.task && cueMode l == 2
  | none => false

/-- The state word of `query` (R312); of an unbooked step, the policy is its launch's. -/
def queryState (s : State) (a : Nat) : Nat :=
  let d := match (bk s a).run with
    | some r => if r.demoted then 2 else 0
    | none => 0
  match heldBooking s a with
  | some b => (if isBooked s a then 1 else 0) + d + (if b.demotePolicy then 4 else 0) + (if b.movable then 8 else 0) + 16 * (b.entries % 64)
  | none => d + (if launchDemotes s a then 4 else 0)

/-- `query` (R312). What it delivers of a booking that the step does not hold is not stated. -/
def opCqQuery : OpFn := fun x s =>
  let sel := x.t.toNat % 8
  let two := fun (v : Nat) (k : State → State) => result2 x s .cq 2 (wd v) (wd (v / 2 ^ 32)) k
  if 4 ≤ sel then .fault 0x58 none
  else if sel = 2 then two (queryState s x.a) id
  else match heldBooking s x.a with
    | some b => two (if sel = 0 then b.s else if sel = 1 then b.e else b.span) id
    | none => two (Config.freeWord s.free).toNat fun t => (draw t).2

/-! ### The operations of `cq` as instructions -/

/-- R312: `cq.probe` as an instruction. -/
def execCqProbe (m : Trig) (s : State) : Host.Outcome State Fault Refusal := execOne m opCqProbe s
/-- R312: `cq.book` as an instruction. -/
def execCqBook (m : Trig) (s : State) : Host.Outcome State Fault Refusal := execOne m opCqBook s
/-- R312: `cq.release` as an instruction. -/
def execCqRelease (m : Trig) (s : State) : Host.Outcome State Fault Refusal := execOne m opCqRelease s
/-- R312: `cq.extend` as an instruction. -/
def execCqExtend (m : Trig) (s : State) : Host.Outcome State Fault Refusal := execOne m opCqExtend s
/-- R313: `cq.chain` as an instruction. -/
def execCqChain (m : Trig) (s : State) : Host.Outcome State Fault Refusal := execOne m opCqChain s
/-- R312: `cq.compact` as an instruction. -/
def execCqCompact (m : Trig) (s : State) : Host.Outcome State Fault Refusal := execOne m opCqCompact s
/-- R312: `cq.demote` as an instruction. -/
def execCqDemote (m : Trig) (s : State) : Host.Outcome State Fault Refusal := execOne m opCqDemote s
/-- R312: `cq.slack` as an instruction. -/
def execCqSlack (m : Trig) (s : State) : Host.Outcome State Fault Refusal := execOne m opCqSlack s
/-- R312: `cq.query` as an instruction. -/
def execCqQuery (m : Trig) (s : State) : Host.Outcome State Fault Refusal := execOne m opCqQuery s


end Sys2Proof.Machine
end

