-- ==== Sys2Proof/Machine/Flags.lean ====
section
/-! DEFINITION. The predicates: the conditions of the compares (R202), and the shared form of an operation of `xa` and `xb` that
writes a predicate pair. The units keep no other flags (R198). -/

namespace Sys2Proof.Machine

/-- The conditions of R202 on a = `o0` and b = `t`. -/
def condEq (a b : Word) : Bool := a == b
def condNe (a b : Word) : Bool := a != b
def condLt (a b : Word) : Bool := a.slt b
def condLe (a b : Word) : Bool := a.sle b
def condLtu (a b : Word) : Bool := a.ult b
def condLeu (a b : Word) : Bool := a.ule b
def condTst (a b : Word) : Bool := (a &&& b) != 0#32

/-- A compare: the predicate pair in 2 cycles, `q0` in 1 (R202). -/
def cmpOp (c : Word → Word → Bool) (u : IntUnit) (pair : Fin 8) : OpFn := fun x s =>
  let r := c (portW s x.a u.sock 0) x.t
  result x s u.sock 1 (bitW r) fun t => pend t x.a u.sock 0 (some (t.now + 2)) (.preds pair r)

end Sys2Proof.Machine
end

