-- ==== Sys2Proof/Machine/Int.lean ====
section
/-! DEFINITION. The integer units `xa` and `xb` (R198 to R203). -/

namespace Sys2Proof.Machine

/-- A two-operand operation: a = `o0`, b = `t` (R198). -/
def intOp (lat : Nat) (f : Word → Word → Word) (u : IntUnit) : OpFn := fun x s =>
  result x s u.sock lat (f (portW s x.a u.sock 0) x.t)

/-- A division or remainder: latency 18, and the unit is occupied for 18 cycles (R198, R200). -/
def divOp (f : Word → Word → Word) (u : IntUnit) : OpFn := fun x s =>
  result x s u.sock 18 (f (portW s x.a u.sock 0) x.t) fun t => occupy t x.a u.sock 18

/-- Bits [63:32] of a product (R199). -/
def mulhVal (a b : Word) : Word := ((a.signExtend 64 * b.signExtend 64 : BitVec 64)).extractLsb' 32 32
def mulhuVal (a b : Word) : Word := ((a.setWidth 64 * b.setWidth 64 : BitVec 64)).extractLsb' 32 32

/-- Division truncates towards zero; a zero divisor and the signed overflow give the values of R200. -/
def divVal (a b : Word) : Word := if b = 0 then 0xFFFFFFFF#32 else a.sdiv b
def divuVal (a b : Word) : Word := if b = 0 then 0xFFFFFFFF#32 else a.udiv b
def remVal (a b : Word) : Word := if b = 0 then a else a.srem b
def remuVal (a b : Word) : Word := if b = 0 then a else a.umod b

/-- A shift amount: b[4:0] (R199). -/
def shAmt (b : Word) : Nat := b.toNat % 32

/-- Leading zeros, trailing zeros and ones of a word (R199). -/
def clzVal (b : Word) : Word := wd (31 + 1 - ((List.range 32).filter fun i => (b >>> i) != 0#32).length)
def ctzVal (b : Word) : Word := wd ((List.range 32).filter fun i => (b <<< (31 - i)) == 0#32).length
def popcVal (b : Word) : Word := wd ((List.range 32).filter fun i => b.getLsbD i).length

/-- Bit fields (R201): position b[4:0], width b[10:5]. -/
def bextVal (a b : Word) : Word := wd (a.toNat >>> (b.toNat % 32) % 2 ^ min (b.toNat / 32 % 64) 32)

def binsVal (a b : Word) : Word :=
  let pos := b.toNat % 32
  let w := min (b.toNat / 32 % 64) 16
  let m := wd ((2 ^ w - 1) <<< pos)
  (a &&& ~~~m) ||| wd ((b.toNat / 2 ^ 16 % 2 ^ w) <<< pos)

def opXaAdd := intOp 1 fun a b => a + b
def opXaSub := intOp 1 fun a b => a - b
def opXaRsub := intOp 1 fun a b => b - a
def opXaMul := intOp 3 fun a b => a * b
def opXaMulh := intOp 3 mulhVal
def opXaMulhu := intOp 3 mulhuVal
def opXaDiv := divOp divVal
def opXaDivu := divOp divuVal
def opXaRem := divOp remVal
def opXaRemu := divOp remuVal
def opXaMin := intOp 1 fun a b => if a.slt b then a else b
def opXaMax := intOp 1 fun a b => if a.slt b then b else a
def opXaMinu := intOp 1 fun a b => if a.ult b then a else b
def opXaMaxu := intOp 1 fun a b => if a.ult b then b else a
def opXaAbs := intOp 1 fun _ b => if b.msb then -b else b
def opXaAnd := intOp 1 fun a b => a &&& b
def opXaOr := intOp 1 fun a b => a ||| b
def opXaXor := intOp 1 fun a b => a ^^^ b
def opXaAndn := intOp 1 fun a b => a &&& ~~~b
def opXaShl := intOp 1 fun a b => a <<< shAmt b
def opXaShr := intOp 1 fun a b => a >>> shAmt b
def opXaSra := intOp 1 fun a b => a.sshiftRight (shAmt b)
def opXaRol := intOp 1 fun a b => a.rotateLeft (shAmt b)
def opXaClz := intOp 1 fun _ b => clzVal b
def opXaCtz := intOp 1 fun _ b => ctzVal b
def opXaPopc := intOp 1 fun _ b => popcVal b
def opXaSextB := intOp 1 fun _ b => (b.extractLsb' 0 8).signExtend 32
def opXaSextH := intOp 1 fun _ b => (b.extractLsb' 0 16).signExtend 32
def opXaBext := intOp 1 bextVal
def opXaBins := intOp 1 binsVal
def opXaPass := intOp 1 fun _ b => b
def opXaCmpEq := cmpOp condEq
def opXaCmpNe := cmpOp condNe
def opXaCmpLt := cmpOp condLt
def opXaCmpLe := cmpOp condLe
def opXaCmpLtu := cmpOp condLtu
def opXaCmpLeu := cmpOp condLeu
def opXaTst := cmpOp condTst

/-- `sel`: a where the predicate is 1 at the start of the issue cycle, else b (R203). -/
def opXaSel (u : IntUnit) (pn : Fin 16) : OpFn := fun x s =>
  result x s u.sock 1 (if predOf (bk s x.a) pn.val then portW s x.a u.sock 0 else x.t)

/-! ### The operations of `xa` as instructions -/

/-- R199: `xa.add` as an instruction. -/
def execXaAdd (u : IntUnit) (m : Trig) (s : State) : Host.Outcome State Fault Refusal := execOne m (opXaAdd u) s
/-- R199: `xa.sub` as an instruction. -/
def execXaSub (u : IntUnit) (m : Trig) (s : State) : Host.Outcome State Fault Refusal := execOne m (opXaSub u) s
/-- R199: `xa.rsub` as an instruction. -/
def execXaRsub (u : IntUnit) (m : Trig) (s : State) : Host.Outcome State Fault Refusal := execOne m (opXaRsub u) s
/-- R199: `xa.mul` as an instruction. -/
def execXaMul (u : IntUnit) (m : Trig) (s : State) : Host.Outcome State Fault Refusal := execOne m (opXaMul u) s
/-- R199: `xa.mulh` as an instruction. -/
def execXaMulh (u : IntUnit) (m : Trig) (s : State) : Host.Outcome State Fault Refusal := execOne m (opXaMulh u) s
/-- R199: `xa.mulhu` as an instruction. -/
def execXaMulhu (u : IntUnit) (m : Trig) (s : State) : Host.Outcome State Fault Refusal := execOne m (opXaMulhu u) s
/-- R200: `xa.div` as an instruction. -/
def execXaDiv (u : IntUnit) (m : Trig) (s : State) : Host.Outcome State Fault Refusal := execOne m (opXaDiv u) s
/-- R200: `xa.divu` as an instruction. -/
def execXaDivu (u : IntUnit) (m : Trig) (s : State) : Host.Outcome State Fault Refusal := execOne m (opXaDivu u) s
/-- R200: `xa.rem` as an instruction. -/
def execXaRem (u : IntUnit) (m : Trig) (s : State) : Host.Outcome State Fault Refusal := execOne m (opXaRem u) s
/-- R200: `xa.remu` as an instruction. -/
def execXaRemu (u : IntUnit) (m : Trig) (s : State) : Host.Outcome State Fault Refusal := execOne m (opXaRemu u) s
/-- R199: `xa.min` as an instruction. -/
def execXaMin (u : IntUnit) (m : Trig) (s : State) : Host.Outcome State Fault Refusal := execOne m (opXaMin u) s
/-- R199: `xa.max` as an instruction. -/
def execXaMax (u : IntUnit) (m : Trig) (s : State) : Host.Outcome State Fault Refusal := execOne m (opXaMax u) s
/-- R199: `xa.minu` as an instruction. -/
def execXaMinu (u : IntUnit) (m : Trig) (s : State) : Host.Outcome State Fault Refusal := execOne m (opXaMinu u) s
/-- R199: `xa.maxu` as an instruction. -/
def execXaMaxu (u : IntUnit) (m : Trig) (s : State) : Host.Outcome State Fault Refusal := execOne m (opXaMaxu u) s
/-- R199: `xa.abs` as an instruction. -/
def execXaAbs (u : IntUnit) (m : Trig) (s : State) : Host.Outcome State Fault Refusal := execOne m (opXaAbs u) s
/-- R199: `xa.and` as an instruction. -/
def execXaAnd (u : IntUnit) (m : Trig) (s : State) : Host.Outcome State Fault Refusal := execOne m (opXaAnd u) s
/-- R199: `xa.or` as an instruction. -/
def execXaOr (u : IntUnit) (m : Trig) (s : State) : Host.Outcome State Fault Refusal := execOne m (opXaOr u) s
/-- R199: `xa.xor` as an instruction. -/
def execXaXor (u : IntUnit) (m : Trig) (s : State) : Host.Outcome State Fault Refusal := execOne m (opXaXor u) s
/-- R199: `xa.andn` as an instruction. -/
def execXaAndn (u : IntUnit) (m : Trig) (s : State) : Host.Outcome State Fault Refusal := execOne m (opXaAndn u) s
/-- R199: `xa.shl` as an instruction. -/
def execXaShl (u : IntUnit) (m : Trig) (s : State) : Host.Outcome State Fault Refusal := execOne m (opXaShl u) s
/-- R199: `xa.shr` as an instruction. -/
def execXaShr (u : IntUnit) (m : Trig) (s : State) : Host.Outcome State Fault Refusal := execOne m (opXaShr u) s
/-- R199: `xa.sra` as an instruction. -/
def execXaSra (u : IntUnit) (m : Trig) (s : State) : Host.Outcome State Fault Refusal := execOne m (opXaSra u) s
/-- R199: `xa.rol` as an instruction. -/
def execXaRol (u : IntUnit) (m : Trig) (s : State) : Host.Outcome State Fault Refusal := execOne m (opXaRol u) s
/-- R199: `xa.clz` as an instruction. -/
def execXaClz (u : IntUnit) (m : Trig) (s : State) : Host.Outcome State Fault Refusal := execOne m (opXaClz u) s
/-- R199: `xa.ctz` as an instruction. -/
def execXaCtz (u : IntUnit) (m : Trig) (s : State) : Host.Outcome State Fault Refusal := execOne m (opXaCtz u) s
/-- R199: `xa.popc` as an instruction. -/
def execXaPopc (u : IntUnit) (m : Trig) (s : State) : Host.Outcome State Fault Refusal := execOne m (opXaPopc u) s
/-- R199: `xa.sext.b` as an instruction. -/
def execXaSextB (u : IntUnit) (m : Trig) (s : State) : Host.Outcome State Fault Refusal := execOne m (opXaSextB u) s
/-- R199: `xa.sext.h` as an instruction. -/
def execXaSextH (u : IntUnit) (m : Trig) (s : State) : Host.Outcome State Fault Refusal := execOne m (opXaSextH u) s
/-- R201: `xa.bext` as an instruction. -/
def execXaBext (u : IntUnit) (m : Trig) (s : State) : Host.Outcome State Fault Refusal := execOne m (opXaBext u) s
/-- R201: `xa.bins` as an instruction. -/
def execXaBins (u : IntUnit) (m : Trig) (s : State) : Host.Outcome State Fault Refusal := execOne m (opXaBins u) s
/-- R199: `xa.pass` as an instruction. -/
def execXaPass (u : IntUnit) (m : Trig) (s : State) : Host.Outcome State Fault Refusal := execOne m (opXaPass u) s
/-- R202: `xa.cmp.eq` as an instruction. -/
def execXaCmpEq (u : IntUnit) (pair : Fin 8) (m : Trig) (s : State) : Host.Outcome State Fault Refusal := execOne m (opXaCmpEq u pair) s
/-- R202: `xa.cmp.ne` as an instruction. -/
def execXaCmpNe (u : IntUnit) (pair : Fin 8) (m : Trig) (s : State) : Host.Outcome State Fault Refusal := execOne m (opXaCmpNe u pair) s
/-- R202: `xa.cmp.lt` as an instruction. -/
def execXaCmpLt (u : IntUnit) (pair : Fin 8) (m : Trig) (s : State) : Host.Outcome State Fault Refusal := execOne m (opXaCmpLt u pair) s
/-- R202: `xa.cmp.le` as an instruction. -/
def execXaCmpLe (u : IntUnit) (pair : Fin 8) (m : Trig) (s : State) : Host.Outcome State Fault Refusal := execOne m (opXaCmpLe u pair) s
/-- R202: `xa.cmp.ltu` as an instruction. -/
def execXaCmpLtu (u : IntUnit) (pair : Fin 8) (m : Trig) (s : State) : Host.Outcome State Fault Refusal := execOne m (opXaCmpLtu u pair) s
/-- R202: `xa.cmp.leu` as an instruction. -/
def execXaCmpLeu (u : IntUnit) (pair : Fin 8) (m : Trig) (s : State) : Host.Outcome State Fault Refusal := execOne m (opXaCmpLeu u pair) s
/-- R202: `xa.tst` as an instruction. -/
def execXaTst (u : IntUnit) (pair : Fin 8) (m : Trig) (s : State) : Host.Outcome State Fault Refusal := execOne m (opXaTst u pair) s
/-- R203: `xa.sel` as an instruction. -/
def execXaSel (u : IntUnit) (pn : Fin 16) (m : Trig) (s : State) : Host.Outcome State Fault Refusal := execOne m (opXaSel u pn) s

end Sys2Proof.Machine
end

