-- ==== Sys2Proof/Machine/Lm.lean ====
section
/-! DEFINITION. The Loam unit (R298 to R310): events and their queue, delivery passes, fires, and the operations of the `lm` socket. -/

namespace Sys2Proof.Machine

def setLmBank (l : Loam) (b : Nat) (x : LmBank) : Loam := { l with banks := kset {} l.banks b x }

/-! ### Ticks and event words (R300, R301) -/

def tickAbs (s : State) (x : LmBank) : Nat := gtOf s / 2 ^ x.tlog

def tickOf (s : State) (x : LmBank) : Nat := tickAbs s x % 2 ^ 20

def evTile (w : BitVec 64) : Nat := w.toNat / 2 ^ 33 % 2048
def evNeuron (w : BitVec 64) : Nat := w.toNat / 2 ^ 19 % 1024
def evWeight (w : BitVec 64) : Int := intVal 16 (w.toNat / 2 ^ 3 % 2 ^ 16)
def evKind (w : BitVec 64) : Nat := w.toNat % 8

/-- The integrate event of a fan-out entry (R305). -/
def fanWord (time tile bank neuron w : Nat) : BitVec 64 :=
  BitVec.ofNat 64 (time % 2 ^ 20 * 2 ^ 44 + tile * 2 ^ 33 + bank * 2 ^ 29 + neuron * 2 ^ 19 + w * 2 ^ 3)

/-! ### Stopping -/

/-- The unit stops; its queue stays. -/
def lmHalt (l : Loam) : Loam := { l with running := false, stopping := false, pass := none, fan := none }

/-- A deferred fault of the unit stops it (R322); `addr` is the SRAM address concerned (R389). -/
def lmFault (s : State) (t cause : Nat) (addr : Nat := 0) : State :=
  match (bk s t).run with
  | some r => deferFault (modLm s t lmHalt) t { cause := cause, addr := addr, org := orgOf s t 7, id := 0, step := some r.key } (s.now + 1)
  | none => modLm s t lmHalt

/-- The unit's next turn. -/
def lmAgain (s : State) (t d : Nat) (idle : Bool := false) : State :=
  sched (modLm s t fun l => { l with idle := idle }) (s.now + d) priEngine .deliveryPass (.at2 t (lmOf s t).chain)

/-- A new chain of turns, the first of them `d` cycles from now. -/
def lmStart (s : State) (t d : Nat) : State :=
  let i := newId s
  lmAgain (modLm i.2 t fun l => { l with chain := i.1 }) t d

/-! ### The queue (R303, R306) -/

/-- The next tie group of a tile that a replay has not passed: its tick, and its record with those that continue it (R116, R306). -/
def tieGroup (s : State) (t : Nat) : Option (Nat × List Rec) :=
  match occasionsLeft s (slotOf s t) 0x19 (objAgent t) with
  | [] => none
  | r :: rs => some (r.payload % 2 ^ 20, r :: rs.takeWhile fun q => q.cont && q.payload % 2 ^ 20 == r.payload % 2 ^ 20)

def recSources (r : Rec) : List Nat := (List.range (min 12 r.k)).map fun i => r.payload / 2 ^ (32 + 16 * i) % 2 ^ 16

/-- A replay of the tile's tie groups is on. -/
def tieReplay (s : State) (t : Nat) : Bool := pbOf s t == 2 && pbEnabled s (slotOf s t)

/-- The tile's stream of tie groups (R114). -/
def tieStream (t : Nat) : StreamKey := ⟨0x19, objAgent t⟩

/-- The late events that a replay has still to deliver at a tile: their ticks and words, with their records (R116, R119). -/
def lateRecords (s : State) (t : Nat) : List (Nat × BitVec 64 × Rec) :=
  if tieReplay s t then (occasionsLeft s (slotOf s t) 0x1A (objAgent t)).map fun r => (r.payload % 2 ^ 20, BitVec.ofNat 64 (r.payload / 2 ^ 32), r) else []

/-- A replay's record drives the pass for tick `τ` of a bank, which has not begun: the tick is held for its events (R119, R330). -/
def passDriven (s : State) (t : Nat) (x : LmBank) (τ : Nat) : Bool :=
  tieReplay s t && !(lmOf s t).nextModes.getLsbD 0 && !(bookOf s (slotOf s t)).closed.contains (tieStream t) && !precedes τ (x.next % 2 ^ 20) &&
    (occasionsLeft s (slotOf s t) 0x19 (objAgent t)).any fun r => r.payload % 2 ^ 20 == τ

/-- Whether an event is late (R303). Under replay an event for a driven pass that has not begun counts for that pass (R330); another that was recorded late
is late again (R119). DEDUCED (log 172). -/
def isLate (s : State) (t : Nat) (w : BitVec 64) : Bool :=
  let l := lmOf s t
  let x := lmBank l (evBank w)
  let begun := match l.pass with
    | some p => if p.bank = evBank w then some p.tick else x.ended
    | none => x.ended
  if begun == some (evTime w) then true
  else if passDriven s t x (evTime w) then false
  else if (lateRecords s t).any fun r => r.2.1 == w then true
  else precedes (evTime w) (tickOf s x)

/-- An event put behind those that arrived no later; within a cycle by ascending source (R303). -/
def insertEvent (e : LmEvent) : List LmEvent → List LmEvent
  | [] => [e]
  | x :: xs => if x.at_ < e.at_ ∨ (x.at_ = e.at_ ∧ x.src ≤ e.src) then x :: insertEvent e xs else e :: x :: xs

def lmFull (l : Loam) : Bool := decide (4096 ≤ l.queue.length)

def sat32 (n : Nat) : Nat := min 0xFFFFFFFF n

/-- An event enters the tile's queue, on time or late (R303, R306). -/
def lmEnqueue (s : State) (t : Nat) (w : BitVec 64) (src : Nat) : State :=
  let late := isLate s t w
  let s := if late then modLm s t fun l => { l with lates := sat32 (l.lates + 1) } else s
  if late && !(lmOf s t).modes.getLsbD 1 then lmFault s t 0x91
  else
    let s := modLm s t fun l => { l with queue := insertEvent { word := w, src := src, at_ := s.now, late := late } l.queue }
    if late && (lmOf s t).idle && (lmOf s t).running then lmStart s t 1 else s

/-- A step owns the unit: it runs, or is Parked and its tile has not flipped yet (R307). -/
def lmOwned (s : State) (t : Nat) : Bool := match (bk s t).run with
  | some r => (r.going || stepStOf s r.key == .parked) && !isFaulted s r.key
  | none => false

/-- An earlier event of the sender for the same tile stands refused, and this one must not overtake it (R226, R238). -/
def eventBehind (s : State) (p : Pkt) (t : Nat) : Bool :=
  (chanOf s p.agent 3).refused.any fun r => decide (r.1.id < p.id) && (match r.1.kind with
    | .event w => evTile w == t
    | _ => false)

/-- R238, R303, R307: an event packet reaches the tile. -/
def siltArrival (s : State) (p : Pkt) (w : BitVec 64) : State :=
  let t := evTile w
  landPkt s p [] fun s =>
  if eventBehind s p t then refusePkt s p t
  else if kget 0 s.owners (tileCluster t) ≠ p.slot then failPkt s p 0x41 0
  else if !lmOwned s t then errorRecord (settlePkt s p) { cause := 0x93, slot := p.slot, agent := t }
  else if lmFull (lmOf s t) then refusePkt s p t
  else lmEnqueue (settlePkt s p) t w p.agent

/-- R303: an event reaches a tile's Silt queue. -/
def execSiltEventArrival (s : State) : Host.Outcome State Fault Refusal :=
  match s.occ with
  | .pkt p => (match p.kind with
    | .event w => .next (siltArrival s p w)
    | _ => .refused (.noOccasion "SILT_EVENT_ARRIVAL"))
  | _ => .refused (.noOccasion "SILT_EVENT_ARRIVAL")

/-! ### Neurons (R298, R304) -/

/-- A neuron's record. -/
structure Neuron where
  v : Int
  last : Nat
  refr : Nat
  off : Bool
  ovf : Bool
  soft : Nat

def neuronOf (r : Nat) : Neuron :=
  { v := intVal 32 (r % 2 ^ 32), last := r / 2 ^ 32 % 2 ^ 20, refr := r / 2 ^ 52 % 256, off := r / 2 ^ 60 % 2 = 1, ovf := r / 2 ^ 61 % 2 = 1,
    soft := r / 2 ^ 62 % 4 }

def neuronVal (n : Neuron) : Nat :=
  (n.v % 2 ^ 32).toNat + 2 ^ 32 * (n.last % 2 ^ 20) + 2 ^ 52 * (n.refr % 256) + (if n.off then 2 ^ 60 else 0) + (if n.ovf then 2 ^ 61 else 0) +
    2 ^ 62 * n.soft

def neuronAddr (t b n : Nat) : Nat := t * 2 ^ 21 + 0x194000 + 8192 * b + 8 * n

/-- The iterated leak, exactly. -/
def leak (k : Nat) (v : Int) : Nat → Int
  | 0 => v
  | n + 1 => leak k (v - (v * (k : Int)) / 65536) n

def leakNeuron (x : LmBank) (n : Neuron) (τ : Nat) : Neuron :=
  let dt := (τ % 2 ^ 20 + 2 ^ 20 - n.last) % 2 ^ 20
  { n with v := leak x.k n.v dt, refr := n.refr - dt, last := τ % 2 ^ 20 }

/-- What a delivery does: the new record, whether the event was dropped, whether it is a probe, and whether the neuron fires. -/
structure Delivered where
  n : Neuron
  dropped : Bool := false
  probe : Bool := false
  fire : Bool := false

def clamp32 (i : Int) : Int := max (-(2 ^ 31)) (min (2 ^ 31 - 1) i)

/-- One event at a neuron at tick `τ` (R304). -/
def deliverEvent (x : LmBank) (n : Neuron) (τ : Nat) (w : BitVec 64) : Delivered :=
  let n := leakNeuron x n τ
  let take := fun (v : Int) =>
    let n := { n with v := clamp32 v, ovf := n.ovf || clamp32 v != v }
    if x.theta.toInt ≤ n.v ∧ n.refr = 0 then
      { n := { n with v := x.vreset.toInt, refr := x.rticks }, fire := true }
    else ({ n := n } : Delivered)
  if n.off then { n := n, dropped := true }
  else match evKind w with
    | 0 => if 0 < n.refr then { n := n, dropped := true } else take (n.v + evWeight w * 256)
    | 1 => take (evWeight w * 256)
    | 2 => { n := { n with v := x.vreset.toInt } }
    | _ => { n := n, probe := true }

/-- A probe pushes 16 bytes into its handle, or is discarded and counted (R308). -/
def pushProbe (s : State) (t : Nat) (rec_ τ b n src : Nat) : State :=
  let p := (lmOf s t).probe
  let hn := p.toNat % 16
  let h := hReg s t hn
  if !p.getLsbD 4 || (handleCause h [0, 1]).isSome || decide (hRoom h < 16) then modLm s t fun l => { l with lost := sat32 (l.lost + 1) }
  else match ringCause s (slotOf s t) h (hProd h) 16 with
    | some c => lmFault s t c (hAt h (hProd h))
    | none =>
      let v := rec_ + 2 ^ 64 * τ + 2 ^ 96 * (b * 1024 + n) + 2 ^ 112 * src
      advanceProd (writeRing s h (hProd h) 16 v) t hn 16

/-- The unit takes `d` cycles from now on: in a booked step uses of the tile's `lm`, with what else it takes (R66, R307). -/
def lmUses (s : State) (t d : Nat) (us : List (Nat × Nat)) : State := checkUses s t (spanUses s (ridTile 3 t 0) s.now d ++ us)

/-- What keeps the unit from `d` cycles of work and from the uses `us`: a resource that another step has booked or reserved (R53, R66). -/
def lmKept (s : State) (t d : Nat) (us : List (Nat × Nat)) : Option Nat := usesHeld s t (spanUses s (ridTile 3 t 0) s.now d ++ us)

/-- The unit works `d` cycles with the uses `us` of data banks, waits while another step holds something of that, or stands still where its own step has
overrun (R66, R68, R307). -/
def lmWork (s : State) (t d : Nat) (us : List (Nat × Nat)) (k : State → State) : State :=
  match lmKept s t d us with
  | some rid => lmAgain (ageHold s t rid s.now) t 1
  | none =>
    let u := lmUses s t d us
    if lmOwned u t then k u else modLm u t lmHalt

/-- The cycles of the next delivery, at most 28 with the read of a fire's index (R304). -/
def lmCycles (s : State) : Nat := 1 + Config.freeLatency s.free % 27

/-- The bank that a delivery writes beside the unit's own memory: a probe's (R308). -/
def probeUses (s : State) (t : Nat) (e : LmEvent) : List (Nat × Nat) :=
  let p := (lmOf s t).probe
  if evKind e.word = 3 ∧ p.getLsbD 4 then lineUses s.now (byteLines (hProd (hReg s t (p.toNat % 16))).toNat 16) else []

/-- The unit delivers one event at tick `τ`; its next turn comes when the delivery is over. -/
def deliverOne (s : State) (t τ : Nat) (e : LmEvent) : State :=
  let b := evBank e.word
  let k := evNeuron e.word
  let x := lmBank (lmOf s t) b
  let addr := neuronAddr t b k
  let d := lmCycles s
  let s := meetLoc { s with free := s.free + 1 } (.sram addr) 8
  if poisoned s addr 8 then lmFault s t 0x4E addr
  else
    let r := deliverEvent x (neuronOf (loadN s addr 8)) τ e.word
    let s := storeN s addr 8 (neuronVal r.n)
    let s := if r.dropped then modLm s t fun l => { l with drops := sat32 (l.drops + 1) } else s
    let s := if r.probe then pushProbe s t (neuronVal r.n) τ b k e.src else s
    if !r.fire then lmAgain s t d
    else lmAgain (modLm s t fun l => { l with fires := sat32 (l.fires + 1),
                                              fan := some { bank := b, tick := τ, base := x.fbase, at_ := x.fbase + 2 * k, index := true } }) t d

/-- A delivery, with the event gone from the queue in `k`. -/
def deliverTurn (s : State) (t τ : Nat) (e : LmEvent) (k : State → State) : State :=
  lmWork s t (lmCycles s) (probeUses s t e) fun s => deliverOne (k s) t τ e

/-! ### Fan-out (R305) -/

/-- The fire goes on to its next entry, or is over. -/
def fanStep (s : State) (t : Nat) (f : LmFan) (last : Bool) : State :=
  lmAgain (modLm s t fun l => { l with fan := if last then none else some { f with at_ := f.at_ + 8, got := none, since := none } }) t 1

/-- A fire reads the neuron's index, which names its first entry or says that it has no fan-out (R302). -/
def fanIndex (s : State) (t : Nat) (f : LmFan) : State :=
  let i := loadN s (t * 2 ^ 21 + f.at_) 2
  lmAgain (modLm s t fun l => { l with fan := if i = 0xFFFF then none else some { f with at_ := f.base + 2048 + 8 * i, index := false } }) t 1

/-- An entry that has been read sends its event (R305). -/
def fanEmit (s : State) (t : Nat) (f : LmFan) (e : Nat) : State :=
  let last := decide (e / 2 ^ 63 = 1)
  let tile := e / 2 ^ 30 % 2048
  let w := fanWord (f.tick + e / 2 ^ 41 % 256 + 1) tile (e / 2 ^ 26 % 16) (e / 2 ^ 16 % 1024) (e % 2 ^ 16)
  if e / 2 ^ 49 % 2 ^ 14 ≠ 0 then lmFault s t 0x93 (t * 2 ^ 21 + f.at_)
  else if tile = t then
    if lmFull (lmOf s t) then
      let s := if f.since.isNone then sched (modLm s t fun l => { l with fan := some { f with since := some s.now, got := some e } }) (s.now + 256)
        priEngine .fanoutQueueTimeout (.at2 t (lmOf s t).chain) else s
      lmAgain s t 1
    else
      let s := lmEnqueue s t w t
      if (lmOf s t).running then fanStep s t f last else s
  else if !(chanOf s t 3).refused.isEmpty || decide (16 < chanFlits (chanOf s t 3) + 1) then
    lmAgain (modLm s t fun l => { l with fan := some { f with got := some e } }) t 1
  else
    let i := newId s
    fanStep (enqueue i.2 ⟨t, 0, 7⟩ i.1 (.event w) none) t f last

/-- One turn of a fire's fan-out: its index, an entry, or an entry that has been read and could not leave. -/
def fanTurn (s : State) (t : Nat) (f : LmFan) : State :=
  match f.got with
  | some e => lmWork s t 1 [] fun s => fanEmit s t f e
  | none =>
    let n := if f.index then 2 else 8
    if 0x180000 < f.at_ + n then lmFault s t 0x93 (t * 2 ^ 21 + f.at_)
    else lmWork s t 1 [(ridTile 4 t (addrBank f.at_), s.now)] fun s =>
      let s := meetLoc s (.sram (t * 2 ^ 21 + f.at_)) n
      if poisoned s (t * 2 ^ 21 + f.at_) n then lmFault s t 0x4E (t * 2 ^ 21 + f.at_)
      else if f.index then fanIndex s t f
      else fanEmit s t f (loadN s (t * 2 ^ 21 + f.at_) 8)

/-- R305: the tile's own queue has had no room for 256 cycles. -/
def fanTimeout (s : State) (t chain : Nat) : State :=
  let l := lmOf s t
  match l.fan with
  | some f => if l.chain = chain ∧ f.since.any (· + 256 ≤ s.now) then lmFault s t 0x92 else s
  | none => s

def execFanoutQueueTimeout (s : State) : Host.Outcome State Fault Refusal :=
  match s.occ with
  | .at2 t c => .next (fanTimeout s t c)
  | _ => .refused (.noOccasion "FANOUT_QUEUE_TIMEOUT")

/-! ### Passes (R303, R304, R306) -/

/-- The GT at which a bank's next pass is due. -/
def passDue (l : Loam) (b : Nat) : Nat :=
  let x := lmBank l b
  x.next * 2 ^ x.tlog + if l.nextModes.getLsbD 0 then 64 else 0

def enabledBanks (l : Loam) : List Nat := (List.range 16).filter fun b => l.on.getLsbD b

/-- The events of a bank for a tick, in the order of their delivery (R304). -/
def passEvents (l : Loam) (b τ : Nat) : List LmEvent :=
  let es := l.queue.filter fun e => !e.late && evBank e.word == b && evTime e.word == τ
  if l.modes.getLsbD 0 then es.foldl (fun acc e => insertSrc e acc) [] else es
where
  /-- An event put behind those of no larger source. -/
  insertSrc (e : LmEvent) : List LmEvent → List LmEvent
    | [] => [e]
    | x :: xs => if x.src ≤ e.src then x :: insertSrc e xs else e :: x :: xs

/-- Events restored late are treated under R306 as the first pass begins (R309). -/
def sweepRestored (s : State) (t : Nat) : State :=
  let l := lmOf s t
  let bad := l.queue.filter fun e => e.restored && !e.late && isLate s t e.word
  if bad.isEmpty then modLm s t fun l => { l with queue := l.queue.map fun e => { e with restored := false } }
  else
    let s := modLm s t fun l => { l with lates := sat32 (l.lates + bad.length) }
    let mark := fun (e : LmEvent) => { e with late := e.late || bad.contains e, restored := false }
    if l.modes.getLsbD 1 then modLm s t fun l => { l with queue := l.queue.map mark }
    else lmFault (modLm s t fun l => { l with queue := l.queue.filter fun e => !bad.contains e }) t 0x91

/-- What a replay says of a pass that is due: it begins, with a plan where a record drives it, or its events have not all arrived, or it diverges
(R306, R330). -/
inductive TieVerdict where
  | go (plan : Option (List Nat))
  | hold
  | diverge (cause seq : Nat)

/-- A pass of several sources is an event of the tile's stream, and needs its next record; one that finds the record of its own tick is driven by it
(R118, R120, R306, R330). The records name no bank: DESIGN CHOICE (log 172): the pass that meets one of its tick first is the one it drives. -/
def tieVerdict (s : State) (t b τ : Nat) : TieVerdict :=
  let l := lmOf s t
  -- a late event of an earlier tick comes first
  if (lateRecords s t).any fun r => evBank r.2.1 == b && precedes r.1 τ then .hold
  else if !tieReplay s t || l.nextModes.getLsbD 0 then .go none
  else
    let srcs := (passEvents { l with modes := l.nextModes } b τ).map (·.src)
    let undriven := fun (c q : Nat) => if 2 ≤ srcs.eraseDups.length then .diverge c q else .go none
    if (bookOf s (slotOf s t)).closed.contains (tieStream t) then undriven 0x60 0
    else match tieGroup s t with
    | none => undriven (noOccasion s (slotOf s t) (tieStream t)) 0
    | some g =>
      let plan := g.2.flatMap recSources
      let seq := (g.2.head?.map (·.seq)).getD 0
      if g.1 ≠ τ then undriven 0x60 seq
      else if !plan.all fun x => decide (plan.count x ≤ srcs.count x) then .hold
      else if plan.length < srcs.length then .diverge 0x60 seq
      else .go (some plan)

/-- The unit stands still for the ring or a replay, which a booked step is charged for (R67, R113, R119). -/
def lmHold (s : State) (t : Nat) : State := lmWork s t 1 [] fun s => lmAgain (chargeDelay s t) t 1

/-- A pass begins. -/
def beginPass (s : State) (t b : Nat) : State :=
  let x := lmBank (lmOf s t) b
  let τ := x.next % 2 ^ 20
  match tieVerdict s t b τ with
  | .hold => lmHold s t
  | .diverge c q => lmFault (diverged s (slotOf s t) t (tieStream t) c q) t c
  | .go plan =>
    let s := sweepRestored (modLm s t fun l => { l with modes := l.nextModes }) t
    if (lmOf s t).running then
      let s := modLm s t fun l =>
        { setLmBank l b { lmBank l b with next := x.next + 1 } with
          pass := some { bank := b, tick := τ, plan := plan.getD [], driven := plan.isSome } }
      lmAgain s t 0
    else s

/-- The records of a pass with several sources, twelve to a record, or the passing of the recorded ones (R116, R119, R306). -/
def tieRecord (s : State) (t : Nat) (p : LmPass) : State :=
  if (lmOf s t).modes.getLsbD 0 then s
  else if tieReplay s t then
    if p.driven then ((tieGroup s t).map (·.2)).getD [] |>.foldl (fun s r => markMade s (slotOf s t) r) s else s
  else if p.done.eraseDups.length < 2 then s
  else
    (List.range ((p.done.length + 11) / 12)).foldl (fun s i =>
      let g := (p.done.drop (12 * i)).take 12
      occasion s (slotOf s t) (pbOf s t) t 0x19 (if i = 0 then 0 else 1) g.length (objAgent t)
        (p.tick + (g.zipIdx.foldl (fun v e => v + e.1 % 2 ^ 16 * 2 ^ (32 + 16 * e.2)) 0))) s

/-- The unit has stopped, and `lm.stop` ends (R308). -/
def lmStopped (s : State) (t : Nat) : State := modBk (modLm s t lmHalt) t (dropWait (· == .loam))

/-- The records that the end of a pass writes find no room (R113). -/
def tieStalled (s : State) (t : Nat) (p : LmPass) : Bool :=
  pbOf s t == 1 && !(lmOf s t).modes.getLsbD 0 && decide (2 ≤ p.done.eraseDups.length) && ringLacks s (slotOf s t) ((p.done.length + 11) / 12)

/-- An event of a fire has been refused and is still to be sent again: the pass holds (R305). -/
def fireRefused (s : State) (t : Nat) : Bool := (chanOf s t 3).refused.any fun r => match r.1.kind with
  | .event _ => r.1.org.slot == 7#3
  | _ => false

/-- Bank `b` has ended its pass for tick `τ`, or for a later one (R308). -/
def drained (l : Loam) (b τ : Nat) : Bool := (lmBank l b).ended.any fun e => e == τ || precedes τ e

/-- A pass ends. -/
def endPass (s : State) (t : Nat) (p : LmPass) : State :=
  if tieStalled s t p then lmHold s t else
  let s := tieRecord s t p
  let s := modLm s t fun l =>
    let l := { l with banks := l.banks.map fun e => (e.1, { e.2 with fbase := e.2.fnext.getD e.2.fbase, fnext := none }) }
    { setLmBank l p.bank { lmBank l p.bank with ended := some p.tick } with pass := none }
  if (lmOf s t).stopping then lmStopped s t else lmAgain s t 0

/-- The event that a pass delivers next: of the source that a replay names, or the first in tie order. -/
def nextEvent (l : Loam) (p : LmPass) : Option LmEvent :=
  let es := passEvents l p.bank p.tick
  match p.plan with
  | x :: _ => es.find? fun e => e.src == x
  | [] => if p.driven then none else es.head?

def dropEvent (l : Loam) (e : LmEvent) : Loam := { l with queue := l.queue.erase e }

/-- A turn of the running pass. -/
def passTurn (s : State) (t : Nat) (p : LmPass) : State :=
  if fireRefused s t then lmWork s t 1 [] fun s => lmAgain s t 1 else
  match nextEvent (lmOf s t) p with
  | none => endPass s t p
  | some e => deliverTurn s t p.tick e fun s =>
      modLm s t fun l => { dropEvent l e with pass := some { p with done := p.done ++ [e.src], plan := p.plan.drop 1 } }

/-- The tick at which a late event is delivered, its bank's or under replay the recorded one, and what the Prompt Book says of it (R119, R306). -/
def lateVerdict (s : State) (t : Nat) (e : LmEvent) : Nat × Verdict :=
  let cur := tickOf s (lmBank (lmOf s t) (evBank e.word))
  let τ := if tieReplay s t then ((lateRecords s t).head?.map (·.1)).getD cur else cur
  (τ, occasionEvent s (slotOf s t) (pbOf s t) t 0x1A (objAgent t) (cur + 2 ^ 32 * e.word.toNat) fun r =>
    r.payload / 2 ^ 32 % 2 ^ 64 == e.word.toNat && !precedes cur (r.payload % 2 ^ 20))

/-- The late event that comes next: the first, or under replay the first that need not wait. -/
def lateNext (s : State) (t : Nat) : Option LmEvent :=
  let es := (lmOf s t).queue.filter (·.late)
  match es.find? fun e => match (lateVerdict s t e).2 with
    | .wait _ => false
    | _ => true with
  | some e => some e
  | none => es.head?

/-- A pass that is due, or nothing yet. -/
def dueTurn (s : State) (t : Nat) : State :=
  let l := lmOf s t
  match (enabledBanks l).find? fun b => decide (passDue l b ≤ gtOf s) with
  | some b => beginPass s t b
  | none => match enabledBanks l with
    | [] => modLm s t fun l => { l with idle := true }
    | b :: bs =>
      let g := bs.foldl (fun m b => min m (passDue l b)) (passDue l b)
      lmAgain s t (max 1 (cycleOf s g - s.now)) true

/-- A turn between passes: a late event, a pass that is due, or nothing yet. A late event that a replay holds lets the passes go on. -/
def gapTurn (s : State) (t : Nat) : State :=
  match lateNext s t with
  | some e =>
    let r := lateVerdict s t e
    let out := fun (s : State) => modLm s t fun l => dropEvent l e
    (match r.2 with
    | .go k => deliverTurn s t r.1 e fun s => k (out s)
    | .wait k => if k ≠ 0 ∧ ((enabledBanks (lmOf s t)).any fun b => decide (passDue (lmOf s t) b ≤ gtOf s)) then dueTurn s t else lmHold s t
    | .diverge c q => lmFault (diverged (out s) (slotOf s t) t ⟨0x1A, objAgent t⟩ c q) t c)
  | none => dueTurn s t

/-- One turn of the unit. -/
def lmTurn (s : State) (t chain : Nat) : State :=
  let l := lmOf s t
  if l.chain ≠ chain ∨ !l.running then s
  else if !lmOwned s t then modLm s t fun _ => {}
  else match l.fan, l.pass with
    | some f, _ => fanTurn s t f
    | none, some p => passTurn s t p
    | none, none =>
      if l.stopping then lmStopped s t
      else if fireRefused s t then lmWork s t 1 [] fun s => lmAgain s t 1 else gapTurn s t

/-- R303: the unit's turn. -/
def execDeliveryPass (s : State) : Host.Outcome State Fault Refusal :=
  match s.occ with
  | .at2 t c => .next (lmTurn s t c)
  | _ => .refused (.noOccasion "DELIVERY_PASS")

/-! ### Descriptors and images (R299, R309) -/

/-- A bank descriptor; none for a malformed one. -/
def descOf (v : Nat) : Option LmBank :=
  let tl := fld v 11 1
  let fb := fld v 12 4
  if tl < 4 ∨ 20 < tl ∨ 0x180000 ≤ fb ∨ fb % 8 ≠ 0 ∨ fld v 16 16 ≠ 0 then none
  else some { theta := wd (fld v 0 4), vreset := wd (fld v 4 4), k := fld v 8 2, rticks := fld v 10 1, tlog := tl, fbase := fb }

def descVal (x : LmBank) : Nat :=
  x.theta.toNat + 2 ^ 32 * x.vreset.toNat + 2 ^ 64 * x.k + 2 ^ 80 * x.rticks + 2 ^ 88 * x.tlog + 2 ^ 96 * (x.fnext.getD x.fbase)

def imageBytes (l : Loam) : Nat := 576 + 8 * l.queue.length

def lmImage (l : Loam) : Nat :=
  let descs := (List.range 16).foldr (fun b acc => descVal (lmBank l b) + 2 ^ 256 * acc) 0
  let evs := l.queue.foldr (fun e acc => e.word.toNat + 2 ^ 64 * acc) 0
  l.queue.length + 2 ^ 32 * l.on.toNat + 2 ^ 48 * (l.nextModes.toNat + 4 * l.probe.toNat) + 2 ^ 512 * descs + 2 ^ 4608 * evs

/-- The unit that an image restores, its events from the tile itself; none for a malformed image. -/
def lmRestore (t v : Nat) : Option Loam :=
  let c := fld v 0 4
  let descs := (List.range 16).map fun b => descOf (fld v (64 + 32 * b) 32)
  let evs := items (fld v 576 (8 * c)) 8 c
  if 4096 < c ∨ 128 ≤ fld v 6 1 ∨ fld v 7 57 ≠ 0 ∨ descs.any (·.isNone) ∨ evs.any (fun w => decide (4 ≤ w % 8) || w / 2 ^ 33 % 2048 != t) then none
  else
    let m := fld v 6 1
    some
      { banks := descs.zipIdx.foldl (fun k d => kset {} k d.2 (d.1.getD {})) []
        on := BitVec.ofNat 16 (fld v 4 2)
        modes := BitVec.ofNat 2 m
        nextModes := BitVec.ofNat 2 m
        probe := BitVec.ofNat 5 (m / 4)
        queue := evs.map fun w => { word := BitVec.ofNat 64 w, src := t, at_ := 0, restored := true } }

/-! ### The operations (R308, R310) -/

/-- An operation of the unit: malformed operands fault, a `stopped` one faults while the unit runs, and the socket may hold it. -/
def lmOp (x : OpCtx) (s : State) (bad stopped : Bool) (k : OpOut) : OpOut :=
  if bad || (stopped && (lmOf s x.a).running) then .fault 0x90 none
  else if sockHeld s x.a .lm then .hold .lock else k

def lmO (x : OpCtx) (s : State) (n : Nat) : Word := portW s x.a .lm n

/-- A bank number in t[3:0]. -/
def lmBankBad (t : Word) : Bool := decide (16 ≤ t.toNat)

/-- No aligned address of data banks (R299, R309). -/
def lmAddrBad (addr n align : Nat) : Bool := addr % align != 0 || !inData addr n

/-- The lines of an operand structure as the unit reads them, each a use of its bank in its cycle (R66, R307). -/
def lmLines (x : OpCtx) (s : State) (addr n : Nat) : List (Nat × Nat) :=
  lineUses (s.now + 4 + if addrTile addr = x.a then 0 else transit x.a (addrTile addr)) (byteLines addr n)

/-- Reads an operand structure from data banks: in a booked step its lines are uses of their banks, one a cycle, and the held cycles of `lm` (R66,
R307), and a refusal of a line comes deferred. -/
def lmRead (x : OpCtx) (t : State) (addr n hold : Nat) (k : State → Nat → State) : State :=
  let far := if addrTile addr = x.a then 0 else transit x.a (addrTile addr)
  let hold := hold + 2 * far
  let t := if isBooked t x.a then
      opUses t x.a 0 (spanUses t (ridTile 3 x.a 0) (t.now + 1) (hold - 1) ++ lmLines x t addr n) else t
  let t := modBk t x.a fun b => { b with wait := .usr (t.now + hold) }
  let late := fun (c : Nat) => deferFault t x.a { cause := c, addr := addr, org := orgOf t x.a x.slot, id := 0 } (t.now + 4)
  let t := meetLoc t (.sram addr) n
  match locCause t (slotOf t x.a) (.sram addr) n true with
  | some c => late c
  | none => k t (loadN t addr n)

/-- A malformed structure (R299, R309). DESIGN CHOICE (log 191): its fault comes 4 cycles after the trigger. -/
def lmMalformed (x : OpCtx) (t : State) (addr : Nat) : State :=
  deferFault t x.a { cause := 0x90, addr := addr, org := orgOf t x.a x.slot, id := 0 } (t.now + 4)

def opLmBank : OpFn := unitTrigger 3 fun x s =>
  let addr := (lmO x s 0).toNat
  lmOp x s (lmBankBad x.t || lmAddrBad addr 32 32 || addrTile addr != x.a) true <|
    if !performedAt s x.a x.a then .hold .lock
    else match usesHeld s x.a (lmLines x s addr 32) with
    | some r => .hold (.booked r)
    | none => .go fun t => lmRead x t addr 32 6 fun t v => match descOf v with
      | none => lmMalformed x t addr
      | some d => modLm t x.a fun l => setLmBank l x.t.toNat { d with ended := (lmBank l x.t.toNat).ended }

def opLmTick : OpFn := unitTrigger 3 fun x s =>
  lmOp x s (lmBankBad x.t) false <| result x s .lm 1 (wd (tickOf s (lmBank (lmOf s x.a) x.t.toNat)))

def opLmFan : OpFn := unitTrigger 3 fun x s =>
  let f := (lmO x s 0).toNat
  lmOp x s (lmBankBad x.t || f % 8 != 0 || decide (0x180000 ≤ f)) false <| .go fun t =>
    modLm t x.a fun l =>
      let b := lmBank l x.t.toNat
      setLmBank l x.t.toNat (if l.pass.isSome then { b with fnext := some f } else { b with fbase := f, fnext := none })

def opLmLoad : OpFn := unitTrigger 3 fun x s =>
  let addr := (lmO x s 0).toNat
  lmOp x s (x.t != 0#32 || lmAddrBad addr 576 64) true <|
    if !performedAt s x.a (addrTile addr) then .hold .lock
    else
      let c := loadN s addr 4
      let n := if 4096 < c then 576 else 576 + 8 * c
      match usesHeld s x.a (lmLines x s addr n) with
      | some r => .hold (.booked r)
      | none => .go fun t =>
        let d := freeDelay t
        lmRead x d.2 addr n d.1 fun t v =>
          if !inData addr n then lmMalformed x t addr
          else match lmRestore x.a v with
            | none => lmMalformed x t addr
            | some l => modLm t x.a fun o => { l with drops := o.drops, lates := o.lates, fires := o.fires, lost := o.lost, chain := o.chain }

def opLmStore : OpFn := unitTrigger 3 fun x s =>
  let addr := (lmO x s 0).toNat
  let n := imageBytes (lmOf s x.a)
  lmOp x s (x.t != 0#32 || lmAddrBad addr n 64) true <|
    if accessHeld s x.a 0 || decide (32 ≤ inFlight s x.a .lm 0x20) then .hold .lock
    else .go fun t =>
      let i := t.seq
      let t := storeChunks t x addr n (lmImage (lmOf t x.a))
      let e := (ag t x.a).outs.foldl (fun m o => max m o.perfAt) t.now
      let t := if isBooked t x.a then opUses t x.a 0 (spanUses t (ridTile 3 x.a 0) (t.now + 1) (e - t.now)) else t
      modBk t x.a fun b => { b with wait := .stores i t.seq (some (wd n, lockedMode t x.a .lm)) }

def opLmInject : OpFn := unitTrigger 3 fun x s =>
  let w : BitVec 64 := x.t ++ lmO x s 0
  lmOp x s (evTile w != x.a || decide (4 ≤ evKind w)) false <|
    if lmFull (lmOf s x.a) then .hold .lock else .go fun t => lmEnqueue t x.a w x.a

/-- The neuron that `o0` names; its other bits must be zero. -/
def lmNeuron (x : OpCtx) (o : Word) : Nat := neuronAddr x.a (o.toNat / 2 ^ 10 % 16) (o.toNat % 1024)

def opLmRead : OpFn := unitTrigger 3 fun x s =>
  let o := lmO x s 0
  lmOp x s (x.t != 0#32 || decide (2 ^ 14 ≤ o.toNat)) false <|
    if decide (31 ≤ inFlight s x.a .lm 0x20) then .hold .lock
    else
      let v := loadN s (lmNeuron x o) 8
      .go fun t =>
        let t := meetLoc t (.sram (lmNeuron x o)) 8
        if poisoned t (lmNeuron x o) 8 then lmFault t x.a 0x4E (lmNeuron x o)
        else fly (fly t x.a .lm 0x20 3 (rowOf (wd v))) x.a .lm 0x20 4 (rowOf (wd (v / 2 ^ 32)))

/-- The record with one field written (R308). -/
def writeField (n : Neuron) (f : Nat) (v : Word) : Neuron :=
  match f with
  | 0 => { n with v := v.toInt }
  | 1 => { n with refr := v.toNat }
  | 2 => { n with last := v.toNat }
  | _ => { n with ovf := v.getLsbD 1, off := v.getLsbD 0 }

def opLmWrite : OpFn := unitTrigger 3 fun x s =>
  let o := lmO x s 0
  let v := lmO x s 1
  let f := x.t.toNat
  let lim := if f = 1 then 2 ^ 8 else if f = 2 then 2 ^ 20 else if f = 3 then 4 else 2 ^ 32
  lmOp x s (decide (4 ≤ f) || decide (2 ^ 14 ≤ o.toNat) || decide (lim ≤ v.toNat)) false <| .go fun t =>
    let t := meetLoc t (.sram (lmNeuron x o)) 8
    if poisoned t (lmNeuron x o) 8 then lmFault t x.a 0x4E (lmNeuron x o)
    else storeN t (lmNeuron x o) 8 (neuronVal (writeField (neuronOf (loadN t (lmNeuron x o) 8)) f v))

def opLmRun : OpFn := unitTrigger 3 fun x s =>
  let p := lmO x s 1
  let h := hReg s x.a (p.toNat % 16)
  lmOp x s (decide (2 ^ 16 ≤ x.t.toNat) || decide (32 ≤ p.toNat)) false <|
    match (if p.getLsbD 4 then handleCause h [0, 1] else none) with
    | some c => .fault c none
    | none => .go fun t =>
      let l := lmOf t x.a
      let fresh := fun (b : Nat) => !l.running || !l.on.getLsbD b
      let l := (List.range 16).foldl (fun l b =>
        if x.t.getLsbD b && fresh b then setLmBank l b { lmBank l b with next := tickAbs t (lmBank l b) + 1 } else l) l
      let was := l.running
      let t := modLm t x.a fun _ => { l with on := x.t.extractLsb' 0 16, probe := p.extractLsb' 0 5, running := true }
      if was ∧ !l.idle then t else lmStart t x.a 1

def opLmStop : OpFn := unitTrigger 3 fun x s =>
  lmOp x s (x.t != 0#32) false <| .go fun t =>
    let l := lmOf t x.a
    if !l.running then t
    else if l.pass.isNone ∧ l.fan.isNone then lmStopped t x.a
    else modBk (modLm t x.a fun l => { l with stopping := true }) x.a fun b => { b with wait := .loam }

/-- `lm.drain` issues, and holds the tile until the pass of its tick has ended (R308, R316). -/
def opLmDrain : OpFn := unitTrigger 3 fun x s =>
  let o := lmO x s 0
  let τ := x.t.toNat
  lmOp x s (decide (16 ≤ o.toNat) || decide (2 ^ 20 ≤ τ)) false <|
    if drained (lmOf s x.a) (o.toNat % 16) τ then result x s .lm 1 (wd (lmOf s x.a).queue.length)
    else if decide (32 ≤ inFlight s x.a .lm 0x20) then .hold .lock
    else .go fun t => modBk t x.a fun b => { b with wait := .drain (o.toNat % 16) τ (lockedMode t x.a .lm) }

/-- The modes of `lm.tie` apply from the next pass (R308). DESIGN CHOICE (log 172): `lm.stat` and a late event until then meet the modes in force. -/
def opLmTie : OpFn := unitTrigger 3 fun x s =>
  lmOp x s (decide (4 ≤ x.t.toNat)) false <| .go fun t =>
    let t := modLm t x.a fun l => { l with nextModes := x.t.extractLsb' 0 2 }
    -- a pass may now be due earlier (R303)
    if (lmOf t x.a).running ∧ (lmOf t x.a).idle then lmStart t x.a 1 else t

def opLmStat : OpFn := unitTrigger 3 fun x s =>
  let l := lmOf s x.a
  let clear := x.t.getLsbD 3
  let out := fun (v : Nat) (f : Loam → Loam) => result x s .lm 1 (wd v) fun t => if clear then modLm t x.a f else t
  lmOp x s (decide (16 ≤ x.t.toNat) || decide (6 ≤ x.t.toNat % 8)) false <|
    match x.t.toNat % 8 with
    | 0 => out l.drops fun l => { l with drops := 0 }
    | 1 => out l.lates fun l => { l with lates := 0 }
    | 2 => out l.fires fun l => { l with fires := 0 }
    | 3 => out l.lost fun l => { l with lost := 0 }
    | 4 => out l.queue.length id
    | _ => out ((if l.running then 1 else 0) + 2 * l.modes.toNat + 2 ^ 16 * l.on.toNat) id

/-! ### The operations of `lm` as instructions -/

/-- R308: `lm.bank` as an instruction. -/
def execLmBank (m : Trig) (s : State) : Host.Outcome State Fault Refusal := execOne m opLmBank s
/-- R308: `lm.tick` as an instruction. -/
def execLmTick (m : Trig) (s : State) : Host.Outcome State Fault Refusal := execOne m opLmTick s
/-- R308: `lm.fan` as an instruction. -/
def execLmFan (m : Trig) (s : State) : Host.Outcome State Fault Refusal := execOne m opLmFan s
/-- R309: `lm.load` as an instruction. -/
def execLmLoad (m : Trig) (s : State) : Host.Outcome State Fault Refusal := execOne m opLmLoad s
/-- R309: `lm.store` as an instruction. -/
def execLmStore (m : Trig) (s : State) : Host.Outcome State Fault Refusal := execOne m opLmStore s
/-- R308: `lm.inject` as an instruction. -/
def execLmInject (m : Trig) (s : State) : Host.Outcome State Fault Refusal := execOne m opLmInject s
/-- R308: `lm.read` as an instruction. -/
def execLmRead (m : Trig) (s : State) : Host.Outcome State Fault Refusal := execOne m opLmRead s
/-- R308: `lm.write` as an instruction. -/
def execLmWrite (m : Trig) (s : State) : Host.Outcome State Fault Refusal := execOne m opLmWrite s
/-- R308: `lm.run` as an instruction. -/
def execLmRun (m : Trig) (s : State) : Host.Outcome State Fault Refusal := execOne m opLmRun s
/-- R308: `lm.stop` as an instruction. -/
def execLmStop (m : Trig) (s : State) : Host.Outcome State Fault Refusal := execOne m opLmStop s
/-- R308: `lm.drain` as an instruction. -/
def execLmDrain (m : Trig) (s : State) : Host.Outcome State Fault Refusal := execOne m opLmDrain s
/-- R308: `lm.tie` as an instruction. -/
def execLmTie (m : Trig) (s : State) : Host.Outcome State Fault Refusal := execOne m opLmTie s
/-- R310: `lm.stat` as an instruction. -/
def execLmStat (m : Trig) (s : State) : Host.Outcome State Fault Refusal := execOne m opLmStat s


end Sys2Proof.Machine
end

