-- ==== Sys2Proof/Machine/Sq.lean ====
section
/-! DEFINITION. The sequencer's operations (R181 to R196) and the end of a bundle's last cycle (R183, R188). -/

namespace Sys2Proof.Machine

/-! ### Code and scenes -/

/-- Overlay mode (R181). -/
def isOverlay (q : Seq) : Bool := q.imode == 1#2

/-- Tile offset of bundle `j` of the scene store (R162). -/
def sceneAddr (a j : Nat) : Nat := a * 2 ^ 21 + 0x190000 + 64 * j

/-- Bundles of a scene from its first bundle: up to and including the first with the scene-end bit, else to the end of the store
(R156). The header bit 59 is bit 3 of byte 7. -/
def sceneLenFrom (s : State) (a j : Nat) : Nat → Nat
  | 0 => 0
  | n + 1 => if (readRaw s (sceneAddr a j + 7)).getLsbD 3 then 1 else 1 + sceneLenFrom s a (j + 1) n

def sceneLen (s : State) (a first : Nat) : Nat := sceneLenFrom s a first (256 - first)

/-- Bundles that a macro index may name: 512 in overlay mode, the code length in cache mode (R182). -/
def codeLimit (b : Bank) : Nat :=
  if isOverlay b.q then 512 else match b.run with
    | some r => r.codeLen
    | none => 65536

/-- The cause of a branch to a target, if it lies outside the code or the scene (R156, R185). -/
def targetCause (s : State) (a : Nat) (t : Int) : Option Nat :=
  let b := bk s a
  match b.q.scene with
  | some f => if 0 ≤ t ∧ t < sceneLen s a f then none else some 0x21
  | none => if 0 ≤ t ∧ t < codeLimit b then none else some 0x25

/-- The index of the bundle in issue, micro in a scene (R185, R189). -/
def bIndex (q : Seq) : Nat := match q.scene with
  | some _ => q.mpc
  | none => q.pc.toNat

def addBranch (e : BrEntry) (a : Nat) (t : State) : State := modQ t a fun q => { q with newq := q.newq ++ [e] }

/-- A `brswap` waits in the branch queue: a second branch-class trigger gives 0x25 (R187). A bundle of a scene is none of its delay bundles
(R183). -/
def swapQueued (q : Seq) : Bool := q.scene.isNone && q.bq.any (·.swap)

/-- The lowest of the causes that apply. -/
def lowestCause (cs : List (Bool × Nat)) : Option Nat :=
  (cs.filterMap fun c => if c.1 then some c.2 else none).foldl (fun m c => match m with
    | some d => some (min c d)
    | none => some c) none

/-- The bundle in issue ends the scene that runs: a branch of its own would still be queued then (R192). -/
def endsScene (q : Seq) (hdr : BitVec 64) : Bool := q.scene.isSome && (header hdr).send

/-- A branch-class operation: it faults under one of `extra` or for its target, else its target joins the queue (R183 to R185, R192). -/
def branch (x : OpCtx) (s : State) (target : Int) (extra : List (Bool × Nat)) (k : State → OpOut) : OpOut :=
  match lowestCause (extra ++ [(swapQueued (bk s x.a).q, 0x25), (endsScene (bk s x.a).q s.cur.hdr, 0x21)] ++ (targetCause s x.a target).toList.map fun c => (true, c)) with
  | some c => .fault c none
  | none => k s

def br16 (t : Int) : BitVec 16 := BitVec.ofInt 16 t

def opSqBr : OpFn := fun x s =>
  let t : Int := (x.t.extractLsb' 0 16).toNat
  branch x s t [] fun s => effect x s .sq (addBranch ⟨br16 t, 2, false⟩ x.a)

def opSqBrr : OpFn := fun x s =>
  let t : Int := (bIndex (bk s x.a).q : Int) + (x.t.extractLsb' 0 16).toInt
  branch x s t [] fun s => effect x s .sq (addBranch ⟨br16 t, 2, false⟩ x.a)

/-- `call`, `callx` and `ret` in a scene give cause 0x25 whatever else they meet (R185). -/
def noCall (x : OpCtx) (s : State) (k : OpOut) : OpOut := if (bk s x.a).q.scene.isSome then .fault 0x25 none else k

/-- `q0` := b + 3, the call depth rises, the target is queued (R185). -/
def callGo (x : OpCtx) (s : State) (t : Int) : OpOut :=
  result x s .sq 1 (wd ((bk s x.a).q.pc.toNat + 3)) fun u =>
    addBranch ⟨br16 t, 2, false⟩ x.a (modQ u x.a fun q => { q with cdepth := q.cdepth + 1 })

def opSqCall : OpFn := fun x s =>
  let t : Int := (x.t.extractLsb' 0 16).toNat
  noCall x s <| branch x s t [((bk s x.a).q.cdepth == 255#8, 0x24)] fun s => callGo x s t

/-- `callx` proceeds only if the entry table holds the pair (R186). -/
def opSqCallx : OpFn := fun x s =>
  let t := (x.t.extractLsb' 0 16).toNat
  let cls := ((portW s x.a .sq 0).extractLsb' 0 8).toNat
  noCall x s <| branch x s t [((bk s x.a).q.cdepth == 255#8, 0x24), (!(bk s x.a).q.entries.contains (t, cls), 0x26)] fun s => callGo x s t

def opSqRet : OpFn := fun x s =>
  let t : Int := (x.t.extractLsb' 0 16).toNat
  let q := (bk s x.a).q
  noCall x s <| branch x s t [(q.cdepth == 0#8, 0x24)] fun s =>
    effect x s .sq fun u => addBranch ⟨br16 t, 2, false⟩ x.a (modQ u x.a fun q => { q with cdepth := q.cdepth - 1 })

/-- The bank-swap branch (R187). -/
def opSqBrswap : OpFn := fun x s =>
  let q := (bk s x.a).q
  match lowestCause [(!isOverlay q, 0x27), (x.t.extractLsb' 9 7 != 0#7, 0x25), (swapQueued q, 0x25)] with
  | some c => .fault c none
  | none => effect x s .sq (addBranch ⟨x.t.extractLsb' 0 16, 2, true⟩ x.a)

/-- A bundle whose header carries a loop-end level may not also change the loop stack (R188). -/
def markConflict (s : State) : Bool := (header s.cur.hdr).lend != 0

def opSqLoop : OpFn := fun x s =>
  let q := (bk s x.a).q
  let stop := (portW s x.a .sq 0).extractLsb' 0 16
  let next := stop.toNat + 1
  if q.depth ≥ 6 then .fault 0x22 none
  else if markConflict s then .fault7 0x23
  else if x.t = 0 then
    match q.scene with
    | some f => if next < sceneLen s x.a f then effect x s .sq fun u => modQ u x.a fun q => { q with after := .zeroTrip next :: q.after }
        else .fault 0x21 none
    | none => effect x s .sq fun u => modQ u x.a fun q => { q with after := .zeroTrip next :: q.after }
  else effect x s .sq fun u => modQ u x.a fun q =>
    { q with loops := kset {} q.loops q.depth { idx := 0, cnt := x.t, start := wd (bIndex q + 1), stop := stop, fixed := false },
             depth := q.depth + 1 }

/-- `lbrk` pops the innermost opened level and branches past its body (R190). A mark that names the popped level and falls in one
of the two delay bundles is ignored. In a scene, whose bundles carry no marks, the target is a micro one and must lie within the scene
(R156). DESIGN CHOICE (log 193): past a body that ends with the last bundle number, 0xFFFF, the target is bundle 0. -/
def opSqLbrk : OpFn := fun x s =>
  let q := (bk s x.a).q
  let l := loopOf q (q.depth - 1)
  if q.depth = 0 ∨ l.fixed then .fault 0x23 none
  else if markConflict s then .fault7 0x23
  else if q.scene.isSome && ((targetCause s x.a (l.stop.toNat + 1)).isSome || endsScene q s.cur.hdr) then .fault 0x21 none
  else effect x s .sq fun u => addBranch ⟨br16 (l.stop.toNat + 1), 2, false⟩ x.a (modQ u x.a fun q =>
    { q with depth := q.depth - 1, popped := if q.scene.isSome then q.popped else q.popped ++ [(q.depth - 1, 3)] })

/-- A field of a loop level, as `lidx` reads and writes it (R191). -/
def loopField (l : Loop) : Nat → Word
  | 0 => l.idx
  | 1 => l.cnt
  | 2 => l.start
  | _ => (0#15 ++ (if l.fixed then 1#1 else 0#1) ++ l.stop : BitVec 32)

/-- DESIGN CHOICE (log 169): a body start is written with 16 bits. -/
def setLoopField (l : Loop) (f : Nat) (v : Word) : Loop :=
  match f with
  | 0 => { l with idx := v }
  | 1 => { l with cnt := v }
  | 2 => { l with start := v &&& 0xFFFF#32 }
  | _ => { l with stop := v.extractLsb' 0 16, fixed := v.getLsbD 16 }

def opSqLidx : OpFn := fun x s =>
  let q := (bk s x.a).q
  let o := portW s x.a .sq 0
  let lv := (o.extractLsb' 0 3).toNat
  let f := (o.extractLsb' 4 2).toNat
  let sel := (o.extractLsb' 6 2).toNat
  let wr := o.getLsbD 8
  if lv ≥ 6 ∨ sel ≥ 2 ∨ (sel = 1 ∧ wr ∧ x.t.toNat > 6) then .fault 0x22 none
  else if wr && markConflict s then .fault7 0x23
  else
    let old := if sel = 1 then wd q.depth else if lv < q.depth then loopField (loopOf q lv) f else 0#32
    result x s .sq 1 old fun u =>
      if !wr then u
      else if sel = 1 then modQ u x.a fun q => { q with depth := x.t.toNat }
      else modQ u x.a fun q => { q with loops := kset {} q.loops lv (setLoopField (loopOf q lv) f x.t) }

/-- The scene call (R192). -/
def opSqScene : OpFn := fun x s =>
  let q := (bk s x.a).q
  if x.t.toNat ≥ 64 then .fault 0x21 none
  else match kget none q.scenes x.t.toNat with
  | none => .fault 0x21 none
  | some f => effect x s .sq fun u => modQ u x.a fun q => { q with after := .scene f :: q.after }

/-- `sq.trap`: its bundle issues, and the trap is taken after its hold cycles (R193). -/
def opSqTrap : OpFn := fun x s =>
  effect x s .sq fun u => modQ u x.a fun q => { q with after := .trap (0xC0 + x.t.toNat % 64) none x.slot :: q.after }

/-- A queue entry that `iret` would reload is legal (R194). -/
def brOk (macroQ inScene : Bool) (w : Word) : Bool :=
  match decBr w with
  | none => true
  | some e => (e.left == 1 || e.left == 2) && !(e.swap && (e.target.extractLsb' 9 7 != 0#7 || (inScene && !macroQ)))

def opSqIret : OpFn := fun x s =>
  let b := bk s x.a
  let sc := (b.q.xscenes.headD {}).scene
  let resumeBad := match sc with
    | some f => decide (sceneLen s x.a f ≤ b.c.xmpc.toNat)
    | none => decide (codeLimit b ≤ (b.c.xpc.extractLsb' 0 16).toNat)
  if !b.q.intrap || !(brOk sc.isNone sc.isSome b.c.xq0 && brOk sc.isNone sc.isSome b.c.xq1 && brOk true sc.isSome b.c.xqm0 &&
      brOk true sc.isSome b.c.xqm1) then .fault 0x2B none
  else if resumeBad then .fault (if sc.isSome then 0x21 else 0x25) none
  else effect x s .sq fun u => modQ u x.a fun q => { q with after := .iret :: q.after }

/-- Stores of the tile to its instruction-memory image or scene store that are not yet performed (R195). -/
def codeStores (s : State) (a : Nat) : Bool :=
  (ag s a).outs.any fun o => o.store && !o.put && o.home == a && decide (0x180000 ≤ addrOff o.addr) && decide (addrOff o.addr < 0x194000)

def opSqIfence : OpFn := fun x s =>
  if codeStores s x.a then .hold .lock
  else effect x s .sq fun u => modQ u x.a fun q => { q with lines := [], after := .ifence :: q.after }

def opSqHalt : OpFn := fun x s =>
  effect x s .sq fun u => modQ u x.a fun q => { q with after := .halt :: q.after }

/-! ### The operations of `sq` as instructions -/

/-- R185: `sq.br` as an instruction. -/
def execSqBr (m : Trig) (s : State) : Host.Outcome State Fault Refusal := execOne m opSqBr s
/-- R185: `sq.brr` as an instruction. -/
def execSqBrr (m : Trig) (s : State) : Host.Outcome State Fault Refusal := execOne m opSqBrr s
/-- R185: `sq.call` as an instruction. -/
def execSqCall (m : Trig) (s : State) : Host.Outcome State Fault Refusal := execOne m opSqCall s
/-- R186: `sq.callx` as an instruction. -/
def execSqCallx (m : Trig) (s : State) : Host.Outcome State Fault Refusal := execOne m opSqCallx s
/-- R185: `sq.ret` as an instruction. -/
def execSqRet (m : Trig) (s : State) : Host.Outcome State Fault Refusal := execOne m opSqRet s
/-- R189: `sq.loop` as an instruction. -/
def execSqLoop (m : Trig) (s : State) : Host.Outcome State Fault Refusal := execOne m opSqLoop s
/-- R190: `sq.lbrk` as an instruction. -/
def execSqLbrk (m : Trig) (s : State) : Host.Outcome State Fault Refusal := execOne m opSqLbrk s
/-- R191: `sq.lidx` as an instruction. -/
def execSqLidx (m : Trig) (s : State) : Host.Outcome State Fault Refusal := execOne m opSqLidx s
/-- R192: `sq.scene` as an instruction. -/
def execSqScene (m : Trig) (s : State) : Host.Outcome State Fault Refusal := execOne m opSqScene s
/-- R193: `sq.trap` as an instruction. -/
def execSqTrap (m : Trig) (s : State) : Host.Outcome State Fault Refusal := execOne m opSqTrap s
/-- R194: `sq.iret` as an instruction. -/
def execSqIret (m : Trig) (s : State) : Host.Outcome State Fault Refusal := execOne m opSqIret s
/-- R195: `sq.ifence` as an instruction. -/
def execSqIfence (m : Trig) (s : State) : Host.Outcome State Fault Refusal := execOne m opSqIfence s
/-- R187: `sq.brswap` as an instruction. -/
def execSqBrswap (m : Trig) (s : State) : Host.Outcome State Fault Refusal := execOne m opSqBrswap s
/-- R196: `sq.halt` as an instruction. -/
def execSqHalt (m : Trig) (s : State) : Host.Outcome State Fault Refusal := execOne m opSqHalt s

end Sys2Proof.Machine
end

