-- ==== Sys2Proof/Machine/Csr.lean ====
section
/-! DEFINITION. The control registers that `sy.csrr` and `sy.csrw` reach (R5, R148, R181, R206, R231, R285, R292, R320, R321). -/

namespace Sys2Proof.Machine

/-- The value of `iseq` (R181). -/
def iseqVal (q : Seq) : Word :=
  q.cdepth ++ 0#14 ++ (if q.intrap then 1#1 else 0#1) ++ (if q.half then 1#1 else 0#1) ++ 0#6 ++ q.imode

/-- The bits of a handle's word that are not reserved: all but [62:58] of the handle (R206). -/
def handleMask (w : Nat) : Word := if w = 1 then 0x83FFFFFF#32 else 0xFFFFFFFF#32

/-- A word of a handle as a CSR (R320); its reserved bits read as zero (R2). -/
def handleWord (h : BitVec 128) (w : Nat) : Word := h.extractLsb' (32 * w) 32 &&& handleMask w

/-- A handle with one word replaced; reserved bits stay zero (R2). -/
def putHandleWord (h : BitVec 128) (w : Nat) (v : Word) : BitVec 128 :=
  (h &&& ~~~((0xFFFFFFFF#32).setWidth 128 <<< (32 * w))) ||| ((v &&& handleMask w).setWidth 128 <<< (32 * w))

/-- The value of a control register; none for a reserved number (R320). -/
def csrRead (s : State) (a n : Nat) : Option Word :=
  let b := bk s a
  let c := b.c
  match n with
  | 0x000 => some (c.fumode.setWidth 32)
  | 0x001 => some (iseqVal b.q)
  | 0x002 => some c.mxcfg
  | 0x003 => some c.ntpkg
  | 0x004 => some c.chsw
  | 0x005 => some c.chdc
  | 0x008 => some (c.tvec.setWidth 32)
  | 0x009 => some (c.ien.setWidth 32)
  | 0x00A => some (c.ipend.setWidth 32)
  | 0x00B => some c.gtcmplo
  | 0x00C => some c.gtcmphi
  | 0x00D => some (c.imsg.setWidth 32)
  | 0x010 => some (c.xcause.setWidth 32)
  | 0x011 => some (c.xpc.setWidth 32)
  | 0x012 => some (c.xmpc.setWidth 32)
  | 0x013 => some (c.xslot.setWidth 32)
  | 0x014 => some c.xgtlo
  | 0x015 => some c.xgthi
  | 0x016 => some c.xq0
  | 0x017 => some c.xq1
  | 0x018 => some (c.xfpc.setWidth 32)
  | 0x019 => some c.xaddr
  | 0x01A => some c.xqm0
  | 0x01B => some c.xqm1
  | 0x020 => some c.act
  | n =>
    if 0x030 ≤ n ∧ n < 0x040 then some (pairWord s a ((n - 0x030) / 2) (n % 2))
    else if 0x040 ≤ n ∧ n < 0x080 then some (handleWord (hReg s a ((n - 0x040) / 4)) (n % 4)) else none

/-- The bits of a queue entry (R321). -/
def xqMask : Word := 0x8007FFFF#32

/-- Both images of a pair entry lie in the data banks and do not overlap (R292). -/
def pairOk (w0 w1 : Word) : Bool :=
  let n := (w0.extractLsb' 0 14).toNat * 64
  let v := (w1.extractLsb' 0 15).toNat * 64
  let b := (w1.extractLsb' 15 15).toNat * 64
  decide (0 < n) && decide (v + n ≤ 0x180000) && decide (b + n ≤ 0x180000) && (decide (v + n ≤ b) || decide (b + n ≤ v))

/-- A write of a word of a pair entry: ignored while the entry is valid, unless it clears `valid`; an entry that breaks R292 is not
made valid; `swapped` is read-only. -/
def writePair (s : State) (a i w : Nat) (v : Word) : State :=
  let w0 := pairWord s a i 0
  let w1 := pairWord s a i 1
  let put := fun (s : State) (w : Nat) (v : Word) => { s with pairs := kset 0 s.pairs (16 * a + 2 * i + w) v }
  let keep := w0 &&& 0x4000#32
  if w = 0 then
    if w0.getLsbD 15 && v.getLsbD 15 then s
    else
      let nv := (v &&& 0xFFFFBFFF#32) ||| keep
      let nv := if !v.getLsbD 15 then nv &&& 0xFFFFBFFF#32 else nv
      put s 0 (if v.getLsbD 15 && !pairOk nv w1 then nv &&& 0xFFFF7FFF#32 else nv)
  else if w0.getLsbD 15 then s else put s 1 (v &&& 0x3FFFFFFF#32)

/-- The write of a control register under its access codes (R5, R320, R321); none for a reserved number. -/
def csrWrite (s : State) (a n : Nat) (v : Word) : Option State :=
  match n with
  | 0x000 => some (modC s a fun c => { c with fumode := v.extractLsb' 0 12 &&& fumodeMask a })
  | 0x001 => some (modQ s a fun q => { q with cdepth := v.extractLsb' 24 8 })
  | 0x002 => some s
  | 0x003 => some (modC s a fun c => { c with ntpkg := v &&& 0x83FF#32 })
  | 0x004 => some (modC s a fun c => { c with chsw := v &&& 0xFFFFFFF0#32 })
  | 0x005 => some (modC s a fun c => { c with chdc := v &&& 0xFFFF#32 })
  | 0x008 => some (modC s a fun c => { c with tvec := v.extractLsb' 0 17 })
  | 0x009 => some (modC s a fun c => { c with ien := v.extractLsb' 0 2 })
  | 0x00A =>
    let s := modC s a fun c => { c with ipend := c.ipend &&& ~~~(v.extractLsb' 0 4) }
    some (if v.getLsbD 0 && (bk s a).c.armed then sched s (s.now + 1) priBegin .gtComparePend (.at a) else s)
  | 0x00B =>
    let s := modC s a fun c => { c with gtcmplo := v, armed := true }
    let g := (bk s a).c.gtcmphi.toNat * 2 ^ 32 + v.toNat
    some (sched s (max (s.now + 1) (cycleOf s g)) priBegin .gtComparePend (.at a))
  | 0x00C => some (modC s a fun c => { c with gtcmphi := v, armed := false })
  | 0x00D => some (modC s a fun c => { c with imsg := v.extractLsb' 0 5 })
  | 0x010 => some (modC s a fun c => { c with xcause := v.extractLsb' 0 8 })
  | 0x011 => some (modC s a fun c => { c with xpc := v.extractLsb' 0 17 })
  | 0x012 => some (modC s a fun c => { c with xmpc := v.extractLsb' 0 8 })
  | 0x013 => some (modC s a fun c => { c with xslot := v.extractLsb' 0 3 })
  | 0x014 => some (modC s a fun c => { c with xgtlo := v })
  | 0x015 => some (modC s a fun c => { c with xgthi := v })
  | 0x016 => some (modC s a fun c => { c with xq0 := v &&& xqMask })
  | 0x017 => some (modC s a fun c => { c with xq1 := v &&& xqMask })
  | 0x018 => some (modC s a fun c => { c with xfpc := v.extractLsb' 0 17 })
  | 0x019 => some (modC s a fun c => { c with xaddr := v })
  | 0x01A => some (modC s a fun c => { c with xqm0 := v &&& xqMask })
  | 0x01B => some (modC s a fun c => { c with xqm1 := v &&& xqMask })
  | 0x020 => some s
  | n =>
    if 0x030 ≤ n ∧ n < 0x040 then some (writePair s a ((n - 0x030) / 2) (n % 2) v)
    else if 0x040 ≤ n ∧ n < 0x080 then
      some (setH s a ((n - 0x040) / 4) (putHandleWord (hReg s a ((n - 0x040) / 4)) (n % 4) v))
    else none

/-! ### Socket images (R317) -/

/-- The codes of a socket's narrow and broad operand ports, and of its latches. -/
def narrowPorts (u : Sock) : List Nat := (List.range (sockPorts u)).filter fun c => !portBroad u c
def broadPorts (u : Sock) : List Nat := (List.range (sockPorts u)).filter (portBroad u)
def latchCodes (u : Sock) : List Nat := [0x20, 0x21].filter (latchExists u)

/-- A number padded to a multiple of 64 bytes: what a part of `n` bytes takes. -/
def pad64 (n : Nat) : Nat := (n + 63) / 64 * 64

/-- Parts laid one after the other: (value, bytes). -/
def layParts : List (Nat × Nat) → Nat
  | [] => 0
  | (v, n) :: ps => v % 256 ^ n + 256 ^ n * layParts ps

def wordsAt (l : List Nat) : Nat := layParts (l.map fun v => (v, 4))

def latchBytes (u : Sock) (c : Nat) : Nat := if latchBroad u c then 256 else 4

def underOf (x : Xport) (u : Sock) (c : Nat) : Under := kget {} x.under (pk u c)

/-- The parts of a socket image. -/
def imageParts (x : Xport) (u : Sock) : List (Nat × Nat) :=
  let ls := latchCodes u
  let head := layParts ((sockPorts u, 1) :: (ls.length, 1) :: (0, 2) ::
    ls.map fun c => ((underOf x u c).entries.length + (if (underOf x u c).held.full then 128 else 0), 1))
  (head, 64) ::
  (ls.map fun c => (layParts ((underOf x u c).entries.map fun e => (e.age, 2)), 64)) ++
  [(wordsAt ((narrowPorts u).map fun c => (kget 0 x.kept (pk u c)).toNat % 2 ^ 32), pad64 (4 * (narrowPorts u).length))] ++
  ((broadPorts u).map fun c => ((kget 0 x.kept (pk u c)).toNat, 256)) ++
  (ls.map fun c =>
    let vs := (underOf x u c).held.val.toNat :: (underOf x u c).entries.map fun e => e.val.toNat
    (layParts (vs.map fun v => (v, latchBytes u c)), pad64 (latchBytes u c * vs.length)))

def imageSize (x : Xport) (u : Sock) : Nat := ((imageParts x u).map (·.2)).foldl (· + ·) 0

def imageVal (x : Xport) (u : Sock) : Nat := layParts (imageParts x u)

/-- Entry counts and full bits in an image's head. -/
def imageCount (v i : Nat) : Nat := fld v (4 + i) 1 % 64

/-- Size of an image by its head (R317). -/
def imageLen (v : Nat) (u : Sock) : Nat :=
  64 + 64 * (latchCodes u).length + pad64 (4 * (narrowPorts u).length) + 256 * (broadPorts u).length +
    ((latchCodes u).zipIdx.map fun c => pad64 (latchBytes u c.1 * (imageCount v c.2 + 1))).foldl (· + ·) 0

/-- Ages rise, and unused ones are zero. -/
def agesOk (blk n : Nat) : Bool :=
  blk / 256 ^ (2 * n) == 0 && (List.range (n - 1)).all fun i => decide (fld blk (2 * i) 2 ≤ fld blk (2 * i + 2) 2)

/-- An image is well formed for its socket (R317). -/
def imageOk (v : Nat) (u : Sock) : Bool :=
  let k := (latchCodes u).length
  fld v 0 1 == sockPorts u && fld v 1 1 == k && fld v 2 2 == 0 && fld v (4 + k) (60 - k) == 0 &&
    (List.range k).all fun i => decide (imageCount v i ≤ 32) && fld v (4 + i) 1 / 64 % 2 == 0 && agesOk (fld v (64 + 64 * i) 64) (imageCount v i)

/-- Byte offset of a latch's values in an image. -/
def latchOff (v : Nat) (u : Sock) (i : Nat) : Nat :=
  64 + 64 * (latchCodes u).length + pad64 (4 * (narrowPorts u).length) + 256 * (broadPorts u).length +
    (((latchCodes u).zipIdx.take i).map fun c => pad64 (latchBytes u c.1 * (imageCount v c.2 + 1))).foldl (· + ·) 0

/-- The understudies of a socket as an image gives them; the entries take the pipeline mode of `locked` (R317). -/
def restoreImage (x : Xport) (u : Sock) (v : Nat) (locked : Bool) : Xport :=
  let po := 64 + 64 * (latchCodes u).length
  let bo := po + pad64 (4 * (narrowPorts u).length)
  let kept := (narrowPorts u).zipIdx.foldl (fun m c => kset 0 m (pk u c.1) (BitVec.ofNat 2048 (fld v (po + 4 * c.2) 4))) x.kept
  let kept := (broadPorts u).zipIdx.foldl (fun m c => kset 0 m (pk u c.1) (BitVec.ofNat 2048 (fld v (bo + 256 * c.2) 256))) kept
  let under := (latchCodes u).zipIdx.foldl (fun m c =>
    let n := latchBytes u c.1
    let at_ := latchOff v u c.2
    kset {} m (pk u c.1)
      { held := { val := BitVec.ofNat 2048 (fld v at_ n), full := fld v (4 + c.2) 1 / 128 = 1 }
        entries := (List.range (imageCount v c.2)).map fun j =>
          ⟨BitVec.ofNat 2048 (fld v (at_ + n * (j + 1)) n), fld v (64 + 64 * c.2 + 2 * j) 2, locked⟩ }) x.under
  { x with kept := kept, under := under, captured := true, saved := x.saved &&& ~~~(1#12 <<< u.id) }

end Sys2Proof.Machine
end

