-- ==== Sys2Proof/Machine/Curtain.lean ====
section
/-! DEFINITION. Curtains (R49 to R51, R315, R419): arrival, close and release, and the gang switch that a curtain may bring. -/

namespace Sys2Proof.Machine

/-- Cycles from a curtain's close to its release (R50). -/
def curtainDelta (scope : Nat) : Nat := match scope with
  | 1 => 4 | 2 => 64 | 3 => 192 | _ => 4096

/-- Tiles of a launch's placement (R32). -/
def placement (l : Launch) : List Nat :=
  let d := fld l.pkt 3 1
  ((List.range 4).filter fun i => d / 2 ^ i % 2 = 1).flatMap fun die =>
    (List.range (fld l.pkt 6 1)).flatMap fun r => (List.range (fld l.pkt 7 1)).map fun c =>
      die * 512 + (fld l.pkt 4 1 + r) * 32 + fld l.pkt 5 1 + c

/-- The part of a scope in which a tile stands: its cluster or die; 0 beyond. -/
def scopePart (scope t : Nat) : Nat := match scope with
  | 1 => tileCluster t
  | 2 => tileDie t
  | _ => 0

/-- The participants of a curtain (R315). -/
def participants (l : Launch) (scope part : Nat) : List Nat := (placement l).filter fun t => scopePart scope t == part

/-- A bank's step belongs to the launch. -/
def bankOf (l : Launch) (b : Bank) : Bool := b.run.any fun r => r.key.pos == l.pos && !r.key.task

/-- Every booked copy that the tile issued is complete: none of a step in either bank is on its way while that step is booked (R49). -/
def bookedCopiesDone (s : State) (a : Nat) : Bool :=
  let e := cceOf s (engineOf a)
  ([(ag s a).front, (ag s a).wings].filterMap (·.run)).all fun r =>
    (runBooking s r).isNone || (!((copiesOf e).any fun c => c.req.agent == a && c.req.step == r.key) && !(e.pend.any fun q => q.agent == a && q.step == r.key))

/-- Nothing that a bank's step has triggered is in flight, results of an interrupted step among it (R49). -/
def bankLanded (b : Bank) : Bool := b.x.flights.isEmpty && (b.x.under.all fun e => e.2.entries.isEmpty) && b.x.pends.isEmpty

/-- The Silt queue holds no event whose time precedes its bank's tick at GT `tc` (R49, R300). -/
def queueServed (l : Loam) (tc : Nat) : Bool := l.queue.all fun e => !precedes (evTime e.word) (tc / 2 ^ (lmBank l (evBank e.word)).tlog)

/-- The arrival conditions (R49, R315): everything that the tile has triggered has landed, results of an interrupted step and of a step in wings among
it, its locks are granted or released and its words armed; its channels are empty and no packet of it is on its way or stands refused, its booked copies
and its matrix commands complete, its Silt queue served up to Tc, and its earlier stores within the scope performed. -/
def mayArrive (s : State) (a : Nat) (c : Curtain) : Bool :=
  let g := ag s a
  bankLanded g.front && bankLanded g.wings && g.nest.isNone && g.acqs.isEmpty &&
    bookedCopiesDone s a && queueServed g.front.lm c.tc && (g.chans.all fun ch => ch.2.pkts.isEmpty && ch.2.refused.isEmpty) &&
    (s.agenda.all fun e => entrySender e != some a) && (s.mx.all fun m => m.2.q.all fun c => c.agent != a) &&
    (g.outs.all fun o => (o.store || o.put) && !inScope a o.home c.scope)

/-- A deferred cause 0x35 for every participant (R315). -/
def curtainMisuse (s : State) (ts : List Nat) : State :=
  ts.foldl (fun s t => deferFault s t { cause := 0x35, addr := 0, org := orgOf s t 7, id := 0 } (s.now + 1)) s

/-- The launch of which a tile has an arrival on its way. -/
def arriving (s : State) (a : Nat) : Option Launch := s.launches.find? fun l => l.arrivals.any fun x => x.tile == a && !x.atPoint

/-- A switch by deadline is under way: curtains of its slot that have not closed do not close before its next residence (R420). -/
def deadlineCut (s : State) (slot : Nat) : Bool :=
  decide (3 ≤ regF s 0x7118 2 0) && regF s 0x7118 17 16 == 2 && s.switch.out == slot && (regF s 0x7118 2 0 == 3 || ctxState s slot != 3)

/-- An arrival reaches the combining point, whatever has become of its step since; the last one closes the curtain at the later of Tc and its cycle (R50).
Participants that declared the act otherwise all take cause 0x35 (R315). -/
def curtainArrive (s : State) (a : Nat) : State :=
  match arriving s a with
  | none => s
  | some l => match l.arrivals.find? fun x => x.tile == a with
    | none => s
    | some c =>
      if deadlineCut s l.slot then s
      else
        let s := modLaunch s l.id fun l => { l with arrivals := l.arrivals.map fun x => if x.tile = a then { x with atPoint := true } else x }
        let part := scopePart c.scope a
        let ps := participants l c.scope part
        let came := fun (t : Nat) => l.arrivals.find? fun x => x.tile == t && x.act == c.act && (x.atPoint || t == a)
        if !(ps.all fun t => (came t).isSome) then s
        else if ps.all fun t => (came t).any fun d => d.scope == c.scope && d.tc == c.tc then
          sched s (max s.now (cycleOf s c.tc)) priEngine .curtainClose (.curtain ⟨l.id, c.act, c.scope, part⟩)
        else curtainMisuse s ps

/-- R49: an arrival reaches the combining point. -/
def execCurtainArrive (s : State) : Host.Outcome State Fault Refusal :=
  match s.occ with
  | .at a => .next (curtainArrive s a)
  | _ => .refused (.noOccasion "CURTAIN_ARRIVE")

/-- The gang switch order waits for a curtain of this slot, closing in this cycle, and none has come before it (R419). -/
def switchAt (s : State) (slot scope : Nat) : Bool :=
  scope == 4 && regF s 0x7118 2 0 == 2 && s.switch.out == slot && s.switch.atCurtain.isNone && decide (s.switch.t ≤ gtOf s) &&
    decide (gtOf s < s.switch.d)

/-- A curtain closes in this cycle, and releases Δ cycles later (R50); a gang switch may take effect there (R419). -/
def curtainClose (s : State) (k : CurtainKey) : State :=
  match launchOf s k.launch with
  | none => s
  | some l =>
    let sw := switchAt s l.slot k.scope
    let s := if sw then { s with switch := { s.switch with atCurtain := some k } } else s
    sched s (s.now + curtainDelta k.scope) priBegin .curtainRelease (.curtain k)

/-- R50: a curtain closes. -/
def execCurtainClose (s : State) : Host.Outcome State Fault Refusal :=
  match s.occ with
  | .curtain k => .next (curtainClose s k)
  | _ => .refused (.noOccasion "CURTAIN_CLOSE")

/-- The act count that a release leaves (R50, R315). -/
def actAfter (l : Launch) (t : Nat) : Word := wd (kget 0 l.acts t + 1)

/-- A wait for a curtain, with the mode of its result. -/
def curtainWait : Wait → Option Bool
  | .curtain l => some l
  | _ => none

/-- `sy.cwait` completes: its result lands in the cycle `due`, in the mode that it took as it issued (R148), and the declared curtain is used (R315). -/
def endCwait (s : State) (a : Nat) (act : Word) (due : Nat) (locked : Bool) : State :=
  let s := flyMode s a .sy 0x20 0 (some due) (rowOf act) locked
  modBk s a fun b => { b with wait := if (curtainWait b.wait).isSome then .none else b.wait, curtain := b.curtainNext, curtainNext := none }

/-- What a release leaves in a bank of the launch: the act count, and a curtain at which its step has arrived is released. -/
def releaseBank (l : Launch) (act : Word) (b : Bank) : Bank :=
  if bankOf l b then { b with c := { b.c with act := act }, curtain := b.curtain.map fun c => { c with released := c.released || c.arrived } } else b

/-- The release at one participant: its act count advances, and a tile that waits at `sy.cwait` goes on. -/
def releaseTile (l : Launch) (s : State) (t : Nat) : State :=
  let act := actAfter l t
  let s := modLaunch s l.id fun l => { l with acts := kset 0 l.acts t act.toNat, arrivals := l.arrivals.filter fun x => x.tile ≠ t }
  let s := modAg s t fun g => { g with front := releaseBank l act g.front, wings := releaseBank l act g.wings }
  match curtainWait (bk s t).wait with
  | some m => if bankOf l (bk s t) then endCwait s t act s.now m else s
  | none => s

/-- At C + Δ every participant goes on, and its act count advances (R50). Open order records of the context are written out (R117). -/
def curtainRelease (s : State) (k : CurtainKey) : State :=
  match launchOf s k.launch with
  | none => s
  | some l =>
    let ps := participants l k.scope k.part
    let s := flushAll (ps.foldl (releaseTile l) s) l.slot
    if s.switch.atCurtain = some k then
      -- the switch begins: the release counts as an iteration boundary (R419)
      let s := ps.foldl (fun s t => modC (modRun s t fun r => { r with atBoundary := true, iterStart := s.now }) t fun c =>
        { c with ipend := c.ipend ||| 8#4 }) s
      let s := { setReg s 0x7120 (BitVec.ofNat 64 (gtOf s)) with switch := { s.switch with atCurtain := none } }
      let s := setRegF (setRegF s 0x7118 17 16 1) 0x7118 2 0 3
      sched s s.now priBegin .ctxPreempt (.at l.slot)
    else s

/-- R50: a curtain releases its participants. -/
def execCurtainRelease (s : State) : Host.Outcome State Fault Refusal :=
  match s.occ with
  | .curtain k => .next (curtainRelease s k)
  | _ => .refused (.noOccasion "CURTAIN_RELEASE")

end Sys2Proof.Machine
end

