-- ==== Sys2Proof/Machine/Sy.lean ====
section
/-! DEFINITION. The operations of the `sy` socket (R314 to R319). -/

namespace Sys2Proof.Machine

/-- An operation whose trigger value must be zero in the bits above `n` (R314). -/
def syField (x : OpCtx) (n : Nat) (k : OpOut) : OpOut := if x.t.toNat < 2 ^ n then k else .fault 0x2C none

/-- An operation that an earlier one of the socket, or a full latch pipeline, holds (R147). -/
def syEffect (x : OpCtx) (s : State) (k : State → State) : OpOut := effect x s .sy k

def opSyCsrr : OpFn := fun x s => syField x 12 <|
  match csrRead s x.a x.t.toNat with
  | none => .fault 0x2C none
  | some v => result x s .sy 1 v

/-- `csrw` takes effect at the end of the issue cycle. -/
def opSyCsrw : OpFn := fun x s => syField x 12 <|
  let v := portW s x.a .sy 0
  match csrWrite s x.a x.t.toNat v with
  | none => .fault 0x2C none
  | some _ => if sockHeld s x.a .sy then .hold .lock else .late fun t => (csrWrite t x.a x.t.toNat v).getD t

def opSyGtime : OpFn := fun x s => syField x 0 <|
  result2 x s .sy 1 (wd (gtOf s)) (wd (gtOf s / 2 ^ 32))

def opSyWaitgt : OpFn := fun x s =>
  let g := x.t.toNat * 2 ^ 32 + (portW s x.a .sy 0).toNat
  syEffect x s fun t => modBk t x.a fun b => { b with wait := .gt g }

/-- The GT nearest the present that has the low word given (R315); GT is never negative. -/
def nearestGt (gt lo : Nat) : Nat :=
  let base := gt / 2 ^ 32 * 2 ^ 32 + lo
  if base + 2 ^ 31 < gt then base + 2 ^ 32 else if gt + 2 ^ 31 < base ∧ 2 ^ 32 ≤ base then base - 2 ^ 32 else base

/-- `sy.curtain` declares the tile's next curtain (R315). -/
def opSyCurtain : OpFn := fun x s =>
  let sc := x.t.toNat % 8
  syField x 3 <|
  if sc = 0 then .fault 0x35 none
  else if 4 < sc then .fault 0x48 none
  else
    let c : Curtain := { scope := sc, tc := nearestGt (gtOf s) (portW s x.a .sy 0).toNat }
    syEffect x s fun t => modBk t x.a fun b => match b.curtain with
      | some d => if d.arrived then { b with curtainNext := some c } else { b with curtain := some c }
      | none => { b with curtain := some c }

/-- The launch of the agent's step; a task has none. -/
def ownLaunch (s : State) (a : Nat) : Option Launch := (bk s a).run.bind fun r => if r.key.task then none else launchAt s r.key.pos

/-- `sy.carrive` holds until the tile may arrive, and arrives (R49, R315). -/
def opSyCarrive : OpFn := fun x s => syField x 0 <|
  match (bk s x.a).curtain with
  | none => .fault 0x35 none
  | some c =>
    if c.arrived then .fault 0x35 none
    else if !mayArrive s x.a c then .hold .curtain
    else syEffect x s fun t =>
      let d := if c.scope = 1 then (0, t) else freeDelay t
      let u := modBk d.2 x.a fun b => { b with curtain := b.curtain.map fun c => { c with arrived := true } }
      let u := (ownLaunch t x.a).elim u fun l => modLaunch u l.id fun l => { l with arrivals :=
        { tile := x.a, act := kget 0 l.acts x.a, scope := c.scope, tc := c.tc } :: l.arrivals.filter fun y => y.tile ≠ x.a }
      sched u (t.now + 1 + d.1) priEngine .curtainArrive (.at x.a)

/-- `sy.cwait` holds until the release (R315). -/
def opSyCwait : OpFn := fun x s => syField x 0 <|
  match (bk s x.a).curtain with
  | none => .fault 0x35 none
  | some c =>
    if !c.arrived then .fault 0x35 none
    else if decide (32 ≤ inFlight s x.a .sy 0x20) then .hold .lock
    else syEffect x s fun t =>
      if c.released then endCwait t x.a (bk t x.a).c.act (t.now + 1) (lockedMode t x.a .sy)
      else modBk t x.a fun b => { b with wait := .curtain (lockedMode t x.a .sy) }

def opSyFumode : OpFn := fun x s => syField x 12 <|
  if sockHeld s x.a .sy then .hold .lock
  else .late fun t => modC t x.a fun c => { c with fumode := x.t.extractLsb' 0 12 &&& fumodeMask x.a }

/-- `sy.pbmark` is a value event of type 0x03; a divergence faults the step (R118, R314). -/
def opSyPbmark : OpFn := fun x s =>
  let m := pbOf s x.a
  if m = 0 ∨ m = 3 then syEffect x s id
  else match valueEvent s (slotOf s x.a) m x.a (nextOrdinal s x.a (slotOf s x.a)) 0x03 0 (objAgent x.a) x.t.toNat with
    | .wait _ => .hold .log
    | .diverge c q => syEffect x s fun t =>
        deferFault (diverged (countValue t (slotOf t x.a) m x.a) (slotOf t x.a) x.a ⟨0x03, objAgent x.a⟩ c q) x.a
          { cause := c, addr := 0, org := orgOf t x.a x.slot, id := 0 } (t.now + 1)
    | .go k => syEffect x s fun t => countValue (k t) (slotOf t x.a) m x.a

/-- A trap after the bundle's hold cycles. -/
def trapLater (x : OpCtx) (cause : Nat) (addr : Option Word) (t : State) : State :=
  modQ t x.a fun q => { q with after := .trap cause addr x.slot :: q.after }

def opSyEcall : OpFn := fun x s => syEffect x s (trapLater x 0x14 (some x.t))

/-- Nothing of the step is in flight or incomplete (R318). -/
def allLanded (s : State) (a : Nat) : Bool :=
  (bk s a).x.flights.isEmpty && (bk s a).x.pends.isEmpty && (ag s a).nest.isNone && (match (bk s a).run with
    | some r => !stepUnlanded s a r.key
    | none => true)

/-- `sy.yield` (R318). -/
def opSyYield : OpFn := fun x s => syField x 0 <|
  let b := bk s x.a
  if !b.q.intrap || b.c.xcause != 0x11#8 then .fault 0x36 none
  else if !allLanded s x.a then .hold .lock
  else syEffect x s fun t => modQ t x.a fun q => { q with after := .yield :: q.after }

/-- The debug block of a cluster (R394). -/
def dbgReg (g off : Nat) : Nat := 0x200000 + 0x100 * g + off

/-- `sy.brk` halts an armed cluster, and else traps (R314, R394, R397). -/
def opSyBrk : OpFn := fun x s => syField x 0 <|
  let g := tileCluster x.a
  if isTile x.a && (reg s (dbgReg g 0)).getLsbD 0 then syEffect x s fun t => sched t t.now priEnd .dbgHalt (.at2 g 1)
  else syEffect x s (trapLater x 0x15 (some x.t))

/-- The socket that `usr` or `usw` names. -/
def namedSocket (x : OpCtx) : Option Sock :=
  if 2 ^ 6 ≤ x.t.toNat then none
  else match sockOfId x.t.toNat with
    | some u => if (sockets x.a).contains u then some u else none
    | none => none

/-- `sy.usr` (R317). -/
def opSyUsr : OpFn := fun x s =>
  match namedSocket x with
  | none => .fault 0x2C none
  | some u =>
    let addr := (portW s x.a .sy 0).toNat
    let n := imageSize (bk s x.a).x u
    match addrCause x.a addr n 64 true with
    | some c => .fault c (some (wd addr))
    | none =>
      if ((bk s x.a).x.flights.any fun f => f.pre && f.u == u) || accessHeld s x.a 0 then .hold .lock
      else syEffect x s fun t =>
        let v := imageVal (bk t x.a).x u
        let i := t.seq
        let t := storeChunks t x addr n v
        let t := modX t x.a fun y => { y with saved := y.saved ||| (1#12 <<< u.id) }
        modBk t x.a fun b => { b with wait := .stores i t.seq none }

/-- The image of `sy.usw` is read, and its socket restored, or a fault sets out and nothing is (R317). The tile holds while its lines come, one a cycle. -/
def readImage (s : State) (a : Nat) (u : Sock) (addr : Nat) (org : Org) : State :=
  let n := imageLen (loadN s addr 64) u
  let s := if isBooked s a then opUses s a 0 (lineUses s.now (byteLines addr n)) else s
  let s := modBk s a fun b => { b with wait := .usr (s.now + max 1 (n / 64) + ((pathCycles s a (.sram addr)).1 - 4)) }
  let late := fun (c : Nat) => deferFault s a { cause := c, addr := addr, org := org, id := 0 } (s.now + 1)
  if !inData addr n then late 0x20
  else
  let s := meetLoc s (.sram addr) n
  match locCause s (slotOf s a) (.sram addr) n true with
    | some c => late c
    | none =>
      let v := loadN s addr n
      if imageOk v u then modX s a fun y => restoreImage y u v (lockedMode s a u) else late 0x20

/-- A wait of the agent goes on by a cycle: where the stores that it waits for are performed, or the bank that it waits for has ended its pass, it ends
with this cycle and its result lands in the next, and an image that has come within reach is read (R308, R309, R317). -/
def waitTurn (s : State) (a : Nat) : State :=
  match (bk s a).wait with
  | .stores lo hi res =>
    if (ag s a).outs.any fun o => decide (lo ≤ o.id) && decide (o.id < hi) then s
    else modBk (res.elim s fun v => flyMode s a .lm 0x20 0 (some (s.now + 1)) (rowOf v.1) v.2) a fun b => { b with wait := .usr (s.now + 1) }
  | .drain b τ locked =>
    if drained (lmOf s a) b τ then
      modBk (flyMode s a .lm 0x20 0 (some (s.now + 1)) (rowOf (wd (lmOf s a).queue.length)) locked) a fun b => { b with wait := .usr (s.now + 1) }
    else s
  | .image u addr at_ org =>
    if s.now < at_ then s
    else
      let rid := ridTile 4 (addrTile addr) (addrBank addr)
      if useHeld s a rid then ageHold s a rid s.now else readImage s a u addr org
  | _ => s

/-- `sy.usw` (R317): its image is read once the tile's earlier accesses to those banks are performed. -/
def opSyUsw : OpFn := fun x s =>
  match namedSocket x with
  | none => .fault 0x2C none
  | some u =>
    let addr := (portW s x.a .sy 0).toNat
    match addrCause x.a addr 64 64 true with
    | some c => .fault c (some (wd addr))
    | none =>
      if !performedAt s x.a (addrTile addr) || accessHeld s x.a 0 then .hold .lock
      else syEffect x s fun t =>
        let p := pathCycles t x.a (.sram addr)
        let d := if p.2 then (0, t) else freeDelay t
        modBk d.2 x.a fun b => { b with wait := .image u addr (t.now + p.1 + d.1) (orgOf t x.a x.slot) }

/-- A performance counter as it stands; in a handler the cycles since its start count too (R319). -/
def perfValue (s : State) (a c : Nat) : Nat :=
  let b := bk s a
  min 0xFFFFFFFF (kget 0 b.perf c + if c = 8 ∧ b.q.intrap then s.now - b.q.trapFrom else 0)

/-- `sy.perf` (R319). -/
def opSyPerf : OpFn := fun x s => syField x 5 <|
  let c := x.t.toNat % 16
  if 9 ≤ c then .fault 0x2C none
  else result x s .sy 1 (wd (perfValue s x.a c)) fun t =>
    if x.t.getLsbD 4 then modBk t x.a fun b => { b with perf := kset 0 b.perf c 0, q := { b.q with trapFrom := if c = 8 then t.now else b.q.trapFrom } }
    else t

def opSyIdle : OpFn := fun x s => syField x 0 <|
  syEffect x s fun t => modBk t x.a fun b => { b with wait := .idle }

/-! ### The operations of `sy` as instructions -/

/-- R314: `sy.csrr` as an instruction. -/
def execSyCsrr (m : Trig) (s : State) : Host.Outcome State Fault Refusal := execOne m opSyCsrr s
/-- R314: `sy.csrw` as an instruction. -/
def execSyCsrw (m : Trig) (s : State) : Host.Outcome State Fault Refusal := execOne m opSyCsrw s
/-- R314: `sy.gtime` as an instruction. -/
def execSyGtime (m : Trig) (s : State) : Host.Outcome State Fault Refusal := execOne m opSyGtime s
/-- R314: `sy.waitgt` as an instruction. -/
def execSyWaitgt (m : Trig) (s : State) : Host.Outcome State Fault Refusal := execOne m opSyWaitgt s
/-- R315: `sy.curtain` as an instruction. -/
def execSyCurtain (m : Trig) (s : State) : Host.Outcome State Fault Refusal := execOne m opSyCurtain s
/-- R315: `sy.carrive` as an instruction. -/
def execSyCarrive (m : Trig) (s : State) : Host.Outcome State Fault Refusal := execOne m opSyCarrive s
/-- R315: `sy.cwait` as an instruction. -/
def execSyCwait (m : Trig) (s : State) : Host.Outcome State Fault Refusal := execOne m opSyCwait s
/-- R148: `sy.fumode` as an instruction. -/
def execSyFumode (m : Trig) (s : State) : Host.Outcome State Fault Refusal := execOne m opSyFumode s
/-- R314: `sy.pbmark` as an instruction. -/
def execSyPbmark (m : Trig) (s : State) : Host.Outcome State Fault Refusal := execOne m opSyPbmark s
/-- R314: `sy.ecall` as an instruction. -/
def execSyEcall (m : Trig) (s : State) : Host.Outcome State Fault Refusal := execOne m opSyEcall s
/-- R318: `sy.yield` as an instruction. -/
def execSyYield (m : Trig) (s : State) : Host.Outcome State Fault Refusal := execOne m opSyYield s
/-- R314: `sy.brk` as an instruction. -/
def execSyBrk (m : Trig) (s : State) : Host.Outcome State Fault Refusal := execOne m opSyBrk s
/-- R317: `sy.usr` as an instruction. -/
def execSyUsr (m : Trig) (s : State) : Host.Outcome State Fault Refusal := execOne m opSyUsr s
/-- R317: `sy.usw` as an instruction. -/
def execSyUsw (m : Trig) (s : State) : Host.Outcome State Fault Refusal := execOne m opSyUsw s
/-- R319: `sy.perf` as an instruction. -/
def execSyPerf (m : Trig) (s : State) : Host.Outcome State Fault Refusal := execOne m opSyPerf s
/-- R316: `sy.idle` as an instruction. -/
def execSyIdle (m : Trig) (s : State) : Host.Outcome State Fault Refusal := execOne m opSyIdle s


end Sys2Proof.Machine
end

