-- ==== Sys2Proof/Machine/Vx.lean ====
section
/-! DEFINITION. The operations of the `vx` socket (R242 to R267). -/

namespace Sys2Proof.Machine

/-! ### The specifier word (R242) -/

def vsD (t : Word) : Nat := t.toNat % 64
def vsA (t : Word) : Nat := t.toNat / 2 ^ 6 % 64
def vsB (t : Word) : Nat := t.toNat / 2 ^ 12 % 64
def vsC (t : Word) : Nat := t.toNat / 2 ^ 18 % 64
def vsMask (t : Word) : Nat := t.toNat / 2 ^ 24 % 8
def vsMen (t : Word) : Bool := t.getLsbD 27
def vsRnd (t : Word) : Nat := t.toNat / 2 ^ 28 % 8
def vsSat (t : Word) : Bool := t.getLsbD 31

/-- How an operation reads a register field: not, as a vector register, or as a mask. -/
inductive VField where
  | no | reg | mask
  deriving DecidableEq, Repr

/-- How an operation reads `rnd`: not, as a rounding mode, or as an alias class. -/
inductive VRnd where
  | no | mode | cls
  deriving DecidableEq, Repr

/-- The fields an operation reads. -/
structure VReads where
  d : VField := .no
  a : VField := .no
  b : VField := .no
  c : VField := .no
  rnd : VRnd := .no
  sat : Bool := false
  men : Bool := true
  /-- the destination's old value is read even without a mask (R252, R258) -/
  old : Bool := false
  deriving DecidableEq, Repr

def fieldOk (f : VField) (v : Nat) : Bool :=
  match f with
  | .no => v == 0
  | .reg => true
  | .mask => decide (v < 8)

/-- The causes of a specifier: 0x71 for a reserved rounding mode, 0x73 for a field that should be zero (R242). -/
def specCauses (r : VReads) (t : Word) : List (Bool × Nat) :=
  [(r.rnd == .mode && decide (4 ≤ vsRnd t), 0x71),
   (!(fieldOk r.d (vsD t) && fieldOk r.a (vsA t) && fieldOk r.b (vsB t) && fieldOk r.c (vsC t) && (r.rnd != .no || vsRnd t == 0) &&
      (r.sat || !vsSat t) && (r.men || !vsMen t) && (vsMen t || vsMask t == 0)), 0x73)]

/-- The active lanes (R245). -/
def vAct (s : State) (a : Nat) (t : Word) : BitVec 64 := if vsMen t then mReg s a (vsMask t) else BitVec.allOnes 64

/-- The vector registers and masks that an operation reads or writes. -/
def vRegs (r : VReads) (t : Word) : List Nat :=
  (if r.d = .reg then [vsD t] else []) ++ (if r.a = .reg then [vsA t] else []) ++ (if r.b = .reg then [vsB t] else []) ++
  (if r.c = .reg then [vsC t] else [])

def vMasks (r : VReads) (t : Word) : List Nat :=
  (if r.d = .mask then [vsD t] else []) ++ (if r.a = .mask then [vsA t] else []) ++ (if r.b = .mask then [vsB t] else []) ++
  (if r.c = .mask then [vsC t] else []) ++ (if vsMen t then [vsMask t] else [])

/-- Under data-locked `vx`, a register or mask with a write in flight holds the trigger (R244). -/
def vLocked (s : State) (a : Nat) (r : VReads) (t : Word) : Bool :=
  lockedMode s a .vx && (bk s a).x.pends.any fun p => match p.w with
    | .vreg n _ => (vRegs r t).contains n
    | .mask n _ => (vMasks r t).contains n
    | .preds _ _ => false

/-- `vx` is busy: an occupancy or a stopped pipeline (R147, R150), or a loop nest that has not completed (R265). -/
def vxHeld (s : State) (a : Nat) : Bool := sockHeld s a .vx || (ag s a).nest.isSome

/-- The shared frame of a `vx` operation: holds, then the faults that its ports and registers give in the cycle in which nothing holds it (R244), then
its effect; a trigger of a booked step is a use of `vx` (R246). -/
def vxOp (r : VReads) (extra : OpCtx → State → List (Bool × Nat)) (q0 q1 : Nat) (go : OpCtx → State → State) : OpFn := fun x s =>
  if vxHeld s x.a || vLocked s x.a r x.t || decide (32 < inFlight s x.a .vx 0x20 + q0) || decide (32 < inFlight s x.a .vx 0x21 + q1) then
    .hold .lock
  else if useHeld s x.a (ridTile 2 x.a 0) then .hold (.booked (ridTile 2 x.a 0))
  else match lowestCause (specCauses r x.t ++ extra x s) with
    | some c => .fault c none
    | none => .go fun t => go x (checkUse (useOk t x.a (ridTile 2 x.a 0) t.now) x.a t)

def noCauses : OpCtx → State → List (Bool × Nat) := fun _ _ => []

/-- An operation that writes `vd` under the mask, `lat` cycles later (R244, R245). -/
def vxWrite (r : VReads) (lat : Nat) (extra : OpCtx → State → List (Bool × Nat)) (f : OpCtx → State → Row) : OpFn :=
  vxOp r extra 0 0 fun x s =>
    pend s x.a .vx 0 (some (s.now + lat)) (.vreg (vsD x.t) (mergeLanes (vAct s x.a x.t) (vReg s x.a (vsD x.t)) (f x s)))

/-- Lane by lane from `va`, `vb` and `vc`. -/
def vxLanes (r : VReads) (lat : Nat) (f : Word → Word → Word → Word → Word) : OpFn :=
  vxWrite r lat noCauses fun x s => rowOfLanes fun i =>
    f x.t (lane (vReg s x.a (vsA x.t)) i) (lane (vReg s x.a (vsB x.t)) i) (lane (vReg s x.a (vsC x.t)) i)

/-! ### FP32 arithmetic (R247, R248) -/

def rAB : VReads := { d := .reg, a := .reg, b := .reg }
def rA : VReads := { d := .reg, a := .reg }
def rABf : VReads := { d := .reg, a := .reg, b := .reg, rnd := .mode, sat := true }
def rABCf : VReads := { d := .reg, a := .reg, b := .reg, c := .reg, rnd := .mode, sat := true }
def rAf : VReads := { d := .reg, a := .reg, rnd := .mode, sat := true }
def rABs : VReads := { d := .reg, a := .reg, b := .reg, sat := true }

/-- A one-operand function, rounded once (R140, R247). -/
def fpUn (f : Num → Num) : Word → Word → Word → Word → Word := fun t a _ _ =>
  wd (elemRound fp32 (vsRnd t) (vsSat t) [a.toNat] (f (num32 a)))

def opVxVadd : OpFn := vxLanes rABf 6 fun t a b _ => wd (fpAdd fp32 (vsRnd t) (vsSat t) a.toNat b.toNat)
def opVxVsub : OpFn := vxLanes rABf 6 fun t a b _ => wd (fpSub fp32 (vsRnd t) (vsSat t) a.toNat b.toNat)
def opVxVmul : OpFn := vxLanes rABf 6 fun t a b _ => wd (fpMul fp32 (vsRnd t) (vsSat t) a.toNat b.toNat)
def opVxVfma : OpFn := vxLanes rABCf 6 fun t a b c => wd (fpFma fp32 (vsRnd t) (vsSat t) false false a.toNat b.toNat c.toNat)
def opVxVfms : OpFn := vxLanes rABCf 6 fun t a b c => wd (fpFma fp32 (vsRnd t) (vsSat t) false true a.toNat b.toNat c.toNat)
def opVxVfnma : OpFn := vxLanes rABCf 6 fun t a b c => wd (fpFma fp32 (vsRnd t) (vsSat t) true false a.toNat b.toNat c.toNat)
def opVxVmin : OpFn := vxLanes rAB 2 fun _ a b _ => wd (fpMin fp32 a.toNat b.toNat)
def opVxVmax : OpFn := vxLanes rAB 2 fun _ a b _ => wd (fpMax fp32 a.toNat b.toNat)
def opVxVabs : OpFn := vxLanes rA 2 fun _ a _ _ => if isNaN32 a then quiet a else a &&& 0x7FFFFFFF#32
def opVxVneg : OpFn := vxLanes rA 2 fun _ a _ _ => if isNaN32 a then quiet a else a ^^^ 0x80000000#32
def opVxVdiv : OpFn := vxLanes rABf 14 fun t a b _ =>
  wd (elemRound fp32 (vsRnd t) (vsSat t) [a.toNat, b.toNat] (divNum (num32 a) (num32 b)))
def opVxVsqrt : OpFn := vxLanes rAf 14 (fpUn sqrtNum)
def opVxVrcp : OpFn := vxLanes rAf 14 (fpUn (divNum oneNum))
def opVxVrsqrt : OpFn := vxLanes rAf 14 (fpUn rsqrtNum)
def opVxVexp2 : OpFn := vxLanes rAf 20 (fpUn exp2Num)
def opVxVlog2 : OpFn := vxLanes rAf 20 (fpUn log2Num)

/-! ### Integers (R249) -/

def intLane (f : Int → Int → Int) : Word → Word → Word → Word → Word := fun t a b _ => wd (intNarrow 32 (vsSat t) (f a.toInt b.toInt))

def opVxVaddi : OpFn := vxLanes rABs 2 (intLane fun a b => a + b)
def opVxVsubi : OpFn := vxLanes rABs 2 (intLane fun a b => a - b)
def opVxVmuli : OpFn := vxLanes rABs 2 (intLane fun a b => a * b)
def opVxVand : OpFn := vxLanes rAB 2 fun _ a b _ => a &&& b
def opVxVor : OpFn := vxLanes rAB 2 fun _ a b _ => a ||| b
def opVxVxor : OpFn := vxLanes rAB 2 fun _ a b _ => a ^^^ b
def opVxVshl : OpFn := vxLanes rAB 2 fun _ a b _ => a <<< (b.toNat % 32)
def opVxVshr : OpFn := vxLanes rAB 2 fun _ a b _ => a >>> (b.toNat % 32)
def opVxVsra : OpFn := vxLanes rAB 2 fun _ a b _ => a.sshiftRight (b.toNat % 32)
def opVxVmini : OpFn := vxLanes rAB 2 fun _ a b _ => if b.slt a then b else a
def opVxVmaxi : OpFn := vxLanes rAB 2 fun _ a b _ => if a.slt b then b else a

/-! ### Compares and masks (R250, R251) -/

/-- A mask and its count of set bits in `q0`, both 2 cycles later (R250). -/
def vxCmp (f : Word → Word → Bool) : OpFn :=
  vxOp { d := .mask, a := .reg, b := .reg } noCauses 1 0 fun x s =>
    let act := vAct s x.a x.t
    let m := maskBits fun i => act.getLsbD i && f (lane (vReg s x.a (vsA x.t)) i) (lane (vReg s x.a (vsB x.t)) i)
    pend (fly s x.a .vx 0x20 2 (rowOf (wd (popCount m)))) x.a .vx 0 (some (s.now + 2)) (.mask (vsD x.t) m)

def opVxVcmpEq : OpFn := vxCmp fun a b => numEq (num32 a) (num32 b)
def opVxVcmpNe : OpFn := vxCmp fun a b => !numEq (num32 a) (num32 b)
def opVxVcmpLt : OpFn := vxCmp fun a b => numLt (num32 a) (num32 b)
def opVxVcmpLe : OpFn := vxCmp fun a b => numLt (num32 a) (num32 b) || numEq (num32 a) (num32 b)
def opVxVcmpiEq : OpFn := vxCmp fun a b => a == b
def opVxVcmpiNe : OpFn := vxCmp fun a b => a != b
def opVxVcmpiLt : OpFn := vxCmp fun a b => a.slt b
def opVxVcmpiLe : OpFn := vxCmp fun a b => a.sle b

def opVxVsel : OpFn :=
  vxWrite { d := .reg, a := .reg, b := .reg, c := .mask } 2 noCauses fun x s => rowOfLanes fun i =>
    if (mReg s x.a (vsC x.t)).getLsbD i then lane (vReg s x.a (vsA x.t)) i else lane (vReg s x.a (vsB x.t)) i

/-- A mask operation (R251). -/
def vxMaskOp (b : VField) (f : BitVec 64 → BitVec 64 → BitVec 64) : OpFn :=
  vxOp { d := .mask, a := .mask, b := b, men := false } noCauses 0 0 fun x s =>
    pend s x.a .vx 0 (some (s.now + 2)) (.mask (vsD x.t) (f (mReg s x.a (vsA x.t)) (mReg s x.a (vsB x.t))))

def opVxMand : OpFn := vxMaskOp .mask fun a b => a &&& b
def opVxMor : OpFn := vxMaskOp .mask fun a b => a ||| b
def opVxMnot : OpFn := vxMaskOp .no fun a _ => ~~~a

/-! ### Conversions (R252 to R255) -/

/-- The fields of `o0` for a conversion (R252). -/
structure Cvt where
  part : Nat
  df : Option Fmt
  sf : Option Fmt
  dirty : Bool

def cvtOf (o : Word) : Cvt :=
  { part := o.toNat / 2 ^ 16 % 4, df := fmtOf (o.toNat / 2 ^ 8 % 64), sf := fmtOf (o.toNat % 64),
    dirty := decide (o.toNat / 2 ^ 18 ≠ 0) || decide (o.toNat / 2 ^ 14 % 4 ≠ 0) || decide (o.toNat / 2 ^ 6 % 4 ≠ 0) }

/-- A part that the narrower side has (R252). -/
def partOk (c : Cvt) : Bool :=
  match c.sf, c.df with
  | some f, some d =>
    if fmtBits f = fmtBits d then c.part == 0 else decide (c.part < 32 / min (fmtBits f) (fmtBits d))
  | _, _ => true

def cvtCauses (int : Bool) : OpCtx → State → List (Bool × Nat) := fun x s =>
  let c := cvtOf (portW s x.a .vx 0)
  [(c.sf.isNone || c.df.isNone, 0x70), (c.dirty || !partOk c, 0x73),
   ((match c.sf, c.df with
     | some f, some d => if int then isFloat f || isFloat d else !isFloat f && !isFloat d
     | _, _ => false), 0x74)]

/-- The row after a conversion of 64 elements; mask bit k governs element k (R252). -/
def cvtRow (c : Cvt) (mode : Nat) (sat : Bool) (act : BitVec 64) (a old : Row) : Row :=
  match c.sf, c.df with
  | some f, some d =>
    let ws := fmtBits f / 8
    let w := fmtBits d / 8
    (List.range 64).foldl (fun r k =>
      if act.getLsbD k then
        setElem r w (if w < ws then 64 * c.part + k else k) (convert f d mode sat (elem a ws (if ws < w then 64 * c.part + k else k)))
      else r) old
  | _, _ => old

def vxCvt (r : VReads) (int : Bool) : OpFn :=
  vxOp r (cvtCauses int) 0 0 fun x s =>
    pend s x.a .vx 0 (some (s.now + 3)) (.vreg (vsD x.t)
      (cvtRow (cvtOf (portW s x.a .vx 0)) (if int then 0 else vsRnd x.t) (vsSat x.t) (vAct s x.a x.t) (vReg s x.a (vsA x.t)) (vReg s x.a (vsD x.t))))

def opVxVcvt : OpFn := vxCvt rAf false
def opVxVcvti : OpFn := vxCvt { d := .reg, a := .reg, sat := true } true

def opVxVscale : OpFn := vxLanes rABf 6 fun t a b _ => wd (scaleStep (vsRnd t) (vsSat t) a.toNat (b.toNat % 2 ^ 16) (b.toNat / 2 ^ 16))

/-! ### Reductions (R141, R256) -/

/-- One level of the tree: neighbours combine. -/
def pairUp (f : Word → Word → Word) : List Word → List Word
  | a :: b :: r => f a b :: pairUp f r
  | l => l

/-- The six levels of the tree over 64 lanes. -/
def treeRed (f : Word → Word → Word) (l : List Word) : Word :=
  (pairUp f (pairUp f (pairUp f (pairUp f (pairUp f (pairUp f l)))))).headD 0

def vxRed (f : Word → Word → Word) (empty : Word) : OpFn :=
  vxOp { a := .reg } noCauses 1 0 fun x s =>
    let act := vAct s x.a x.t
    fly s x.a .vx 0x20 10 (rowOf (treeRed f ((List.range 64).map fun i => if act.getLsbD i then lane (vReg s x.a (vsA x.t)) i else empty)))

/-- The tree's maximum and minimum: the first operand if NaN, else the second if NaN, with its quiet bit set (R125, R256). -/
def redMax (a b : Word) : Word := if isNaN32 a then quiet a else if isNaN32 b then quiet b else wd (fpMax fp32 a.toNat b.toNat)
def redMin (a b : Word) : Word := if isNaN32 a then quiet a else if isNaN32 b then quiet b else wd (fpMin fp32 a.toNat b.toNat)

def opVxVredsum : OpFn := vxRed fadd32 0x80000000#32
def opVxVredmax : OpFn := vxRed redMax 0xFF800000#32
def opVxVredmin : OpFn := vxRed redMin 0x7F800000#32

/-! ### Permutes and moves (R257, R258) -/

def opVxVbcast : OpFn := vxWrite { d := .reg } 3 noCauses fun x s => splat (portW s x.a .vx 0)
def opVxVperm : OpFn := vxWrite rAB 3 noCauses fun x s => rowOfLanes fun i =>
  lane (vReg s x.a (vsA x.t)) ((lane (vReg s x.a (vsB x.t)) i).toNat % 64)

/-- `o0`[31:6] must be zero (R257, R258). -/
def laneCauses : OpCtx → State → List (Bool × Nat) := fun x s => [(decide (64 ≤ (portW s x.a .vx 0).toNat), 0x73)]

def opVxVrot : OpFn := vxWrite rA 3 laneCauses fun x s => rowOfLanes fun i =>
  lane (vReg s x.a (vsA x.t)) ((i + (portW s x.a .vx 0).toNat) % 64)

/-- One lane is written; under a mask, only if it is active (R245, R258). -/
def opVxVins : OpFn := vxWrite { d := .reg, old := true } 2 laneCauses fun x s =>
  setLane (vReg s x.a (vsD x.t)) ((portW s x.a .vx 0).toNat % 64) (portW s x.a .vx 1)

def opVxVget : OpFn := vxOp { a := .reg, men := false } laneCauses 1 0 fun x s =>
  fly s x.a .vx 0x20 2 (rowOf (lane (vReg s x.a (vsA x.t)) ((portW s x.a .vx 0).toNat % 64)))

def opVxVmov : OpFn := vxWrite { d := .reg } 2 noCauses fun x s => portR s x.a .vx 3

def opVxVout : OpFn := vxOp { a := .reg, men := false } noCauses 0 1 fun x s => fly s x.a .vx 0x21 2 (vReg s x.a (vsA x.t))

/-! ### Vector memory (R259 to R261) -/

/-- The four lines of a row at an address. -/
def rowLines (addr : Nat) : List Nat := [addr, (addr + 64) % 2 ^ 32, (addr + 128) % 2 ^ 32, (addr + 192) % 2 ^ 32]

/-- Every byte of the active lanes of the row is mapped (R16, R245, R259). -/
def rowMapped (addr : Nat) (act : BitVec 64) : Bool :=
  (List.range 64).all fun i => !act.getLsbD i || allMapped ((addr + 4 * i) % 2 ^ 32) 4

def rowCauses : OpCtx → State → List (Bool × Nat) := fun x s =>
  let addr := (portW s x.a .vx 0).toNat
  [(!rowMapped addr (vAct s x.a x.t), 0x40), (decide (addr % 64 ≠ 0), 0x43)]

/-- A `vx` memory operation: as `vxOp`, with the row's address for `xaddr`, and behind acquires and fences of its class (R81, R89, R91). Its addresses
and its handle are judged in the cycle in which nothing holds it, on the registers as they then stand (R244). -/
def vxMem (r : VReads) (causes : OpCtx → State → List (Bool × Nat)) (addr : OpCtx → State → Option Word) (hold : OpCtx → State → Option Hold)
    (q0 : Nat) (go : OpCtx → State → State) : OpFn := fun x s =>
  if vxHeld s x.a || vLocked s x.a r x.t || decide (32 < inFlight s x.a .vx 0x20 + q0) || accessHeld s x.a (vsRnd x.t) then .hold .lock
  else if useHeld s x.a (ridTile 2 x.a 0) then .hold (.booked (ridTile 2 x.a 0))
  else match lowestCause (specCauses r x.t ++ causes x s) with
    | some c => .fault c (if c = 0x40 ∨ c = 0x43 then addr x s else none)
    | none => match hold x s with
      | some k => .hold k
      | none => .go fun t => go x (checkUse (useOk t x.a (ridTile 2 x.a 0) t.now) x.a t)

def vxAcc (s : State) (x : OpCtx) (op : AccOp) (l : Leave) (data : Row) : Access :=
  { id := l.id, agent := x.a, slot := slotOf s x.a, op := op, cls := vsRnd x.t, loc := l.loc, data := data, fixed := l.fixed,
    org := orgOf s x.a x.slot, step := stepOf s x.a }

def portAddr (x : OpCtx) (s : State) : Option Word := some (portW s x.a .vx 0)
def noHold : OpCtx → State → Option Hold := fun _ _ => none

/-- Schedules a row access that has been planned. -/
def sendRow (s : State) (x : OpCtx) (l : Leave) (acc : Access) : State :=
  sched s l.perf (homePri (accessGroup s x.a (locHome l.loc)) x.a) .homeAccess (.access acc)

/-- A row sets out for the banks of those of its lines in which a lane is active (R245, R246). -/
def leaveRow (s : State) (x : OpCtx) (addr : Nat) (lines : List Nat) (hnd : Option Nat) (store : Bool) : State × Leave :=
  let act := activeLines lines (vAct s x.a x.t)
  leaveLines s x.a (vsRnd x.t) (.sram addr) (act.map bankKey).eraseDups act hnd store s.now false

/-- `vld` (R259): the register is written 2 cycles after the row is read. -/
def opVxVld : OpFn := vxMem { d := .reg, rnd := .cls } rowCauses portAddr noHold 0 fun x s =>
  let addr := (portW s x.a .vx 0).toNat
  let r := leaveRow s x addr (rowLines addr) none false
  let t := pend r.1 x.a .vx r.2.id (r.2.due 2) (.vreg (vsD x.t) (vReg s x.a (vsD x.t)))
  sendRow t x r.2 (vxAcc s x (.vload (rowLines addr) (vAct s x.a x.t) none) r.2 0)

/-- `vst` (R259). -/
def opVxVst : OpFn := vxMem { a := .reg, rnd := .cls } rowCauses portAddr noHold 0 fun x s =>
  let addr := (portW s x.a .vx 0).toNat
  let r := leaveRow s x addr (rowLines addr) none true
  sendRow r.1 x r.2 (vxAcc s x (.vstore (rowLines addr) (vAct s x.a x.t) none) r.2 (vReg s x.a (vsA x.t)))

/-- The active elements of a gather or scatter: lanes and addresses (R260). -/
def gatherEls (x : OpCtx) (s : State) : List (Nat × Nat) :=
  let act := vAct s x.a x.t
  ((List.range 64).filter fun i => act.getLsbD i).map fun i => (i, (portW s x.a .vx 0 + lane (vReg s x.a (vsB x.t)) i).toNat)

def elBad40 (a : Nat) (e : Nat × Nat) : Bool := addrTile e.2 != a || !inData e.2 4

def gatherCauses : OpCtx → State → List (Bool × Nat) := fun x s =>
  let els := gatherEls x s
  [(els.any (elBad40 x.a), 0x40), (els.any fun e => e.2 % 4 != 0, 0x43)]

/-- The first element address that faults. -/
def gatherAddr : OpCtx → State → Option Word := fun x s =>
  let els := gatherEls x s
  (match els.find? (elBad40 x.a) with
   | some e => some e
   | none => els.find? fun e => e.2 % 4 != 0).map fun (e : Nat × Nat) => wd e.2

/-- The turn of an element: the place of its line among the distinct lines of its bank, in ascending address (R260). -/
def elTurn (els : List (Nat × Nat)) (e : Nat × Nat) : Nat :=
  let lines := els.foldl (fun l f => if bankKey f.2 = bankKey e.2 then insertNat (f.2 / 64) l else l) []
  lines.findIdx (· == e.2 / 64)

/-- b: the most distinct lines in any one bank, at least 1 (R260). -/
def gatherTurns (els : List (Nat × Nat)) : Nat := els.foldl (fun m e => max m (elTurn els e + 1)) 1

/-- The elements of each turn, bank by bank: each is one access of a bank in one cycle (R79, R260). -/
def turnEls (els : List (Nat × Nat)) : List (Nat × List (Nat × Nat)) :=
  (List.range (gatherTurns els)).flatMap fun j =>
    let mine := els.filter fun e => elTurn els e == j
    ((mine.map fun e => bankKey e.2).eraseDups).map fun k => (j, mine.filter fun e => bankKey e.2 == k)

/-- The cycle of the first turn: 4 cycles after the trigger, and no earlier than the accesses that it is ordered behind (R81, R260). -/
def firstTurn (s : State) (x : OpCtx) (els : List (Nat × Nat)) : Nat :=
  max (s.now + 4) (orderedFrom s x.a (vsRnd x.t) (els.map fun e => bankKey e.2))

/-- Schedules the accesses of a gather or scatter from cycle `c` on (R260). -/
def sendTurns (s : State) (x : OpCtx) (id c : Nat) (els : List (Nat × Nat)) (mk : List (Nat × Nat) → AccOp) (data : Row) : State :=
  (turnEls els).foldl (fun s g =>
    let l : Leave := { id := id, loc := .sram ((g.2.headD (0, 0)).2), perf := c + g.1, fixed := true }
    sendRow s x l (vxAcc s x (mk g.2) l data)) s

/-- The elements' accesses as one operation that is not yet performed; without an active element there is none. -/
def gatherOut (s : State) (x : OpCtx) (id c : Nat) (els : List (Nat × Nat)) (store : Bool) : State :=
  let b := gatherTurns els
  let s := if els.isEmpty then s
    else addOut s x.a { id := id, cls := vsRnd x.t, store := store, put := false, addr := (portW s x.a .vx 0).toNat, home := x.a, key := stepOf s x.a,
                        keys := (els.map fun e => bankKey e.2).eraseDups, perfAt := c + b - 1, left := (turnEls els).length }
  checkUses (occupy s x.a .vx b) x.a
    (spanUses s (ridTile 2 x.a 0) s.now b ++ (turnEls els).map fun g => (ridTile 4 x.a (addrBank (g.2.headD (0, 0)).2), c + g.1))

def opVxVgath : OpFn := vxMem { d := .reg, b := .reg, rnd := .cls } gatherCauses gatherAddr noHold 0 fun x s =>
  let els := gatherEls x s
  let c := firstTurn s x els
  let i := newId s
  let t := gatherOut i.2 x i.1 c els false
  let t := pend t x.a .vx i.1 (some (c + 7 + gatherTurns els)) (.vreg (vsD x.t) (vReg s x.a (vsD x.t)))
  sendTurns t x i.1 c els .gather 0

def opVxVscat : OpFn := vxMem { a := .reg, b := .reg, rnd := .cls } gatherCauses gatherAddr noHold 0 fun x s =>
  let els := gatherEls x s
  let c := firstTurn s x els
  let i := newId s
  sendTurns (gatherOut i.2 x i.1 c els true) x i.1 c els .scatter (vReg s x.a (vsA x.t))

/-- The handle of a streamed row, and the own position of its row: past the rows already claimed (R261). -/
def cbHandle (x : OpCtx) (s : State) : Nat := (portW s x.a .vx 0).toNat % 16
def cbClaimed (x : OpCtx) (s : State) : Nat := kget 0 (bk s x.a).claimed (cbHandle x s)
def cbPos (prod : Bool) (x : OpCtx) (s : State) : Word :=
  let h := hReg s x.a (cbHandle x s)
  (if prod then hProd h else hCons h) + wd (256 * cbClaimed x s)

def cbCauses (prod : Bool) : OpCtx → State → List (Bool × Nat) := fun x s =>
  let h := hReg s x.a (cbHandle x s)
  let big := decide (16 ≤ (portW s x.a .vx 0).toNat)
  [(big || hMalformed h, 0x2A), (!big && !hMalformed h && (handleCause h (if prod then [0, 1] else [0, 2])) == some 0x28, 0x28),
   (!big && !hMalformed h && decide (hLsize h < 8), 0x29), (!big && !hMalformed h && decide ((cbPos prod x s).toNat % 64 ≠ 0), 0x43)]

/-- The lines of a row at a position, wrapping at the buffer's end. -/
def cbLines (h : BitVec 128) (pos : Word) : List Nat := [hAt h pos, hAt h (pos + 64), hAt h (pos + 128), hAt h (pos + 192)]

/-- Filled or room for the rows claimed and this one (R261). -/
def cbHold (prod : Bool) : OpCtx → State → Option Hold := fun x s =>
  let h := hReg s x.a (cbHandle x s)
  let need := 256 * cbClaimed x s + 256
  if (if prod then hRoom h else hFilled h) < need then some .handle
  else if prod && journalHeld s (stepOf s x.a) then some .log else none

def claim (s : State) (a h : Nat) : State := modBk s a fun b => { b with claimed := kmod 0 b.claimed h (· + 1) }

def hFin (n : Nat) : Fin 16 := ⟨n % 16, Nat.mod_lt _ (by decide)⟩

/-- A streamed row at position `pos` of handle `h` sets out, with its claim on the handle (R261). DESIGN CHOICE (log 190): `q0` lands 2 cycles after the
row is performed, as `vldc`'s data do. -/
def sendStream (prod : Bool) (h : BitVec 128) (pos : Word) : OpCtx → State → State := fun x s =>
  let hn := cbHandle x s
  let lines := cbLines h pos
  let act := vAct s x.a x.t
  let r := leaveRow (claim s x.a hn) x (lines.headD 0) lines (some hn) prod
  let t := flyId r.1 x.a .vx 0x20 r.2.id (r.2.due 2) (rowOf (pos + 256))
  if prod then sendRow t x r.2 (vxAcc s x (.vstore lines act (some (hFin hn))) r.2 (vReg s x.a (vsA x.t)))
  else
    let t := pend t x.a .vx r.2.id (r.2.due 2) (.vreg (vsD x.t) (vReg s x.a (vsD x.t)))
    sendRow t x r.2 (vxAcc s x (.vload lines act (some (hFin hn))) r.2 0)

/-- Rows of one handle are performed in trigger order: no earlier than those already on their way to the same buffer. The handle is the one that the bundle
found as it issued (R145, R261). DESIGN CHOICE (log 190): `xaddr` names the misaligned position itself. -/
def vxStream (prod : Bool) : OpFn := fun x s =>
  vxMem (if prod then { a := .reg, rnd := .cls } else { d := .reg, rnd := .cls }) (cbCauses prod) (fun x s => some (cbPos prod x s)) (cbHold prod) 1
    (sendStream prod (hReg s x.a (cbHandle x s)) (cbPos prod x s)) x s

def opVxVldc : OpFn := vxStream false
def opVxVstc : OpFn := vxStream true

/-! ### The loop nest (R262 to R266) -/

/-- The lowest and the highest address of operand `o`'s rows, as integers (R264). -/
def nestSpan (n : Nest) (base o : Nat) : Int × Int :=
  (List.range 5).foldl (fun acc l =>
    let d := 64 * nestStride n o l * ((nestExt n l : Int) - 1)
    (acc.1 + min 0 d, acc.2 + max 0 d)) ((base : Int), (base : Int) + (nestRow n : Int) - 1)

/-- The banks that an operand's rows may lie in; all of the tile's where the operand would leave them. -/
def nestBanks (a : Nat) (n : Nest) (base o : Nat) : List Nat :=
  let p := nestSpan n base o
  let lo : Int := (a * 2 ^ 21 : Nat)
  if lo ≤ p.1 ∧ p.2 < lo + (0x180000 : Nat) then
    (List.range (p.2.toNat / 2 ^ 16 - p.1.toNat / 2 ^ 16 + 1)).map fun k => 32 * a + addrBank (p.1.toNat + 2 ^ 16 * k)
  else (List.range 24).map (32 * a + ·)

def opVxVnest (n : Nest) : OpFn := fun x s =>
  let dst := (portW s x.a .vx 0).toNat
  let ra := (portW s x.a .vx 1).toNat
  let rb := (portW s x.a .vx 2).toNat
  let vx := ridTile 2 x.a 0
  if vxHeld s x.a || accessHeld s x.a 0 then .hold .lock
  else if useHeld s x.a vx then .hold (.booked vx)
  else match lowestCause (nestCauses x.a n dst ra rb) with
    | some c => .fault c none
    | none => .go fun t =>
      let t := checkUse (useOk t x.a vx t.now) x.a t
      if nestPoints n = 0 then t
      else
        let i := newId t
        let r : NestRun := { id := i.1, nest := n, dst := dst, a := ra, b := rb, point := 0, writes := [], lastWrite := t.now, org := orgOf t x.a x.slot }
        let s := addOut (setNest i.2 x.a (some r)) x.a
          { id := i.1, cls := 0, store := true, put := false, addr := dst, home := x.a, key := stepOf t x.a, perfAt := t.now,
            keys := (nestBanks x.a n dst 0 ++ nestBanks x.a n ra 1 ++ nestBanks x.a n rb 2).eraseDups }
        let acc : Access :=
          { id := i.1, agent := x.a, slot := slotOf t x.a, op := .nestRead, cls := 0, loc := .sram dst, data := 0, fixed := true,
            org := r.org, step := stepOf t x.a }
        sched s (t.now + 1) (homePri 1 x.a) .homeAccess (.access acc)

/-! ### The operations of `vx` as instructions -/

/-- R247: `vx.vadd` as an instruction. -/
def execVxVadd (m : Trig) (s : State) : Host.Outcome State Fault Refusal := execOne m opVxVadd s
/-- R247: `vx.vsub` as an instruction. -/
def execVxVsub (m : Trig) (s : State) : Host.Outcome State Fault Refusal := execOne m opVxVsub s
/-- R247: `vx.vmul` as an instruction. -/
def execVxVmul (m : Trig) (s : State) : Host.Outcome State Fault Refusal := execOne m opVxVmul s
/-- R247: `vx.vfma` as an instruction. -/
def execVxVfma (m : Trig) (s : State) : Host.Outcome State Fault Refusal := execOne m opVxVfma s
/-- R247: `vx.vfms` as an instruction. -/
def execVxVfms (m : Trig) (s : State) : Host.Outcome State Fault Refusal := execOne m opVxVfms s
/-- R247: `vx.vfnma` as an instruction. -/
def execVxVfnma (m : Trig) (s : State) : Host.Outcome State Fault Refusal := execOne m opVxVfnma s
/-- R248: `vx.vmin` as an instruction. -/
def execVxVmin (m : Trig) (s : State) : Host.Outcome State Fault Refusal := execOne m opVxVmin s
/-- R248: `vx.vmax` as an instruction. -/
def execVxVmax (m : Trig) (s : State) : Host.Outcome State Fault Refusal := execOne m opVxVmax s
/-- R248: `vx.vabs` as an instruction. -/
def execVxVabs (m : Trig) (s : State) : Host.Outcome State Fault Refusal := execOne m opVxVabs s
/-- R248: `vx.vneg` as an instruction. -/
def execVxVneg (m : Trig) (s : State) : Host.Outcome State Fault Refusal := execOne m opVxVneg s
/-- R247: `vx.vdiv` as an instruction. -/
def execVxVdiv (m : Trig) (s : State) : Host.Outcome State Fault Refusal := execOne m opVxVdiv s
/-- R247: `vx.vsqrt` as an instruction. -/
def execVxVsqrt (m : Trig) (s : State) : Host.Outcome State Fault Refusal := execOne m opVxVsqrt s
/-- R247: `vx.vrcp` as an instruction. -/
def execVxVrcp (m : Trig) (s : State) : Host.Outcome State Fault Refusal := execOne m opVxVrcp s
/-- R247: `vx.vrsqrt` as an instruction. -/
def execVxVrsqrt (m : Trig) (s : State) : Host.Outcome State Fault Refusal := execOne m opVxVrsqrt s
/-- R247: `vx.vexp2` as an instruction. -/
def execVxVexp2 (m : Trig) (s : State) : Host.Outcome State Fault Refusal := execOne m opVxVexp2 s
/-- R247: `vx.vlog2` as an instruction. -/
def execVxVlog2 (m : Trig) (s : State) : Host.Outcome State Fault Refusal := execOne m opVxVlog2 s
/-- R249: `vx.vaddi` as an instruction. -/
def execVxVaddi (m : Trig) (s : State) : Host.Outcome State Fault Refusal := execOne m opVxVaddi s
/-- R249: `vx.vsubi` as an instruction. -/
def execVxVsubi (m : Trig) (s : State) : Host.Outcome State Fault Refusal := execOne m opVxVsubi s
/-- R249: `vx.vmuli` as an instruction. -/
def execVxVmuli (m : Trig) (s : State) : Host.Outcome State Fault Refusal := execOne m opVxVmuli s
/-- R249: `vx.vand` as an instruction. -/
def execVxVand (m : Trig) (s : State) : Host.Outcome State Fault Refusal := execOne m opVxVand s
/-- R249: `vx.vor` as an instruction. -/
def execVxVor (m : Trig) (s : State) : Host.Outcome State Fault Refusal := execOne m opVxVor s
/-- R249: `vx.vxor` as an instruction. -/
def execVxVxor (m : Trig) (s : State) : Host.Outcome State Fault Refusal := execOne m opVxVxor s
/-- R249: `vx.vshl` as an instruction. -/
def execVxVshl (m : Trig) (s : State) : Host.Outcome State Fault Refusal := execOne m opVxVshl s
/-- R249: `vx.vshr` as an instruction. -/
def execVxVshr (m : Trig) (s : State) : Host.Outcome State Fault Refusal := execOne m opVxVshr s
/-- R249: `vx.vsra` as an instruction. -/
def execVxVsra (m : Trig) (s : State) : Host.Outcome State Fault Refusal := execOne m opVxVsra s
/-- R249: `vx.vmini` as an instruction. -/
def execVxVmini (m : Trig) (s : State) : Host.Outcome State Fault Refusal := execOne m opVxVmini s
/-- R249: `vx.vmaxi` as an instruction. -/
def execVxVmaxi (m : Trig) (s : State) : Host.Outcome State Fault Refusal := execOne m opVxVmaxi s
/-- R250: `vx.vcmp.eq` as an instruction. -/
def execVxVcmpEq (m : Trig) (s : State) : Host.Outcome State Fault Refusal := execOne m opVxVcmpEq s
/-- R250: `vx.vcmp.ne` as an instruction. -/
def execVxVcmpNe (m : Trig) (s : State) : Host.Outcome State Fault Refusal := execOne m opVxVcmpNe s
/-- R250: `vx.vcmp.lt` as an instruction. -/
def execVxVcmpLt (m : Trig) (s : State) : Host.Outcome State Fault Refusal := execOne m opVxVcmpLt s
/-- R250: `vx.vcmp.le` as an instruction. -/
def execVxVcmpLe (m : Trig) (s : State) : Host.Outcome State Fault Refusal := execOne m opVxVcmpLe s
/-- R250: `vx.vcmpi.eq` as an instruction. -/
def execVxVcmpiEq (m : Trig) (s : State) : Host.Outcome State Fault Refusal := execOne m opVxVcmpiEq s
/-- R250: `vx.vcmpi.ne` as an instruction. -/
def execVxVcmpiNe (m : Trig) (s : State) : Host.Outcome State Fault Refusal := execOne m opVxVcmpiNe s
/-- R250: `vx.vcmpi.lt` as an instruction. -/
def execVxVcmpiLt (m : Trig) (s : State) : Host.Outcome State Fault Refusal := execOne m opVxVcmpiLt s
/-- R250: `vx.vcmpi.le` as an instruction. -/
def execVxVcmpiLe (m : Trig) (s : State) : Host.Outcome State Fault Refusal := execOne m opVxVcmpiLe s
/-- R251: `vx.vsel` as an instruction. -/
def execVxVsel (m : Trig) (s : State) : Host.Outcome State Fault Refusal := execOne m opVxVsel s
/-- R251: `vx.mand` as an instruction. -/
def execVxMand (m : Trig) (s : State) : Host.Outcome State Fault Refusal := execOne m opVxMand s
/-- R251: `vx.mor` as an instruction. -/
def execVxMor (m : Trig) (s : State) : Host.Outcome State Fault Refusal := execOne m opVxMor s
/-- R251: `vx.mnot` as an instruction. -/
def execVxMnot (m : Trig) (s : State) : Host.Outcome State Fault Refusal := execOne m opVxMnot s
/-- R253: `vx.vcvt` as an instruction. -/
def execVxVcvt (m : Trig) (s : State) : Host.Outcome State Fault Refusal := execOne m opVxVcvt s
/-- R255: `vx.vscale` as an instruction. -/
def execVxVscale (m : Trig) (s : State) : Host.Outcome State Fault Refusal := execOne m opVxVscale s
/-- R254: `vx.vcvti` as an instruction. -/
def execVxVcvti (m : Trig) (s : State) : Host.Outcome State Fault Refusal := execOne m opVxVcvti s
/-- R256: `vx.vredsum` as an instruction. -/
def execVxVredsum (m : Trig) (s : State) : Host.Outcome State Fault Refusal := execOne m opVxVredsum s
/-- R256: `vx.vredmax` as an instruction. -/
def execVxVredmax (m : Trig) (s : State) : Host.Outcome State Fault Refusal := execOne m opVxVredmax s
/-- R256: `vx.vredmin` as an instruction. -/
def execVxVredmin (m : Trig) (s : State) : Host.Outcome State Fault Refusal := execOne m opVxVredmin s
/-- R257: `vx.vbcast` as an instruction. -/
def execVxVbcast (m : Trig) (s : State) : Host.Outcome State Fault Refusal := execOne m opVxVbcast s
/-- R257: `vx.vperm` as an instruction. -/
def execVxVperm (m : Trig) (s : State) : Host.Outcome State Fault Refusal := execOne m opVxVperm s
/-- R257: `vx.vrot` as an instruction. -/
def execVxVrot (m : Trig) (s : State) : Host.Outcome State Fault Refusal := execOne m opVxVrot s
/-- R258: `vx.vins` as an instruction. -/
def execVxVins (m : Trig) (s : State) : Host.Outcome State Fault Refusal := execOne m opVxVins s
/-- R258: `vx.vget` as an instruction. -/
def execVxVget (m : Trig) (s : State) : Host.Outcome State Fault Refusal := execOne m opVxVget s
/-- R258: `vx.vmov` as an instruction. -/
def execVxVmov (m : Trig) (s : State) : Host.Outcome State Fault Refusal := execOne m opVxVmov s
/-- R258: `vx.vout` as an instruction. -/
def execVxVout (m : Trig) (s : State) : Host.Outcome State Fault Refusal := execOne m opVxVout s
/-- R259: `vx.vld` as an instruction. -/
def execVxVld (m : Trig) (s : State) : Host.Outcome State Fault Refusal := execOne m opVxVld s
/-- R259: `vx.vst` as an instruction. -/
def execVxVst (m : Trig) (s : State) : Host.Outcome State Fault Refusal := execOne m opVxVst s
/-- R260: `vx.vgath` as an instruction. -/
def execVxVgath (m : Trig) (s : State) : Host.Outcome State Fault Refusal := execOne m opVxVgath s
/-- R260: `vx.vscat` as an instruction. -/
def execVxVscat (m : Trig) (s : State) : Host.Outcome State Fault Refusal := execOne m opVxVscat s
/-- R261: `vx.vldc` as an instruction. -/
def execVxVldc (m : Trig) (s : State) : Host.Outcome State Fault Refusal := execOne m opVxVldc s
/-- R261: `vx.vstc` as an instruction. -/
def execVxVstc (m : Trig) (s : State) : Host.Outcome State Fault Refusal := execOne m opVxVstc s
/-- R264: the loop nest, triggered by its bundle (R170). -/
def execVxVnest (nest : Nest) (s : State) : Host.Outcome State Fault Refusal := execOne ⟨none, .zero⟩ (opVxVnest nest) s


/-! ### Device events -/

/-- R265: the nest completes, after the cycle of its last write. -/
def execVnestComplete (s : State) : Host.Outcome State Fault Refusal :=
  match s.occ with
  | .at a => .next (match (ag s a).nest with
    | some r =>
      -- a row whose bank is kept from the step is still to be written (R66)
      if s.agenda.any fun e => (nestRowOut a e).isSome then
        -- each cycle up to completion is a use of `vx` (R266)
        let k := (((ag s a).outs.find? fun o => o.id == r.id).map (·.key)).getD noStep
        sched (stepUses s a 0 k [(ridTile 2 a 0, s.now + 1)]) (s.now + 1) priEnd .vnestComplete (.at a)
      else removeOut (setNest s a none) a r.id
    | none => s)
  | _ => .refused (.noOccasion "VNEST_COMPLETE")

end Sys2Proof.Machine
end

