-- ==== Sys2Proof/Machine/RunOp.lean ====
section
/-! DEFINITION. The meaning of each operation within a bundle; an event of the device is no operation. -/

namespace Sys2Proof.Machine

/-- The move to the trigger port and the meaning of an operation that a slot of a bundle triggers. -/
def runOp (i : Instr) : Option (Trig × OpFn) :=
  match i with
  | .sqBr m => some (m, opSqBr)
  | .sqBrr m => some (m, opSqBrr)
  | .sqCall m => some (m, opSqCall)
  | .sqCallx m => some (m, opSqCallx)
  | .sqRet m => some (m, opSqRet)
  | .sqLoop m => some (m, opSqLoop)
  | .sqLbrk m => some (m, opSqLbrk)
  | .sqLidx m => some (m, opSqLidx)
  | .sqScene m => some (m, opSqScene)
  | .sqTrap m => some (m, opSqTrap)
  | .sqIret m => some (m, opSqIret)
  | .sqIfence m => some (m, opSqIfence)
  | .sqBrswap m => some (m, opSqBrswap)
  | .sqHalt m => some (m, opSqHalt)
  | .xaAdd u m => some (m, opXaAdd u)
  | .xaSub u m => some (m, opXaSub u)
  | .xaRsub u m => some (m, opXaRsub u)
  | .xaMul u m => some (m, opXaMul u)
  | .xaMulh u m => some (m, opXaMulh u)
  | .xaMulhu u m => some (m, opXaMulhu u)
  | .xaDiv u m => some (m, opXaDiv u)
  | .xaDivu u m => some (m, opXaDivu u)
  | .xaRem u m => some (m, opXaRem u)
  | .xaRemu u m => some (m, opXaRemu u)
  | .xaMin u m => some (m, opXaMin u)
  | .xaMax u m => some (m, opXaMax u)
  | .xaMinu u m => some (m, opXaMinu u)
  | .xaMaxu u m => some (m, opXaMaxu u)
  | .xaAbs u m => some (m, opXaAbs u)
  | .xaAnd u m => some (m, opXaAnd u)
  | .xaOr u m => some (m, opXaOr u)
  | .xaXor u m => some (m, opXaXor u)
  | .xaAndn u m => some (m, opXaAndn u)
  | .xaShl u m => some (m, opXaShl u)
  | .xaShr u m => some (m, opXaShr u)
  | .xaSra u m => some (m, opXaSra u)
  | .xaRol u m => some (m, opXaRol u)
  | .xaClz u m => some (m, opXaClz u)
  | .xaCtz u m => some (m, opXaCtz u)
  | .xaPopc u m => some (m, opXaPopc u)
  | .xaSextB u m => some (m, opXaSextB u)
  | .xaSextH u m => some (m, opXaSextH u)
  | .xaBext u m => some (m, opXaBext u)
  | .xaBins u m => some (m, opXaBins u)
  | .xaPass u m => some (m, opXaPass u)
  | .xaCmpEq u pair m => some (m, opXaCmpEq u pair)
  | .xaCmpNe u pair m => some (m, opXaCmpNe u pair)
  | .xaCmpLt u pair m => some (m, opXaCmpLt u pair)
  | .xaCmpLe u pair m => some (m, opXaCmpLe u pair)
  | .xaCmpLtu u pair m => some (m, opXaCmpLtu u pair)
  | .xaCmpLeu u pair m => some (m, opXaCmpLeu u pair)
  | .xaTst u pair m => some (m, opXaTst u pair)
  | .xaSel u pn m => some (m, opXaSel u pn)
  | .agLea m => some (m, opAgLea)
  | .agGaddr m => some (m, opAgGaddr)
  | .agTileid m => some (m, opAgTileid)
  | .agHome m => some (m, opAgHome)
  | .agStep m => some (m, opAgStep)
  | .agWrap m => some (m, opAgWrap)
  | .agCbInit m => some (m, opAgCbInit)
  | .agCbWait m => some (m, opAgCbWait)
  | .agCbRoom m => some (m, opAgCbRoom)
  | .agCbAdvp m => some (m, opAgCbAdvp)
  | .agCbAdvc m => some (m, opAgCbAdvc)
  | .agCbPos m => some (m, opAgCbPos)
  | .agCbPosp m => some (m, opAgCbPosp)
  | .agCbFill m => some (m, opAgCbFill)
  | .lsLdB cls m => some (m, opLsLdB cls)
  | .lsLdBz cls m => some (m, opLsLdBz cls)
  | .lsLdH cls m => some (m, opLsLdH cls)
  | .lsLdHz cls m => some (m, opLsLdHz cls)
  | .lsLdW cls m => some (m, opLsLdW cls)
  | .lsStB cls m => some (m, opLsStB cls)
  | .lsStH cls m => some (m, opLsStH cls)
  | .lsStW cls m => some (m, opLsStW cls)
  | .lsAmoAdd cls m => some (m, opLsAmoAdd cls)
  | .lsAmoAnd cls m => some (m, opLsAmoAnd cls)
  | .lsAmoOr cls m => some (m, opLsAmoOr cls)
  | .lsAmoXor cls m => some (m, opLsAmoXor cls)
  | .lsAmoMin cls m => some (m, opLsAmoMin cls)
  | .lsAmoMax cls m => some (m, opLsAmoMax cls)
  | .lsAmoMinu cls m => some (m, opLsAmoMinu cls)
  | .lsAmoMaxu cls m => some (m, opLsAmoMaxu cls)
  | .lsAmoSwap cls m => some (m, opLsAmoSwap cls)
  | .lsAmoCas cls m => some (m, opLsAmoCas cls)
  | .lsAmoFadd cls m => some (m, opLsAmoFadd cls)
  | .lsAmoChunk cls m => some (m, opLsAmoChunk cls)
  | .lsAcq cls m => some (m, opLsAcq cls)
  | .lsRel cls m => some (m, opLsRel cls)
  | .lsFence cls m => some (m, opLsFence cls)
  | .lsSwArm cls m => some (m, opLsSwArm cls)
  | .lsSwWait cls m => some (m, opLsSwWait cls)
  | .lsSwAdd cls m => some (m, opLsSwAdd cls)
  | .lsSwRead cls m => some (m, opLsSwRead cls)
  | .vxVadd m => some (m, opVxVadd)
  | .vxVsub m => some (m, opVxVsub)
  | .vxVmul m => some (m, opVxVmul)
  | .vxVfma m => some (m, opVxVfma)
  | .vxVfms m => some (m, opVxVfms)
  | .vxVfnma m => some (m, opVxVfnma)
  | .vxVmin m => some (m, opVxVmin)
  | .vxVmax m => some (m, opVxVmax)
  | .vxVabs m => some (m, opVxVabs)
  | .vxVneg m => some (m, opVxVneg)
  | .vxVdiv m => some (m, opVxVdiv)
  | .vxVsqrt m => some (m, opVxVsqrt)
  | .vxVrcp m => some (m, opVxVrcp)
  | .vxVrsqrt m => some (m, opVxVrsqrt)
  | .vxVexp2 m => some (m, opVxVexp2)
  | .vxVlog2 m => some (m, opVxVlog2)
  | .vxVaddi m => some (m, opVxVaddi)
  | .vxVsubi m => some (m, opVxVsubi)
  | .vxVmuli m => some (m, opVxVmuli)
  | .vxVand m => some (m, opVxVand)
  | .vxVor m => some (m, opVxVor)
  | .vxVxor m => some (m, opVxVxor)
  | .vxVshl m => some (m, opVxVshl)
  | .vxVshr m => some (m, opVxVshr)
  | .vxVsra m => some (m, opVxVsra)
  | .vxVmini m => some (m, opVxVmini)
  | .vxVmaxi m => some (m, opVxVmaxi)
  | .vxVcmpEq m => some (m, opVxVcmpEq)
  | .vxVcmpNe m => some (m, opVxVcmpNe)
  | .vxVcmpLt m => some (m, opVxVcmpLt)
  | .vxVcmpLe m => some (m, opVxVcmpLe)
  | .vxVcmpiEq m => some (m, opVxVcmpiEq)
  | .vxVcmpiNe m => some (m, opVxVcmpiNe)
  | .vxVcmpiLt m => some (m, opVxVcmpiLt)
  | .vxVcmpiLe m => some (m, opVxVcmpiLe)
  | .vxVsel m => some (m, opVxVsel)
  | .vxMand m => some (m, opVxMand)
  | .vxMor m => some (m, opVxMor)
  | .vxMnot m => some (m, opVxMnot)
  | .vxVcvt m => some (m, opVxVcvt)
  | .vxVscale m => some (m, opVxVscale)
  | .vxVcvti m => some (m, opVxVcvti)
  | .vxVredsum m => some (m, opVxVredsum)
  | .vxVredmax m => some (m, opVxVredmax)
  | .vxVredmin m => some (m, opVxVredmin)
  | .vxVbcast m => some (m, opVxVbcast)
  | .vxVperm m => some (m, opVxVperm)
  | .vxVrot m => some (m, opVxVrot)
  | .vxVins m => some (m, opVxVins)
  | .vxVget m => some (m, opVxVget)
  | .vxVmov m => some (m, opVxVmov)
  | .vxVout m => some (m, opVxVout)
  | .vxVld m => some (m, opVxVld)
  | .vxVst m => some (m, opVxVst)
  | .vxVgath m => some (m, opVxVgath)
  | .vxVscat m => some (m, opVxVscat)
  | .vxVldc m => some (m, opVxVldc)
  | .vxVstc m => some (m, opVxVstc)
  | .vxVnest nest => some (⟨none, .zero⟩, opVxVnest nest)
  | .mxCfg m => some (m, opMxCfg)
  | .mxWload m => some (m, opMxWload)
  | .mxWloadx m => some (m, opMxWloadx)
  | .mxRun m => some (m, opMxRun)
  | .mxRunsp m => some (m, opMxRunsp)
  | .mxGrp m => some (m, opMxGrp)
  | .mxSclr m => some (m, opMxSclr)
  | .mxDrain m => some (m, opMxDrain)
  | .mxDrainc m => some (m, opMxDrainc)
  | .mxScale m => some (m, opMxScale)
  | .mxCap m => some (m, opMxCap)
  | .mxPrio m => some (m, opMxPrio)
  | .mxStat m => some (m, opMxStat)
  | .mxSwap m => some (m, opMxSwap)
  | .chCopy act m => some (m, opChCopy act)
  | .chCopyt act m => some (m, opChCopyt act)
  | .chCopyi act m => some (m, opChCopyi act)
  | .chExpand act m => some (m, opChExpand act)
  | .chFill act m => some (m, opChFill act)
  | .chShadow act m => some (m, opChShadow act)
  | .chPublish m => some (m, opChPublish)
  | .chCrc act m => some (m, opChCrc act)
  | .chPbinv m => some (m, opChPbinv)
  | .chTlbinv m => some (m, opChTlbinv)
  | .chTlbpin m => some (m, opChTlbpin)
  | .chCancel m => some (m, opChCancel)
  | .chStat m => some (m, opChStat)
  | .ntSend m => some (m, opNtSend)
  | .ntSendw m => some (m, opNtSendw)
  | .ntPut m => some (m, opNtPut)
  | .ntPutb m => some (m, opNtPutb)
  | .ntReduce m => some (m, opNtReduce)
  | .ntBcast m => some (m, opNtBcast)
  | .ntSpawn m => some (m, opNtSpawn)
  | .ntEvent m => some (m, opNtEvent)
  | .ntMxcmd m => some (m, opNtMxcmd)
  | .ntTree m => some (m, opNtTree)
  | .ntStat m => some (m, opNtStat)
  | .ntRedwait m => some (m, opNtRedwait)
  | .lmBank m => some (m, opLmBank)
  | .lmTick m => some (m, opLmTick)
  | .lmFan m => some (m, opLmFan)
  | .lmLoad m => some (m, opLmLoad)
  | .lmStore m => some (m, opLmStore)
  | .lmInject m => some (m, opLmInject)
  | .lmRead m => some (m, opLmRead)
  | .lmWrite m => some (m, opLmWrite)
  | .lmRun m => some (m, opLmRun)
  | .lmStop m => some (m, opLmStop)
  | .lmDrain m => some (m, opLmDrain)
  | .lmTie m => some (m, opLmTie)
  | .lmStat m => some (m, opLmStat)
  | .cqProbe m => some (m, opCqProbe)
  | .cqBook m => some (m, opCqBook)
  | .cqRelease m => some (m, opCqRelease)
  | .cqExtend m => some (m, opCqExtend)
  | .cqChain m => some (m, opCqChain)
  | .cqCompact m => some (m, opCqCompact)
  | .cqDemote m => some (m, opCqDemote)
  | .cqSlack m => some (m, opCqSlack)
  | .cqQuery m => some (m, opCqQuery)
  | .syCsrr m => some (m, opSyCsrr)
  | .syCsrw m => some (m, opSyCsrw)
  | .syGtime m => some (m, opSyGtime)
  | .syWaitgt m => some (m, opSyWaitgt)
  | .syCurtain m => some (m, opSyCurtain)
  | .syCarrive m => some (m, opSyCarrive)
  | .syCwait m => some (m, opSyCwait)
  | .syFumode m => some (m, opSyFumode)
  | .syPbmark m => some (m, opSyPbmark)
  | .syEcall m => some (m, opSyEcall)
  | .syYield m => some (m, opSyYield)
  | .syBrk m => some (m, opSyBrk)
  | .syUsr m => some (m, opSyUsr)
  | .syUsw m => some (m, opSyUsw)
  | .syPerf m => some (m, opSyPerf)
  | .syIdle m => some (m, opSyIdle)
  | _ => none

end Sys2Proof.Machine
end

