-- ==== Sys2Proof/Machine/Bundle.lean ====
section
/-! DEFINITION. The sequencer from bundle to bundle (R37, R38, R156, R181 to R195, R216, R316): fetch, issue, the end of a bundle's last
cycle, deferred faults and interrupts. -/

namespace Sys2Proof.Machine

/-! ### Issue (R145, R176) -/

def placeOf (s : State) (a : Nat) : Place := { dock := isDock a, scene := (bk s a).q.scene.isSome }

/-- The moves of a bundle that trigger nothing. -/
def mvsOf (b : Bundle) : List Mv := b.items.filterMap fun e => match e.2 with
  | .mv m d => some ⟨e.1, m, d⟩
  | .op _ => none

/-- The triggers of a bundle. -/
def trsOf (b : Bundle) : List Tr := b.items.filterMap fun e => match e.2 with
  | .mv _ _ => none
  | .op i => (runOp i).map fun x => ⟨e.1, x.1, x.2⟩

/-- A bundle passes its static checks and issues, is held, or faults (R145, R176, R177). DESIGN CHOICE (log 147): an illegal bundle faults in the
first cycle in which it could issue, before any hold of its latches or operations is looked at. -/
def bundleIssue (s : State) (a : Nat) (w : BundleBits) : State :=
  let s := { s with cur := { a := a, hdr := w.extractLsb' 0 64, long := slotBits w 6, slot := 0 } }
  match decodeBundle (placeOf s a) w with
  | .error e => syncFault s a (illegalCode e.1) e.2 none
  | .ok b => issue s a (mvsOf b) (trsOf b)

/-- R145: a bundle of agent `a` comes to issue. -/
def execBundleIssue (a : Nat) (w : BundleBits) (s : State) : Host.Outcome State Fault Refusal :=
  if isIssuer a then .next (bundleIssue s a w) else .fault (.noSuchAgent a)

/-! ### The next bundle (R156, R183, R187, R188, R190) -/

/-- Counts a branch queue down: the entry that falls due, and the queue without it. -/
def countDown (q : List BrEntry) : Option BrEntry × List BrEntry :=
  let q := q.map fun e => { e with left := e.left - 1 }
  (q.find? fun e => e.left == 0, q.filter fun e => e.left != 0)

/-- A loop-end mark at its bundle's completion (R188): the loop-back target, and the loop stack. DESIGN CHOICE (log 169): a level that a mark pops is
cleared to zeros, as is every level above it, a fixed one among them, and one that `lbrk` pops keeps what it holds. -/
def applyMark (q : Seq) (lend : Nat) : Option Nat × Seq :=
  if lend = 0 then (none, q)
  else
    let l := lend - 1
    let e := loopOf q l
    if e.idx.toNat + 1 < e.cnt.toNat then
      (some e.start.toNat, { q with loops := kset {} q.loops l { e with idx := e.idx + 1 } })
    else if e.fixed then (none, { q with loops := kset {} q.loops l { e with idx := 0 } })
    else (none, { q with depth := l, loops := (List.range (q.depth - l)).foldl (fun m i => kset {} m (l + i) {}) q.loops })

/-- Where a zero-trip loop of the bundle goes on (R189). -/
def zeroTripOf (q : Seq) : Option Nat := q.after.findSome? fun
  | .zeroTrip n => some n
  | _ => none

/-- Counts the bundles in which a mark that names a popped level is ignored (R190). -/
def agePopped (q : Seq) : Seq := { q with popped := (q.popped.map fun p => (p.1, p.2 - 1)).filter fun p => p.2 ≠ 0 }

/-- The sequencer after a macro bundle with mark `lend` and new branches `newq` (R183, R187, R188): its next macro index. DESIGN CHOICE (log
147): a `sq.loop` bundle of count 0 is a delay bundle of a queued branch like any other; only the two idle cycles after it are none. -/
def macroNext (q : Seq) (lend : Nat) (newq : List BrEntry) (zero : Option Nat) : Nat × Seq :=
  let m := applyMark q lend
  let c := countDown q.bq
  let seq := (m.1.getD (zero.getD (q.pc.toNat + 1)))
  let q := agePopped { m.2 with bq := c.2 ++ newq, newq := [], lend := 0 }
  match c.1 with
  | some e => if e.swap then (e.target.toNat % 512, { q with half := !q.half, bq := [] }) else (e.target.toNat, q)
  | none => (seq, q)

/-- The sequencer after a bundle of a scene that is not its last: its next micro index (R192). -/
def microNext (q : Seq) (zero : Option Nat) : Seq :=
  let c := countDown q.mq
  { q with mq := c.2 ++ q.newq, newq := [], mpc := match c.1 with
      | some e => e.target.toNat
      | none => zero.getD (q.mpc + 1) }

/-- What comes after a bundle: the next bundle, none, or a fault of the bundle that has completed (R156, R188, R192). -/
inductive Follow where
  | next (q : Seq)
  | done (q : Seq)
  | fault (cause : Nat)

/-- A macro bundle has completed. -/
def followMacro (q : Seq) (limit lend : Nat) (newq : List BrEntry) (zero : Option Nat) : Follow :=
  let n := macroNext q lend newq zero
  if n.1 < limit then .next { n.2 with pc := BitVec.ofNat 16 n.1 } else .done { n.2 with pc := BitVec.ofNat 16 n.1 }

/-- The bundle in issue has completed its last cycle (R183). A scene call stays on its macro bundle until the scene ends. -/
def follow (s : State) (a : Nat) : Follow :=
  let q := (bk s a).q
  let zero := zeroTripOf q
  match q.scene with
  | some _ =>
    if !q.send then .next (microNext q zero)
    else
      let q := { q with scene := none, mpc := 0, mq := [] }
      if markOf q q.callLend = .bad then .fault 0x23
      else followMacro q (codeLimit (bk s a)) (if markOf q q.callLend = .ok then q.callLend else 0) q.callNewq none
  | none => match q.after.findSome? fun
      | .scene f => some f
      | _ => none with
    | some f => .next { q with scene := some f, mpc := 0, mq := [], callLend := q.lend, callBound := q.bound, callNewq := q.newq, newq := [] }
    | none => followMacro q (codeLimit (bk s a)) q.lend q.newq zero

/-- Whether the bundle that has completed ends an iteration (R37): its header, or that of the call whose scene ends, has a loop-end
level. -/
def endsIteration (q : Seq) : Bool :=
  match q.scene with
  | some _ => q.send && q.callBound
  | none => q.bound && (q.after.all fun
      | .scene _ => false
      | _ => true)

/-- An iteration boundary is passed; `first` is the cycle after it (R37, R38, R42). -/
def passBoundary (s : State) (a first : Nat) : State :=
  let s := modQ (modRun s a fun r => { r with iterStart := first, atBoundary := true, boundaries := r.boundaries + 1 }) a fun q => { q with owed := false }
  if (ag s a).flipBack || flipAwaited s a then sched s s.now priEnd .wingsFlipBack (.at a) else s

/-- The trap that the bundle raised by an operation, lowest cause first. -/
def trapAfter (l : List After) : Option (Nat × Option Word × Nat) :=
  l.foldl (fun m x => match x, m with
    | .trap c ad k, some y => if c < y.1 then some (c, ad, k) else some y
    | .trap c ad k, none => some (c, ad, k)
    | _, m => m) none

/-- `sy.yield`: the tile acknowledges to its cluster's controller, and the step is Yielded (R318, R376). -/
def yieldStep (s : State) (a : Nat) : State :=
  match (bk s a).run with
  | none => s
  | some r =>
    let s := modRun s a fun r => { r with going := false }
    -- the handler's cycles up to this one count (R319)
    let s := perfAdd s a 8 (s.now + 1 - (bk s a).q.trapFrom)
    let s := if isFaulted s r.key then s else setStepState s r.key .yielded
    sched (unitsStop s a) (s.now + 1) priEngine .copyOut (.at (tileCluster a))

/-- The cycles since the last iteration boundary, this one included, pass the declared maximum with a pre-emption pending (R38). -/
def iterationPassed (s : State) (a : Nat) (r : Run) : Bool :=
  (bk s a).c.ipend.getLsbD 3 && decide (r.maxIter < s.now + 1 - r.iterStart)

/-- What comes after a bundle whose successor issues at `earliest` (R38, R193, R194). A boundary of a bundle that now holds the tile is passed when its
hold ends (R37, R316), and a trap beside a zero-trip `sq.loop` is taken after the 2 cycles of that (R193). -/
def goOn (s : State) (a : Nat) (r : Run) (af : List After) (bound : Bool) (earliest : Nat) : State :=
  if iterationPassed s a r then takeFault s a 0x33 7#3 (bk s a).q.lastPc none s.now
  else
    let s := if !bound then s else if postHolds (bk s a).wait then modQ s a fun q => { q with owed := true } else passBoundary s a (s.now + 1)
    let s := if af.contains .iret then returnFromTrap s a else s
    match trapAfter af with
    | some (c, ad, k) =>
      if (bk s a).q.bundleEnd = s.now then takeTrap s a c (BitVec.ofNat 3 k) (bk s a).q.lastPc ad s.now
      else schedIssue (modQ s a fun q => { q with after := [.trap c ad k] }) a earliest
    | none => schedIssue s a earliest

/-- A task that the step has spawned found its target's queue full: the tile holds until it is taken (R46, R237). -/
def spawnHeld (s : State) (a : Nat) : Bool :=
  let ch := kget {} (ag s a).chans 3
  ch.refused.any fun r => !ch.untold.contains r.1.id && r.1.step == stepOf s a && (match r.1.kind with
    | .spawn _ _ _ _ => true
    | _ => false)

/-- The step reaches Done, unless its retire record must wait for the ring: then its last bundle is held for a cycle, and ends as `s0` had it
(R113, R122). -/
def finishStep (s0 s : State) (a : Nat) (r : Run) : State :=
  if journalHeld s r.key then sched (chargeDelay s0 a) (s0.now + 1) priEnd .bundleComplete (.at a) else stepDone s a

/-- The step's last bundle has completed, as `s` has it (R35, R38, R193, R196, R216, R316): its iteration may have passed the maximum, and a trap of it, a
refusal that has come, or a hold of it keeps the step from Done. DEDUCED (log 23): what a trap or a refusal keeps back ends the step when its handler
returns. -/
def lastBundle (s0 s : State) (a : Nat) (r : Run) (trap : Option (Nat × Option Word × Nat)) : State :=
  if iterationPassed s a r then takeFault s a 0x33 7#3 (bk s a).q.lastPc none s.now
  else match trap with
    | some (c, ad, k) => takeTrap (modQ s a fun q => { q with ended := true }) a c (BitVec.ofNat 3 k) (bk s a).q.lastPc ad s.now
    | none =>
      if (bk s a).dfaults.isEmpty && !postHolds (bk s a).wait && !spawnHeld s a then finishStep s0 s a r
      else schedIssue (modQ s a fun q => { q with ended := true }) a (s.now + 1)

/-- A bundle's last cycle completes (R183, R193 to R196). DESIGN CHOICE (log 23): a `sq.halt` beside an operation that traps ends the step, and the trap is
not taken. -/
def bundleComplete (s : State) (a : Nat) : State :=
  match (bk s a).run with
  | none => s
  | some r =>
    let s0 := s
    let s := endBundle s a
    let q := (bk s a).q
    let af := q.after
    if !r.going then s
    else if af.contains .halt then lastBundle s0 (modQ s a fun q => { q with after := [] }) a r none
    else if af.contains .yield then yieldStep (modQ s a fun q => { q with after := [] }) a
    else
      let bound := endsIteration q
      let earliest := if af.contains .ifence then s.now + 8 else if (zeroTripOf q).isSome then s.now + 3 else s.now + 1
      match follow s a with
      | .fault c => takeFault s a c 7#3 q.lastPc none s.now
      | .done q' =>
        let t := modQ s a fun _ => { q' with after := [], send := false, bound := false, notBefore := earliest, bundleEnd := s.now }
        if af.contains .iret then goOn t a r af bound earliest else lastBundle s0 t a r (trapAfter af)
      | .next q' =>
        goOn (modQ s a fun _ => { q' with after := [], send := false, bound := false, notBefore := earliest,
                                          bundleEnd := if (zeroTripOf q).isSome then s.now + 2 else s.now }) a r af bound earliest

/-- R183: a bundle's last cycle completes. -/
def execBundleComplete (s : State) : Host.Outcome State Fault Refusal :=
  match s.occ with
  | .at a => .next (bundleComplete s a)
  | _ => .refused (.noOccasion "BUNDLE_COMPLETE")

/-! ### Results -/

/-- The results of a unit that are due land in the bank of their step (R41, R146, R149, R150). -/
def resultLanding (s : State) (a : Nat) (u : Sock) : State :=
  modAg s a fun g => { g with front := landUnit g.front s.now u, wings := landUnit g.wings s.now u }

/-- R146: results fall due. -/
def execResultLanding (s : State) : Host.Outcome State Fault Refusal :=
  match s.occ with
  | .unit a u => .next (resultLanding s a u)
  | _ => .refused (.noOccasion "RESULT_LANDING")

/-! ### Fetch (R181, R182, R192) -/

/-- What a fetch finds: a bundle, a line that must come first, or a fault. -/
inductive Fetched where
  | bits (w : BundleBits) (s : State)
  | miss (line : Nat)
  | fault (cause : Nat)

/-- Bundle `k` of a line. -/
def lineBundle (r : Row) (k : Nat) : BundleBits := (r >>> (512 * k)).setWidth 512

/-- A fetch from the tile's own stores: the sequencer's copy of the line, if it has one, or else the line. After a store with no
`sq.ifence` between, either is returned (R182). -/
def fetchLocal (s : State) (a key off : Nat) : Fetched :=
  let idx := off / 64
  let now := BitVec.ofNat 2048 ((List.range 256).foldr (fun i acc => (readRaw s (a * 2 ^ 21 + off / 256 * 256 + i)).toNat + 256 * acc) 0)
  if kget false s.poison (a * 2 ^ 15 + idx) then .fault 0x4E
  else
    let put := fun (s : State) => modQ s a fun q => { q with lines := kset none q.lines key (some now) }
    match kget none (bk s a).q.lines key with
    | none => .bits (lineBundle now (idx % 4)) (put s)
    | some old =>
      if old = now then .bits (lineBundle now (idx % 4)) s
      else
        let d := draw s
        if Config.freeBool d.1 then .bits (lineBundle now (idx % 4)) (put d.2) else .bits (lineBundle old (idx % 4)) d.2

/-- The SRAM address of the bundle that a tile fetches from its own stores. -/
def fetchAddr (s : State) (a : Nat) : Nat :=
  let q := (bk s a).q
  a * 2 ^ 21 + match q.scene with
    | some f => 0x190000 + 64 * (f + q.mpc)
    | none => 0x180000 + 64 * ((if q.half then 512 else 0) + q.pc.toNat)

def fetch (s : State) (a : Nat) : Fetched :=
  let b := bk s a
  match b.q.scene with
  | some f =>
    let j := f + b.q.mpc
    if j < 256 then fetchLocal s a (256 + j / 4) (0x190000 + 64 * j) else .fault 0x21
  | none =>
    if isOverlay b.q then
      let j := (if b.q.half then 512 else 0) + b.q.pc.toNat
      fetchLocal s a (j / 4) (0x180000 + 64 * j)
    else match kget none b.q.lines (320 + b.q.pc.toNat / 4) with
      | some r => .bits (lineBundle r (b.q.pc.toNat % 4)) s
      | none => .miss (b.q.pc.toNat / 4)

/-- The lane by which a line is fetched (R182): a booked step's lowest-numbered one whose window it holds now, or the one that `any` would choose. -/
def lineLane (s : State) (a : Nat) : Option Nat :=
  if isTile a && isBooked s a then (List.range 8).find? fun l => useOk s a (ridLane (tileCluster a) l) s.now
  else some (freestLane s (engineOf a))

/-- The lane moves the four units of a line before its commands go on, from the first slot on that nobody else holds (R66, R182, R286). -/
def takeLane (s : State) (a l : Nat) : State :=
  let t := if isTile a then (homeWait s (stepOf s a) (ridLane (tileCluster a) l)).getD s.now else s.now
  modLane s (engineOf a) l fun u => { u with line := max u.line t + 4 }

/-- Address and length of line `n` of a step's code. -/
def lineSpan (r : Run) (n : Nat) : Nat × Nat := (r.codeVa + 256 * n, min 256 (64 * (r.codeLen - 4 * n)))

/-- The places in HBM of a line's 64-byte units. -/
def lineUnits (s : State) (r : Run) (n : Nat) : List Nat :=
  let x := lineSpan r n
  (List.range ((x.2 + 63) / 64)).filterMap fun i => match translateIo s r.slot (x.1 + 64 * i) false with
    | .ok p => if p.host then none else some p.pa
    | .error _ => none

/-- The places of a line's units, as a reader of them meets them. -/
def lineLocs (s : State) (r : Run) (n : Nat) : List (Loc × Nat) := (lineUnits s r n).map fun pa => (.mem false pa none 0, 64)

/-- A line that missed sets out (R182); a booked step that holds no lane's window overruns. A booked step's line is read in the first cycle in which nobody
else holds its channels, a use of its HBM windows, and is back 512 cycles later (R66, R74); the host's copies are recalled first (R412). -/
def startLine (s : State) (a n : Nat) : State :=
  let s := match lineLane s a with
    | some l => takeLane s a l
    | none => overrun s a 0x50
  match (bk s a).run with
  | some r =>
    if !r.going then s
    else
      let s := modBk s a fun b => { b with wait := .line n }
      let d := if isBooked s a then
          let w := (recallAll s a r.key false (lineLocs s r n)).getD (0, s)
          let c := ((lineUnits s r n).map ridHbm).foldl (fun m x => max m ((homeWait s r.key x).getD 0)) (s.now + w.1)
          (c - s.now + 512, (lineUnits s r n).foldl (fun s pa => hbmUse s a 0 pa 1 c) w.2)
        else freeDelay s
      schedIssue (sched d.2 (s.now + d.1) priLand .lineFetchComplete (.at2 a n)) a (s.now + 1)
  | none => s

/-- `n` bytes at a virtual address of the agent's slot through its engine; a cause where some page does not translate. -/
def fetchVa (s : State) (a slot va : Nat) : Nat → State × Except Nat Nat
  | 0 => (s, .ok 0)
  | n + 1 =>
    let t := translate s (engineOf a) slot va false
    match t.2 with
    | .error c => (t.1, .error c)
    | .ok (p, _) =>
      if !p.host && !paOk p.pa then (t.1, .error 0x42)
      else if !p.host && hpoisonedRange s (hbmFront s p.pa) 1 then (t.1, .error 0x4F)
      else
        let r := fetchVa t.1 a slot (va + 1) n
        (r.1, match r.2 with
          | .ok v => .ok (physByte s p + 256 * v)
          | .error c => .error c)

/-- The line arrives, and issue resumes (R182); a translation that fails is the tile's fault (R380). An unbooked step's line is read in a slot that nobody
holds (R66, R75). -/
def lineFetchComplete (s : State) (a n : Nat) : State :=
  match (bk s a).run with
  | none => s
  | some r =>
    match if isBooked s a then none else keptOf s r.key ((lineUnits s r n).map ridHbm), recallAll s a r.key false (lineLocs s r n) with
    | some w, _ => sched (ageKept s a r.key w.2 (some w.1)) w.2 priLand .lineFetchComplete (.at2 a n)
    | none, some d => sched d.2 (s.now + max 1 d.1) priLand .lineFetchComplete (.at2 a n)
    | none, none =>
    let s := (lineLocs s r n).foldl (fun s l => meetLoc s l.1 l.2) s
    let va := (lineSpan r n).1
    let f := fetchVa s a r.slot va (lineSpan r n).2
    let s := modBk f.1 a fun b => { b with wait := if b.wait = .line n then .none else b.wait }
    match f.2 with
    | .ok v => modQ s a fun q => { q with lines := kset none q.lines (320 + n) (some (BitVec.ofNat 2048 v)) }
    | .error c =>
      let s := if c = 0x4F ∨ c = 0xA4 then holdSlot s r.slot else s
      modBk s a fun b => { b with dfaults := b.dfaults ++
        [{ cause := c, addr := va, org := orgOf s a 7, id := 0, va := if 0xA0 ≤ c then some (va, false) else none }] }

/-- R182: a line that missed has been fetched. -/
def execLineFetchComplete (s : State) : Host.Outcome State Fault Refusal :=
  match s.occ with
  | .at2 a n => .next (lineFetchComplete s a n)
  | _ => .refused (.noOccasion "LINE_FETCH_COMPLETE")

/-! ### Interrupts (R38, R316) -/

/-- A switch by deadline ends the tile's hold at a curtain: it takes the pre-emption interrupt, and waits again on resume (R420). DESIGN CHOICE (log
186): also where the tile waits in a scene, inside which R157 lets no pre-emption fall. -/
def curtainCut (s : State) (a : Nat) : Bool :=
  let b := bk s a
  (curtainWait b.wait).isSome && b.c.ipend.getLsbD 3 && !b.q.intrap && b.run.any fun r => deadlineCut s r.slot

/-- The interrupt that an agent may take now, in the order of R316. -/
def irqReady (s : State) (a : Nat) : Option Irq :=
  let b := bk s a
  let bound := match b.run with
    | some r => r.atBoundary && b.q.scene.isNone
    | none => false
  if b.q.intrap then none
  else if b.c.ipend.getLsbD 2 then some .debug
  else if b.c.ipend.getLsbD 3 && (bound || curtainCut s a) then some .preempt
  else if b.c.ipend.getLsbD 0 && b.c.ien.getLsbD 0 then some .gtCompare
  else if b.c.ipend.getLsbD 1 && b.c.ien.getLsbD 1 then some .message
  else none

def irqCause : Irq → Nat
  | .debug => 0x10 | .preempt => 0x11 | .gtCompare => 0x12 | .message => 0x13

/-- An interrupt is taken before the next bundle (R151, R193, R316): t0 is the last cycle of the bundle before it, and the pending bits of debug
and pre-emption clear. A step with a booking, begun or still to come, that is pre-empted releases its holdings from the next slot and books them afresh
as it comes back (R40, R71). -/
def interruptTake (s : State) (a : Nat) (i : Irq) : State :=
  let s := modC s a fun c => { c with ipend := match i with
    | .debug => c.ipend &&& 0b1011#4
    | .preempt => c.ipend &&& 0b0111#4
    | _ => c.ipend }
  let s := modBk s a fun b => { b with wait := match b.wait with
    | .idle => .none
    | w => w }
  let s := match i, (bk s a).run with
    | .preempt, some r => (match r.booking with
      | some b =>
        -- the slot of the boundary's cycle, which may lie before this one
        let n := (gtOf s - (s.now + 1 - r.iterStart)) / 16 + 1
        releaseBooking (modStep s r.key fun x => { x with remain := some (remainingCues b n) }) r.key b n
      | none => s)
    | _, _ => s
  takeTrap s a (irqCause i) 7#3 (bk s a).q.lastPc none (lastCycle s a)

/-- R316: a pending interrupt is taken. -/
def execInterruptTake (s : State) : Host.Outcome State Fault Refusal :=
  match s.occ with
  | .irq a i => .next (interruptTake s a i)
  | _ => .refused (.noOccasion "INTERRUPT_TAKE")

/-- R38: with pre-emption pending, the cycles since the last boundary pass the declared maximum. -/
def iterationOverrun (s : State) (a : Nat) : State := syncFault s a 0x33 7 none

def execIterationOverrun (s : State) : Host.Outcome State Fault Refusal :=
  match s.occ with
  | .at a => .next (iterationOverrun s a)
  | _ => .refused (.noOccasion "ITERATION_OVERRUN")

/-- An armed compare pends its interrupt once GT has come (R316, R321). -/
def gtComparePend (s : State) (a : Nat) : State :=
  let c := (bk s a).c
  let g := c.gtcmphi.toNat * 2 ^ 32 + c.gtcmplo.toNat
  if !c.armed then s
  else if gtOf s < g then sched s (max (s.now + 1) (cycleOf s g)) priBegin .gtComparePend (.at a)
  else modC s a fun c => { c with ipend := c.ipend ||| 1#4 }

def execGtComparePend (s : State) : Host.Outcome State Fault Refusal :=
  match s.occ with
  | .at a => .next (gtComparePend s a)
  | _ => .refused (.noOccasion "GT_COMPARE_PEND")

/-! ### Deferred faults (R216, R381) -/

/-- An unbooked step that meets a translation fault under a pager region parks: its tile flips to wings once the rest of its operations are
performed, and a dock core holds its task (R42, R381). -/
def park (s : State) (a : Nat) (r : Run) (f : DFault) (va : Nat) (write : Bool) (idx pager : Nat) : State :=
  let s := upcall s r.slot a f.cause va idx pager write
  let s := setStepState (modRun s a fun r => { r with going := false }) r.key .parked
  if isDock a then s
  else
    let t0 := lastCycle s a
    sched (modX s a fun x => capture x t0) (s.now + 1) priEngine .stepTurn (.at a)

/-- A deferred fault at the bundle boundary: it parks the step, or traps, or in a handler makes the step Faulted at once (R216, R381). DESIGN CHOICE (log
174): a restart's effect that its journal does not match, and that the step's bundle had issued already, keeps the next bundle from issuing (R123,
R387). DESIGN CHOICE (log 186): a fault that a pager region covers makes the step Faulted where its tile already keeps a Parked step in wings. -/
def takeDeferred (s : State) (a : Nat) (f : DFault) : State :=
  match (bk s a).run with
  | none => s
  | some r =>
    let fault := if (bk s a).q.intrap then markFaulted s a f.cause f.addr else takeFault s a f.cause f.org.slot f.org.pc (some f.addr) (lastCycle s a)
    match f.va with
    | none => if f.cause = 0x63 then syncFault s a 0x63 7 none else fault
    | some (va, w) => match pagerRegion s r.slot va with
      | none => fault
      | some (i, p) => if isBooked s a || (ag s a).wings.run.isSome && (match (ag s a).wings.run with
            | some x => stepStOf s x.key == .parked
            | none => false) then fault else park s a r f va w i p

/-- A step that is Parked faults: a command accepted again has failed (R35, R382). Its record names the bundle at which it stands (R389). -/
def faultParked (s : State) (a : Nat) (r : Run) (f : DFault) : State :=
  let q := (if (bk s a).run.any (·.key == r.key) then (ag s a).front else (ag s a).wings).q
  let mpc := if q.scene.isSome then q.mpc % 256 else 0
  let off := fun (b : Bank) => if b.run.any (·.key == r.key) then { b with run := b.run.map fun r => { r with going := false } } else b
  let s := modAg s a fun g => { g with front := off g.front, wings := off g.wings, flipBack := false }
  errorRecord (noteFault (setStepState s r.key (.faulted f.cause)) r.key f.cause)
    { cause := f.cause, faulted := true, slot := r.slot, agent := a, addr := f.addr, pos := r.key.pos, round := r.key.round, wave := r.key.wave,
      detail := (macroPos q).toNat + 2 ^ 32 * mpc + 2 ^ 40 * f.org.slot.toNat + 2 ^ 64 * f.org.pc.toNat }

/-- A fault that a pager region covers reaches a step that is Parked already, whose command is kept (R381): the outstanding Resume accepts it again, and a
step that has been resumed has another parked fault (R382). -/
def parkedAgain (s : State) (a : Nat) (r : Run) (f : DFault) : State :=
  match f.va with
  | none => faultParked s a r f
  | some (va, w) => match pagerRegion s r.slot va with
    | none => faultParked s a r f
    | some (i, p) =>
      if f.id ≠ 0 then faultParked s a r f
      else if r.resumed then
        upcall (modRunOf (modAg s a fun g => { g with flipBack := false }) a r.key fun x => { x with resumed := false }) r.slot a f.cause va i p w
      else s

/-- A refusal reaches the tile of the step that triggered the operation, whose sync wait on it ends. A step that is over has no tile to
trap on, and an error record is written instead. -/
def deferredFault (s : State) (a : Nat) (f : DFault) : State :=
  let owns := fun (b : Bank) => match b.run, f.step with
    | some r, some k => r.key == k
    | some _, none => true
    | none, _ => false
  let s := if f.id = 0 then s else dropResults s a f.id
  let add := fun (b : Bank) => { dropWait (· == .sync f.id) b with dfaults := b.dfaults ++ [f] }
  let parked := [(ag s a).front, (ag s a).wings].find? fun b => owns b && b.run.any fun r => stepStOf s r.key == .parked
  if let some r := parked.bind (·.run) then parkedAgain s a r f
  else if owns (ag s a).front then modAg s a fun g => { g with front := add g.front }
  else if owns (ag s a).wings then modAg s a fun g => { g with wings := add g.wings }
  else
    let k := f.step.getD { pos := 0xFFFFFFFF }
    errorRecord s { cause := f.cause, slot := slotFor s a f.step, agent := a, addr := f.addr, pos := if k.task then 0xFFFFFFFF else k.pos,
                    round := k.round, wave := k.wave }

/-- R216: a refusal reaches the issuing tile. -/
def execDeferredFault (s : State) : Host.Outcome State Fault Refusal :=
  match s.occ with
  | .dfault a f => .next (deferredFault s a f)
  | _ => .refused (.noOccasion "DEFERRED_FAULT")

/-! ### An issue cycle -/

/-- What an agent's issue cycle comes to: an instruction to execute, or nothing. -/
inductive Turn where
  | stay (s : State)
  | run (i : Instr) (s : State)

/-- Whether a wait is over (R224, R236, R308, R311, R314 to R318). -/
def waitOver (s : State) (a : Nat) : Bool :=
  match (bk s a).wait with
  | .none => true
  | .gt _ => true
  | .idle => true
  | .cue t => t ≤ s.now
  | .usr t => t ≤ s.now
  | .curtain _ => curtainCut s a
  | .loam => !(lmOf s a).running
  | _ => false

/-- What a wait that still holds the tile is charged to. -/
def waitHold (w : Wait) : Hold :=
  match w with
  | .sync _ => .sync
  | .tree _ _ _ => .sync
  | .curtain _ => .curtain
  | .cue _ | .loam | .drain _ _ _ | .usr _ | .stores _ _ _ | .image _ _ _ _ => .lock
  | _ => .quiet

/-- Whether a wait lengthens the bundle that has issued: all but those for a line and for a bank flip. -/
def bundleHolds : Wait → Bool
  | .line _ => false
  | .flip => false
  | _ => true

/-- A bank whose step waits at a curtain that has been released, and the mode of the wait's result. -/
def curtainGone (b : Bank) : Option Bool := if b.curtain.any (·.released) then curtainWait b.wait else none

/-- The step's last bundle has completed, and no hold of it is left (R35, R316). -/
def mayEnd (s : State) (a : Nat) : Bool :=
  (bk s a).q.ended && (!postHolds (bk s a).wait || (waitOver s a && (curtainWait (bk s a).wait).isNone)) && !spawnHeld s a

/-- A step whose last bundle has completed reaches Done, unless its retire record must wait for the ring (R35, R113, R122). -/
def endTurn (s : State) (a : Nat) (r : Run) : State := if journalHeld s r.key then holdCycle (endBundle s a) a .log else stepDone s a

/-- The agent's next issue cycle has come. -/
def issueTurn (s : State) (a : Nat) : Turn :=
  let s := modAg s a fun g => { g with queued := false }
  let g := ag s a
  let b := bk s a
  match b.run with
  | none => .stay s
  | some r =>
    if !r.going || g.flip.isSome || g.halted.isSome then .stay s
    else if s.now < b.q.notBefore then .stay (schedIssue s a b.q.notBefore)
    else if b.q.owed && waitOver s a then .stay (schedIssue (passBoundary s a s.now) a s.now)
    else match b.dfaults with
      | f :: fs => .stay (takeDeferred (modBk s a fun b => { b with dfaults := fs }) a f)
      | [] =>
        if let some (c, ad, k) := trapAfter b.q.after then
          .stay (takeTrap (modQ s a fun q => { q with after := [] }) a c (BitVec.ofNat 3 k) b.q.lastPc ad (lastCycle s a))
        else if mayEnd s a then .stay (endTurn s a r)
        else if iterationPassed s a r && irqReady s a != some .preempt then .run .iterationOverrun { s with occ := .at a }
        -- a curtain released while a handler ran ends the hold that comes back with the return
        else if let some m := curtainGone b then .stay (schedIssue (endCwait s a b.c.act s.now m) a s.now)
        else if !waitOver s a then .stay (holdCycle (waitTurn (if bundleHolds b.wait then endBundle s a else s) a) a (waitHold b.wait))
        else match irqReady s a with
          | some i => .run .interruptTake { s with occ := .irq a i }
          | none => match b.wait with
            | .idle => .stay (schedIssue (endBundle s a) a (s.now + 1))
            | w =>
              let late := match w with
                | .gt t => decide (gtOf s < t)
                | _ => false
              if late then .stay (schedIssue (endBundle s a) a (s.now + 1))
              else if spawnHeld s a then .stay (holdCycle (endBundle s a) a .spawn)
              else
                let s := modBk s a fun b => { b with wait := .none }
                match fetch s a with
                | .fault c => .stay (syncFault s a c 7 (if c = 0x4E then some (wd (fetchAddr s a)) else none))
                | .miss n => .stay (startLine s a n)
                | .bits x s => .run (.bundleIssue a x) s

end Sys2Proof.Machine
end

