-- ==== Sys2Proof/Machine/Debug.lean ====
section
/-! DEFINITION. Errors and debugging (R388 to R401): ECC and scrubbing, halt and resume, access to a halted tile, the code-write path, and
sampling. -/

namespace Sys2Proof.Machine

/-! ### ECC and scrubbing (R390 to R393) -/

/-- Where an array's scrubbing stands, among its `n` lines: every array moves on with each round, but for those that are behind or ahead. -/
def scrubPos (s : State) (key n : Nat) : Nat := (kget 0 s.scrubAt key + s.scrubRounds) % n

/-- An array is scrubbed one line on (R391). -/
def scrubStep (s : State) (t : Nat) (a : SramArray) (o : EccOutcome) : State :=
  let key := arrayKey t a
  match arrayLines a with
  | none => (match o with
    | .clean => s
    | .corrected bit => correctedError s key 0xB8 0 0 (arrayCode a) 0 bit
    | .uncorrectable => hardError s key 0xB9 0 0 (arrayCode a) 0)
  | some (first, n) =>
    let line := t * 2 ^ 15 + first + scrubPos s key n
    let s := { s with scrubAt := kset 0 s.scrubAt key ((kget 0 s.scrubAt key + 1) % n), flaws := kset .clean s.flaws line .clean }
    match o with
    | .clean => if kget false s.poison line then hardError s key 0xB9 (tagOf s line) (64 * line) (arrayCode a) (arrayBank a) else s
    | .corrected bit => correctedError s key 0xB8 (tagOf s line) (64 * line) (arrayCode a) (arrayBank a) bit
    | .uncorrectable => hardError { s with poison := kset false s.poison line true } key 0xB9 (tagOf s line) (64 * line) (arrayCode a) (arrayBank a)

/-- An array waits for a cycle of its bank that no access takes and no booking holds, and is then scrubbed (R391). -/
def scrubTry (s : State) (line : Nat) : State :=
  let t := line / 2 ^ 15
  let a := lineArray (line % 2 ^ 15)
  let taken := match a with
    | .dataBank b => bankTaken s (bankKey (64 * line)) || (calAt s (ridTile 4 t b) (slotNow s)).isSome
    | _ => false
  if taken then sched s (s.now + 1) (priEnd - 4) .scrubStep (.at line) else scrubStep s t a (kget .clean s.flaws line)

/-- The scrub of a line is on its way. -/
def scrubComes (s : State) (line : Nat) : Bool := s.agenda.any fun e => match e.what with
  | .ev .scrubStep (.at l) => l == line
  | _ => false

/-- A cell has flipped: a free line of SRAM or unit of HBM now holds an error, corrected or not, or an array that holds no lines has had one.
DESIGN CHOICE (log 173): when errors arise, which the spec does not say, is decided once in every round. -/
def strike (s : State) : State :=
  let d := draw s
  let w := (Config.freeWord d.1).toNat
  let o : EccOutcome := if w.testBit 1 then .uncorrectable else .corrected (w / 4 % 512)
  let x := w / 2 ^ 12
  if !Config.freeBool d.1 then d.2
  else if w.testBit 0 then { d.2 with hflaws := kset .clean d.2.hflaws (x % (12 * 2 ^ 31)) o }
  else match lineArray (x % 2 ^ 15) with
    | .tlb => sched d.2 d.2.now (priEnd - 4) .scrubStep (.scrub (x / 2 ^ 15 % 2048) .tlb o)
    | _ => { d.2 with flaws := kset .clean d.2.flaws (x % 2 ^ 26) o }

/-- A round of scrubbing: each array comes to its next line, and one that has something to find there waits for a free cycle of its bank (R391). -/
def scrubRound (s : State) : State :=
  let s := sched s (s.now + 256) (priEnd - 5) .scrubStep .none
  let s := strike s
  let here := fun (line : Nat) => match arrayLines (lineArray (line % 2 ^ 15)) with
    | some (first, n) => line % 2 ^ 15 == first + scrubPos s (arrayKey (line / 2 ^ 15) (lineArray (line % 2 ^ 15))) n
    | none => false
  let found := (s.flaws.map (·.1) ++ (s.poison.filter (·.2)).map (·.1)).eraseDups.filter here
  let s := found.foldl (fun s line =>
    let a := lineArray (line % 2 ^ 15)
    let key := arrayKey (line / 2 ^ 15) a
    let n := ((arrayLines a).map (·.2)).getD 1
    let s := { s with scrubAt := kset 0 s.scrubAt key ((kget 0 s.scrubAt key + n - 1) % n) }
    if scrubComes s line then s else sched s s.now (priEnd - 4) .scrubStep (.at line)) s
  { s with scrubRounds := s.scrubRounds + 1 }

/-- R391: an SRAM array scrubs a line; a round of all arrays; or one waits for a free cycle. -/
def execScrubStep (s : State) : Host.Outcome State Fault Refusal :=
  match s.occ with
  | .scrub t a o => .next (scrubStep s t a o)
  | .at line => .next (scrubTry s line)
  | .none => .next (scrubRound s)
  | _ => .refused (.noOccasion "SCRUB_STEP")

/-- Where a pseudo-channel's scrubbing stands, in steps of 512 bytes. -/
def hscrubPos (s : State) (key : Nat) : Nat := (kget 0 s.scrubAt key + s.hscrubRounds) % 2 ^ 21

/-- A pseudo-channel scrubs the sixteen units of its next 512 bytes: every error that stands in one is corrected or poisons it, and poison is
recorded (R391, R392). -/
def hbmScrub (s : State) (stack chan pc : Nat) : State :=
  let key := hbmKey stack chan pc
  let at_ := hscrubPos s key
  let units := (List.range 16).map fun i => pcAddr stack chan pc (512 * at_ + 32 * i) / 32
  units.foldl (fun s u => match kget .clean s.hflaws u with
    | .clean => if kget false s.hpoison u then recordUnit s (32 * u) else s
    | o => unitError s u o) { s with scrubAt := kset 0 s.scrubAt key ((kget 0 s.scrubAt key + 1) % 2 ^ 21) }

/-- A round of the HBM's refresh: each pseudo-channel scrubs 512 bytes in its band, and one that has something to find there does so as an event of its
own (R75, R391). -/
def hscrubRound (s : State) : State :=
  let s := sched s (max (s.now + 1) (cycleOf s ((gtOf s / 8192 + 1) * 8192))) (priEnd - 5) .hbmScrub .none
  let found := (s.hflaws.map (·.1) ++ (s.hpoison.filter (·.2)).map (·.1)).filter fun u => pcOff (32 * u) / 512 == hscrubPos s (pcKey (32 * u))
  let s := found.foldl (fun (acc : State × List Nat) u =>
    let pa := 32 * u
    let key := pcKey pa
    if acc.2.contains key then acc
    else
      let st := pa / 2 ^ 36
      let ch := pa / 2 ^ 16 % 32
      let pc := pa / 2 ^ 8 % 2
      let s := { acc.1 with scrubAt := kset 0 acc.1.scrubAt key ((kget 0 acc.1.scrubAt key + 2 ^ 21 - 1) % 2 ^ 21) }
      (sched s (s.now + 16 * ((16 * ch + 8 * pc) % 512)) (priEnd - 4) .hbmScrub (.hbmScrub st ch pc), key :: acc.2)) (s, [])
  { s.1 with hscrubRounds := s.1.hscrubRounds + 1 }

/-- R391: a pseudo-channel scrubs in a refresh band; or a round of all bands. -/
def execHbmScrub (s : State) : Host.Outcome State Fault Refusal :=
  match s.occ with
  | .hbmScrub st c p => .next (hbmScrub s st c p)
  | .none => .next (hscrubRound s)
  | _ => .refused (.noOccasion "HBM_SCRUB")

/-! ### Where an entry of the agenda acts (R395) -/

/-- The agent at whose ports a packet arrives. -/
def pktAgent (p : Pkt) : Option Nat :=
  match p.kind with
  | .put addr _ _ => some (addrTile addr)
  | .putb addr _ _ => some (addrTile addr)
  | .send peer _ _ _ _ _ => some peer
  | .spawn t _ _ _ => some t
  | .event w => some (w.toNat / 2 ^ 33 % 2048)
  | .mxcmd t _ _ _ => some t
  | .reduce _ _ _ _ => none
  | .bcast _ _ _ => none

/-- Events whose occasion names a tile or dock core by itself. -/
def isAgentEvent : Instr → Bool
  | .bundleComplete => true | .iterationOverrun => true | .slackExhausted => true | .flitInject => true | .stepTurn => true | .stepLoaded => true
  | .bankFlipComplete => true | .wingsFlipBack => true | .taskStart => true | .vnestComplete => true | .copyRowWrite => true
  | _ => false

/-- Events whose occasion names a tile, dock core or copy engine first. -/
def isAgentEvent2 : Instr → Bool
  | .lineFetchComplete => true | .lockGrantArrival => true | .fanoutQueueTimeout => true | .deliveryPass => true | .mxCommandComplete => true
  | .mxLoadStart => true | .mxArraySelect => true | .resend => true | .stepLoadStart => true | .cceAccept => true | .copyComplete => true
  | .publishReady => true | .tlbinvComplete => true | .tlbpinComplete => true | .bookingEndPassed => true
  | _ => false

/-- Events of a copy engine's lanes. -/
def isLaneEvent : Instr → Bool
  | .timedCopyStart => true | .copyRowWrite => true
  | _ => false

/-- The tile, dock core or copy engine whose work an entry is; what happens at a home, a router or the I/O die is no such work. -/
def entryAgent (e : Entry) : Option Nat :=
  match e.what with
  | .issue a => some a
  | .ev i o => match o with
    | .at a => if isAgentEvent i then some a else none
    | .at2 a _ => if isAgentEvent2 i then some a else none
    | .at3 a _ _ => if isLaneEvent i then some a else none
    | .unit a _ => some a
    | .reply a _ _ => some a
    | .irq a _ => some a
    | .dfault a _ => some a
    | .handle a _ _ _ => some a
    | .pkt p => if i = .refusalArrival then some p.agent else pktAgent p
    | .pktPos p _ => some p.agent
    | _ => none

/-- An entry that comes to a halted tile from another agent, and waits at its ports, or that stands at a GT: a resume does not put it off (R22, R65, R68,
R395). -/
def portEntry (s : State) (e : Entry) : Bool :=
  match e.what with
  | .issue _ => false
  | .ev i o => match o with
    | .reply _ _ _ | .pkt _ | .pktPos _ _ | .handle _ _ _ _ => true
    | .dfault _ f => f.id != 0
    | .at a => i == .stepLoaded && (bk s a).run.any fun r => r.booking.isSome && !r.begun
    | .at2 a n => i == .lockGrantArrival || i == .bookingEndPassed || (i == .stepLoadStart && s.steps.any fun r =>
        r.key.tile == a && r.st == .committed && r.booking.any fun b => b.s == n)
    | _ => false

/-- The cluster of a tile or copy engine. -/
def clusterOfAgent (a : Nat) : Option Nat := if isTile a then some (tileCluster a) else if 2112 ≤ a ∧ a < 2624 then some (a - 2112) else none

def isHalted (s : State) (g : Nat) : Bool := (ag s (clusterTile g 0)).halted.isSome

/-- The halted cluster whose work an entry is. -/
def frozenAt (s : State) (e : Entry) : Option Nat := ((entryAgent e).bind clusterOfAgent).filter (isHalted s)

/-! ### Halt, resume and triggers (R395 to R397) -/

/-- A halt of cluster `g`: its tiles and its copy engine stop at the end of this cycle; with `xout` it triggers its group. -/
def halt (s : State) (g why src : Nat) : State :=
  if isHalted s g then s
  else
    let s := (clusterTiles g).foldl (fun s t => modAg s t fun a => { a with halted := some s.now }) s
    let mine := fun (e : Entry) => (entryAgent e).bind clusterOfAgent == some g && decide (s.now < e.at_)
    let s := { s with frozen := s.frozen ++ (s.agenda.filter mine).map (fun e => (g, e)), agenda := s.agenda.filter fun e => !mine e }
    let s := setRegF (setRegF (setRegF s (dbgReg g 8) 5 0 0x3F) (dbgReg g 8) 7 6 why) (dbgReg g 8) 40 32 src
    if regF s (dbgReg g 0) 4 4 = 1 then
      [0, 1, 2, 3].foldl (fun s die =>
        let near := die == g / 128
        let n := 1 + Config.freeLatency s.free % (if near then 64 else 192)
        sched { s with free := s.free + 1 } (s.now + n) priEnd .crossTrigger (.at3 g die src)) s
    else s

/-- R395: a halt request. -/
def execDbgHalt (s : State) : Host.Outcome State Fault Refusal :=
  match s.occ with
  | .at2 g why => .next (halt s g why g)
  | .at3 g why src => .next (halt s g why src)
  | _ => .refused (.noOccasion "DBG_HALT")

/-- The trigger of cluster `g`'s group reaches a die: every cluster of it with `xin` halts. -/
def crossTrigger (s : State) (g die src : Nat) : State :=
  let group := regF s (dbgReg g 0) 23 16
  ((List.range 128).map (128 * die + ·)).foldl (fun s c =>
    if c ≠ g ∧ regF s (dbgReg c 0) 5 5 = 1 ∧ regF s (dbgReg c 0) 23 16 = group then halt s c 2 src else s) s

/-- R397: a group's trigger. -/
def execCrossTrigger (s : State) : Host.Outcome State Fault Refusal :=
  match s.occ with
  | .at3 g die src => .next (crossTrigger s g die src)
  | _ => .refused (.noOccasion "CROSS_TRIGGER")

/-- A cycle later than `h` moves by `d`. -/
def later (h d t : Nat) : Nat := if h < t then t + d else t

/-- A bank after a halt from `h` that lasted `d` cycles (R395). -/
def shiftBank (h d : Nat) (b : Bank) : Bank :=
  let shift := fun (w : Wait) => match w with
    | .cue t => .cue (later h d t)
    | .usr t => .usr (later h d t)
    | w => w
  { b with
    x := { b.x with
      flights := b.x.flights.map fun f => { f with due := f.due.map (later h d) }
      pends := b.x.pends.map fun p => { p with due := p.due.map (later h d) }
      busy := b.x.busy.map fun e => (e.1, later h d e.2)
      stopped := b.x.stopped.map fun e => (e.1, e.2.map fun p => (p.1, p.2 + d))
      -- the interrupted step's results keep their ages (R152)
      t0 := b.x.t0 + d }
    q := { b.q with
      xscenes := b.q.xscenes.map fun x => { x with wait := shift x.wait }
      bundleEnd := later h d b.q.bundleEnd
      notBefore := later h d b.q.notBefore }
    run := b.run.map fun r => { r with iterStart := r.iterStart + d }
    wait := shift b.wait
    lm := { b.lm with fan := b.lm.fan.map fun f => { f with since := f.since.map (· + d) } } }

/-- The state of a tile after a halt. -/
def shiftTile (s : State) (t h d : Nat) : State :=
  let s := modAg s t fun g =>
    { g with
      halted := none
      front := shiftBank h d g.front
      wings := shiftBank h d g.wings
      flip := g.flip.map (later h d)
      nest := g.nest.map fun n => { n with
        writes := n.writes.map fun w => (w.1, later h d w.2)
        lastWrite := later h d n.lastWrite }
      chans := g.chans.map fun c => (c.1, { c.2 with refused := c.2.refused.map fun r => (r.1, r.2.map (later h d)) }) }
  if kget {} s.mx t = {} then s
  else modMx s t fun m =>
    { m with
      array := m.array.map fun a => (a.1, later h d a.2)
      load := m.load.map fun a => (a.1, later h d a.2)
      arrayEnd := m.arrayEnd.map (later h d)
      q := m.q.map fun c => { c with since := c.since.map (· + d) } }

/-- A halted booked step goes on unbooked, whatever its policy (R396). -/
def demoteHalted (s : State) (a : Nat) : State :=
  match (bk s a).run with
  | none => s
  | some r => match runBooking s r with
    | none => s
    | some b =>
      let s := releaseBooking s r.key b (slotNow s + 1)
      let s := modStep (modRun s a fun r => { r with demoted := true }) r.key fun x => { x with demoted := true }
      errorRecord s { cause := 0x57, demoted := true, slot := r.slot, agent := a, pos := r.key.pos, round := r.key.round, wave := r.key.wave,
                      detail := r.delay + 2 ^ 32 * b.slack + 2 ^ 64 * b.e }

/-- A Committed step whose start the halt has let pass is loaded as an unbooked one. DESIGN CHOICE (log 175): it is demoted as a halted step is (R65,
R396). -/
def demoteMissed (s : State) (a : Nat) : State :=
  (s.steps.filter fun r => r.key.tile == a && r.st == .committed).foldl (fun s r => match r.booking with
    | none => s
    | some b =>
      if gtOf s < 16 * b.s then s
      else
        let s := modStep (releaseBooking s r.key b (slotNow s + 1)) r.key fun x => { x with st := .loading, demoted := true }
        let s := sched s (s.now + 1) priEngine .stepLoadStart (.at2 a 0)
        errorRecord s { cause := 0x57, demoted := true, slot := r.slot, agent := a, pos := r.key.pos, round := r.key.round, wave := r.key.wave,
                        detail := 2 ^ 32 * b.slack + 2 ^ 64 * b.e }) s

/-- Resume of cluster `g`: what stood still goes on from this cycle, and timed copies whose time has passed start (R395). -/
def debugResume (s : State) (g : Nat) : State :=
  match (ag s (clusterTile g 0)).halted with
  | none => s
  | some h =>
    let d := s.now - h
    let back := (s.frozen.filter fun f => f.1 == g).map (·.2)
    let s := (clusterTiles g).foldl (fun s t => shiftTile s t h d) { s with frozen := s.frozen.filter fun f => f.1 ≠ g }
    let s := back.foldl (fun s e => addEntry s { e with at_ := if portEntry s e then max e.at_ s.now else e.at_ + d }) s
    let s := (cceOf s (2112 + g)).timed.foldl (fun s c =>
      sched s (max (s.now + 1) (cycleOf s (c.x.gt.getD 0))) priEngine .timedCopyStart (.at3 (2112 + g) c.x.lane c.req.id)) s
    let s := setRegF s (dbgReg g 8) 5 0 0
    let vec := regF s (dbgReg g 0) 3 3 = 1
    (clusterTiles g).foldl (fun s t =>
      let s := demoteMissed (demoteHalted s t) t
      if vec ∧ (bk s t).run.isSome then modC s t fun c => { c with ipend := c.ipend ||| 4#4 } else s) s

/-- R395: resume. -/
def execDbgResume (s : State) : Host.Outcome State Fault Refusal :=
  match s.occ with
  | .at g => .next (debugResume s g)
  | _ => .refused (.noOccasion "DBG_RESUME")

/-! ### Access to a halted tile (R394) -/

/-- The selection of a debug block: tile, space, index. -/
def dbgTile (s : State) (g : Nat) : Nat := clusterTile g (regF s (dbgReg g 0x10) 1 0)
def dbgSpace (s : State) (g : Nat) : Nat := regF s (dbgReg g 0x10) 3 2
def dbgIndex (s : State) (g : Nat) : Nat := regF s (dbgReg g 0x10) 31 8

/-- What a read of `DBG_VAL` gives. -/
def dbgRead (s : State) (g : Nat) : BitVec 64 :=
  let t := dbgTile s g
  let i := dbgIndex s g
  if !isHalted s g then 0
  else match dbgSpace s g with
    | 0 => if i < 128 then (gReg s t i).setWidth 64 else if i = 128 then (bk s t).p.setWidth 64 else 0
    | 1 => ((csrRead s t i).getD 0).setWidth 64
    | 2 => if offMapped (8 * i) then BitVec.ofNat 64 (loadN s (t * 2 ^ 21 + 8 * i) 8) else 0
    | _ => match sockOfId (i % 64) with
      | some u => BitVec.ofNat 64 (imageVal (bk s t).x u / 2 ^ (64 * (i / 64)))
      | none => 0

/-- A write of `DBG_VAL` sets the selected state of a halted tile. A socket image that it would make malformed is not set. -/
def dbgWrite (s : State) (g : Nat) (v : BitVec 64) : State :=
  let t := dbgTile s g
  let i := dbgIndex s g
  if !isHalted s g then s
  else match dbgSpace s g with
    | 0 => if i < 128 then setG s t i (v.setWidth 32) else if i = 128 then modBk s t fun b => { b with p := v.setWidth 16 } else s
    | 1 => (csrWrite s t i (v.setWidth 32)).getD s
    | 2 => if offMapped (8 * i) then plainStore s (t * 2 ^ 21 + 8 * i) 8 v.toNat else s
    | _ => match sockOfId (i % 64) with
      | some u =>
        let old := imageVal (bk s t).x u
        let w := 2 ^ (64 * (i / 64))
        let new := old - old / w % 2 ^ 64 * w + v.toNat * w
        if decide (8 * (i / 64) < imageSize (bk s t).x u) && imageOk new u then modX s t fun y => restoreImage y u new (lockedMode s t u) else s
      | none => s

/-- R394: a write of `DBG_VAL`. -/
def execDbgValWrite (s : State) : Host.Outcome State Fault Refusal :=
  match s.occ with
  | .reg g v => .next (dbgWrite s g v)
  | _ => .refused (.noOccasion "DBG_VAL_WRITE")

/-! ### The code-write path (R398) -/

def cwSlot (s : State) (g : Nat) : Nat := regF s (dbgReg g 0x20) 55 52
def cwAddr (s : State) (g : Nat) : Nat := regF s (dbgReg g 0x20) 51 0

/-- The bundle in the data registers. -/
def cwData (s : State) (g : Nat) : Nat := (List.range 8).foldr (fun i acc => (reg s (dbgReg g (0x40 + 8 * i))).toNat + 2 ^ 64 * acc) 0

/-- The write ends with an error. -/
def cwFail (s : State) (g code : Nat) : State :=
  { setRegF (setRegF s (dbgReg g 0x28) 2 1 2) (dbgReg g 0x28) 15 8 code with codeLeft := kset 0 s.codeLeft g 0 }

/-- The line copies that hold some of 64 bytes of a slot's code at a virtual address: agent and key. -/
def codeCopies (s : State) (slot va : Nat) : List (Nat × Nat) :=
  s.agents.flatMap fun e => [e.2.front, e.2.wings].flatMap fun b => match b.run with
    | none => []
    | some r => if r.slot ≠ slot then [] else
      (b.q.lines.filter fun l => decide (320 ≤ l.1) && decide (r.codeVa + 256 * (l.1 - 320) < va + 64) && decide (va < r.codeVa + 256 * (l.1 - 320) + 256)).map
        fun l => (e.1, l.1)

/-- The copies of a line of the tiles' own stores. -/
def imageCopies (s : State) (tiles : List Nat) (key : Nat) : List (Nat × Nat) :=
  (tiles.filter fun t => [(ag s t).front, (ag s t).wings].any fun b => (kget none b.q.lines key).isSome).map fun t => (t, key)

/-- The discards set out; `done` rises with the last (R398). -/
def sendDiscards (s : State) (g : Nat) (cs : List (Nat × Nat)) : State :=
  if cs.isEmpty then { setRegF s (dbgReg g 0x28) 1 1 1 with codeLeft := kset 0 s.codeLeft g 0 }
  else
    let s := { s with codeLeft := kset 0 s.codeLeft g (1 + cs.length) }
    cs.foldl (fun s c =>
      let n := 1 + Config.freeLatency s.free % 1024
      sched { s with free := s.free + 1 } (s.now + n) (priIssue - 1) .lineDiscard (.at3 g c.1 c.2)) s

/-- The banks of parked steps that stand in a saved image drop their copies of the line at once (R398). -/
def discardSaved (s : State) (slot va : Nat) : State :=
  let off := fun (b : Bank) => match b.run with
    | some r => if r.slot = slot then { b with q := { b.q with lines := b.q.lines.filter fun l =>
        !(decide (320 ≤ l.1) && decide (r.codeVa + 256 * (l.1 - 320) < va + 64) && decide (va < r.codeVa + 256 * (l.1 - 320) + 256)) } } else b
    | none => b
  { s with savedTiles := s.savedTiles.map fun e => (e.1, { e.2 with wings := off e.2.wings })
           savedDocks := s.savedDocks.map fun e => (e.1, { e.2 with front := off e.2.front }) }

/-- One bundle is written, in virtual memory or in every tile of the slot. -/
def codeWrite (s : State) (g : Nat) : State :=
  let slot := cwSlot s g
  let a := cwAddr s g
  let key := if a < 0x190000 then (a - 0x180000) / 256 else 256 + (a - 0x190000) / 256
  let mode := regF s (dbgReg g 0x20) 63 62
  if 2 ≤ mode ∨ a % 64 ≠ 0 ∨ (mode = 1 ∧ (a < 0x180000 ∨ 0x194000 ≤ a)) then cwFail s g 1
  else if ctxState s slot ≠ 1 ∧ ctxState s slot ≠ 3 then cwFail s g 2
  else if mode = 0 then
    let r := translate s (2112 + g) slot a true
    match r.2 with
    | .error c => cwFail r.1 g c
    | .ok (p, _) =>
      if !p.host && !paOk p.pa then cwFail r.1 g 0x42
      else sendDiscards (discardSaved (physWrite r.1 p 64 (cwData s g)) slot a) g (codeCopies s slot a)
  else
    let tiles := ((List.range 512).filter fun c => kget 0 s.owners c == slot).flatMap clusterTiles
    sendDiscards (tiles.foldl (fun s t => plainStore s (t * 2 ^ 21 + a) 64 (cwData s g)) s) g (imageCopies s tiles key)

/-- `go`: ignored while a write is in progress; it clears what the last one left. -/
def codeGo (s : State) (g : Nat) : State := if kget 0 s.codeLeft g ≠ 0 then s else codeWrite (setReg s (dbgReg g 0x28) 0) g

/-- R398: `go` of the code-write path. -/
def execCodeWriteGo (s : State) : Host.Outcome State Fault Refusal :=
  match s.occ with
  | .at g => .next (codeGo s g)
  | _ => .refused (.noOccasion "CODE_WRITE_GO")

/-- A tile or dock core drops its copies of a line at a bundle boundary. -/
def lineDiscard (s : State) (g a key : Nat) : State :=
  let q := (bk s a).q
  if (bk s a).run.isSome && q.started && decide (s.now ≤ q.bundleEnd) && (ag s a).halted.isNone then
    sched s (q.bundleEnd + 1) (priIssue - 1) .lineDiscard (.at3 g a key)
  else
    let off := fun (b : Bank) => { b with q := { b.q with lines := kset none b.q.lines key none } }
    let s := modAg s a fun x => { x with front := off x.front, wings := off x.wings }
    let left := kget 0 s.codeLeft g
    if left = 0 then s
    else if left = 2 then { setRegF s (dbgReg g 0x28) 1 1 1 with codeLeft := kset 0 s.codeLeft g 0 }
    else { s with codeLeft := kset 0 s.codeLeft g (left - 1) }

/-- R398: a line copy is discarded. -/
def execLineDiscard (s : State) : Host.Outcome State Fault Refusal :=
  match s.occ with
  | .at3 g a key => .next (lineDiscard s g a key)
  | _ => .refused (.noOccasion "LINE_DISCARD")

/-! ### Sampling (R399 to R401) -/

/-- The run state of an agent in the tick's cycle. -/
def runState (s : State) (a : Nat) : Nat :=
  let g := ag s a
  let b := g.front
  let faulted := match b.run with
    | some r => (match stepStOf s r.key with
      | .faulted _ => true
      | _ => false)
    | none => false
  if g.halted.isSome then 7
  else if faulted then 9
  else if g.flip.isSome then 6
  else if b.run.isNone || b.wait == .idle then 8
  else if g.lastIssue = s.now + 1 then 0
  else match b.wait with
    | .curtain _ => 5
    | .sync _ | .tree _ _ _ => 4
    | w =>
      if g.lastHold.1 = s.now + 1 then g.lastHold.2
      else if (w == .none || bundleEnds w) && decide (s.now ≤ b.q.bundleEnd) && b.q.started then 1 else 2
where
  /-- A wait that holds the tile only after the bundle that it stands in has issued whole. -/
  bundleEnds : Wait → Bool
    | .gt _ | .line _ | .flip => true
    | _ => false

/-- The sample word. -/
def sampleWord (s : State) (a : Nat) : Nat :=
  let st := runState s a
  let q := (bk s a).q
  if st = 8 then 8 * 2 ^ 28
  else st * 2 ^ 28 + (if q.scene.isSome then q.mpc % 256 else 0) * 2 ^ 20 + (if q.imode = 1#2 ∧ q.half then 2 ^ 16 else 0) + q.pc.toNat

/-- Consecutive equal words as runs. -/
def runsOf : List Nat → List (Nat × Nat)
  | [] => []
  | w :: ws => match runsOf ws with
    | (v, n) :: rs => if v = w then (v, n + 1) :: rs else (w, 1) :: (v, n) :: rs
    | [] => [(w, 1)]

/-- The agents of a die in mesh order. -/
def dieAgents (d : Nat) : List Nat := (List.range 512).map (512 * d + ·) ++ (List.range 12).map (2048 + 12 * d + ·)

/-- One die's snapshot record, in units of 64 bytes, or none where its ring has no room for it (R401). -/
def snapshot (s : State) (d : Nat) : State :=
  let runs := runsOf ((dieAgents d).map (sampleWord s))
  let units := (32 + 8 * runs.length + 63) / 64
  let n := kget 0 s.smpSeq d
  let v := 64 * units + 2 ^ 16 * d + (if kget false s.smpLost d then 2 ^ 24 else 0) + 2 ^ 32 * (n % 2 ^ 32) + 2 ^ 64 * (gtOf s % 2 ^ 64) +
    2 ^ 128 * runs.length + 2 ^ 256 * (runs.zipIdx.map fun r => 2 ^ (64 * r.2) * (r.1.1 + 2 ^ 32 * r.1.2)).foldl (· + ·) 0
  let base := 0x2140 + 0x20 * d
  let lg := regF s base 4 0
  let pa := regF s base 47 12 * 2 ^ 12
  let head := regF s (base + 8) 31 0
  let used := (head + 2 ^ 32 - regF s (base + 8) 63 32) % 2 ^ 32
  let s := { s with smpSeq := kset 0 s.smpSeq d (n + 1) }
  if lg < 4 ∨ 16 < lg ∨ 2 ^ lg < used + units then
    { setRegF s (base + 16) 31 0 (min 0xFFFFFFFF (regF s (base + 16) 31 0 + 1)) with smpLost := kset false s.smpLost d true }
  else
    let s := (List.range units).foldl (fun s i => devWrite s (pa + 64 * ((head + i) % 2 ^ lg)) 64 (v / 2 ^ (512 * i) % 2 ^ 512)) s
    { setRegF s (base + 8) 31 0 ((head + units) % 2 ^ 32) with smpLost := kset false s.smpLost d false }

/-- The next tick after GT `g`, with phase and period. -/
def nextTick (g phase period : Nat) : Nat := if g < phase then phase else phase + ((g - phase) / period + 1) * period

/-- Ticks of the chain in force: the next one is put on the agenda. -/
def schedTick (s : State) (chain g : Nat) : State :=
  let period := regF s 0x2108 31 0
  if period = 0 then s
  else sched s (max (s.now + 1) (cycleOf s (nextTick g (reg s 0x2110).toNat period))) priSample .sampleTick (.at chain)

/-- A change of the sampling registers starts a new chain, whose first tick may fall in this cycle. -/
def startTicks (s : State) : State :=
  let s := { s with smpChain := s.smpChain + 1 }
  if regF s 0x2100 0 0 = 0 then s
  else
    let g := gtOf s
    let phase := (reg s 0x2110).toNat
    let period := regF s 0x2108 31 0
    if period ≠ 0 ∧ phase ≤ g ∧ (g - phase) % period = 0 then sched s s.now priSample .sampleTick (.at s.smpChain) else schedTick s s.smpChain g

/-- A tick: every die writes a snapshot. -/
def sampleTick (s : State) (chain : Nat) : State :=
  if s.smpChain ≠ chain ∨ regF s 0x2100 0 0 = 0 then s
  else
    let g := gtOf s
    let phase := (reg s 0x2110).toNat
    let period := regF s 0x2108 31 0
    let s := if period ≠ 0 ∧ phase ≤ g ∧ (g - phase) % period = 0 then [0, 1, 2, 3].foldl snapshot s else s
    schedTick s chain g

/-- R399: a sampling tick. -/
def execSampleTick (s : State) : Host.Outcome State Fault Refusal :=
  match s.occ with
  | .at c => .next (sampleTick s c)
  | _ => .refused (.noOccasion "SAMPLE_TICK")

end Sys2Proof.Machine
end

