-- ==== Sys2Proof/Machine/Boot.lean ====
section
/-! DEFINITION. Stepping: the next entry of the agenda comes due; and how one bundle is placed as the first to issue. -/

namespace Sys2Proof.Machine

/-- The lines of SRAM and units of HBM that an entry of the agenda reads as it comes due: those of an access at its home, and a bundle's own (R390). What
engines and units read meets its errors where they read. -/
def readBy (s : State) (e : Entry) : List Nat × List Nat :=
  match e.what with
  | .ev _ (.access acc) => (match acc.loc with
    | .sram _ => ((accLines s acc).map (· / 64), [])
    | l => locUnits s l (accBytes acc.op))
  | .ev _ (.amo f op) => locUnits s op.loc (amoBytes f)
  | .ev _ (.sync op) => locUnits s op.loc 16
  | .ev _ _ => ([], [])
  | .issue a =>
    let q := (bk s a).q
    match q.scene with
    | some f => ([a * 2 ^ 15 + 0x6400 + f + q.mpc], [])
    | none => (if isTile a && isOverlay q then [a * 2 ^ 15 + 0x6000 + (if q.half then 512 else 0) + q.pc.toNat] else [], [])

/-- What the head of the agenda asks for: an instruction to execute in the state given, or only a new state. -/
def agendaHead (s : State) : Turn :=
  match s.agenda with
  | [] => .stay { s with now := s.now + 1 }
  | e :: es =>
    let s := { s with now := max s.now e.at_, agenda := es, occ := .none }
    match frozenAt s e, e.what with
    | some g, _ =>
      -- the tile or engine is halted: what reaches it waits for the resume (R395)
      .stay { s with frozen := s.frozen ++ [(g, { e with at_ := ((ag s (clusterTile g 0)).halted).getD s.now })] }
    | none, .issue a => issueTurn (meetErrors s (readBy s e).1 (readBy s e).2) a
    | none, .ev i o => .run i { meetErrors s (readBy s e).1 (readBy s e).2 with occ := o }

/-- The step that a placed bundle runs in: an unbooked step of slot 0 in overlay mode on tile 0. -/
def placedRun : Run := { key := {}, slot := 0, going := true, codeLen := 512, codeVa := 0, maxIter := 65535, pbMode := 0 }

/-- A bundle of 512 bits with `w` in slot 0: tag 2, a zero constant, read ports allotted to g0 and write ports to g0 and g1 (R163). -/
def oneSlot (w : Nat) : Nat :=
  2 + 0x80 * (2 ^ 4 + 2 ^ 12 + 2 ^ 20 + 2 ^ 28 + 2 ^ 36) + 0x81 * 2 ^ 44 + 2 ^ 64 * (w % 2 ^ 64)

/-- Tile 0 about to issue the bundle `w` from bundle 0 of its instruction memory. -/
def placeBundle (s : State) (w : Nat) : State :=
  let s := (List.range 64).foldl (fun s i => writeRaw s (0x180000 + i) (BitVec.ofNat 8 (w / 256 ^ i))) s
  let s := modBk s 0 fun b =>
    { b with
      run := some placedRun
      wait := .none
      dfaults := []
      q := { b.q with
        pc := 0
        half := false
        scene := none
        imode := 1#2
        lines := []
        notBefore := 0 } }
  let s := modAg s 0 fun g => { g with flip := none, halted := none, queued := true }
  { s with agenda := ⟨s.now, 0, .issue 0⟩ :: s.agenda }

end Sys2Proof.Machine
end

