-- ==== Sys2Proof/Machine/Launch.lean ====
section
/-! DEFINITION. Work queues and launches (R31, R32, R43, R97 to R99, R123, R357 to R368): the queue table, queue-head parse, the arbiter,
the walkers' assignment, gangs, completion, dependence counters, and the restart of a step. -/

namespace Sys2Proof.Machine

/-! ### The counters of a packet (R360) -/

/-- Counter identifiers of a packet that are used, and whether the unused ones are zero (R360). -/
def usedIds (v m : Nat) : List Nat := (List.range 4).filterMap fun i => if m.testBit i then some (fld v (2 * i) 2) else none

def unusedZero (v m : Nat) : Bool := (List.range 4).all fun i => m.testBit i || fld v (2 * i) 2 == 0

/-- The counters that a packet waits on. -/
def pktWaits (p : Nat) : List Nat := usedIds (fld p 40 8) (fld p 56 1 % 16)
/-- Those that it signals. -/
def pktSigs (p : Nat) : List Nat := usedIds (fld p 48 8) (fld p 56 1 / 16)

/-- The Apron address of the register block (R402). -/
def blockBase : Nat := 0xFF00000000

/-! ### Dependence counters (R97, R98, R364) -/

def dcReg (id : Nat) : Nat := 0x100000 + 0x20000 * (id / 2 ^ 14) + 8 * (id % 2 ^ 14)

def dcFailReg (id : Nat) : Nat := 0x180000 + 0x800 * (id / 2 ^ 14) + 8 * (id % 2 ^ 14 / 64)

def dcValue (s : State) (id : Nat) : Nat := regF s (dcReg id) 31 0

def dcFailed (s : State) (id : Nat) : Bool := (reg s (dcFailReg id)).getLsbD (id % 64)

/-- A counter assigned to a slot. -/
def dcOwned (s : State) (slot id : Nat) : Bool := regF s (dcReg id) 36 36 == 1 && regF s (dcReg id) 35 32 == slot

/-- The arbiter looks at the heads again in the next cycle. -/
def wakeArbiter (s : State) : State := sched s (s.now + 1) priEngine .arbiterChoice .none

/-- A write of a counter's register that is still to be performed in this cycle: its place in it (R364). -/
def writeToCome (s : State) (off : Nat) : Option Nat :=
  s.agenda.findSome? fun e => match e.what with
    | .ev .registerWrite (.reg o _) => if e.at_ ≤ s.now ∧ o = off then some e.pri else none
    | .ev .registerWrite (.host addr _ write _) => if e.at_ ≤ s.now ∧ write = true ∧ addr = blockBase + off then some e.pri else none
    | _ => none

/-- A parsed launch becomes ready, or no longer is: as it becomes so the failure bits of the counters that it waits on are looked at (R363, R365). -/
def judge (s : State) (l : Launch) : Launch :=
  if l.st ≠ .parsed then l
  else if !((pktWaits l.pkt).all fun id => dcValue s id == 0) then { l with judged := none }
  else if l.judged.isSome then l else { l with judged := some ((pktWaits l.pkt).any (dcFailed s)) }

def judgeHeads (s : State) : State := { s with launches := s.launches.map (judge s) }

/-- One decrement on behalf of a slot (R98), after the driver's writes of its cycle (R364). -/
def dcDecrement (s : State) (slot id agent : Nat) : State :=
  match writeToCome s (dcReg id) with
  | some p => sched s s.now (p + 1) .dcDec (.at3 slot id agent)
  | none =>
  if !dcOwned s slot id then errorRecord s { cause := 0x47, slot := slot, agent := agent, addr := id }
  else if dcValue s id = 0 then errorRecord (setRegF s (dcReg id) 37 37 1) { cause := 0x46, slot := slot, agent := agent, addr := id }
  else
    let s := setRegF s (dcReg id) 31 0 (dcValue s id - 1)
    if dcValue s id = 0 then wakeArbiter (judgeHeads s) else s

/-- R98, R357: one decrement of a counter. -/
def execDcDec (s : State) : Host.Outcome State Fault Refusal :=
  match s.occ with
  | .at3 slot id agent => .next (dcDecrement s slot id agent)
  | _ => .refused (.noOccasion "DC_DEC")

/-! ### Queues (R358, R359) -/

/-- The I/O die writes its own fields of a descriptor: byte 10 and the head. -/
def setQueueBits (s : State) (q : Nat) (err en : Bool) : State :=
  setHbmByte s (queueDesc s q + 10) (BitVec.ofNat 8 ((if err then 2 else 0) + (if en then 1 else 0)))

def setQueueHead (s : State) (q n : Nat) : State := modQueue (setHbmN s (queueDesc s q + 12) 4 n) q fun u => { u with head := n }

/-- Looks for a packet at the head of a queue in the next cycle. -/
def wakeQueue (s : State) (q : Nat) : State := sched s (s.now + 1) priEngine .queueHeadParse (.at q)

/-- The device stops a queue: `en` clears and `err` is set, with an error record (R358). -/
def stopQueue (s : State) (q slot cause : Nat) : State :=
  errorRecord (modQueue (setQueueBits s q true false) q fun u => { u with inUse := false, level := false }) { cause := cause, slot := slot, addr := queueDesc s q }

/-- A rise of `en` is seen: the descriptor is captured, or is bad (R358). -/
def queueEnable (s : State) (q : Nat) : State :=
  let d := hbmN s (queueDesc s q) 128
  let f := fun at_ n => fld d at_ n
  if regF s 0x1008 0 0 = 0 ∨ f 10 1 % 2 = 0 ∨ (queueOf s q).inUse then s
  else if f 0 8 / 2 ^ 48 ≠ 0 ∨ f 0 8 % 2 ^ 7 ≠ 0 ∨ f 8 1 < 4 ∨ 16 < f 8 1 ∨ f 9 1 / 16 ≠ 0 ∨ f 10 1 / 4 ≠ 0 ∨ f 11 1 ≠ 0 ∨ f 16 48 ≠ 0 ∨ f 68 60 ≠ 0 ∨
      !paOk (f 0 8) then stopQueue s q (f 9 1 % 16) 0x30
  else
    let s := modQueue s q fun u => { u with inUse := true, ring := f 0 8, lg := f 8 1, slot := f 9 1 }
    wakeQueue (setQueueHead s q 0) q

/-- R358: a rise of `en` is observed. -/
def execQueueEnable (s : State) : Host.Outcome State Fault Refusal :=
  match s.occ with
  | .at q => .next (queueEnable s q)
  | _ => .refused (.noOccasion "QUEUE_ENABLE")

/-- A fall of `en` is seen, whatever it is by then: the queue leaves use. A launch parsed at its head stays there (R358). -/
def queueDisable (s : State) (q : Nat) : State := modQueue s q fun u => { u with inUse := false }

/-- R358: a fall of `en` is observed. -/
def execQueueDisable (s : State) : Host.Outcome State Fault Refusal :=
  match s.occ with
  | .at q => .next (queueDisable s q)
  | _ => .refused (.noOccasion "QUEUE_DISABLE")

/-! ### The checks of a packet (R360 to R362) -/

/-- Pipe entries of a packet. -/
def pktPipes (p : Nat) : List Nat := items (fld p 80 48) 8 6

def pipeValid (e : Nat) : Bool := e / 2 ^ 63 == 1
def pipeNo (e : Nat) : Nat := e / 2 ^ 48 % 256
def pipeProd (e : Nat) : Nat := e / 2 ^ 40 % 16
def pipeCons (e : Nat) : Nat := e / 2 ^ 44 % 16
def pipeBase (e : Nat) : Nat := e % 2 ^ 32

/-- A pipe entry by itself (R361). -/
def pipeOk (n e : Nat) : Bool :=
  e / 2 ^ 56 % 128 == 0 && (!pipeValid e || (pipeProd e != pipeCons e && decide (pipeProd e < n) && decide (pipeCons e < n) &&
    handleFieldsOk (pipeBase e) (e / 2 ^ 32 % 32) 0))

def distinct : List Nat → Bool
  | [] => true
  | x :: xs => !xs.contains x && distinct xs

def pktGang (p : Nat) : Nat := fld p 57 1
def pktIdx (p : Nat) : Nat := fld p 58 1
def pktGid (p : Nat) : Nat := fld p 60 4

/-- The tiles of the rectangle, by index on a die, row-major (R32). -/
def pktRect (p : Nat) : List Nat :=
  (List.range (fld p 6 1)).flatMap fun r => (List.range (fld p 7 1)).map fun c => (fld p 4 1 + r) * 32 + fld p 5 1 + c

/-- Every tile of the placement. -/
def pktTiles (p : Nat) : List Nat := (pktDies p).flatMap fun d => (pktRect p).map fun t => d * 512 + t

/-- The form of a packet (R360, R361). -/
def packetOk (p : Nat) : Bool :=
  let g := pktGang p
  fld p 0 1 == 1 && fld p 1 1 == 0 && decide (fld p 2 1 < 8) && fld p 2 1 % 4 != 3 && decide (fld p 3 1 < 16) &&
    decide (fld p 8 8 < 2 ^ 52) && decide (fld p 16 8 < 2 ^ 52) && decide (fld p 24 8 < 2 ^ 52) && decide (fld p 32 8 < 2 ^ 52) &&
    fld p 32 8 % 64 == 0 && unusedZero (fld p 40 8) (fld p 56 1 % 16) && unusedZero (fld p 48 8) (fld p 56 1 / 16) &&
    fld p 59 1 == 0 && fld p 64 4 % 16 == 0 && decide (fld p 74 1 < 2) && fld p 75 1 == 0 &&
    (if g = 0 then pktIdx p == 0 && pktGid p == 0 && fld p 80 48 == 0
     else decide (2 ≤ g) && decide (g ≤ 8) && decide (pktIdx p < g) &&
       (pktIdx p != 0 || ((pktPipes p).all (pipeOk g) && distinct (((pktPipes p).filter pipeValid).map pipeNo))))

/-- The members of a gang so far: those of the context with its identifier whose gang has not completed (R368). -/
def gangOf (s : State) (slot gid : Nat) : List Launch :=
  s.launches.filter fun l => l.slot == slot && pktGang l.pkt != 0 && pktGid l.pkt == gid && !l.gangOver

/-- A member agrees with the earlier ones (R368). -/
def memberOk (s : State) (slot p : Nat) : Bool :=
  pktGang p == 0 || (gangOf s slot (pktGid p)).all fun l => pktGang l.pkt == pktGang p && pktIdx l.pkt != pktIdx p

/-- The placement's form (R32). DEDUCED (log 148): an empty rectangle passes, as R366 says, though R32 rejects it. -/
def placementOk (p : Nat) : Bool :=
  !(pktDies p).isEmpty && decide (fld p 4 1 + fld p 6 1 ≤ 16) && decide (fld p 5 1 + fld p 7 1 ≤ 32)

/-- A tile that the launch may use: its context's, or, for a placement, one that no context owns (R25, R369). -/
def mayOwn (s : State) (slot t : Nat) : Bool := kget 0 s.owners (tileCluster t) == slot || kget 0 s.owners (tileCluster t) == 0

/-- Memory of the context, or of a cluster that the placement takes (R362). -/
def inContext (s : State) (slot p addr : Nat) : Bool :=
  slotOwns s slot (addrTile addr) ||
    (kget 0 s.owners (tileCluster (addrTile addr)) == 0 && (pktTiles p).any fun t => tileCluster t == tileCluster (addrTile addr))

/-- Whether a placement meets that of another member of the gang (R362). -/
def gangMeets (s : State) (slot p : Nat) : Bool :=
  pktGang p != 0 && (gangOf s slot (pktGid p)).any fun l => (pktTiles l.pkt).any fun t => (pktTiles p).contains t

/-- A booked launch's cue list names tiles of the context alone, on every tile of the placement (R62). -/
def cuesInContext (s : State) (slot p : Nat) (k : Kern) : Bool :=
  fld p 2 1 % 4 == 0 || match k.cues with
    | none => true
    | some vs => (pktTiles p).all fun t => (cueTiles t (vs.map cueOf)).all fun u => inContext s slot p (u * 2 ^ 21)

/-- What a packet that passes gives: its kernel, the extents of its loop table, and its register image. -/
structure Parsed where
  kern : Kern
  extents : List Nat
  image : Nat

/-- The checks in their order (R362): the first that fails gives its cause. -/
def parsePacket (s : State) (slot p : Nat) : Except Nat Parsed :=
  if !packetOk p || !memberOk s slot p then .error 0x30
  else match readKernel s slot (fld p 8 8), (if fld p 24 8 = 0 then some 0 else vread s slot (fld p 24 8) 576) with
    | some k, some img =>
      let img := if fld p 24 8 = 0 then k.image else img
      (match readOpBlock s slot (fld p 16 8) with
      | none => .error 0x32
      | some ext =>
        if !levelsOk k ext || !placementOk p then .error 0x32
        else if !((pktWaits p ++ pktSigs p).all (dcOwned s slot)) then .error 0x47
        else if !((pktTiles p).all (mayOwn s slot)) ||
            !(pktGang p == 0 || pktIdx p != 0 || (pktPipes p).all fun e => !pipeValid e || inContext s slot p (pipeBase e)) ||
            !(cuesInContext s slot p k) || !(fld p 64 4 == 0 || inContext s slot p (fld p 64 4)) || !(fld p 74 1 == 0 || pairExists s slot (fld p 72 2)) then .error 0x41
        else if !needsOk k || gangMeets s slot p then .error 0x31
        else if k.restartable && !pbEnabled s slot then .error 0x34
        else if fld p 2 1 % 4 != 0 && (match k.cues with
            | some vs => !((pktTiles p).all fun t => cuesOk t vs)
            | none => false) then .error 0x54
        else .ok { kern := k, extents := k.levels.map fun l => ext.getD l.2.1 0, image := img })
    | _, _ => .error 0x37

/-! ### Completion (R365, R367) -/

/-- A launch completes with a status and a cause. -/
def completeWith (s : State) (id status cause : Nat) : State :=
  sched (modLaunch s id fun l => { l with st := .completing, status := status, cause := cause }) s.now priEngine .launchComplete (.at2 id 1)

/-- Every other member of a gang of which one is rejected completes with status 5; one that waits at its queue's head leaves it (R368). -/
def failGang (s : State) (slot gid : Nat) : State :=
  ((gangOf s slot gid).filter fun l => l.st == .parsed || l.st == .inSequence).foldl (fun s l =>
    let s := { s with steps := s.steps.filter fun r => !(r.key.pos == l.pos && !r.key.task && l.st == .inSequence) }
    let s := if (queueOf s l.queue).parsed = some l.id then wakeQueue (modQueue s l.queue fun u => { u with parsed := none }) l.queue else s
    completeWith s l.id 5 0) s

/-- A packet at a queue's head is read, captured and checked (R359, R362). -/
def queueHeadParse (s : State) (q : Nat) : State :=
  let u := queueOf s q
  if regF s 0x1008 0 0 = 0 ∨ !u.inUse ∨ u.parsed.isSome ∨ ctxState s u.slot ≠ 3 then s
  else
    let n := (hbmN s (queueDesc s q + 64) 4 + 2 ^ 32 - u.head) % 2 ^ 32
    if 2 ^ u.lg < n then stopQueue s q u.slot 0x39
    else if n = 0 then s
    else
      let p := hbmN s (u.ring + 128 * (u.head % 2 ^ u.lg)) 128
      let s := setQueueHead s q ((u.head + 1) % 2 ^ 32)
      let i := newId s
      let l : Launch := { id := i.1, queue := q, slot := u.slot, pkt := p }
      let gone := pktGang p != 0 && (gangOf s u.slot (pktGid p)).any fun m => m.status == 2 || m.status == 3 || m.status == 5
      match parsePacket s u.slot p with
      | .error c =>
        -- one that fails a check after the second keeps what its kernel object declares (R356, R362)
        let l := { l with kern := if c = 0x30 ∨ c = 0x37 then {} else (readKernel s u.slot (fld p 8 8)).getD {} }
        let s := completeWith { i.2 with launches := i.2.launches ++ [l] } i.1 2 c
        wakeQueue (if pktGang p = 0 then s else failGang s u.slot (pktGid p)) q
      | .ok r =>
        let l := { l with kern := r.kern, extents := r.extents, image := r.image }
        let s := { i.2 with launches := i.2.launches ++ [l] }
        if gone then wakeQueue (completeWith s i.1 5 0) q
        else wakeArbiter (judgeHeads (modQueue s q fun u => { u with parsed := some i.1 }))

/-- R362: a packet is parsed at the head of its queue. -/
def execQueueHeadParse (s : State) : Host.Outcome State Fault Refusal :=
  match s.occ with
  | .at q => .next (queueHeadParse s q)
  | _ => .refused (.noOccasion "QUEUE_HEAD_PARSE")

/-- The 64 bytes of a completion record (R367). -/
def completionRecord (s : State) (l : Launch) : Nat :=
  l.status % 2 ^ 16 + 2 ^ 16 * (l.cause % 2 ^ 8) + 2 ^ 24 * ((if l.demoted || (s.steps.any fun r => r.key.pos == l.pos && !r.key.task && r.demoted) then 1 else 0) + (if l.kern.overstated then 2 else 0) + (if l.zeroWork then 4 else 0) +
    (if pktGang l.pkt ≠ 0 then 8 else 0)) + 2 ^ 32 * fld l.pkt 76 4 + 2 ^ 64 * (if l.status = 2 then 2 ^ 32 - 1 else l.pos % 2 ^ 32) + 2 ^ 96 * (l.doneSteps % 2 ^ 32) + 2 ^ 128 * (gtOf s % 2 ^ 64)

def launchPart (s : State) (id phase : Nat) (t : Nat) : State := sched s t priEngine .launchComplete (.at2 id phase)

/-- Part 1: the credit to `relsw`, performed at its home as agent 4,094 (R365). DESIGN CHOICE (log 178): a launch that completes without having entered
the sequence has latched no mode, and its credit and publish are made under mode 0, neither logged nor driven (R110). -/
def launchCredit (s : State) (l : Launch) : State :=
  let a := fld l.pkt 64 4
  if a = 0 ∨ a % 16 ≠ 0 then launchPart s l.id 2 s.now
  else if !inData a 16 then launchPart (errorRecord s { cause := 0x40, slot := l.slot, agent := 4094, addr := a, pos := l.pos }) l.id 2 s.now
  else
    let d := freeDelay s
    sched d.2 (s.now + d.1) (homePri 3 4094) .creditAtHome (.sync
      { id := l.id, agent := 4094, issuer := 4094, slot := l.slot, cls := 0, loc := .sram a, a := wd (fld l.pkt 68 4), b := 0#32, fixed := true,
        org := ⟨0, 0⟩, step := { pos := l.pos }, pb := l.pbMode, eff := none })

/-- Part 2: the publish of `relpair`; the next part begins at P, and moves with it (R23, R104, R365). -/
def launchPublish (s : State) (l : Launch) : State :=
  let pid := fld l.pkt 72 2
  if fld l.pkt 74 1 ≠ 1 then launchPart s l.id 3 s.now
  else if !pairExists s l.slot pid then launchPart (errorRecord s { cause := 0x45, slot := l.slot, agent := 4094, addr := pid, pos := l.pos }) l.id 3 s.now
  else match orderEvent s l.slot l.pbMode ⟨0x0A, objPair pid⟩ 4094 0 with
    | .wait _ => launchPart s l.id 2 (s.now + 1)
    | .diverge c n => launchPart (diverged s l.slot 4094 ⟨0x0A, objPair pid⟩ c n) l.id 3 s.now
    | .go k =>
      let p := gtOf s + 256
      let s := sched (k s) (cycleOf s p) (priBegin + 1 + 4094) .publishExchange (.at3 l.slot pid p)
      launchPart s l.id 4 (cycleOf s p)

/-- The completion record's address, where it has one (R367). -/
def recordAddr (l : Launch) : Option Nat :=
  let a := fld l.pkt 32 8
  if a = 0 ∨ a % 64 ≠ 0 ∨ 2 ^ 52 ≤ a then none else some a

/-- Until when the write of the completion record waits: its pseudo-channel is in a refresh band, or a step holds the slot (R66, R75). -/
def recordHeld (s : State) (l : Launch) : Option Nat :=
  (recordAddr l).bind fun a => match translateIo s l.slot a true with
    | .ok p => if p.host then none else homeWait s noStep (ridHbm p.pa)
    | .error _ => none

/-- Part 3: the completion record (R367). -/
def launchRecord (s : State) (l : Launch) : State :=
  match recordAddr l with
  | none => s
  | some a => match translateIo s l.slot a true with
    | .ok p => devWritePhys s p 64 (completionRecord s l)
    | .error _ => errorRecord s { cause := 0x62, slot := l.slot, agent := 4094, addr := a, pos := l.pos }

/-- Part 4: the failure bits, and the decrements (R98, R365). -/
def launchSignals (s : State) (l : Launch) : State :=
  let s := if 2 ≤ l.status then (pktSigs l.pkt).foldl (fun s id => setRegF s (dcFailReg id) (id % 64) (id % 64) 1) s else s
  (pktSigs l.pkt).foldl (fun s id => dcDecrement s l.slot id 4094) s

/-- How many members of a gang have come: a packet whose `gcount` differs from the first one's or whose `gidx` has come before is none of them (R368). -/
def membersCome (ms : List Launch) : Nat :=
  match ms with
  | [] => 0
  | m :: _ => ((ms.filter fun l => pktGang l.pkt == pktGang m.pkt && decide (pktIdx l.pkt < pktGang m.pkt)).map fun l => pktIdx l.pkt).eraseDups.length

/-- A gang all of whose members are complete no longer matches members (R368). -/
def closeGang (s : State) (l : Launch) : State :=
  let ms := gangOf s l.slot (pktGid l.pkt)
  if pktGang l.pkt ≠ 0 ∧ ((ms.head?.map fun m => pktGang m.pkt).getD 0) ≤ membersCome ms ∧ (ms.all fun m => m.st == .complete) then
    ms.foldl (fun s m => modLaunch s m.id fun m => { m with gangOver := true }) s
  else s

def stepsOf (s : State) (l : Launch) : List StepRec := s.steps.filter fun r => r.key.pos == l.pos && !r.key.task

/-- A launch completes once its steps are Done and all that they triggered is complete; then its parts follow one another (R365, R366). -/
def launchComplete (s : State) (id phase : Nat) : State :=
  match launchOf s id with
  | none => s
  | some l => match phase with
    | 0 =>
      if l.st ≠ .inSequence ∨ (ctxState s l.slot ≠ 3 ∧ ctxState s l.slot ≠ 4) ∨ !((stepsOf s l).all fun r => r.st == .done) then s
      else if (stepsOf s l).any fun r => stepBusy s r.key then launchPart s id 0 (s.now + 1)
      else completeWith s id 1 0
    | 1 => if l.st = .completing then launchCredit s l else s
    | 2 => if l.st = .completing then launchPublish s l else s
    | _ =>
      if l.st ≠ .completing then s
      else match recordHeld s l with
        | some t => launchPart s id 3 t
        | none =>
          let s := launchSignals (launchRecord s l) l
          closeGang (modLaunch s id fun l => { l with st := .complete }) l

/-- R365: the parts of a launch's completion. -/
def execLaunchComplete (s : State) : Host.Outcome State Fault Refusal :=
  match s.occ with
  | .at2 id phase => .next (launchComplete s id phase)
  | _ => .refused (.noOccasion "LAUNCH_COMPLETE")

/-! ### The arbiter and the walkers (R31, R32, R363) -/

/-- The launches parsed at queue heads of Active contexts that are not held whose counters are all zero, each with its queue (R363, R393). -/
def readyHeads (s : State) : List (Nat × Launch) :=
  s.queues.filterMap fun e => (e.2.parsed.bind (launchOf s)).bind fun l =>
    if ctxState s l.slot = 3 ∧ regF s (slotReg l.slot 0x078) 0 0 = 0 ∧ ((pktWaits l.pkt).all fun id => dcValue s id == 0) then some (e.1, l) else none

/-- Queues in ascending number after the one last taken, wrapping (R363). -/
def arbiterOrder (s : State) : List (Nat × Launch) :=
  let r := readyHeads s
  (r.filter fun x => decide (s.lastQueue < x.1)) ++ r.filter fun x => decide (x.1 ≤ s.lastQueue)

/-- The mode that a launch latches: its packet's choice, or its context's mode (R110, R112). -/
def latchMode (s : State) (l : Launch) : Nat := if fld l.pkt 2 1 / 4 % 4 = 1 then 3 else pbMode s l.slot

def product (l : List Nat) : Nat := l.foldl (· * ·) 1

/-- The steps of a launch on the dies and tiles of its placement (R32). -/
def walkerSteps (l : Launch) (pos : Nat) : List StepRec :=
  let dies := pktDies l.pkt
  let tiles := pktRect l.pkt
  let ext := fun kind => product ((levelsOf l.kern l.extents kind).map (·.2))
  if tiles.isEmpty || dies.isEmpty then []
  else (List.range (ext 2)).flatMap fun i => (List.range (ext 1)).map fun j =>
    { key := { pos := pos, round := i / dies.length, wave := j / tiles.length,
               tile := dies.getD (i % dies.length) 0 * 512 + tiles.getD (j % tiles.length) 0 }, slot := l.slot, i := i, j := j, restartable := l.kern.restartable }

/-- A context takes the clusters of some tiles that nobody owns: every line of their tiles carries its slot from now on (R369). DEDUCED (log 177). -/
def claimClusters (s : State) (slot : Nat) (ts : List Nat) : State :=
  ((ts.map tileCluster).eraseDups.filter fun c => kget 0 s.owners c != slot).foldl (fun s c =>
    (clusterTiles c).foldl (fun s t => retag s t slot) { s with owners := kset 0 s.owners c slot }) s

/-- A launch enters the sequence: its mode is latched, its context takes the clusters of its placement that nobody owns, and its steps are
assigned (R32, R110, R369). One whose counters carry a failure starts no step (R365). -/
def enterSequence (s : State) (q : Nat) (l : Launch) : State :=
  let pos := s.nextPos
  let s := { s with nextPos := pos + 1, lastQueue := q }
  let s := wakeQueue (modQueue s q fun u => { u with parsed := none }) q
  let steps := walkerSteps l pos
  let s := modLaunch s l.id fun l => { l with st := .inSequence, pos := pos, pbMode := latchMode s l, zeroWork := steps.isEmpty }
  let fails := fun (s : State) => if pktGang l.pkt = 0 then s else failGang s l.slot (pktGid l.pkt)
  if l.judged.getD ((pktWaits l.pkt).any (dcFailed s)) then fails (completeWith s l.id 3 0)
  else if !((pktTiles l.pkt).all (mayOwn s l.slot)) then
    fails (completeWith (modLaunch s l.id fun l => { l with pos := 0xFFFFFFFF }) l.id 2 0x41)
  else
    let s := claimClusters { s with steps := s.steps ++ steps } l.slot (pktTiles l.pkt)
    let s := if steps.isEmpty then launchPart s l.id 0 (s.now + 1) else s
    if pktGang l.pkt ≠ 0 then sched s (s.now + 1) priEngine .gangStart (.at2 l.slot (pktGid l.pkt))
    else (steps.map (·.key.tile)).eraseDups.foldl (fun s t => sched s (s.now + 1) priEngine .stepTurn (.at t)) s

/-- The arbiter takes the first queue in its order that the Prompt Book lets it take, under the context's mode at that moment (R110, R119, R363). A
choice whose record waits for room in the ring is held (R113). A
divergence is recorded and the choice made. -/
def arbiterPick (s : State) : List (Nat × Launch) → State
  | [] => if (readyHeads s).isEmpty then s else wakeArbiter s
  | (q, l) :: rest => match orderEvent s l.slot (pbMode s l.slot) ⟨0x0D, objArbiter⟩ q 0 with
    | .wait k => if k = 0 then wakeArbiter s else arbiterPick s rest
    | .diverge c n => wakeArbiter (enterSequence (diverged s l.slot 0xFFFF ⟨0x0D, objArbiter⟩ c n) q l)
    | .go k => wakeArbiter (enterSequence (k s) q l)

/-- R363: the arbiter's choice. -/
def execArbiterChoice (s : State) : Host.Outcome State Fault Refusal :=
  match s.occ with
  | .none => .next (arbiterPick s (arbiterOrder s))
  | _ => .refused (.noOccasion "ARBITER_CHOICE")

/-! ### Gangs (R43, R44, R361, R368) -/

/-- Some member binds a pipe with a role. -/
def bindsPipe (ms : List Launch) (idx no role : Nat) : Bool :=
  ms.any fun m => pktIdx m.pkt == idx && m.kern.pipes.any fun p => p.1 == no && p.2.1 == role

/-- Every pipe of member 0 has its two members (R361). -/
def gangPipesOk (ms : List Launch) : Bool :=
  match ms.find? fun m => pktIdx m.pkt == 0 with
  | none => true
  | some m => (pktPipes m.pkt).all fun e => !pipeValid e || (bindsPipe ms (pipeProd e) (pipeNo e) 1 && bindsPipe ms (pipeCons e) (pipeNo e) 2)

/-- The first steps of a member: on each tile, its next step (R33). -/
def firstSteps (s : State) (l : Launch) : List StepRec :=
  ((stepsOf s l).map (·.key.tile)).eraseDups.filterMap fun t => ((stepsOf s l).filter fun r => r.key.tile == t && isWaiting r).foldl (fun b r => match b with
    | some x => if stepBefore r x then some r else some x
    | none => some r) none

/-- Whether a first step can be loaded: it is its tile's next, the tile has nothing in front, and its fill need not wait (R43, R430). -/
def canLoad (s : State) (l : Launch) (r : StepRec) : Bool :=
  let t := r.key.tile
  ((nextStep s t).map (·.key)) == some r.key && (bk s t).run.isNone && (ag s t).flip.isNone && (ag s t).wings.run.isNone && !tileTaken s t &&
    !tileHeld s t l.slot && (isFilled s t l || !fillWaits s t l)

/-- The booked first steps of a gang, each with its launch (R43). -/
def gangBooked (s : State) (ms : List Launch) : List (Launch × StepRec) :=
  (ms.filter wantsBooking).flatMap fun l => (firstSteps s l).map fun r => (l, r)

/-- One start for every booked first step: none while it does not fit. -/
def gangFit (s : State) (bs : List (Launch × StepRec)) : Option Nat :=
  let hs := bs.map fun b => (cuesOf b.1).flatMap (cueHolds b.2.key.tile)
  let span := (bs.map fun b => spanOf b.2.key.tile (cuesOf b.1)).foldl max 0
  if entriesApart hs then searchFit s none hs.flatten span (firstStart s 0) 8192 else none

/-- The first steps of a gang's members, each with its launch. -/
def gangFirsts (s : State) (ms : List Launch) : List (Launch × StepRec) := ms.flatMap fun m => (firstSteps s m).map fun r => (m, r)

/-- Every member starts: booked steps at the common start, for which they are Committed, and the others, which begin to load, in one cycle (R43). -/
def gangRelease (s : State) (ms : List Launch) (firsts : List (Launch × StepRec)) : State :=
  let d := freeDelay s
  let s := ms.foldl (fun s m => modLaunch s m.id fun m => { m with started := true, startAt := s.now + 3 + d.1 }) d.2
  (firsts.filter fun b => stepStOf s b.2.key == .assigned).foldl (fun s b =>
    beginLoad (modStep s b.2.key fun x => { x with st := .loading }) b.2.key.tile 0) s

/-- What the tiles' streams say of the starts of a gang's first steps, one after another (R43, R46, R54, R108). -/
def gangStarts (s : State) : List (Launch × StepRec) → Except (Option ((Launch × StepRec) × StreamKey × Nat × Nat)) State
  | [] => .ok s
  | b :: bs => match startChoice s b.2.key.tile b.1.slot b.1.pbMode 0 2 with
    | .go f => gangStarts (f s) bs
    | .wait _ => .error none
    | .diverge c q => .error (some (b, ⟨0x0C, objAgent b.2.key.tile⟩, c, q))

/-- What the keepers' streams say of the commits of a gang's booked first steps, one after another (R43, R64). -/
def gangOrder (s : State) : List (Launch × StepRec) → Except (Option ((Launch × StepRec) × StreamKey × Nat × Nat)) State
  | [] => .ok s
  | b :: bs => match commitOrder s b.1.slot b.1.pbMode (walkerNo b.2.key.tile) (commitRids ((cuesOf b.1).flatMap (cueHolds b.2.key.tile))) with
    | .ok s => gangOrder s bs
    | .wait => .error none
    | .diverge k c q => .error (some (b, k, c, q))

/-- Commits every booked first step at one start (R43, R64). -/
def gangCommit (s : State) (bs : List (Launch × StepRec)) (n : Nat) : State :=
  bs.foldl (fun s b => commitStep s b.2 (cueMode b.1 != 1) (cuesOf b.1) n) s

/-- The members of a gang start together once all of them are in the launch sequence and their first steps can be loaded (R43); a pipe that a
member does not bind rejects member 0 (R361). A member without work completes by itself and holds up no other (R366). -/
def gangStart (s : State) (slot gid : Nat) : State :=
  let ms := gangOf s slot gid
  match ms with
  | [] => s
  | m :: _ =>
    if ms.length < pktGang m.pkt ∨ (ms.any fun m => (m.st != .inSequence && !m.zeroWork) || m.started) then s
    else if !gangPipesOk ms then
      failGang (match ms.find? fun m => pktIdx m.pkt == 0 && m.st == .inSequence with
        | some z => completeWith { s with steps := s.steps.filter fun r => !(r.key.pos == z.pos && !r.key.task) } z.id 2 0x30
        | none => s) slot gid
    else
      let bs := gangBooked s ms
      let firsts := gangFirsts s ms
      let again := fun (s : State) (d : Nat) => sched s (s.now + d) priEngine .gangStart (.at2 slot gid)
      -- a stream makes a start or a commit wait, or it diverges
      let refused := fun (s : State) (e : Option ((Launch × StepRec) × StreamKey × Nat × Nat)) => match e with
        -- under replay the records may name tasks first (R46)
        | none => again ((firsts.map (·.2.key.tile)).foldl (fun s t => if (ag s t).spawnQ.isEmpty then s else sched s s.now priEngine .taskStart (.at t)) s) 1
        | some (b, k, c, q) => again (takeStep.markStepFault (diverged s slot b.2.key.tile k c q) b.2 c) 1
      let ready := ms.all fun l => (firstSteps s l).all fun r => r.st == .booking || canLoad s l r
      if !ready then again s 1
      else if bs.isEmpty then (match gangStarts s firsts with
        | .ok s => gangRelease s ms firsts
        | .error e => refused s e)
      else match gangFit s bs with
        | some n => if bs.any fun b => switchRefuses s slot n (spanOf b.2.key.tile (cuesOf b.1)) then again s 4096
            else (match (gangStarts s firsts).bind fun s => gangOrder s bs with
              | .ok s => gangRelease (gangCommit s bs n) ms firsts
              | .error e => refused s e)
        | none =>
          let since := (bs.map fun b => if b.2.st = .booking then b.2.bookSince else s.now).foldl min s.now
          let s := bs.foldl (fun s b => modStep s b.2.key fun x => { x with st := .booking, bookSince := since }) s
          if s.now - since < 1048576 then again s 4096
          else match gangStarts s firsts with
            | .ok s => gangRelease (bs.foldl (fun s b => bookingNoFit s b.2.key.tile) s) ms firsts
            | .error e => refused s e

/-- R43: a gang starts. -/
def execGangStart (s : State) : Host.Outcome State Fault Refusal :=
  match s.occ with
  | .at2 slot gid => .next (gangStart s slot gid)
  | _ => .refused (.noOccasion "GANG_START")

/-! ### Restarting a step (R35, R123) -/

/-- The Faulted step of a tile or dock core. -/
def faultedStep (s : State) (a : Nat) : Option StepRec :=
  s.steps.find? fun r => r.key.tile == a && (match r.st with
    | .faulted _ => true
    | _ => false)

/-- The journal reaches every effect that the step has performed: none of them was lost to a gap (R123). -/
def journalWhole (s : State) (r : StepRec) : Bool := r.performed.all fun e => (journalled s r.slot e r.key).isSome

/-- The driver restarts the Faulted step of a tile: it loads again from its first bundle and is checked against its journal, or the restart is
refused, with 0x63 as the result of the command (R387). A spawned task has no launch to load it again. The restart record's object is 0: DESIGN CHOICE
(log 151). -/
def stepRestart (s : State) (a : Nat) : State :=
  match faultedStep s a with
  | none => s
  | some r =>
    let run := match (bk s a).run with
      | some x => if x.key = r.key then some x else none
      | none => none
    let refuse := setRegF s (slotReg r.slot 0x020) 7 0 0x63
    match launchAt s r.key.pos with
    | none => refuse
    | some l =>
      if r.key.task ∨ !l.kern.restartable ∨ pbMode s r.slot = 2 ∨ !pbEnabled s r.slot ∨ !journalWhole s r then refuse
      else if ringLacks s r.slot 1 then sched s (s.now + 1) priEngine .stepRestart (.at a)
      else
        let s := writeRecord s r.slot 0x21 0 0 a 0 (gtOf s) (keyBytes r.key)
        let s := if run.isSome then modBk (unitsStop s a) a clearBank else s
        -- one that faulted while it was Parked leaves wings
        let s := if (ag s a).wings.run.any (·.key == r.key) then modAg s a fun g => { g with wings := {}, flipBack := false } else s
        beginLoad (modStep s r.key fun x => { x with st := .loading, booking := none, restarted := true, effects := 0 }) a 0

/-- R123: the driver restarts a Faulted step. -/
def execStepRestart (s : State) : Host.Outcome State Fault Refusal :=
  match s.occ with
  | .at a => .next (stepRestart s a)
  | _ => .refused (.noOccasion "STEP_RESTART")

end Sys2Proof.Machine
end

