-- ==== Sys2Proof/Machine/Contexts.lean ====
section
/-! DEFINITION. Contexts (R369 to R386): the slots' commands, the context image, pre-emption and copy-out, restore, the resolution of faults,
migration, memory keys and HBM pairs. -/

namespace Sys2Proof.Machine

/-! ### Commands (R370, R372) -/

/-- The present command of a slot is over, with its result. -/
def cmdEnd (s : State) (slot result : Nat) : State := setRegF (setRegF s (slotReg slot 0x020) 7 0 result) (slotReg slot 0x020) 63 63 0

def cmdBusy (s : State) (slot : Nat) : Bool := regF s (slotReg slot 0x020) 63 63 == 1

def setCtx (s : State) (slot st : Nat) : State := setRegF s (slotReg slot 0) 2 0 st

/-- A command begins: `busy` rises, and the command gets a number. -/
def cmdBegin (s : State) (slot : Nat) : Nat × State :=
  let i := newId (setRegF s (slotReg slot 0x020) 63 63 1)
  (i.1, { i.2 with ctxWork := kset 0 i.2.ctxWork slot i.1 })

/-- The command with this number is still the slot's present one. -/
def cmdIs (s : State) (slot n : Nat) : Bool := cmdBusy s slot && kget 0 s.ctxWork slot == n

/-- A command through `CTX_CMD`: discarded while another is performed, unless the state lets it in all the same, and refused in a wrong state
(R370, R372). -/
def command (s : State) (slot : Nat) (states through : List Nat) (f : State → Nat → State) : State :=
  let st := ctxState s slot
  if cmdBusy s slot && !through.contains st then setRegF s (slotReg slot 0x020) 7 0 2
  else if !states.contains st then setRegF s (slotReg slot 0x020) 7 0 1
  else
    let i := cmdBegin s slot
    f i.2 i.1

def ctxArg1 (s : State) (slot : Nat) : Nat := (reg s (slotReg slot 0x028)).toNat
def ctxArg2 (s : State) (slot : Nat) : Nat := (reg s (slotReg slot 0x030)).toNat

/-! ### The image (R373, R374) -/

def imagePa (s : State) (slot : Nat) : Nat := regF s (slotReg slot 0x010) 47 16 * 65536

/-- The record of the `k`-th cluster of the map. -/
def recordPa (img k : Nat) : Nat := img + 0x10000 + 0x810000 * k

/-- The features of the device (R374). -/
def deviceFeatures : Nat := 0xFF

def hdrMap (s : State) (img : Nat) : List Nat := (List.range 512).filter fun g => (hbmByte s (img + 64 + g / 8)).getLsbD (g % 8)

def zeroFrom (s : State) (pa n : Nat) : Bool := (s.hbm.filter fun e => decide (pa ≤ e.1) && decide (e.1 < pa + n)).isEmpty

/-- The form of a header (R373). -/
def imageHeaderOk (s : State) (img : Nat) : Bool :=
  let live := hbmN s (img + 16) 8
  let present := hbmN s (img + 8) 8
  hbmN s img 4 == 0x43545831 && hbmByte s (img + 4) == 1 && hbmByte s (img + 5) == 0 && decide (present < 256) && decide (live < 256) &&
    ((List.range 8).all fun b => !live.testBit b || present.testBit b) && hbmN s (img + 32) 4 == (hdrMap s img).length &&
    zeroFrom s (img + 36) 28 && zeroFrom s (img + 128) (0x4000 - 128)

/-- Clusters of a context (R369). -/
def clustersOf (s : State) (slot : Nat) : List Nat := (List.range 512).filter fun c => kget 0 s.owners c == slot

def cceNo (c : Nat) : Nat := 2112 + c

/-- The first byte of a tile's optional regions in a record; the data banks stand at `0x180000 × t`. -/
def optionalPa (rec_ t : Nat) : Nat := rec_ + 0x700000 + 0x40000 * t

/-- Bytes are written into the image, over whatever stood there. -/
def putImage (s : State) (pa n v : Nat) : State :=
  if paOk pa && paOk (pa + n - 1) then { s with hbm := kpaste s.hbm pa n (kbytes 18 (v % 256 ^ n) 0), hpoison := kpaste s.hpoison (pa / 32) (n / 32) [] }
  else s

/-- The number of the save whose bytes stand in a block of the image. -/
def blockNo {α : Type} (s : State) (m : KMap α) (pa n : Nat) : Option Nat :=
  (m.reverse.find? fun e => Config.imageBlock e.1 % 256 ^ n == hbmN s pa n).map (·.1)

/-- What a block of the image stands for: its bytes are those of some save, the latest one first. Bytes that no save wrote stand for nothing.
DESIGN CHOICE (log 179). -/
def blockAt {α : Type} (s : State) (m : KMap α) (pa n : Nat) : Option α :=
  (m.reverse.find? fun e => Config.imageBlock e.1 % 256 ^ n == hbmN s pa n).map (·.2)

/-- The hardware block of a tile, the cluster block, and the block of a dock core: their addresses, and what they stand for (R373). -/
def hwPa (rec_ t : Nat) : Nat := rec_ + 0x600000 + 0x40000 * t
def tileBlock (s : State) (rec_ t : Nat) : SavedTile := (blockAt s s.savedTiles (hwPa rec_ t) 0x40000).getD {}
def clusterBlock (s : State) (rec_ : Nat) : SavedCluster := (blockAt s s.savedClusters (rec_ + 0x800000) 0x10000).getD {}
def dockPa (s : State) (slot i : Nat) : Nat := imagePa s slot + 0x4000 + 0x400 * i
def dockBlock (s : State) (slot i : Nat) : SavedDock := (blockAt s s.savedDocks (dockPa s slot i) 0x400).getD {}

/-- A dock core's parked task that waits for its core to be free (R378). -/
def dockComes (s : State) (slot i : Nat) : Bool := s.agenda.any fun e => match e.what with
  | .ev .restoreComplete (.at3 k _ j) => k == slot && j == i
  | _ => false

/-- Moves `n` bytes from SRAM into the image, with their poison, of which only records are written (R392). -/
def saveBytes (s : State) (addr pa n : Nat) : State :=
  if !(paOk pa && paOk (pa + n - 1)) then s
  else
    let bad := (kslice s.poison (addr / 64) (n / 64)).flatMap fun e => [(2 * e.1, e.2), (2 * e.1 + 1, e.2)]
    let s := ((kslice s.poison (addr / 64) (n / 64)).filter (·.2)).foldl (fun s e => recordLine s (addr / 64 + e.1)) s
    { s with hbm := kpaste s.hbm pa n (kslice s.sram addr n), hpoison := kpaste s.hpoison (pa / 32) (n / 32) bad }

/-- Moves `n` bytes from the image into SRAM. -/
def fillFrom (s : State) (addr pa n : Nat) (keep : Bool) : State :=
  let from_ := keep && paOk pa && paOk (pa + n - 1)
  let bad := (kslice s.hpoison (pa / 32) (n / 32)).foldl (fun m e => kset false m (e.1 / 2) true) []
  { s with sram := kpaste s.sram addr n (if from_ then kslice s.hbm pa n else []),
           poison := kpaste s.poison (addr / 64) (n / 64) (if from_ then bad else []) }

/-! ### Bind and Unbind (R372) -/

/-- R372: Bind. The registers of the slot stay as they are while it is not Free, so their values are what Bind captures. -/
def ctxBind (s : State) (slot : Nat) : State :=
  command s slot [0] [] fun s _ =>
    let img := imagePa s slot
    if !paOk img then cmdEnd s slot 0x42 else if !imageHeaderOk s img then cmdEnd s slot 0xB1 else cmdEnd (setCtx s slot 1) slot 0

def execCtxBind (s : State) : Host.Outcome State Fault Refusal :=
  match s.occ with
  | .reg slot _ => .next (ctxBind s slot)
  | _ => .refused (.noOccasion "CTX_BIND")

/-- What the walker and the devices hold for a slot beside its launches' completions goes (R371, R372). -/
def forgetSlot (s : State) (slot : Nat) : State :=
  { s with
    steps := s.steps.filter fun r => r.slot ≠ slot
    heldTrees := s.heldTrees.filter fun h => h.pkt.slot ≠ slot
    routersOff := s.routersOff.filter (· ≠ slot)
    timersOff := s.timersOff.filter fun p => p.1 ≠ slot
    upcalls := s.upcalls.filter fun u => u.1 ≠ slot }

/-- R372: Unbind. -/
def ctxUnbind (s : State) (slot : Nat) : State :=
  command s slot [1] [] fun s _ =>
    let s := forgetSlot s slot
    let s :=
      { s with
        tlbs := (s.tlbs.map fun e => (e.1, e.2.filter fun t => t.slot ≠ slot)).filter fun e => e.2 ≠ []
        hpairs := s.hpairs.filter fun p => p.slot ≠ slot
        launches := s.launches.filter fun l => l.slot ≠ slot ∨ l.st = .complete ∨ l.st = .completing
        queues := s.queues.map fun e => (e.1, if e.2.slot = slot then { e.2 with parsed := none } else e.2) }
    cmdEnd (setCtx s slot 0) slot 0

def execCtxUnbind (s : State) : Host.Outcome State Fault Refusal :=
  match s.occ with
  | .reg slot _ => .next (ctxUnbind s slot)
  | _ => .refused (.noOccasion "CTX_UNBIND")

/-! ### Pre-emption (R375) -/

/-- Tiles of a slot's clusters. -/
def slotTiles (s : State) (slot : Nat) : List Nat := (clustersOf s slot).flatMap clusterTiles

/-- Booking and committed steps of a context go back to Assigned, and their holdings are released from the next slot (R35, R71). A step that is
Loading goes on to Running, and yields there. -/
def unstartStep (s : State) (r : StepRec) : State :=
  match r.st with
  | .booking => setStepState s r.key .assigned
  | .committed =>
    let s := match r.booking with
      | some b => releaseBooking s r.key b (slotNow s + 1)
      | none => s
    setStepState s r.key .assigned
  | _ => s

/-- The step of a bank runs. -/
def bankRuns (s : State) (b : Bank) : Bool :=
  match b.run with
  | some r => stepStOf s r.key == .running
  | none => false

/-- The pre-emption interrupt reaches a tile: its running step, or the one that a flip in progress brings to the front (R316, R375). The handler of
a step that is Faulted stops. -/
def askYield (s : State) (t : Nat) : State :=
  let ask := fun (b : Bank) => { b with c := { b.c with ipend := b.c.ipend ||| 8#4 } }
  let s := if (bk s t).run.any fun r => isFaulted s r.key then modRun s t fun r => { r with going := false } else s
  let s := if bankRuns s (ag s t).front then modAg s t fun g => { g with front := ask g.front } else s
  if (ag s t).flip.isSome && (ag s t).wings.run.isSome then modAg s t fun g => { g with wings := ask g.wings, flipBack := false }
  else modAg s t fun g => { g with flipBack := false }

/-- A parked task of a dock core moves into its block of the image; the other blocks are zero (R373, R381). -/
def saveDocks (s : State) (slot : Nat) : State :=
  (List.range 48).foldl (fun s i =>
    let a := 2048 + i
    if (bk s a).run.any fun r => r.slot == slot && stepStOf s r.key == .parked then
      let d : SavedDock := { front := bk s a, kept := (ag s a).kept, cmds := (cceOf s a).kept }
      let s := modCce (modAg s a fun g => { g with front := {}, kept := [] }) a fun c => { c with kept := [] }
      let n := newId s
      putImage { n.2 with savedDocks := kset {} s.savedDocks n.1 d } (dockPa s slot i) 0x400 (Config.imageBlock n.1)
    else if dockComes s slot i then s
    else putImage s (dockPa s slot i) 0x400 0) s

/-- Pre-empt is given to a slot: every tile of it is asked to yield, and its cluster controllers count the acknowledgements (R375, R376). -/
def givePreempt (s : State) (slot n : Nat) : State :=
  let s := flushAll (setCtx s slot 4) slot
  let s := { s with timersOff := (slot, s.now) :: s.timersOff.filter fun p => p.1 ≠ slot }
  let s := (s.steps.filter fun r => r.slot == slot && !r.key.task).foldl (fun s r => match stepRec s r.key with
    | some r => unstartStep s r
    | none => s) s
  let s := saveDocks ((slotTiles s slot).foldl askYield s) slot
  let cs := clustersOf s slot
  let s := { s with ctxLeft := kset [] s.ctxLeft slot cs, ctxMap := kset [] s.ctxMap slot cs }
  if cs.isEmpty then sched s (s.now + 1) priEngine .copyOutComplete (.at2 slot n)
  else cs.foldl (fun s c => sched s (s.now + 1) priEngine .copyOut (.at c)) s

/-- R372, R375: Pre-empt. Given during Loading it is held until Loading ends. -/
def ctxPreempt (s : State) (slot : Nat) : State :=
  command s slot [2, 3] [2] fun t n =>
    if ctxState s slot = 2 then { s with ctxHeld := kset false s.ctxHeld slot true } else givePreempt t slot n

/-- Pre-empt that a switch order gives (R419, R420). -/
def switchPreempt (s : State) (slot : Nat) : State :=
  if ctxState s slot = 3 then
    let i := cmdBegin s slot
    givePreempt i.2 slot i.1
  else s

def execCtxPreempt (s : State) : Host.Outcome State Fault Refusal :=
  match s.occ with
  | .reg slot _ => .next (ctxPreempt s slot)
  | .at slot => .next (switchPreempt s slot)
  | _ => .refused (.noOccasion "CTX_PREEMPT")

/-! ### Copy-out (R376) -/

/-- A bank that needs no acknowledgement: empty, or of a step that is Yielded, Parked or Faulted. -/
def bankQuiet (s : State) (b : Bank) : Bool :=
  match b.run with
  | none => true
  | some r => match stepStOf s r.key with
    | .yielded => true
    | .parked => true
    | .faulted _ => true
    | _ => false

/-- Nothing of a step is on its way; commands kept for it stay kept. -/
def stepQuiet (s : State) (a : Nat) (k : StepKey) : Bool :=
  !stepUnlanded { s with cces := s.cces.map fun e => (e.1, { e.2 with kept := [] }) } a k

/-- A tile has acknowledged, and what its steps triggered is performed (R376, R381). No step is on its way into a bank; one that stands in wings,
parked, loaded ahead or displaced, stays there (R42). -/
def tileAcked (s : State) (t slot : Nat) : Bool :=
  (ag s t).flip.isNone && !(ag s t).ahead && bankQuiet s (ag s t).front &&
    (s.steps.all fun r => r.key.tile != t || r.slot != slot || r.st != .loading || (ag s t).wings.run.any fun x => x.key == r.key) &&
    (s.steps.filter fun r => r.key.tile == t && r.slot == slot).all fun r => stepQuiet s t r.key

/-- The slot for which a cluster is still to be saved. -/
def savingSlot (s : State) (c : Nat) : Option Nat := (s.ctxLeft.find? fun e => e.2.contains c && ctxState s e.1 == 4).map (·.1)

def isTreeWork (t : Nat) (e : Entry) : Bool :=
  match e.what with
  | .ev .treeForward (.at3 u _ _) => u == t
  | .ev .treeForward (.tree u _ _) => u == t
  | .ev .treeTimeout (.at3 u _ _) => u == t
  | .ev .treePacketArrival (.tree u _ _) => u == t
  | _ => false

/-- The packets in entries about a tile's router: those that arrive, and broadcasts about to be forwarded. -/
def treeWorkPkt (e : Entry) : Option (RPort × TreePkt) :=
  match e.what with
  | .ev .treeForward (.tree _ p k) => some (p, k)
  | .ev .treePacketArrival (.tree _ p k) => some (p, k)
  | _ => none

/-- The router stops: its packets are held, and each instance keeps the cycles it has left (R422). -/
def stopRouter (s : State) (t slot : Nat) : Router × State :=
  let since := timerNow s slot
  let held := (s.agenda.filter (isTreeWork t)).filterMap treeWorkPkt
  let r := rtr s t
  let r := { r with trees := r.trees.map fun e => (e.1, { e.2 with
    casts := []
    opens := e.2.opens.map fun i => { i with due := i.due.map fun d => d - since } }) }
  (r, { s with agenda := s.agenda.filter fun e => !isTreeWork t e
               heldTrees := s.heldTrees ++ held.map fun h => { tile := t, port := h.1, pkt := h.2 } })

/-- The contributions that a tile's router has refused leave its channels (R375, R422). -/
def takeContribs (s : State) (t : Nat) : List Pkt × State :=
  let ps := refusedReduce s t
  let ids := ps.map (·.id)
  let s := modAg s t fun g => { g with chans := (g.chans.map fun c => (c.1,
    { pkts := c.2.pkts.filter (fun p => !ids.contains p.1.id), refused := c.2.refused.filter fun p => !ids.contains p.1.id })).filter fun c => c.2 ≠ {} }
  (ps, { s with agenda := s.agenda.filter fun e => !((entryPkt e).any ids.contains) })

/-- The bank of a Yielded step, as its tile loads it again (R378). -/
def yieldedBank (s : State) (t : Nat) : Bank :=
  let b := bk s t
  if b.run.any fun r => stepStOf s r.key == .yielded then { b with g := [], p := 0, h := [], v := [], m := [], x := {}, lm := {} } else {}

/-- A kept access or spawn of a step of a slot. -/
def keptOfSlot (s : State) (slot : Nat) (k : Kept) : Bool := (occStep k.occ).any fun x => (stepRec s x).any fun r => r.slot == slot

/-- One tile goes into its cluster's record (R373, R376). -/
def saveTile (s : State) (slot rec_ t : Nat) : State :=
  let p := tilePos t
  let s := saveBytes s (t * 2 ^ 21) (rec_ + 0x180000 * p) 0x180000
  let s := putImage (saveBytes s (t * 2 ^ 21 + 0x180000) (optionalPa rec_ p) 0x34000) (optionalPa rec_ p + 0x34000) 0xC000 0
  let r := stopRouter s t slot
  let c := takeContribs r.2 t
  let s := c.2
  let g := ag s t
  let tile : SavedTile :=
    { mx := mxOf s t, front := yieldedBank s t, wings := if g.wings.run.isSome then g.wings else {}, router := r.1,
      pairs := kslice s.pairs (16 * t) 16, contribs := c.1, filled := g.filled, tasks := g.spawnQ.filter fun k => k.slot == slot,
      kept := g.kept.filter fun k => keptOfSlot s slot k }
  let n := newId s
  let s := putImage { n.2 with savedTiles := kset {} s.savedTiles n.1 tile } (hwPa rec_ p) 0x40000 (Config.imageBlock n.1)
  let s := clearPairs (setTags s t 0) t
  let s := { s with mx := kset {} s.mx t {}, routers := kset {} s.routers t {} }
  modAg s t fun g =>
    { g with
      front := {}
      wings := {}
      filled := 0
      ahead := false
      spawnQ := g.spawnQ.filter fun k => k.slot ≠ slot
      kept := g.kept.filter fun k => !keptOfSlot s slot k }

/-- The features whose state a Yielded or Parked step of a slot needs (R374). -/
def liveFeatures (s : State) (slot : Nat) (tiles : List SavedTile) : Nat :=
  let sets := tiles.flatMap fun t => [t.mx.s0, t.mx.s1]
  let kept := (tiles.map (·.front)).filter fun b => b.run.isSome
  let docks := (List.range 48).any fun i => (dockBlock s slot i).front.run.isSome
  let journal := s.steps.any fun r => r.slot == slot && !stepOver r && r.restartable
  let bits := [tiles.any fun t => t.wings.lm.on != 0 || !t.wings.lm.queue.isEmpty, sets.any fun x => x.sparse && x.panels != 0,
    sets.any fun x => decide (3 ≤ x.fmt), docks, journal, kept.any fun b => !b.q.scenes.isEmpty, kept.any fun b => b.q.imode != 0#2,
    s.hpairs.any fun p => p.slot == slot]
  (bits.zipIdx.map fun b => if b.1 then 2 ^ b.2 else 0).foldl (· + ·) 0

/-- A cluster is saved: its pins are recorded and removed, its tiles, kept commands and timed copies go into the record, and its tags become
0 (R376). -/
def saveCluster (s : State) (slot c rec_ : Nat) : State :=
  let e := cceNo c
  let pins := (tlbOf s e).filter fun t => t.pinned && t.slot == slot
  let s := setTlb s e ((tlbOf s e).map fun t => if t.slot = slot then { t with pinned := false } else t)
  let mine := fun (q : Copy) => q.req.slot == slot
  let timed := (cceOf s e).timed.filter mine
  let kept := (cceOf s e).kept.filter fun q => q.slot == slot
  let s := modCce s e fun u => { u with timed := u.timed.filter fun q => !mine q, kept := u.kept.filter fun q => q.slot ≠ slot }
  let s := (clusterTiles c).foldl (fun s t => saveTile s slot rec_ t) s
  let n := newId s
  let s := putImage { n.2 with savedClusters := kset {} s.savedClusters n.1 { pins := pins.map fun t => (t.page, t.big), timed := timed, kept := kept } }
    (rec_ + 0x800000) 0x10000 (Config.imageBlock n.1)
  { s with owners := kset 0 s.owners c 0
           ctxLeft := kset [] s.ctxLeft slot ((kget [] s.ctxLeft slot).filter (· ≠ c)) }

/-- Every tile of a slot has acknowledged. -/
def allAcked (s : State) (slot : Nat) : Bool := (kget [] s.ctxLeft slot).all fun c => (clusterTiles c).all fun t => tileAcked s t slot

/-- The slot is the outgoing one of a switch order whose tiles yield or whose markers are awaited (R417, R421). -/
def switchingOut (s : State) (slot : Nat) : Bool := s.switch.out == slot && (regF s 0x7118 2 0 == 3 || regF s 0x7118 2 0 == 4)

/-- Extent of a ring of the pod less one: X, Y, Z (R413). -/
def podExtent (s : State) (ring : Nat) : Nat :=
  match ring with
  | 0 => regF s 0x7000 16 14
  | 1 => regF s 0x7000 19 17
  | _ => regF s 0x7000 23 20

/-- With every tile of the slot quiet its routers stop, and each port on a ring sends its marker and awaits its peer's (R421, R422). -/
def startMarkers (s : State) (slot : Nat) : State :=
  let s := { setRegF s 0x7118 2 0 4 with routersOff := slot :: s.routersOff.filter (· ≠ slot) }
  let ports := (List.range 18).filter fun p => decide (0 < podExtent s (p / 6))
  ports.foldl (fun s p => sched s (s.now + 10000000) priEnd .markerTimeout (.at2 s.switch.no p))
    { s with switch := { s.switch with marks := ports.filter fun p => !s.switch.came.contains p } }

/-- A cluster's controller counts its acknowledgements; with all four, and in a switch with every marker, it copies the cluster out (R376,
R421). Completions of the context's launches come first. -/
def copyOut (s : State) (c : Nat) : State :=
  match savingSlot s c with
  | none => s
  | some slot =>
    let again := sched s (s.now + 1) priEngine .copyOut (.at c)
    if !((clusterTiles c).all fun t => tileAcked s t slot) || s.launches.any (fun l => l.slot == slot && l.st == .completing) then again
    else if switchingOut s slot && regF s 0x7118 2 0 == 3 then
      if allAcked s slot then sched (startMarkers s slot) (s.now + 1) priEngine .copyOut (.at c) else again
    else if switchingOut s slot && !s.switch.marks.isEmpty then again
    else
      let all := kget [] s.ctxMap slot
      let k := (all.filter fun g => decide (g < c)).length
      let s := saveCluster s slot c (recordPa (imagePa s slot) k)
      if (kget [] s.ctxLeft slot).isEmpty then
        let d := freeDelay s
        sched d.2 (s.now + d.1) priEngine .copyOutComplete (.at2 slot (kget 0 s.ctxWork slot))
      else s

def execCopyOut (s : State) : Host.Outcome State Fault Refusal :=
  match s.occ with
  | .at c => .next (copyOut s c)
  | _ => .refused (.noOccasion "COPY_OUT")

/-- The header of a saved image (R373). -/
def writeHeader (s : State) (slot : Nat) (map : List Nat) : State :=
  let img := imagePa s slot
  let tiles := (List.range map.length).flatMap fun k => (List.range 4).map (tileBlock s (recordPa img k))
  let s := devWrite s img 64 (0x43545831 + 2 ^ 32 + 2 ^ 48 * stepping + 2 ^ 64 * deviceFeatures + 2 ^ 128 * liveFeatures s slot tiles +
    2 ^ 192 * (gtOf s % 2 ^ 64) + 2 ^ 256 * map.length)
  devWrite s (img + 64) 64 (map.foldl (fun v g => v + 2 ^ g) 0)

/-! ### The collective area (R422) -/

def collPa (s : State) (slot : Nat) : Nat := regF s (slotReg slot 0x080) 47 16 * 65536
def collOk (s : State) (slot : Nat) : Bool :=
  let lg := regF s (slotReg slot 0x080) 4 0
  decide (27 ≤ lg) && decide (lg ≤ 30) && collPa s slot != 0

def termBit : RPort → Nat
  | .own => 0 | .west => 1 | .north => 2 | .east => 3 | .south => 4

/-- The terms of an instance that are present, in the order of their bits. -/
def portTerms (i : TreeInst) : List (RPort × TreePkt) :=
  i.own.toList.map (fun k => (.own, k)) ++ [RPort.west, .north, .east, .south].filterMap fun p => i.kids.find? fun k => k.1 == p

/-- One instance record: its length and its bytes. -/
def instRecord (t n : Nat) (i : TreeInst) : Nat × Nat :=
  let terms := portTerms i
  let head := t + 2 ^ 16 * n + 2 ^ 24 * i.num + 2 ^ 32 * (terms.map fun x => 2 ^ termBit x.1).foldl (· + ·) 0 + 2 ^ 64 * (i.due.getD 0 % 2 ^ 32) +
    2 ^ 128 * (missingOf i).toNat
  (64 + 256 * terms.length, head + 2 ^ 512 * (terms.zipIdx.map fun x => 2 ^ (2048 * x.2) * (padded x.1.2).toNat).foldl (· + ·) 0)

/-- One packet record. -/
def pktRecord (t port n inst : Nat) (bcast wide : Bool) (data : Row) : Nat × Nat :=
  (320, t + 2 ^ 16 * port + 2 ^ 24 * n + 2 ^ 32 * (inst % 256) + 2 ^ 40 * ((if bcast then 1 else 0) + (if wide then 2 else 0)) + 2 ^ 512 * data.toNat)

def contribRecord (t : Nat) (p : Pkt) : Nat × Nat :=
  match p.kind with
  | .reduce n w v i => pktRecord t 7 n.val i false w v
  | _ => (0, 0)

/-- What a tile's router held of a tree, and its refused contributions to it. -/
def heldOf (x : SavedTile) (n : Nat) : List HeldTree := x.held.filter fun h => h.pkt.tree.val == n
def contribsOf (x : SavedTile) (n : Nat) : List Pkt := x.contribs.filter fun p => match p.kind with
  | .reduce m _ _ _ => m.val == n
  | _ => false

/-- A tile's packet records, in ascending tree. -/
def pktRecords (t : Nat) (x : SavedTile) : List (Nat × Nat) :=
  (List.range 16).flatMap fun n =>
    ((heldOf x n).map fun h => pktRecord t (if h.port = .own then 7 else portNo h.port) n h.pkt.inst h.pkt.bcast h.pkt.wide h.pkt.data) ++
      (contribsOf x n).map (contribRecord t)

/-- The saved tiles of a map, in ascending tile: each with the number of its save. -/
def areaTiles (s : State) (slot : Nat) (map : List Nat) : List (Nat × Nat) :=
  let ts := map.zipIdx.flatMap fun m => (clusterTiles m.1).filterMap fun t =>
    (blockNo s s.savedTiles (hwPa (recordPa (imagePa s slot) m.2) (tilePos t)) 0x40000).map fun n => (t, n)
  (List.range 2048).filterMap fun t => ts.find? fun x => x.1 == t

/-- The packets that routers held go into the tiles' blocks. -/
def settleHeld (s : State) (slot : Nat) (map : List Nat) : State :=
  let mine := fun (h : HeldTree) => h.pkt.slot == slot
  let s' := (areaTiles s slot map).foldl (fun u x =>
    { u with savedTiles := kmod {} u.savedTiles x.2 fun y => { y with held := s.heldTrees.filter fun h => mine h && h.tile == x.1 } }) s
  { s' with heldTrees := s.heldTrees.filter fun h => !mine h }

/-- The number of bytes of an instance record. -/
def instLen (i : TreeInst) : Nat := 64 + 256 * (portTerms i).length

def treeInsts (x : SavedTile) : List TreeInst := x.router.trees.flatMap fun e => e.2.opens

/-- Records in ascending tile, and within a tile in ascending tree (R422). -/
def writeArea (s : State) (slot : Nat) (map : List Nat) : State :=
  if !collOk s slot then s
  else
    let tiles := (areaTiles s slot map).map fun x => (x.1, kget {} s.savedTiles x.2)
    let insts := tiles.flatMap fun x => x.2.router.trees.flatMap fun tr => tr.2.opens.map (instRecord x.1 tr.1)
    let pkts := tiles.flatMap fun x => pktRecords x.1 x.2
    let s := devWrite s (collPa s slot) 64 (0x434F4C31 + 2 ^ 32 * insts.length + 2 ^ 64 * pkts.length)
    ((insts ++ pkts).foldl (fun acc r => (devWrite acc.1 acc.2 r.1 r.2, acc.2 + r.1)) (s, collPa s slot + 64)).1

/-! Reading the area again (R423): the payloads and timers are its bytes; what else a packet is stands in the block (log 179). -/

def areaRow (s : State) (a : Nat) : Row := BitVec.ofNat 2048 (hbmN s a 256)

/-- An instance whose record stands at `a`. -/
def reloadInst (s : State) (a : Nat) (i : TreeInst) : TreeInst :=
  let ts := (portTerms i).zipIdx.map fun x => (x.1.1, { x.1.2 with data := areaRow s (a + 64 + 256 * x.2) })
  { i with
    own := (ts.find? fun x => x.1 == .own).map (·.2)
    kids := ts.filter fun x => x.1 != .own
    due := i.due.map fun _ => hbmN s (a + 8) 4 }

/-- Instances whose records stand from `a` on, and the address behind them. -/
def reloadInsts (s : State) (a : Nat) : List TreeInst → Nat × List TreeInst
  | [] => (a, [])
  | i :: is =>
    let r := reloadInsts s (a + instLen i) is
    (r.1, reloadInst s a i :: r.2)

def reloadTrees (s : State) (a : Nat) : KMap Tree → Nat × KMap Tree
  | [] => (a, [])
  | e :: es =>
    let r := reloadInsts s a e.2.opens
    let q := reloadTrees s r.1 es
    (q.1, (e.1, { e.2 with opens := r.2 }) :: q.2)

/-- A tile's packets whose records stand from `a` on. -/
def reloadPkts (s : State) (a : Nat) (x : SavedTile) : SavedTile :=
  let base := fun (n : Nat) => a + 320 * ((List.range n).map fun m => (heldOf x m).length + (contribsOf x m).length).foldl (· + ·) 0
  { x with
    held := (List.range 16).flatMap fun n => (heldOf x n).zipIdx.map fun h =>
      { h.1 with pkt := { h.1.pkt with data := areaRow s (base n + 320 * h.2 + 64) } }
    contribs := (List.range 16).flatMap fun n => (contribsOf x n).zipIdx.map fun p => match p.1.kind with
      | .reduce m w _ i => { p.1 with kind := .reduce m w (areaRow s (base n + 320 * ((heldOf x n).length + p.2) + 64)) i }
      | _ => p.1 }

/-- The area that an image's tiles were written with is read into them (R423). -/
def readArea (s : State) (slot : Nat) (map : List Nat) : State :=
  let a := collPa s slot
  let ts := areaTiles s slot map
  let tile := fun (x : Nat × Nat) => kget {} s.savedTiles x.2
  let count := fun (f : SavedTile → Nat) => (ts.map fun x => f (tile x)).foldl (· + ·) 0
  let pkts := fun (x : SavedTile) => (pktRecords 0 x).length
  if !collOk s slot || hbmN s a 4 != 0x434F4C31 || hbmN s (a + 4) 4 != count (fun x => (treeInsts x).length) || hbmN s (a + 8) 4 != count pkts then s
  else
    let r := ts.foldl (fun acc x =>
      let q := reloadTrees s acc.2 (tile x).router.trees
      ({ acc.1 with savedTiles := kmod {} acc.1.savedTiles x.2 fun y => { y with router := { y.router with trees := q.2 } } }, q.1)) (s, a + 64)
    (ts.foldl (fun acc x =>
      ({ acc.1 with savedTiles := kmod {} acc.1.savedTiles x.2 (reloadPkts s acc.2) }, acc.2 + 320 * pkts (tile x))) r).1

/-- Every cluster is saved: the header and the collective area are written, and the slot is Bound (R376). The incoming slot of a switch is then
restored (R424). -/
def copyOutComplete (s : State) (slot n : Nat) : State :=
  if !cmdIs s slot n || ctxState s slot ≠ 4 then s
  -- a slot without clusters has no tile to wait for, and its ports exchange markers all the same (R421)
  else if switchingOut s slot && regF s 0x7118 2 0 == 3 then sched (startMarkers s slot) (s.now + 1) priEngine .copyOutComplete (.at2 slot n)
  else if switchingOut s slot && !s.switch.marks.isEmpty then sched s (s.now + 1) priEngine .copyOutComplete (.at2 slot n)
  else
    let map := kget [] s.ctxMap slot
    let s := writeArea (settleHeld (writeHeader s slot map) slot map) slot map
    let sw := switchingOut s slot
    let s := cmdEnd (setCtx { s with ctxMap := kset [] s.ctxMap slot [] } slot 1) slot 0
    if sw then sched (setRegF s 0x7118 2 0 5) s.now priEngine .ctxRestore (.at s.switch.in_) else s

def execCopyOutComplete (s : State) : Host.Outcome State Fault Refusal :=
  match s.occ with
  | .at2 slot n => .next (copyOutComplete s slot n)
  | _ => .refused (.noOccasion "COPY_OUT_COMPLETE")

end Sys2Proof.Machine
end

