-- ==== Sys2Proof/Machine/Ecdsa.lean ====
section
/-! DEFINITION. The check of an ECDSA signature over the curve P-521, which the firmware's check names (R405). PRESUMED (log 180): the curve, the
algorithm and the big-endian bytes of its numbers are those of the published standards. -/

namespace Sys2Proof.Machine

/-- The field's prime, the curve's constant b, the base point, and its order. -/
def ecP : Nat := 2 ^ 521 - 1
def ecB : Nat := 0x51953EB9618E1C9A1F929A21A0B68540EEA2DA725B99B315F3B8B489918EF109E156193951EC7E937B1652C0BD3BB1BF073573DF883D2C34F1EF451FD46B503F00
def ecG : Nat × Nat :=
  (0xC6858E06B70404E9CD9E3ECB662395B4429C648139053FB521F828AF606B4D3DBAA14B5E77EFE75928FE1DC127A2FFA8DE3348B3C1856A429BF97E7E31C2E5BD66,
   0x11839296A789A3BC0045C8A5FB42C7D1BD998F54449579B446817AFBD17273E662C97EE72995EF42640C550B9013FAD0761353C7086A272C24088BE94769FD16650)
def ecN : Nat := 2 ^ 521 - 0x5AE79787C40D069948033FEB708F65A2FC44A36477663B851449048E16EC79BF7

/-- A power modulo `m`, by the bits of its exponent. -/
def powMod (m : Nat) : Nat → Nat → Nat → Nat
  | 0, _, _ => 1 % m
  | f + 1, x, k => let r := powMod m f (x * x % m) (k / 2); if k % 2 = 1 then x * r % m else r

/-- The inverse modulo a prime. -/
def invMod (m x : Nat) : Nat := powMod m 521 (x % m) (m - 2)

def subMod (m x y : Nat) : Nat := (x + (m - y % m)) % m

/-- A point of the curve; none is the point at infinity. -/
abbrev EcPoint := Option (Nat × Nat)

/-- The third point of a line with slope `l`, reflected. -/
def ecLine (l x1 y1 x2 : Nat) : EcPoint :=
  let x := subMod ecP (subMod ecP (l * l) x1) x2
  some (x, subMod ecP (l * subMod ecP x1 x) y1)

def ecAdd (p q : EcPoint) : EcPoint :=
  match p, q with
  | none, q => q
  | p, none => p
  | some (x1, y1), some (x2, y2) =>
    if x1 = x2 then
      if (y1 + y2) % ecP = 0 then none else ecLine (subMod ecP (3 * x1 * x1) 3 * invMod ecP (2 * y1) % ecP) x1 y1 x2
    else ecLine (subMod ecP y2 y1 * invMod ecP (subMod ecP x2 x1) % ecP) x1 y1 x2

/-- A multiple of a point, by the bits of the factor. -/
def ecMul : Nat → Nat → EcPoint → EcPoint
  | 0, _, _ => none
  | f + 1, k, p => let r := ecMul f (k / 2) (ecAdd p p); if k % 2 = 1 then ecAdd p r else r

def onCurve (x y : Nat) : Bool := decide (x < ecP) && decide (y < ecP) && (y * y + 3 * x) % ecP == (x * x * x + ecB) % ecP

/-- Whether `(r, s)` signs the hash `e` under the key `(x, y)`. -/
def ecdsaOk (x y e r s : Nat) : Bool :=
  onCurve x y && decide (0 < r) && decide (r < ecN) && decide (0 < s) && decide (s < ecN) &&
    (let w := invMod ecN s
     match ecAdd (ecMul 521 (e * w % ecN) (some ecG)) (ecMul 521 (r * w % ecN) (some (x, y))) with
     | some q => q.1 % ecN == r
     | none => false)

/-- The signature of the hash `e` under the secret `d` with the number `k`. -/
def ecdsaSign (d k e : Nat) : Nat × Nat :=
  let r := ((ecMul 521 (k % ecN) (some ecG)).map fun p => p.1 % ecN).getD 0
  (r, invMod ecN k * (e + r * d) % ecN)

/-- The `n` bytes of a number, most significant first. -/
def beBytes (v n : Nat) : List Nat := (List.range n).map fun i => v / 256 ^ (n - 1 - i) % 256

end Sys2Proof.Machine
end

