-- ==== Sys2Proof/Machine/Residence.lean ====
section
/-! DEFINITION. The rest of the slots' commands (R372, R377, R378, R382, R384, R386): restore, End, Invalidate, Resume, Remap, Pair; and the
memory keys (R385). -/

namespace Sys2Proof.Machine

/-! ### Restore (R377, R378) -/

/-- A cluster is free to take (R378). DESIGN CHOICE (log 195): one that is not in Run is not. -/
def clusterFree (s : State) (c : Nat) : Bool :=
  powerState s c == 0 && !powerMoves s c && kget 0 s.owners c == 0 && (clusterTiles c).all fun t =>
    (kslice s.tags (t * 2 ^ 15) (2 ^ 15)).isEmpty && (ag s t).front.run.isNone && (ag s t).wings.run.isNone && (ag s t).flip.isNone

/-- A weight set whose feature is dropped loads empty (R377). -/
def keepSet (keep : Nat) (x : MxSet) : MxSet :=
  if (x.sparse && !keep.testBit 1) || (decide (3 ≤ x.fmt) && !keep.testBit 2) then {} else x

/-- One tile is filled from its cluster's record; `keep` are the features that are loaded (R377, R378). -/
def restoreTile (s : State) (slot rec_ keep t : Nat) (x : SavedTile) : State :=
  let base := t * 2 ^ 21
  let p := tilePos t
  let o := optionalPa rec_ p
  let s := setTags s t slot
  let s := fillFrom s base (rec_ + 0x180000 * p) 0x180000 true
  let s := fillFrom s (base + 0x180000) o 0x10000 (keep.testBit 6)
  let s := fillFrom s (base + 0x190000) (o + 0x10000) 0x4000 (keep.testBit 5)
  let s := fillFrom s (base + 0x194000) (o + 0x14000) 0x20000 (keep.testBit 0)
  let wings := if keep.testBit 0 then x.wings else { x.wings with lm := {} }
  let s := match x.front.run with
    | some r => modStep s r.key fun y => { y with resume := some x.front }
    | none => s
  let s :=
    { s with
      pairs := kpaste s.pairs (16 * t) 16 x.pairs
      mx := kset {} s.mx t { x.mx with s0 := keepSet keep x.mx.s0, s1 := keepSet keep x.mx.s1 }
      routers := kset {} s.routers t x.router
      heldTrees := s.heldTrees ++ x.held }
  modAg s t fun g =>
    { g with
      wings := wings
      filled := x.filled
      kept := g.kept ++ x.kept
      spawnQ := g.spawnQ ++ x.tasks
      chans := if x.contribs.isEmpty then g.chans
        else kmod {} g.chans 2 fun c => { c with refused := c.refused ++ x.contribs.map fun p => (p, some s.now) } }

/-- The pages of a cluster block are pinned again; none where one cannot be (R378). -/
def repin (s : State) (slot e : Nat) : List (Nat × Bool) → Option State
  | [] => some s
  | (page, _) :: ps => match pinWalk s e slot (page * 65536) 1 with
    | .ok [t] =>
      let l := (tlbOf s e).filter fun u => !(u.slot == slot && u.page == t.page && u.big == t.big)
      if (l.filter (·.pinned)).length ≥ 256 then none else repin (setTlb s e (tlbInsert l { t with pinned := true })) slot e ps
    | _ => none

/-- One cluster is filled, and its timed copies and kept commands return. -/
def restoreCluster (s : State) (slot rec_ keep c : Nat) : Option State :=
  let x := clusterBlock s rec_
  let s := { s with owners := kset 0 s.owners c slot }
  let s := (clusterTiles c).foldl (fun s t => restoreTile s slot rec_ keep t (tileBlock s rec_ (tilePos t))) s
  (repin s slot (cceNo c) x.pins).map fun s =>
    modCce s (cceNo c) fun u => { u with timed := u.timed ++ x.timed, kept := u.kept ++ x.kept }

/-- The clusters of a restore that does not succeed are given back. -/
def unrestore (s : State) (slot : Nat) (map : List Nat) : State :=
  map.foldl (fun s c =>
    let s := (clusterTiles c).foldl (fun s t =>
      let s := clearPairs (setTags s t 0) t
      modAg { s with mx := kset {} s.mx t {}, routers := kset {} s.routers t {} } t fun g => { g with wings := {}, filled := 0, kept := [] }) s
    { s with owners := kset 0 s.owners c 0 }) { s with heldTrees := s.heldTrees.filter fun h => h.pkt.slot ≠ slot }

/-- Restore is refused: the slot stays Bound, and a switch order that gave it ends (R424). -/
def restoreFails (s : State) (slot result : Nat) : State :=
  let s := { s with ctxHeld := kset false s.ctxHeld slot false }
  let s := if s.switch.in_ = slot ∧ regF s 0x7118 2 0 = 5 then setRegF (setRegF s 0x7118 2 0 6) 0x7118 31 24 1 else s
  cmdEnd s slot result

/-- Restore (R377, R378): the image's features and the clusters are checked, and then every cluster of the map is filled. -/
def giveRestore (s : State) (slot n : Nat) : State :=
  let img := imagePa s slot
  let live := hbmN s (img + 16) 8
  let present := hbmN s (img + 8) 8
  let lacks := fun (m : Nat) => (List.range 64).foldl (fun v b => if m.testBit b && !deviceFeatures.testBit b then v + 2 ^ b else v) 0
  if !imageHeaderOk s img then restoreFails s slot 0xB1
  else if lacks live ≠ 0 then restoreFails s slot 0xB2
  else
    let dropped := lacks ((List.range 64).foldl (fun v b => if present.testBit b && !live.testBit b then v + 2 ^ b else v) 0)
    let s := if dropped = 0 then s else errorRecord s { cause := 0xB3, slot := slot, detail := dropped }
    let map := hdrMap s img
    if !(map.all (clusterFree s)) then restoreFails s slot 0x41
    else
      let keep := (List.range 8).foldl (fun v b => if present.testBit b && deviceFeatures.testBit b then v + 2 ^ b else v) 0
      match map.zipIdx.foldl (fun a m => a.bind fun s => restoreCluster s slot (recordPa img m.2) keep m.1) (some (readArea s slot map)) with
      | none => restoreFails (unrestore s slot map) slot 0xA0
      | some t =>
        let d := freeDelay (setCtx t slot 2)
        sched d.2 (s.now + d.1) priEngine .restoreComplete (.at2 slot n)

def ctxRestore (s : State) (slot : Nat) : State := command s slot [1] [] fun s n => giveRestore s slot n

/-- The Restore that a switch order gives (R424): it waits for the slot's present command, and ends the order where the slot can take none. -/
def switchRestore (s : State) (slot : Nat) : State :=
  let ended := fun (s : State) => setRegF s 0x7118 2 0 6
  if s.switch.in_ ≠ slot ∨ regF s 0x7118 2 0 ≠ 5 then s
  else if cmdBusy s slot then sched s (s.now + 1) priEngine .ctxRestore (.at slot)
  else match ctxState s slot with
  | 1 =>
    let i := cmdBegin s slot
    giveRestore i.2 slot i.1
  | 3 => ended s
  | _ => setRegF (ended s) 0x7118 31 24 1

/-- R378: Restore. -/
def execCtxRestore (s : State) : Host.Outcome State Fault Refusal :=
  match s.occ with
  | .reg slot _ => .next (ctxRestore s slot)
  | .at slot => .next (switchRestore s slot)
  | _ => .refused (.noOccasion "CTX_RESTORE")

/-- The routers of a tile go on: instances count from where they stopped, and what was about to be forwarded is (R423). -/
def startRouter (s : State) (t : Nat) : State :=
  let r := rtr s t
  let s := modRouter s t fun r => { r with trees := r.trees.map fun e => (e.1, { e.2 with
    opens := e.2.opens.map fun i => { i with due := i.due.map (· + s.now) } }) }
  r.trees.foldl (fun s e => e.2.opens.foldl (fun s i =>
    if i.closing then sched s (s.now + 8) priLand .treeForward (.at3 t e.1 i.num)
    else match i.due with
      | some d => timeoutAt s t e.1 i.num (s.now + max 1 d)
      | none => s) s) s

/-- Timed copies of a restored context: their pages are translated again, and their issue times stand (R378). -/
def restartTimed (s : State) (slot e : Nat) : State :=
  ((cceOf s e).timed.filter fun c => c.req.slot == slot).foldl (fun s c =>
    let p := holdPages s e slot false c.x
    match p.2 with
    | .ok ps =>
      let s := modCce p.1 e fun u => { u with timed := u.timed.map fun d => if d.req.id = c.req.id then { d with pages := ps } else d }
      sched s (max (s.now + 1) (cycleOf s (c.x.gt.getD 0))) priEngine .timedCopyStart (.at3 e c.x.lane c.req.id)
    | .error (.fault k va _) => failCopy p.1 e c k va
    | .error _ => p.1) s

/-- A dock core takes back the parked task of its block, once it is free. -/
def restoreDock (s : State) (slot i : Nat) : State :=
  let d := dockBlock s slot i
  let a := 2048 + i
  if d.front.run.isNone then s
  else if (bk s a).run.isSome then sched s (s.now + 1) priEngine .restoreComplete (.at3 slot 0 i)
  else
    let s := modAg s a fun g => { g with front := d.front, kept := d.kept }
    modCce s a fun c => { c with kept := c.kept ++ d.cmds }

/-- A Yielded step books again or is loaded (R35, R378). -/
def resumeStep (s : State) (r : StepRec) : State :=
  if (r.remain.getD []).isEmpty then
    beginLoad (modStep s r.key fun x => { x with st := .loading, remain := none }) r.key.tile 0
  else sched (modStep s r.key fun x => { x with st := .booking, bookSince := s.now }) s.now priEngine .bookingProbe (.at r.key.tile)

/-- Every cluster is filled: the slot is Active (R378, R423), and what the walker, the queues and the arbiter hold for it goes on. -/
def restoreComplete (s : State) (slot n : Nat) : State :=
  if !cmdIs s slot n || ctxState s slot ≠ 2 then s
  else
    let s := cmdEnd (setCtx s slot 3) slot 0
    let tiles := slotTiles s slot
    let held := s.heldTrees.filter fun h => h.pkt.slot == slot
    let s := { s with heldTrees := s.heldTrees.filter fun h => h.pkt.slot ≠ slot, routersOff := s.routersOff.filter (· ≠ slot)
                      timersOff := s.timersOff.filter fun p => p.1 ≠ slot }
    let s := if slot = 0 then s else tiles.foldl startRouter s
    let s := held.foldl (fun s h => sched s (s.now + 1) priBegin .treePacketArrival (.tree h.tile h.port h.pkt)) s
    let s := tiles.foldl (fun s t => if (kget {} (ag s t).chans 2).refused.isEmpty then s else sched s (s.now + 1) priBegin .resend (.at2 t 2)) s
    let s := (clustersOf s slot).foldl (fun s c => restartTimed s slot (cceNo c)) s
    let s := (List.range 48).foldl (fun s i => restoreDock s slot i) s
    let s := (s.steps.filter fun r => r.slot == slot && r.st == .yielded).foldl resumeStep s
    -- a parked step that was in a curtain is still at its combining point (R420)
    let s := tiles.foldl (fun s t => if (ag s t).wings.curtain.any fun c => c.arrived && !c.released then
      sched s (s.now + 1) priEngine .curtainArrive (.at t) else s) s
    -- a parked step whose fault was resolved before the save still flips back (R382)
    let s := tiles.foldl (fun s t => sched (if (ag s t).wings.run.any (·.resumed) then modAg s t fun g => { g with flipBack := true } else s) (s.now + 1)
      priEngine .stepTurn (.at t)) s
    let s := (s.queues.filter fun q => q.2.slot == slot).foldl (fun s q => wakeQueue s q.1) s
    let s := (s.launches.filter fun l => l.slot == slot && l.st == .inSequence).foldl (fun s l => launchPart s l.id 0 (s.now + 1)) s
    let s := if s.switch.in_ = slot ∧ regF s 0x7118 2 0 = 5 then setRegF s 0x7118 2 0 6 else s
    let s := if kget false s.ctxHeld slot then sched { s with ctxHeld := kset false s.ctxHeld slot false } (s.now + 1) priBegin .ctxPreempt (.at slot)
      else s
    wakeArbiter s

/-- R378: a restore is complete, or a dock core is free for its parked task. -/
def execRestoreComplete (s : State) : Host.Outcome State Fault Refusal :=
  match s.occ with
  | .at2 slot n => .next (restoreComplete s slot n)
  | .at3 slot _ i => .next (restoreDock s slot i)
  | _ => .refused (.noOccasion "RESTORE_COMPLETE")

/-! ### End (R372) -/

/-- Everything that steps have on its way goes. -/
def purgeSteps (s : State) (keys : List StepKey) (slot : Nat) : State :=
  let mine := fun (k : StepKey) => keys.contains k
  let credit := fun (e : Entry) => match e.what with
    | .ev _ (.sync x) => x.agent == 4094
    | _ => false
  let bank := fun (b : Bank) => if b.run.any (·.slot == slot) then {} else b
  let copies := fun (l : List Copy) => l.filter fun c => c.req.slot ≠ slot
  let reqs := fun (l : List ChReq) => l.filter fun q => q.slot ≠ slot
  { s with
    agenda := s.agenda.filter fun e => credit e || !(entryStep e).any mine
    agents := s.agents.map fun e => (e.1,
      { e.2 with
        front := bank e.2.front
        wings := bank e.2.wings
        outs := e.2.outs.filter fun o => !mine o.key
        nest := if e.2.front.run.any (·.slot == slot) then none else e.2.nest
        acqs := if e.2.front.run.any (·.slot == slot) then [] else e.2.acqs
        fences := if e.2.front.run.any (·.slot == slot) then [] else e.2.fences
        kept := e.2.kept.filter fun k => !(occStep k.occ).any mine
        chans := (e.2.chans.map fun c => (c.1,
          { pkts := c.2.pkts.filter (fun p => p.1.slot ≠ slot), refused := c.2.refused.filter fun p => p.1.slot ≠ slot })).filter fun c => c.2 ≠ {}
        ahead := if e.2.front.run.any (·.slot == slot) then false else e.2.ahead
        spawnQ := e.2.spawnQ.filter fun t => t.slot ≠ slot })
    mx := (s.mx.map fun e => (e.1, if e.2.q.any fun c => c.slot == slot then
      { e.2 with
        q := e.2.q.filter fun c => c.slot ≠ slot
        array := none
        load := none } else e.2)).filter fun e => e.2 ≠ {}
    homes := (s.homes.map fun e => (e.1, { locks := e.2.locks.filter (fun o => o.slot ≠ slot), waits := e.2.waits.filter fun o => o.slot ≠ slot } )).filter
      fun e => e.2 ≠ ({} : HomeQ)
    cces := (s.cces.map fun e => (e.1,
      { e.2 with
        pend := reqs e.2.pend
        kept := reqs e.2.kept
        pubs := reqs e.2.pubs
        timed := copies e.2.timed
        lanes := (e.2.lanes.map fun l => (l.1, { queue := copies l.2.queue, run := l.2.run.filter fun c => c.req.slot ≠ slot, tail := copies l.2.tail } )).filter
          fun l => l.2 ≠ ({} : Lane) })) }

/-- End: every step of the context stops, its launches complete with status 4, and its clusters begin to be cleared. -/
def giveEnd (s : State) (slot n : Nat) : State :=
  let live := s.steps.filter fun r => r.slot == slot && !stepOver r
  let s : State := setCtx s slot 5
  let s : State := live.foldl (fun s r => match (stepRec s r.key).bind (·.booking) with
    | some b => releaseBooking s r.key b (slotNow s + 1)
    | none => s) s
  let s : State := live.foldl (fun s r => setStepState (modStep s r.key fun x => { x with resume := none, remain := none }) r.key .ended) s
  let s : State := purgeSteps s (live.map (·.key)) slot
  let s : State := (s.cces.map (·.1)).foldl (fun s e => endInvs ((List.range 8).foldl (fun s l => kickLane s e l) s) e) s
  let s : State :=
    { s with
      ctxLeft := kset [] s.ctxLeft slot []
      ctxMap := kset [] s.ctxMap slot []
      ctxHeld := kset false s.ctxHeld slot false
      heldTrees := s.heldTrees.filter fun h => h.pkt.slot ≠ slot
      routersOff := s.routersOff.filter (· ≠ slot)
      timersOff := s.timersOff.filter fun p => p.1 ≠ slot
      upcalls := s.upcalls.filter fun u => u.1 ≠ slot
      queues := s.queues.map fun e => (e.1, if e.2.slot = slot then { e.2 with parsed := none } else e.2) }
  let s : State := (s.launches.filter fun l => l.slot == slot && (l.st == .parsed || l.st == .inSequence)).foldl (fun s l => completeWith s l.id 4 l.firstFault) s
  let s : State := ((List.range 48).map (2048 + ·)).foldl (fun s a => if (bk s a).run.isNone && !(ag s a).spawnQ.isEmpty then
    sched s (s.now + 1) priEngine .stepTurn (.at a) else s) s
  let d := freeDelay s
  sched d.2 (s.now + d.1) priEngine .contextClearComplete (.at2 slot n)

def ctxEnd (s : State) (slot : Nat) : State := command s slot [2, 3, 4] [2, 4] fun s n => giveEnd s slot n

/-- R372: End. -/
def execCtxEnd (s : State) : Host.Outcome State Fault Refusal :=
  match s.occ with
  | .reg slot _ => .next (ctxEnd s slot)
  | _ => .refused (.noOccasion "CTX_END")

/-- A tile's lines are zero and correct, and its tags are 0; its unit and router are as after bring-up. -/
def clearTile (s : State) (t : Nat) : State :=
  let s := clearPairs (setTags s t 0) t
  let s :=
    { s with
      sram := kpaste s.sram (t * 2 ^ 21) 0x1C0000 []
      poison := kpaste s.poison (t * 2 ^ 15) (0x1C0000 / 64) []
      flaws := kpaste s.flaws (t * 2 ^ 15) (0x1C0000 / 64) []
      mx := kset {} s.mx t {}
      routers := kset {} s.routers t {} }
  modAg s t fun g => { g with front := {}, wings := {}, filled := 0, flip := none }

/-- The context's clusters are clear, and the slot is Bound. -/
def contextClear (s : State) (slot n : Nat) : State :=
  if !cmdIs s slot n || ctxState s slot ≠ 5 then s
  else
    let cs := clustersOf s slot
    let s := cs.foldl (fun s c => { (clusterTiles c).foldl clearTile s with owners := kset 0 s.owners c 0 }) s
    cmdEnd (setCtx s slot 1) slot 0

/-- R372: the lines of an ended context are zeroed and untagged. -/
def execContextClearComplete (s : State) : Host.Outcome State Fault Refusal :=
  match s.occ with
  | .at2 slot n => .next (contextClear s slot n)
  | _ => .refused (.noOccasion "CONTEXT_CLEAR_COMPLETE")

/-! ### Invalidate (R372) -/

/-- A command of a slot holds a page that an invalidation names. -/
def holdsPage (c : Copy) (slot : Nat) (all : Bool) (va : Nat) : Bool := c.req.slot == slot && (if all then !c.pages.isEmpty else (heldAt c.pages va).isSome)

def pageArg (v : Nat) : Nat := v / 65536 % 2 ^ 36 * 65536

/-- Invalidate: entries leave every TLB; the command waits for those that hold them. -/
def ctxInvalidate (s : State) (slot : Nat) (v : BitVec 64) : State :=
  command s slot [1, 2, 3, 4, 5] [] fun s n =>
    let all := v.getLsbD 32
    let va := pageArg (ctxArg1 s slot)
    let hit := fun (t : Tlb) => t.slot == slot && (all || tlbHits t slot va)
    let ids := s.cces.flatMap fun e => ((copiesOf e.2).filter fun c => holdsPage c slot all va).map (·.req.id)
    let s := { s with tlbs := (s.tlbs.map fun e => (e.1, e.2.filter fun t => !hit t)).filter fun e => e.2 ≠ [], ctxInv := kset [] s.ctxInv slot ids }
    sched s (s.now + 1) priEngine .invalidateComplete (.at2 slot n)

/-- R372: Invalidate. -/
def execCtxInvalidate (s : State) : Host.Outcome State Fault Refusal :=
  match s.occ with
  | .reg slot v => .next (ctxInvalidate s slot v)
  | _ => .refused (.noOccasion "CTX_INVALIDATE")

def invalidateComplete (s : State) (slot n : Nat) : State :=
  let alive := s.cces.flatMap fun e => (copiesOf e.2).map (·.req.id)
  if !cmdIs s slot n then s
  else if (kget [] s.ctxInv slot).any alive.contains then sched s (s.now + 1) priEngine .invalidateComplete (.at2 slot n)
  else cmdEnd { s with ctxInv := kset [] s.ctxInv slot [] } slot 0

/-- R372: every command that held a removed entry is complete. -/
def execInvalidateComplete (s : State) : Host.Outcome State Fault Refusal :=
  match s.occ with
  | .at2 slot n => .next (invalidateComplete s slot n)
  | _ => .refused (.noOccasion "INVALIDATE_COMPLETE")

/-! ### Resume (R382) -/

/-- The parked step of an agent in a slot whose fault is not resolved. -/
def parkedRun (s : State) (a slot : Nat) : Option Run :=
  ([(ag s a).wings, (ag s a).front].filterMap (·.run)).find? fun r => r.slot == slot && isParked s r.key && !r.resumed

/-- Translates the kept commands afresh, in their order: the first fault, if there is one. -/
def retranslate (s : State) (e : Nat) : List ChReq → State × Option (Nat × Nat × Bool)
  | [] => (s, none)
  | r :: rs =>
    let p := match r.op with
      | .xfer x => (match holdPages s e r.slot false x with
        | (s, .error (.fault c _ (some (va, w)))) => (s, some (c, va, w))
        | (s, _) => (s, none))
      | .block true addr _ => (match holdPage s e r.slot false false [] addr with
        | (s, .error (.fault c _ (some (va, w)))) => (s, some (c, va, w))
        | (s, _) => (s, none))
      | _ => (s, none)
    match p.2 with
    | some f => (p.1, some f)
    | none => retranslate p.1 e rs

/-- A kept access of a dock core, at the place that its address now translates to; none where it faults. -/
def relocate (s : State) (a slot : Nat) (i : Instr) (o : Occ) : State × Except (Nat × Nat × Bool) Occ :=
  let go := fun (l : Loc) (write : Bool) (f : Loc → Occ) => match l with
    | .mem _ _ _ va => (match translate s a slot va write with
      | (s, .ok (p, _)) => (s, .ok (f (.mem p.host p.pa p.key va)))
      | (s, .error c) => (s, .error (c, va, write)))
    | .sram _ => (s, .ok o)
  match o with
  | .access x => go x.loc (match x.op with
      | .store _ => true
      | _ => false) fun l => .access { x with loc := l }
  | .amo f x => go x.loc true fun l => .amo f { x with loc := l }
  | .sync x => go x.loc (i != .syncWaitReissue) fun l => .sync { x with loc := l }
  | o => (s, .ok o)

/-- A kept spawn is sent to the target that its address now translates to (R237, R382); none where it faults. -/
def respawn (s : State) (p : Pkt) : State × Option (Nat × Nat × Bool) :=
  match p.kind with
  | .spawn _ va e v =>
    let r := translate s (engineOf p.agent) p.slot va false
    (match r.2 with
    | .error c => (r.1, some (c, va, false))
    | .ok (q, _) =>
      if q.host || !paOk q.pa then
        let d := freeDelay r.1
        (deferFault d.2 p.agent { cause := 0x42, addr := va, org := p.org, id := p.id, step := some p.step } (s.now + d.1), none)
      else (sendPkt r.1 { p with kind := .spawn (paDock q.pa) (va / 65536 * 65536) e v }, none))
  | _ => (sendPkt s p, none)

/-- Kept accesses and spawns set out again, up to the first that faults. -/
def resendKept (s : State) (a slot : Nat) : List Kept → State × Option (Nat × Nat × Bool)
  | [] => (s, none)
  | k :: ks =>
    let drop := fun (s : State) => modAg s a fun g => { g with kept := g.kept.filter fun x => x.id ≠ k.id }
    match k.occ with
    | .pkt p =>
      let r := respawn s p
      if r.2.isSome then r else resendKept (drop r.1) a slot ks
    | o =>
      let r := relocate s a slot k.ev o
      match r.2 with
      | .error f => (r.1, some f)
      | .ok o =>
        let d := freeDelay (drop r.1)
        resendKept (sched d.2 (s.now + d.1) (homePri 3 a) k.ev o) a slot ks

/-- A command faults again: a new record, or the step is Faulted (R35, R382). -/
def resumeFault (s : State) (a : Nat) (r : Run) (f : Nat × Nat × Bool) : State :=
  match pagerRegion s r.slot f.2.1 with
  | some (i, p) => upcall s r.slot a f.1 f.2.1 i p f.2.2
  | none => faultParked s a r { cause := f.1, addr := f.2.1, org := ⟨0, 7⟩, id := 0, step := some r.key }

/-- Resume: the agent's kept commands are accepted again, and its step runs again (R381, R382). -/
def resumeAgent (s : State) (a : Nat) (r : Run) : State :=
  let e := engineOf a
  let kept := (cceOf s e).kept.filter fun q => q.agent == a
  let p := retranslate s e kept
  let k := match p.2 with
    | some f => (p.1, some f)
    | none => resendKept p.1 a r.slot ((ag p.1 a).kept.filter fun k => occStep k.occ == some r.key)
  match k.2 with
  | some f => resumeFault k.1 a r f
  | none =>
    let s := modCce k.1 e fun c => { c with kept := c.kept.filter fun q => q.agent ≠ a, pend := kept ++ c.pend }
    let s := kept.foldl (fun s q => sched s (s.now + 1) priEngine .cceAccept (.at2 e q.id)) s
    if isDock a then
      schedIssue (setStepState (modRun s a fun r => { r with going := true }) r.key .running) a (s.now + 1)
    else
      let done := fun (b : Bank) => { b with run := b.run.map fun x => if x.key = r.key then { x with resumed := true } else x }
      sched (modAg s a fun g => { g with flipBack := true, front := done g.front, wings := done g.wings }) (s.now + 1) priEngine .stepTurn (.at a)

def ctxResume (s : State) (slot : Nat) (v : BitVec 64) : State :=
  command s slot [3] [] fun s _ =>
    let a := v.toNat / 2 ^ 32 % 4096
    match parkedRun s a slot with
    | none => cmdEnd s slot 1
    | some r => cmdEnd (resumeAgent s a r) slot 0

/-- R382: Resume. -/
def execCtxResume (s : State) : Host.Outcome State Fault Refusal :=
  match s.occ with
  | .reg slot v => .next (ctxResume s slot v)
  | _ => .refused (.noOccasion "CTX_RESUME")

/-! ### Remap (R384) -/

def pageSize (big : Bool) : Nat := if big then 2 ^ 21 else 2 ^ 16

/-- A write to a page is on its way: by an accepted copy, or by a dock core, whose accesses are known by their virtual addresses. -/
def writesPage (s : State) (slot va : Nat) (big : Bool) : Bool :=
  let lo := va / pageSize big * pageSize big
  (s.cces.any fun e => (copiesOf e.2).any fun c => c.x.dstVirt && holdsPage c slot false va) ||
    s.agents.any fun e => isDock e.1 && e.2.outs.any fun o => o.writes && decide (lo ≤ o.addr) && decide (o.addr < lo + pageSize big) &&
      (stepRec s o.key).any fun r => r.slot == slot

/-- Remap waits until no write to the page is in flight; its effect comes 256 cycles later. -/
def remapTry (s : State) (slot a1 a2 : Nat) : State :=
  match walk s slot (pageArg a1) with
  | .error c => cmdEnd s slot c
  | .ok (_, big, _) =>
    if pinnedPage s slot (pageArg a1) then cmdEnd s slot 3
    else if writesPage s slot (pageArg a1) big then sched s (s.now + 1) priEngine .ctxRemap (.at3 slot a1 a2)
    else sched s (cycleOf s (gtOf s + 256)) priBegin .remapEffect (.at3 slot a1 a2)

def ctxRemap (s : State) (slot : Nat) : State := command s slot [1, 3] [] fun s _ => remapTry s slot (ctxArg1 s slot) (ctxArg2 s slot)

/-- R384: Remap. -/
def execCtxRemap (s : State) : Host.Outcome State Fault Refusal :=
  match s.occ with
  | .reg slot _ => .next (ctxRemap s slot)
  | .at3 slot a1 a2 => .next (remapTry s slot a1 a2)
  | _ => .refused (.noOccasion "CTX_REMAP")

/-- At P the leaf is written, and every engine drops its entries for the page. -/
def remapEffect (s : State) (slot a1 a2 : Nat) : State :=
  match walk s slot (pageArg a1) with
  | .error c => cmdEnd s slot c
  | .ok (_, _, at_) =>
    let s := setHbmN s at_ 8 (a2 % 2 ^ 64)
    cmdEnd { s with tlbs := (s.tlbs.map fun e => (e.1, e.2.filter fun t => !tlbHits t slot (pageArg a1))).filter fun e => e.2 ≠ [] } slot 0

/-- R384: a Remap takes effect. -/
def execRemapEffect (s : State) : Host.Outcome State Fault Refusal :=
  match s.occ with
  | .at3 slot a1 a2 => .next (remapEffect s slot a1 a2)
  | _ => .refused (.noOccasion "REMAP_EFFECT")

/-! ### HBM pairs (R386) -/

/-- The home channels that hold a frame of an image. -/
def imageChannels (base n : Nat) : List Nat :=
  ((List.range (min n 32)).flatMap fun i => [paChannel (base + 65536 * i), paChannel (base + 65536 * (n - 1 - i))]).eraseDups

def pairChannels (p : HPair) : List Nat := (imageChannels p.front p.frames ++ imageChannels p.shadow p.frames).eraseDups

/-- Some channel that a new pair needs holds 64 entries. -/
def pairsFull (s : State) (p : HPair) : Bool :=
  let others := (s.hpairs.filter fun q => !(q.slot == p.slot && q.pid == p.pid)).map pairChannels
  (pairChannels p).any fun c => decide (64 ≤ (others.filter fun l => l.contains c).length)

def pairBad (s : State) (p : HPair) : Bool :=
  let n := 65536 * p.frames
  p.frames == 0 || !paOk p.front || !paOk (p.front + n - 1) || !paOk p.shadow || !paOk (p.shadow + n - 1) ||
    (decide (p.front < p.shadow + n) && decide (p.shadow < p.front + n)) || pairsFull s p

def ctxPair (s : State) (slot : Nat) : State :=
  command s slot [1, 3] [] fun s _ =>
    let a1 := ctxArg1 s slot
    let a2 := ctxArg2 s slot
    let p : HPair := { slot := slot, pid := a1 % 2 ^ 16, frames := a1 / 2 ^ 16 % 2 ^ 16, front := a2 % 2 ^ 32 * 65536, shadow := a2 / 2 ^ 32 % 2 ^ 32 * 65536 }
    let others := s.hpairs.filter fun q => !(q.slot == slot && q.pid == p.pid)
    if a1 / 2 ^ 32 % 2 = 0 then cmdEnd { s with hpairs := others } slot 0
    else if pairBad s p then cmdEnd s slot 0x45
    else cmdEnd { s with hpairs := others ++ [p] } slot 0

/-- R386: Pair. -/
def execCtxPair (s : State) : Host.Outcome State Fault Refusal :=
  match s.occ with
  | .reg slot _ => .next (ctxPair s slot)
  | _ => .refused (.noOccasion "CTX_PAIR")

/-! ### Memory keys (R385) -/

def keyIdx (s : State) : Nat := regF s 0x3000 8 0

/-- The 512 bits of the data registers. -/
def keyBits (s : State) : BitVec 512 := (List.range 8).foldl (fun v i => v ||| ((reg s (0x3010 + 8 * i)).setWidth 512 <<< (64 * i))) 0

/-- A key is loaded from the data registers, which are cleared. -/
def keyLoad (s : State) (v : BitVec 64) : State :=
  let i := newId s
  (List.range 8).foldl (fun s i => setReg s (0x3010 + 8 * i) 0)
    { i.2 with keys := kset {} i.2.keys (keyIdx s) { slot := v.toNat % 16, valid := true, no := i.1 }, keyData := kset 0 i.2.keyData i.1 (keyBits s) }

/-- A key is erased: no walk finds it any longer, and entries that hold it go on (R385). -/
def keyErase (s : State) (v : BitVec 64) : State := { s with keys := kset {} s.keys (keyIdx s) { slot := v.toNat % 16 } }

/-- R385: a key is loaded. -/
def execKeyLoad (s : State) : Host.Outcome State Fault Refusal :=
  match s.occ with
  | .reg _ v => .next (keyLoad s v)
  | _ => .refused (.noOccasion "KEY_LOAD")

/-- R385: a key is erased. -/
def execKeyErase (s : State) : Host.Outcome State Fault Refusal :=
  match s.occ with
  | .reg _ v => .next (keyErase s v)
  | _ => .refused (.noOccasion "KEY_ERASE")

end Sys2Proof.Machine
end

