-- ==== Sys2Proof/Machine/Power.lean ====
section
/-! DEFINITION. Bring-up and power (R402 to R412): the stages, the clusters' power states, supply voltage and temperature, and the Apron link. -/

namespace Sys2Proof.Machine

/-! ### Reset values (R5) and bring-up (R404, R405) -/

/-- The board controller's removal and return of power (R404). -/
def isPowerWork (e : Entry) : Bool := e.what == .ev .powerRemoved .none || e.what == .ev .powerGood .none

/-- Accesses of the host and of the board controller that are on their way, which a die that does not run answers or drops as they reach it. -/
def isOutside (e : Entry) : Bool :=
  match e.what with
  | .ev .registerWrite _ => true
  | _ => false

/-- Everything but the host's memory is as before bring-up; free values and identifiers go on, and power may come back. -/
def unpowered (s : State) : State :=
  { now := s.now, host := s.host, free := s.free, seq := s.seq, powered := false, powerCycle := s.powerCycle + 1, regs := [(0x0008, 0x800)]
    agenda := s.agenda.filter fun e => isPowerWork e || isOutside e }

/-- R404: power is removed. -/
def execPowerRemoved (s : State) : Host.Outcome State Fault Refusal :=
  match s.occ with
  | .none => .next (unpowered s)
  | _ => .refused (.noOccasion "POWER_REMOVED")

/-- The stage being performed or that has failed, and the failure's code. -/
def bootStage (s : State) : Nat := regF s 0x0000 19 16
def bootCode (s : State) : Nat := regF s 0x0000 31 24

/-- A stage begins; its length is not stated. -/
def beginStage (s : State) (n : Nat) : State :=
  let d := freeDelay (setRegF s 0x0000 19 16 n)
  sched d.2 (s.now + d.1) priEngine .bringupStageComplete (.at2 s.powerCycle n)

/-- Power good starts bring-up, with 2 s to reach stage 9. -/
def powerGood (s : State) : State :=
  if s.powered then s
  else
    let s := { s with powered := true }
    (watchEntries s.now).foldl addEntry (sched (beginStage s 1) (s.now + 4800000000) priEnd .bringupTimeout (.at s.powerCycle))

/-- R404: power good. -/
def execPowerGood (s : State) : Host.Outcome State Fault Refusal :=
  match s.occ with
  | .none => .next (powerGood s)
  | _ => .refused (.noOccasion "POWER_GOOD")

/-- Bring-up fails in its present stage: the device does nothing further, until power is removed. -/
def bootFails (s : State) (code : Nat) : State := setRegF { s with agenda := s.agenda.filter fun e => isPowerWork e || isOutside e } 0x0000 31 24 code

/-- Power is good and bring-up has not failed. -/
def dieRuns (s : State) : Bool := s.powered && bootCode s == 0

/-- The bytes of a P-521 key, an uncompressed point as R428 writes one: 4, x and y, 66 bytes each. -/
def ecKeyBytes (k : BitVec 521 × BitVec 521) : List Nat := [4] ++ beBytes k.1.toNat 66 ++ beBytes k.2.toNat 66

/-- The firmware's image, in the 1 MiB of the boot store (R405). -/
def bootImage : List Nat := (Config.bootImage.take (2 ^ 20)).map (·.toNat)

/-- The two checks of the firmware: the hash of its key is that of the fuses, and its signature over the digest of its image is good (R405). -/
def firmwareCode : Nat :=
  if sha512 (ecKeyBytes Config.bootKey) ≠ beBytes Config.keyHash.toNat 64 then 4
  else if sha512 bootImage = beBytes Config.bootDigest.toNat 64 ∧ ecdsaOk Config.bootKey.1.toNat Config.bootKey.2.toNat Config.bootDigest.toNat Config.bootSignature.1.toNat Config.bootSignature.2.toNat = true then 0
  else 3

/-- How a stage ends: 0, or the code of its failure. Training and repair can fail, and whether they do is open; the firmware's checks are those of R405. -/
def stageCode (s : State) (n : Nat) : Nat :=
  match n with
  | 4 => if Config.freeBool s.free then 0 else 2
  | 5 => if Config.freeBool s.free then 0 else 2
  | 6 => if Config.freeBool s.free then 0 else 5
  | 8 => firmwareCode
  | _ => 0

/-- What a stage leaves (R404): GT starts at stage 3, memory is zero after stage 7, the registers have their reset values from stage 9. -/
def stageDone (s : State) (n : Nat) : State :=
  match n with
  | 1 =>
    -- the Apron link trains from stage 2 on (R411)
    let d := freeDelay s
    sched d.2 (s.now + d.1) priEngine .apronLinkTrained (.at (if Config.freeBool d.2.free then 16 else 8))
  | 3 => { s with gtAdj := -(s.now : Int) }
  | 7 => { s with sram := [], hbm := [], tags := [], poison := [], hpoison := [], flaws := [], hflaws := [] }
  | 8 => (scrubEntries s.now ++ thermEntries s.now).foldl addEntry
      { s with regs := resetRegs.foldl (fun m e => kset 0 m e.1 e.2) (kset 0 [] 0x0200 (reg s 0x0200)) }
  | _ => s

/-- A stage has ended: the next begins, or a failure is reported; stage 9 sets `ready`. -/
def stageComplete (s : State) (cycle n : Nat) : State :=
  if !s.powered || s.powerCycle ≠ cycle || bootStage s ≠ n || bootCode s ≠ 0 then s
  else
    let c := stageCode s n
    let s := { s with free := s.free + 1 }
    if c ≠ 0 then bootFails s c
    else if n = 8 then stageDone { s with agenda := s.agenda.filter fun e => e.what ≠ .ev .bringupTimeout (.at cycle) } 8
    else beginStage (stageDone s n) (n + 1)

/-- R404: a stage of bring-up ends. -/
def execBringupStageComplete (s : State) : Host.Outcome State Fault Refusal :=
  match s.occ with
  | .at2 c n => .next (stageComplete s c n)
  | _ => .refused (.noOccasion "BRINGUP_STAGE_COMPLETE")

/-- R404: 2 s have passed since power good without stage 9. -/
def execBringupTimeout (s : State) : Host.Outcome State Fault Refusal :=
  match s.occ with
  | .at c => .next (if s.powered && s.powerCycle == c && bootStage s ≠ 9 && bootCode s == 0 then bootFails s 1 else s)
  | _ => .refused (.noOccasion "BRINGUP_TIMEOUT")

/-- R411: the Apron link is trained, with its width in lanes. -/
def execApronLinkTrained (s : State) : Host.Outcome State Fault Refusal :=
  match s.occ with
  | .at n => .next (setRegF (setRegF s 0x0200 0 0 1) 0x0200 15 8 n)
  | _ => .refused (.noOccasion "APRON_LINK_TRAINED")

/-! ### Cluster power states (R407, R408) -/

def setPower (s : State) (c st : Nat) : State := setRegF s (0x0400 + 8 * (c / 32)) (2 * (c % 32) + 1) (2 * (c % 32)) st

/-- Cycles from a state back to Run. -/
def returnTime : Nat → Nat
  | 1 => 64 | 2 => 4096 | 3 => 2000000 | _ => 0

/-- A cluster that may leave Run: no step in either bank, or about to be loaded into one, and every tag 0. -/
def mayPowerDown (s : State) (c : Nat) : Bool :=
  (clusterTiles c).all fun t => (ag s t).front.run.isNone && (ag s t).wings.run.isNone && !(s.steps.any fun r => r.key.tile == t && r.st == .loading) && (kslice s.tags (t * 2 ^ 15) (2 ^ 15)).isEmpty

/-- A power command: discarded while one is in progress and by a die that does not run (R404), refused, or begun; among the other states it passes through Run, where the cluster is for the
cycles of the way down, which are not timed. -/
def powerCommand (s : State) (c st : Nat) : State :=
  if regF s 0x0108 63 63 = 1 ∨ !dieRuns s then s
  else if st ≠ 0 ∧ !mayPowerDown s c then setReg s 0x0108 1
  else
    let old := powerState s c
    let d := if st = 0 ∨ st = old then (0, s) else freeDelay s
    let n := if st = old then 1 else returnTime old + d.1
    let s' := sched (setReg d.2 0x0108 (2 ^ 63)) (s.now + max 1 n) priEngine .pwrTransitionComplete (.at2 c st)
    if st = 0 ∨ st = old ∨ old = 0 then s' else sched s' (s.now + returnTime old) priEngine .pwrTransitionComplete (.at3 c 0 0)

/-- R408: to Run. -/
def execPwrRun (s : State) : Host.Outcome State Fault Refusal :=
  match s.occ with
  | .at c => .next (powerCommand s c 0)
  | _ => .refused (.noOccasion "PWR_RUN")

/-- R408: to Clock-stop. -/
def execPwrClockStop (s : State) : Host.Outcome State Fault Refusal :=
  match s.occ with
  | .at c => .next (powerCommand s c 1)
  | _ => .refused (.noOccasion "PWR_CLOCK_STOP")

/-- R408: to Retain. -/
def execPwrRetain (s : State) : Host.Outcome State Fault Refusal :=
  match s.occ with
  | .at c => .next (powerCommand s c 2)
  | _ => .refused (.noOccasion "PWR_RETAIN")

/-- R408: to Off. -/
def execPwrOff (s : State) : Host.Outcome State Fault Refusal :=
  match s.occ with
  | .at c => .next (powerCommand s c 3)
  | _ => .refused (.noOccasion "PWR_OFF")

/-- A tile that has been Off: its banks, queues and channels are empty, and nothing is queued at its memory. -/
def offTile (s : State) (t : Nat) : State :=
  let s := modAg (clearTile s t) t fun g => { queued := g.queued }
  { s with homes := s.homes.filter fun e => decide (e.1 < bankKey (t * 2 ^ 21)) || decide (bankKey ((t + 1) * 2 ^ 21) ≤ e.1) }

/-- A cluster that is Off keeps nothing, its tree entries, its copy engine, its translations and its debug registers included, and its memory is zero when
it is back. -/
def clearCluster (s : State) (c : Nat) : State :=
  let s := (clusterTiles c).foldl offTile s
  let s := { s with regs := s.regs.filter fun e => !(decide (dbgReg c 0 ≤ e.1) && decide (e.1 < dbgReg (c + 1) 0)) }
  setTlb { s with cces := kset {} s.cces (cceNo c) {}, codeLeft := kset 0 s.codeLeft c 0 } (cceNo c) []

/-- A cluster's state changes. -/
def enterPower (s : State) (c st : Nat) : State :=
  setPower (if st = 3 ∨ powerState s c = 3 then clearCluster s c else s) c st

/-- A transition ends. -/
def powerChanged (s : State) (c st : Nat) : State :=
  let s := setReg (enterPower s c st) 0x0108 0
  if st = 0 then (clusterTiles c).foldl (fun s t => sched s (s.now + 1) priEngine .stepTurn (.at t)) s else s

/-- R408: a cluster's power state changes. -/
def execPwrTransitionComplete (s : State) : Host.Outcome State Fault Refusal :=
  match s.occ with
  | .at2 c st => .next (powerChanged s c st)
  -- on its way to another state the cluster passes through Run
  | .at3 c st _ => .next (enterPower s c st)
  | _ => .refused (.noOccasion "PWR_TRANSITION_COMPLETE")

/-! ### Voltage and temperature (R409, R410) -/

def vddReg (d : Nat) : Nat := 0x0140 + 8 * d
def vddSet_ (s : State) (d : Nat) : Nat := regF s (vddReg d) 9 0
def vddNow (s : State) (d : Nat) : Nat := regF s (vddReg d) 25 16

/-- A step of a ramp of the supply is to come. -/
def ramping (s : State) (d : Nat) : Bool := s.agenda.any fun e => e.what == .ev .vddRampStep (.at d)

/-- A write of `set`: ignored unless it is a multiple of 5 from `vmin` to 650, and by a die that does not run; a ramp begins where none runs. -/
def vddSet (s : State) (d : Nat) (v : BitVec 64) : State :=
  let n := v.toNat % 1024
  if !dieRuns s ∨ n % 5 ≠ 0 ∨ n < (Config.vmin d).toNat % 1024 ∨ 650 < n then s
  else
    let runs := ramping s d
    let s := setRegF s (vddReg d) 9 0 n
    if runs || n == vddNow s d then s else sched s (s.now + 2400) priEngine .vddRampStep (.at d)

/-- R409: a supply is set. -/
def execVddSet (s : State) : Host.Outcome State Fault Refusal :=
  match s.occ with
  | .reg d v => .next (vddSet s d v)
  | _ => .refused (.noOccasion "VDD_SET")

/-- `now` moves by 1 mV. -/
def vddStep (s : State) (d : Nat) : State :=
  let now := vddNow s d
  let to_ := vddSet_ s d
  if now = to_ then s
  else
    let n := if now < to_ then now + 1 else now - 1
    let s := setRegF s (vddReg d) 25 16 n
    if n = to_ then s else sched s (s.now + 2400) priEngine .vddRampStep (.at d)

/-- R409: a step of a ramp. -/
def execVddRampStep (s : State) : Host.Outcome State Fault Refusal :=
  match s.occ with
  | .at d => .next (vddStep s d)
  | _ => .refused (.noOccasion "VDD_RAMP_STEP")

def thermReg (d : Nat) : Nat := 0x0180 + 8 * d

/-- A temperature of 16 bits as a number of quarter degrees. -/
def tempOf (v : Nat) : Int := (BitVec.ofNat 16 v).toInt

/-- A new reading: `temp`, the peak, and the trip point of 115 °C; the next comes 2,400,000 cycles later. -/
def thermUpdate (s : State) (d : Nat) : State :=
  let t := (Config.sensor d s.free).toNat % 65536
  let s := { s with free := s.free + 1 }
  let s := setRegF s (thermReg d) 15 0 t
  let s := if tempOf (regF s (thermReg d) 31 16) < tempOf t then setRegF s (thermReg d) 31 16 t else s
  let s := if 460 ≤ tempOf t && !s.thermtrip then
      sched { s with free := s.free + 1 } (s.now + Config.freeLatency s.free % 24001) priEngine .thermtrip .none else s
  sched s (s.now + 2400000) priEngine .thermUpdate (.at d)

/-- R409: a temperature is updated. -/
def execThermUpdate (s : State) : Host.Outcome State Fault Refusal :=
  match s.occ with
  | .at d => .next (thermUpdate s d)
  | _ => .refused (.noOccasion "THERM_UPDATE")

/-- R409: a read of `THERM` restarts its peak at the present temperature. -/
def execThermRead (s : State) : Host.Outcome State Fault Refusal :=
  match s.occ with
  | .at d => .next (setRegF s (thermReg d) 31 16 (regF s (thermReg d) 15 0))
  | _ => .refused (.noOccasion "THERM_READ")

/-- Every 24,000 cycles, from power good on: a junction sensor of some die that has reached the trip point of 115 °C since the last time asserts the pin
(R410), the lane errors that the link has corrected are counted (R411), and a link that is still training may have come up (R404). DESIGN CHOICE (log 181): the
readings, the count and the cycle in which the link is up are free. -/
def watchTurn (s : State) : State :=
  let n := s.free
  let trips := (List.range 5).any fun d => decide (460 ≤ tempOf ((Config.sensor (20 + d) n).toNat % 65536))
  let s := { s with free := n + 2, thermtrip := s.thermtrip || trips }
  let trains := decide (2 ≤ bootStage s) && !(s.agenda.any fun e => e.what == .ev .apronLinkTrained (.at 8) || e.what == .ev .apronLinkTrained (.at 16))
  let s := if regF s 0x0200 0 0 = 1 then setRegF s 0x0200 63 32 (min 0xFFFFFFFF (regF s 0x0200 63 32 + Config.freeLatency n))
    else if trains && Config.freeBool n then sched s (s.now + 1) priEngine .apronLinkTrained (.at (if Config.freeBool (n + 1) then 16 else 8)) else s
  (watchEntries s.now).foldl addEntry s

/-- R410: the pin `thermtrip_n` is asserted, or the sensors are looked at; the device does nothing else. -/
def execThermtrip (s : State) : Host.Outcome State Fault Refusal :=
  match s.occ with
  | .none => .next { s with thermtrip := true }
  | .at _ => .next (watchTurn s)
  | _ => .refused (.noOccasion "THERMTRIP")

end Sys2Proof.Machine
end

