-- ==== Sys2Proof/Machine/PromptCtl.lean ====
section
/-! DEFINITION. The Prompt Book's control (R110, R111, R113, R117): its enable, its modes, the end of a gap, and the flush of open records. -/

namespace Sys2Proof.Machine

/-! ### Enable and disable (R110, R111) -/

/-- One page of the ring, if its leaf permits both reading and writing. -/
def ringPage (s : State) (slot va : Nat) : Option RingFrame :=
  match translateIo s slot va false, translateIo s slot va true with
  | .ok p, .ok _ => if p.host || paOk p.pa then some ⟨p.host, p.pa, p.key⟩ else none
  | _, _ => none

/-- The frames of the whole ring; none where a page does not translate. -/
def ringFrames (s : State) (slot va : Nat) : Nat → Option (List RingFrame)
  | 0 => some []
  | n + 1 => match ringPage s slot (va % 2 ^ 52), ringFrames s slot (va + 65536) n with
    | some f, some fs => some (f :: fs)
    | _, _ => none

/-- A value that may be written to `PB_CTL`. -/
def ctlWritable (s : State) (slot : Nat) (v : BitVec 64) : Bool :=
  v.toNat % 4 != 3 && (!v.getLsbD 3 || (decide (20 ≤ regF s (pbReg slot 0x08) 5 0) && decide (regF s (pbReg slot 0x08) 5 0 ≤ 32)))

/-- `enable` is set: the ring is translated and its counts restart, or `enable` reads 0 and the fault is recorded (R110, R111). -/
def pbEnable (s : State) (slot : Nat) (v : BitVec 64) : State :=
  if !ctlWritable s slot v || pbEnabled s slot then s
  else
    let va := regF s (pbReg slot 0) 51 16 * 65536
    match ringFrames s slot va (pbSize s slot / 65536) with
    | none =>
      let s := setStat (setReg s (pbReg slot 0x20) (BitVec.ofNat 64 (v.toNat % 8))) slot 4
      errorRecord s { cause := 0x62, slot := slot, addr := va }
    | some fs =>
      let s := setReg (setReg (setReg s (pbReg slot 0x10) 0) (pbReg slot 0x18) 0) (pbReg slot 0x20) (BitVec.ofNat 64 (v.toNat % 16))
      let s := { s with agents := s.agents.map fun e => (e.1, { e.2 with ordinals := kset 0 e.2.ordinals slot 0 }) }
      modBook s slot fun _ => { frames := fs }

/-- R111: setting `enable`. -/
def execPbEnable (s : State) : Host.Outcome State Fault Refusal :=
  match s.occ with
  | .reg slot v => .next (pbEnable s slot v)
  | _ => .refused (.noOccasion "PB_ENABLE")

/-- `enable` is cleared: no record is written, and the ring's translations are released. -/
def pbDisable (s : State) (slot : Nat) (v : BitVec 64) : State :=
  if !ctlWritable s slot v then s
  else modBook (setReg s (pbReg slot 0x20) (BitVec.ofNat 64 (v.toNat % 8))) slot fun _ => {}

/-- R110: clearing `enable`. -/
def execPbDisable (s : State) : Host.Outcome State Fault Refusal :=
  match s.occ with
  | .reg slot v => .next (pbDisable s slot v)
  | _ => .refused (.noOccasion "PB_DISABLE")

/-- A write that leaves `enable` as it is changes `full` and `mode` alone; where the mode changes, open records are written out (R110, R117), and a due
record that the stall choice has held back goes out where `full` now allows it (R113). -/
def pbModeWrite (s : State) (slot : Nat) (v : BitVec 64) : State :=
  if !ctlWritable s slot v then s
  else
    let s := if v.toNat % 4 = pbMode s slot then s else flushAll s slot
    readOn (flushDue (setRegF s (pbReg slot 0x20) 2 0 (v.toNat % 8)) slot) slot

/-- R110: a write of `full` and `mode`. -/
def execPbModeWrite (s : State) : Host.Outcome State Fault Refusal :=
  match s.occ with
  | .reg slot v => .next (pbModeWrite s slot v)
  | _ => .refused (.noOccasion "PB_MODE_WRITE")

/-! ### The end of a gap (R113) -/

/-- The gap record is completed in place with its count and the GT, once 4,096 bytes are free, and the writer resumes. -/
def gapResume (s : State) (slot : Nat) : State :=
  match (bookOf s slot).gap with
  | none => s
  | some (pos, n) =>
    if pbSize s slot - (pbHead s slot - pbTail s slot) < 4096 then s
    else
      let old := physN s (ringAt s slot (pos % pbSize s slot)) 64
      let v := recBytes (old % 2 ^ 256) (n + 2 ^ 64 * (gtOf s % 2 ^ 64))
      modBook (devWritePhys s (ringAt s slot (pos % pbSize s slot)) 64 v) slot fun b => { b with gap := none }

/-- R113: the writer resumes after a gap. -/
def execGapResume (s : State) : Host.Outcome State Fault Refusal :=
  match s.occ with
  | .at slot => .next (gapResume s slot)
  | _ => .refused (.noOccasion "GAP_RESUME")

/-! ### The flush timer (R117) -/

/-- An open record whose first decision is 131,072 cycles old is written out, or is due once the ring has room (R113, R117). -/
def flushTimer (s : State) (slot : Nat) (k : StreamKey) : State :=
  match (bookOf s slot).opens.find? (·.key = k) with
  | none => s
  | some r => if gtOf s < r.gt + 131072 then sched s (max (s.now + 1) (cycleOf s (r.gt + 131072))) priEngine .recordFlushTimer (.stream slot k)
      else flushStream s slot k

/-- R117: the time of an open record has passed. -/
def execRecordFlushTimer (s : State) : Host.Outcome State Fault Refusal :=
  match s.occ with
  | .stream slot k => .next (flushTimer s slot k)
  | _ => .refused (.noOccasion "RECORD_FLUSH_TIMER")

end Sys2Proof.Machine
end

