-- ==== Sys2Proof/Machine/Pod.lean ====
section
/-! DEFINITION. The pod (R413 to R421, R427 to R429): joining and holding Global Time, gang switch orders, and attestation. -/

namespace Sys2Proof.Machine

/-! ### Global Time across the pod (R415, R416) -/

/-- Events whose time is a value of GT, so that an adjustment moves them together with it (R23). -/
def gtTimed : Instr → Bool
  | .bookingEndPassed => true | .timedCopyStart => true | .curtainClose => true | .publishExchange => true
  | .sampleTick => true | .swTReached => true | .swDeadline => true | .gtComparePend => true | .remapEffect => true | .curtainRelease => true
  | _ => false

/-- A booked step is loading on a tile, and its first bundle issues at GT 16s (R35, R65). -/
def bookedLoad (s : State) (t : Nat) : Bool := s.steps.any fun r => r.key.tile == t && r.st == .loading && r.booking.isSome

/-- The first bundle of a booked step is still to issue, at GT 16s (R65). -/
def firstIssue (s : State) (a : Nat) : Bool :=
  !(bk s a).q.started && (bk s a).run.any fun r => r.begun && r.booking.any fun b => decide (gtOf s ≤ 16 * b.s)

def movesWithGt (s : State) (e : Entry) : Bool :=
  match e.what with
  | .ev .stepLoaded (.at t) => bookedLoad s t
  | .ev .deliveryPass (.at2 t _) => (lmOf s t).idle
  -- the load of an unbooked step is no time of GT, and the record of a launch comes with its publish (R35, R365)
  | .ev .stepLoadStart (.at2 _ n) => n != 0
  | .ev .launchComplete (.at2 _ n) => n == 4
  | .ev i _ => gtTimed i
  | .issue a => firstIssue s a

/-- GT becomes `d` more than its count: what is defined in GT comes that much sooner, and not before this cycle. -/
def moveGt (s : State) (d : Int) : State :=
  let moving := s.agenda.filter (movesWithGt s)
  let s1 := { s with
    gtAdj := s.gtAdj + d
    agenda := s.agenda.filter fun e => !movesWithGt s e }
  moving.foldl (fun s e => addEntry s { e with at_ := max s.now ((e.at_ : Int) - d).toNat }) s1

/-- A package's coordinates lie within the extents (R413). -/
def podNumberOk (s : State) : Bool :=
  let n := regF s 0x7000 9 0
  decide (n % 8 ≤ podExtent s 0) && decide (n / 8 % 8 ≤ podExtent s 1) && decide (n / 64 ≤ podExtent s 2)

/-- No slot is Bound or Active, and sampling is off. -/
def mayJoin (s : State) : Bool :=
  regF s 0x7008 1 1 == 0 && regF s 0x2100 0 0 == 0 && (List.range 16).all fun k => ctxState s k != 1 && ctxState s k != 3

/-- The next exchange; an adjustment that it makes takes effect before anything else of its cycle (R22, R23). -/
def beatAgain (s : State) : State :=
  sched { s with free := s.free + 1 } (s.now + 65536) 0 .timeBeatExchange
    (.beat { offset := (Config.sensor 17 s.free).toInt, refOk := Config.freeBool s.free })

/-- The join: the root is package 0 and keeps its GT; another package loads the pod's, `v`, unless its own is beyond it. -/
def podJoin (s : State) (v : BitVec 64) : State :=
  if !mayJoin s then s
  else if !podNumberOk s then setRegF s 0x7008 31 24 1
  else if regF s 0x7000 9 0 = 0 then setRegF (setRegF s 0x7008 1 1 1) 0x7008 31 24 0
  else if v.toNat < gtOf s then setRegF s 0x7008 31 24 2
  else beatAgain (setRegF (setRegF (moveGt s ((v.toNat : Int) - gtOf s)) 0x7008 1 1 1) 0x7008 31 24 0)

/-- R415: a join, with the pod's GT as measured through the parent. -/
def execPodJoin (s : State) : Host.Outcome State Fault Refusal :=
  match s.occ with
  | .reg _ v => .next (podJoin s v)
  | _ => .refused (.noOccasion "POD_JOIN")

/-- One exchange with the parent: the offset is noted, one increment of GT is repeated where this package is ahead and skipped where it is
behind, and `locked` follows the last 16 exchanges. -/
def timeBeat (s : State) (b : Beat) : State :=
  if regF s 0x7008 1 1 = 0 || s.parentDown then s
  else
    let off : Int := max (-128) (min 127 b.offset)
    let s := setRegF s 0x7010 7 0 (off % 256).toNat
    let s := if off = 0 then s else
      setRegF (moveGt s (if 0 < off then -1 else 1)) 0x7010 63 32 (min 0xFFFFFFFF (regF s 0x7010 63 32 + 1))
    let n := if -1 ≤ off ∧ off ≤ 1 then s.beats + 1 else 0
    let s := { s with beats := n }
    let s := if !b.refOk then setRegF s 0x7008 31 24 3 else if 16 ≤ n then setRegF s 0x7008 2 2 1 else s
    beatAgain s

/-- R416: an exchange of time-stamp beats. -/
def execTimeBeatExchange (s : State) : Host.Outcome State Fault Refusal :=
  match s.occ with
  | .beat b => .next (timeBeat s b)
  | _ => .refused (.noOccasion "TIME_BEAT_EXCHANGE")

/-- R416: the link to the parent fails; the package counts on unadjusted. -/
def execParentLinkFail (s : State) : Host.Outcome State Fault Refusal :=
  match s.occ with
  | .none => .next { setRegF s 0x7008 2 2 0 with parentDown := true, beats := 0 }
  | _ => .refused (.noOccasion "PARENT_LINK_FAIL")

/-! ### Gang switch orders (R417 to R421) -/

def swState (s : State) : Nat := regF s 0x7118 2 0
def swCode (s : State) (c : Nat) : State := setRegF s 0x7118 31 24 c
def swT (s : State) : Nat := (reg s 0x7100).toNat
def swD (s : State) : Nat := (reg s 0x7108).toNat

/-- The slots and times of an order (R418): the code of its refusal, or none. -/
def swRefusal (s : State) (out in_ : Nat) : Option Nat :=
  if 1 ≤ swState s ∧ swState s ≤ 5 then some 2
  else if ctxState s out ≠ 3 ∨ ctxState s in_ ≠ 1 ∨ in_ = out ∨ !collOk s out ∨ !collOk s in_ then some 1
  else if swT s < gtOf s + 4096 ∨ swD s ≤ swT s then some 5
  else none

/-- `go`: the order is accepted or refused. -/
def swGo (s : State) (v : BitVec 64) : State :=
  let out := v.toNat / 2 ^ 4 % 16
  let in_ := v.toNat / 2 ^ 8 % 16
  match swRefusal s out in_ with
  | some c => swCode s c
  | none =>
    let no := s.switch.no + 1
    let s := setReg { s with switch := { out := out, in_ := in_, t := swT s, d := swD s, no := no } } 0x7118 (BitVec.ofNat 64 (v.toNat / 2 ^ 32 * 2 ^ 32 + 1))
    sched (sched s (cycleOf s (swT s)) priBegin .swTReached (.at no)) (cycleOf s (swD s)) priEnd .swDeadline (.at no)

/-- R418: a switch order. -/
def execSwGo (s : State) : Host.Outcome State Fault Refusal :=
  match s.occ with
  | .reg _ v => .next (swGo s v)
  | _ => .refused (.noOccasion "SW_GO")

/-- `cancel`: an order in state 1 or 2 ends, and its curtain, where one has closed, releases as any other (R417, R424). -/
def swCancel (s : State) : State :=
  if swState s = 1 ∨ swState s = 2 then swCode (setRegF { s with switch := { s.switch with atCurtain := none } } 0x7118 2 0 0) 4 else s

/-- R417: a cancellation. -/
def execSwCancel (s : State) : Host.Outcome State Fault Refusal :=
  match s.occ with
  | .none => .next (swCancel s)
  | _ => .refused (.noOccasion "SW_CANCEL")

/-- R418: GT reaches T. -/
def execSwTReached (s : State) : Host.Outcome State Fault Refusal :=
  match s.occ with
  | .at no => .next (if s.switch.no = no ∧ swState s = 1 then setRegF s 0x7118 2 0 2 else s)
  | _ => .refused (.noOccasion "SW_T_REACHED")

/-- Participants of curtains that have closed and not yet released. -/
def closedTiles (s : State) : List Nat := s.agenda.flatMap fun e =>
  match e.what with
  | .ev .curtainRelease (.curtain k) => (match launchOf s k.launch with
    | some l => participants l k.scope k.part
    | none => [])
  | _ => []

/-- An arrival on its way, or a close to come, of a curtain of the slot. -/
def curtainToCome (s : State) (slot : Nat) (e : Entry) : Bool :=
  match e.what with
  | .ev .curtainArrive (.at a) => (arriving s a).any fun l => l.slot == slot
  | .ev .curtainClose (.curtain k) => (launchOf s k.launch).any fun l => l.slot == slot
  | _ => false

/-- GT reaches D with no curtain closed since T: Pre-empt is given. Arrivals at curtains that have not closed count afresh on resume (R420). -/
def swDeadline (s : State) (no : Nat) : State :=
  if s.switch.no ≠ no ∨ swState s ≠ 2 ∨ s.switch.atCurtain.isSome then s
  else
    let s := setRegF (setRegF (setReg s 0x7120 (BitVec.ofNat 64 s.switch.d)) 0x7118 17 16 2) 0x7118 2 0 3
    let s := { s with
      launches := s.launches.map fun l => if l.slot = s.switch.out then
        { l with arrivals := l.arrivals.map fun x => { x with atPoint := x.atPoint && (closedTiles s).contains x.tile } } else l
      agenda := s.agenda.filter fun e => !curtainToCome s s.switch.out e }
    sched s s.now priEnd .ctxPreempt (.at s.switch.out)

/-- R420: GT reaches D. -/
def execSwDeadline (s : State) : Host.Outcome State Fault Refusal :=
  match s.occ with
  | .at no => .next (swDeadline s no)
  | _ => .refused (.noOccasion "SW_DEADLINE")

/-- A peer's marker reaches a port, which has sent its own or not yet. -/
def markerArrival (s : State) (p : Nat) : State :=
  { s with switch := { s.switch with marks := s.switch.marks.filter (· ≠ p), came := p :: s.switch.came.filter (· ≠ p), lost := s.switch.lost.filter (· ≠ p) } }

/-- R421: a marker. -/
def execMarkerArrival (s : State) : Host.Outcome State Fault Refusal :=
  match s.occ with
  | .at p => .next (markerArrival s p)
  | _ => .refused (.noOccasion "MARKER_ARRIVAL")

/-- A port's time for its peer's marker is over. -/
def markerTimeout (s : State) (no p : Nat) : State :=
  if s.switch.no = no ∧ s.switch.marks.contains p then
    swCode { s with switch := { s.switch with marks := s.switch.marks.filter (· ≠ p), lost := p :: s.switch.lost } } 3
  else s

/-- R421: no marker in time. -/
def execMarkerTimeout (s : State) : Host.Outcome State Fault Refusal :=
  match s.occ with
  | .at2 no p => .next (markerTimeout s no p)
  | _ => .refused (.noOccasion "MARKER_TIMEOUT")

/-! ### The capability list (R406) -/

/-- The payload of a record, from its byte 16 on, as a number; what the spec does not state is the configuration's. -/
def capPayload (id : Nat) : Nat :=
  match id with
  | 1 => stepping + 3 * 2 ^ 16 + deviceFeatures * 2 ^ 64
  | 2 => 16
  | 3 => 1
  -- no variant has a precision 0 (R124)
  | 4 => (Config.capability 4 &&& 0xFEFEFEFE).toNat
  | 5 => 48
  | _ => 32

/-- The bytes from 0x0800 on: six records of 32 bytes, in the order of their identifiers. -/
def capList : Nat :=
  [1, 2, 3, 4, 5, 6].foldr (fun id acc =>
    id + 2 ^ 16 + 32 * 2 ^ 32 + (if id = 6 then 0 else 0x800 + 32 * id) * 2 ^ 64 + capPayload id % 2 ^ 128 * 2 ^ 128 + 2 ^ 256 * acc) 0

/-! ### Attestation (R427, R428) -/

def attPa (s : State) : Nat := regF s 0x7200 47 10 * 1024

/-- `go`: a report begins, or `err` is set. -/
def attGo (s : State) : State :=
  if s.attBusy then s
  else
    let s := setRegF s 0x7208 1 0 0
    if !(paOk (attPa s)) || bootStage s ≠ 9 then setRegF s 0x7208 1 0 2
    else
      sched { s with attBusy := true, free := s.free + 1 } (s.now + 1 + Config.freeLatency s.free % 2400000) priEngine .attReportDone (.at (attPa s))

/-- R427: a report is asked for. -/
def execAttGo (s : State) : Host.Outcome State Fault Refusal :=
  match s.occ with
  | .none => .next (attGo s)
  | .reg _ _ => .next (attGo s)
  | _ => .refused (.noOccasion "ATT_GO")

def natBytes (v n : Nat) : List Nat := (List.range n).map fun i => v / 256 ^ i % 256

/-- The nonce registers. -/
def attNonce (s : State) : List Nat := (List.range 8).flatMap fun i => natBytes (reg s (0x7240 + 8 * i)).toNat 8

/-- The identity key of the part: the multiple of the base point by its secret number, which is the part's own. -/
def identityKey : Nat × Nat := (ecMul 521 (Config.identitySecret.toNat % ecN) (some ecG)).getD (0, 0)

/-- Bytes 0 to 423 of a report: what is signed. -/
def attBody (s : State) : List Nat :=
  natBytes 0x41545431 4 ++ natBytes stepping 2 ++ [3, 0] ++ natBytes (gtOf s % 2 ^ 64) 8 ++
    natBytes (regF s 0x7000 9 0 + 2 ^ 15 * regF s 0x7008 1 1) 2 ++ List.replicate 14 0 ++ attNonce s ++
    sha512 bootImage ++ sha512 (natBytes capList 2048) ++ sha512 (ecKeyBytes Config.bootKey) ++
    [4] ++ beBytes identityKey.1 66 ++ beBytes identityKey.2 66 ++ [0, 0, 0]

/-- The report, with its signature by the identity key; the number that each signature takes is free (log 137). -/
def attReport (s : State) : List Nat :=
  let sig := ecdsaSign (Config.identitySecret.toNat % ecN) (Config.signNonce s.free).toNat ((sha512 (attBody s)).foldl (fun v b => 256 * v + b) 0)
  attBody s ++ beBytes sig.1 66 ++ beBytes sig.2 66 ++ List.replicate 84 0

/-- The report is written and the nonce cleared. -/
def attDone (s : State) (pa : Nat) : State :=
  let s1 := { devWrite s pa 640 ((attReport s).foldr (fun b acc => b + 256 * acc) 0) with free := s.free + 1, attBusy := false }
  setRegF ((List.range 8).foldl (fun s i => setReg s (0x7240 + 8 * i) 0) s1) 0x7208 0 0 1

/-- R428: a report is ready. -/
def execAttReportDone (s : State) : Host.Outcome State Fault Refusal :=
  match s.occ with
  | .at pa => .next (attDone s pa)
  | _ => .refused (.noOccasion "ATT_REPORT_DONE")

end Sys2Proof.Machine
end

