-- ==== Sys2Proof/Machine/Registers.lean ====
section
/-! DEFINITION. The register block of the I/O die (R2, R5, R402): what a write of each register does, by its access codes, and what a read
gives. -/

namespace Sys2Proof.Machine

/-! ### Fields by their access codes (R5) -/

/-- Bits [hi:lo], as a mask. -/
def bits (hi lo : Nat) : BitVec 64 := BitVec.ofNat 64 ((2 ^ (hi + 1 - lo) - 1) * 2 ^ lo)

/-- A write to a register whose RW fields are the mask. -/
def putMask (s : State) (off : Nat) (m v : BitVec 64) : State := setReg s off ((reg s off &&& ~~~m) ||| (v &&& m))

/-- A write to W1C bits, the mask. -/
def clearMask (s : State) (off : Nat) (m v : BitVec 64) : State := setReg s off (reg s off &&& ~~~(v &&& m))

/-- The RW fields of a ring register: base and size (R370, R388, R399). -/
def ringMask : BitVec 64 := bits 47 12 ||| bits 4 0

/-! ### A context slot (R370, R388, R422) and its Prompt Book (R110) -/

/-- A write of `CTX_CMD` (R372). -/
def ctxCommand (s : State) (slot : Nat) (v : BitVec 64) : State :=
  match v.toNat % 16 with
  | 1 => ctxBind s slot
  | 2 => ctxRestore s slot
  | 3 => ctxPreempt s slot
  | 4 => ctxEnd s slot
  | 5 => ctxUnbind s slot
  | 6 => ctxInvalidate s slot v
  | 7 => ctxResume s slot v
  | 8 => ctxRemap s slot
  | 9 => ctxPair s slot
  | _ => setRegF s (slotReg slot 0x020) 7 0 (if cmdBusy s slot then 2 else 1)

/-- The registers that Bind captures, with their RW fields. -/
def boundMask (r : Nat) : Option (BitVec 64) :=
  match r with
  | 0x008 => some (bits 47 16)
  | 0x010 => some (bits 47 16)
  | 0x038 => some ringMask
  | 0x048 => some ringMask
  | 0x060 => some (bits 47 0)
  | 0x068 => some ringMask
  | 0x080 => some (bits 47 16 ||| bits 4 0)
  | _ => none

/-- A write to a Prompt Book register of a slot (R110). -/
def writeBook (s : State) (slot r : Nat) (v : BitVec 64) : State :=
  let off := pbReg slot r
  let en := pbEnabled s slot
  match r with
  | 0x00 => if en then s else putMask s off (bits 51 16) v
  | 0x08 => if en then s else putMask s off (bits 5 0) v
  | 0x10 => if pbMode s slot = 1 then s else readOn (setReg s off v) slot
  | 0x18 => if pbMode s slot = 2 then s else tailMoved (setReg s off v) slot
  | 0x20 => if en && v.getLsbD 3 then pbModeWrite s slot v else if v.getLsbD 3 then pbEnable s slot v else pbDisable s slot v
  | 0x28 => clearMask s off (bits 4 1) v
  | _ => s

/-- A write to a register of a slot's block. -/
def writeSlot (s : State) (slot r : Nat) (v : BitVec 64) : State :=
  let off := slotReg slot r
  match boundMask r with
  | some m => if ctxState s slot = 0 then putMask s off m v else s
  | none => match r with
    | 0x018 => ctxCommand s slot v
    | 0x028 => setReg s off v
    | 0x030 => setReg s off v
    | 0x040 => flushUpcalls (putMask s off (bits 63 32) v) slot s.upcalls.length
    | 0x050 => putMask s off (bits 63 32) v
    | 0x058 => putMask s off (bits 15 0) v
    | 0x070 => putMask s off (bits 63 32) v
    | 0x078 => wakeArbiter (clearMask s off (bits 0 0) v)
    | _ => if 0x100 ≤ r ∧ r < 0x130 then writeBook s slot (r - 0x100) v else s

/-! ### A debug block (R394, R398) -/

/-- A write to a register of a cluster's debug block; a halt is taken before a resume. -/
def writeDebug (s : State) (g r : Nat) (v : BitVec 64) : State :=
  let off := dbgReg g r
  match r with
  | 0x00 =>
    let s := putMask s off (bits 23 16 ||| bits 5 3 ||| bits 0 0) v
    let s := if v.getLsbD 1 then halt s g 0 g else s
    if v.getLsbD 2 then debugResume s g else s
  | 0x10 => putMask s off (bits 31 8 ||| bits 3 0) v
  | 0x18 => dbgWrite s g v
  | 0x20 => putMask s off (bits 63 62 ||| bits 55 0) v
  | 0x28 => if v.getLsbD 0 then codeGo s g else s
  | _ => if 0x40 ≤ r ∧ r < 0x80 then setReg s off v else s

/-! ### The other registers -/

/-- Launch registers (R357): `enable` rises, and every queue that is in use is seen. -/
def writeLaunch (s : State) (off : Nat) (v : BitVec 64) : State :=
  match off with
  | 0x1000 => if regF s 0x1008 0 0 = 1 then s else putMask s off (bits 47 20) v
  | 0x1008 =>
    let was := regF s 0x1008 0 0
    let s := putMask s off (bits 0 0) v
    if was = 0 ∧ v.getLsbD 0 then
      ((List.range 8192).filter fun q => (hbmByte s (queueDesc s q + 10)).getLsbD 0 || (queueOf s q).inUse).foldl (fun s q =>
        watchOne (modQueue s q fun u => { u with level := u.inUse }) q) s
    else s
  | 0x1010 => dcDecrement s (v.toNat / 2 ^ 16 % 16) (v.toNat % 2 ^ 16) 4095
  | _ => s

/-- Sampling registers (R399). -/
def writeSampling (s : State) (off : Nat) (v : BitVec 64) : State :=
  let on := regF s 0x2100 0 0 = 1
  if off = 0x2100 then
    if (v.getLsbD 0 ∧ regF s 0x2108 31 0 < 4096) ∨ (v.getLsbD 0 ↔ on) then s else startTicks (putMask s off (bits 0 0) v)
  else if off = 0x2108 then if on ∧ v.toNat % 2 ^ 32 < 4096 then s else startTicks (putMask s off (bits 31 0) v)
  else if off = 0x2110 then startTicks (setReg s off v)
  else if 0x2140 ≤ off ∧ off < 0x21C0 then
    if off % 32 = 0 then putMask s off ringMask v else if off % 32 = 8 then putMask s off (bits 63 32) v else s
  else s

/-- Memory-key registers (R385). -/
def writeKey (s : State) (off : Nat) (v : BitVec 64) : State :=
  match off with
  | 0x3000 => putMask s off (bits 8 0) v
  | 0x3008 => if v.getLsbD 5 then keyLoad s v else keyErase s v
  | _ => if off < 0x3050 then setReg s off v else s

/-- Pod, switch and attestation registers (R413, R417, R427). A cancellation is taken before a new order. -/
def writePod (s : State) (off : Nat) (v : BitVec 64) : State :=
  match off with
  | 0x7000 => if regF s 0x7008 1 1 = 1 then s else putMask s off (bits 23 14 ||| bits 9 0) v
  | 0x7008 => if v.getLsbD 0 then podJoin { s with free := s.free + 1 } (Config.sensor 18 s.free) else s
  | 0x7100 => setReg s off v
  | 0x7108 => setReg s off v
  | 0x7110 =>
    let s := if v.getLsbD 1 then swCancel s else s
    if v.getLsbD 0 then swGo s v else s
  | 0x7200 =>
    let s := putMask s off (bits 47 10) v
    if v.getLsbD 0 then attGo s else s
  | _ => if 0x7240 ≤ off ∧ off < 0x7280 then setReg s off v else s

/-- A write to a dependence counter (R97, R364). -/
def writeCounter (s : State) (off : Nat) (v : BitVec 64) : State :=
  wakeArbiter (judgeHeads (putMask (clearMask s off (bits 37 37) v) off (bits 36 0) v))

/-- Cluster power and supplies (R407, R409). -/
def writePower (s : State) (off : Nat) (v : BitVec 64) : State :=
  if off = 0x0100 then powerCommand s (v.toNat % 512) (v.toNat / 2 ^ 16 % 4)
  else if 0x0140 ≤ off ∧ off < 0x0160 then vddSet s ((off - 0x0140) / 8) v
  else s

/-- A write of 8 bytes to the register block. -/
def writeReg (s : State) (off : Nat) (v : BitVec 64) : State :=
  if off % 8 ≠ 0 then s
  else if off < 0x1000 then writePower s off v
  else if off < 0x2000 then writeLaunch s off v
  else if off = 0x2000 then putMask s off ringMask v
  else if off = 0x2008 then putMask s off (bits 63 32) v
  else if off < 0x3000 then writeSampling s off v
  else if off < 0x4000 then writeKey s off v
  else if off < 0x6000 then writeSlot s ((off - 0x4000) / 0x200) ((off - 0x4000) % 0x200) v
  else if off < 0x100000 then writePod s off v
  else if off < 0x180000 then writeCounter s off v
  else if off < 0x182000 then clearMask s off (bits 63 0) v
  else if 0x200000 ≤ off ∧ off < 0x220000 then writeDebug s ((off - 0x200000) / 0x100) ((off - 0x200000) % 0x100) v
  else s

/-- A write of 8 bytes reaches the block. A device whose bring-up has failed or is not complete does nothing but refuse a report (R404, R427). -/
def blockWrite (s : State) (off : Nat) (v : BitVec 64) : State :=
  if regF s 0x0000 0 0 = 1 ∨ (off = 0x7200 ∧ bootCode s = 0) then writeReg s off v else s

/-! ### Reads (R5, R402) -/

/-- Registers whose fields are all WO, so that a read gives zero. -/
def writeOnly (off : Nat) : Bool :=
  off == 0x0100 || off == 0x1010 || off == 0x7110 || (decide (0x3010 ≤ off) && decide (off < 0x3050)) ||
    (decide (0x7240 ≤ off) && decide (off < 0x7280)) || (decide (0x4000 ≤ off) && decide (off < 0x6000) && (off - 0x4000) % 0x200 == 0x018) ||
    (decide (0x200000 ≤ off) && decide (off < 0x220000) && decide (0x40 ≤ off % 0x100) && decide (off % 0x100 < 0x80))

/-- What a host's read of 8 bytes gives. -/
def readReg (s : State) (off : Nat) : BitVec 64 :=
  if off % 8 ≠ 0 ∨ writeOnly off then 0
  else if 0x0140 ≤ off ∧ off < 0x0160 then reg s off ||| BitVec.ofNat 64 ((Config.vmin ((off - 0x0140) / 8)).toNat % 1024 * 2 ^ 32)
  else if 0x0800 ≤ off ∧ off < 0x1000 then BitVec.ofNat 64 (capList / 2 ^ (8 * (off - 0x0800)))
  else if off = 0x3008 then
    let k := kget {} s.keys (keyIdx s)
    BitVec.ofNat 64 (k.slot + if k.valid then 32 else 0)
  else if 0x200000 ≤ off ∧ off < 0x220000 ∧ off % 0x100 = 0x18 then dbgRead s ((off - 0x200000) / 0x100)
  -- `isfull` is what `head` and `tail` make it (R110)
  else if 0x4000 ≤ off ∧ off < 0x6000 ∧ off % 0x200 = 0x128 then reg s off &&& ~~~1#64 ||| (if pbFull s ((off - 0x4000) / 0x200) then 1 else 0)
  else reg s off

/-- A read of 8 bytes of the block: its value goes to who reads, and a read of `THERM` restarts the peak (R409). -/
def blockRead (s : State) (off : Nat) : State :=
  let s := { s with readData := (readReg s off).setWidth 2048 }
  if 0x0180 ≤ off ∧ off < 0x01A8 ∧ off % 8 = 0 then setRegF s off 31 16 (regF s off 15 0) else s

/-- An access of the host over the Apron link: to the block, 8 bytes at an aligned address, where another reads zero and writes nothing, or to HBM. Over a
link that is not trained none comes, and a die whose bring-up has failed is only read (R402, R404). -/
def hostReach (s : State) (addr size : Nat) (write : Bool) (v : Row) : State :=
  if regF s 0x0200 0 0 = 0 then s
  else if blockBase ≤ addr ∧ addr < blockBase + 2 ^ 24 then
    let off := addr - blockBase
    if size = 8 ∧ off % 8 = 0 then (if !write then blockRead s off else if dieRuns s then blockWrite s off (v.setWidth 64) else s)
    else if write then s else { s with readData := 0 }
  else if !dieRuns s then s
  else hostMem s addr size write v.toNat

/-- An access of the board controller over SMBus: it reads `IO_STATUS`, `VDD` and `THERM`, and writes `VDD` (R402). -/
def smbusReach (s : State) (off : Nat) (write : Bool) (v : BitVec 64) : State :=
  let vdd := decide (0x0140 ≤ off) && decide (off < 0x0160) && off % 8 == 0
  if write then (if vdd then vddSet s ((off - 0x0140) / 8) v else s)
  else if off = 0 ∨ vdd ∨ (0x0180 ≤ off ∧ off < 0x01A8 ∧ off % 8 = 0) then blockRead s off
  else s

/-- R5, R402: a register is written, by an access of 8 bytes; or the host or the board controller makes an access of another kind. -/
def execRegisterWrite (s : State) : Host.Outcome State Fault Refusal :=
  match s.occ with
  | .reg off v => .next (blockWrite s off v)
  | .host addr size write v => .next (hostReach s addr size write v)
  | .smbus off write v => .next (smbusReach s off write v)
  | _ => .refused (.noOccasion "REGISTER_WRITE")

end Sys2Proof.Machine
end

