-- ==== Sys2Proof/Machine/Dispatch.lean ====
section
/-! DEFINITION. The dispatch: one arm for each constructor of `Instr`. -/

namespace Sys2Proof.Machine

/-- What each instruction does. -/
def exec (i : Instr) (s : State) : Host.Outcome State Fault Refusal :=
  match i with
  | .sqBr m => Sys2Proof.Machine.execSqBr m s
  | .sqBrr m => Sys2Proof.Machine.execSqBrr m s
  | .sqCall m => Sys2Proof.Machine.execSqCall m s
  | .sqCallx m => Sys2Proof.Machine.execSqCallx m s
  | .sqRet m => Sys2Proof.Machine.execSqRet m s
  | .sqLoop m => Sys2Proof.Machine.execSqLoop m s
  | .sqLbrk m => Sys2Proof.Machine.execSqLbrk m s
  | .sqLidx m => Sys2Proof.Machine.execSqLidx m s
  | .sqScene m => Sys2Proof.Machine.execSqScene m s
  | .sqTrap m => Sys2Proof.Machine.execSqTrap m s
  | .sqIret m => Sys2Proof.Machine.execSqIret m s
  | .sqIfence m => Sys2Proof.Machine.execSqIfence m s
  | .sqBrswap m => Sys2Proof.Machine.execSqBrswap m s
  | .sqHalt m => Sys2Proof.Machine.execSqHalt m s
  | .xaAdd u m => Sys2Proof.Machine.execXaAdd u m s
  | .xaSub u m => Sys2Proof.Machine.execXaSub u m s
  | .xaRsub u m => Sys2Proof.Machine.execXaRsub u m s
  | .xaMul u m => Sys2Proof.Machine.execXaMul u m s
  | .xaMulh u m => Sys2Proof.Machine.execXaMulh u m s
  | .xaMulhu u m => Sys2Proof.Machine.execXaMulhu u m s
  | .xaDiv u m => Sys2Proof.Machine.execXaDiv u m s
  | .xaDivu u m => Sys2Proof.Machine.execXaDivu u m s
  | .xaRem u m => Sys2Proof.Machine.execXaRem u m s
  | .xaRemu u m => Sys2Proof.Machine.execXaRemu u m s
  | .xaMin u m => Sys2Proof.Machine.execXaMin u m s
  | .xaMax u m => Sys2Proof.Machine.execXaMax u m s
  | .xaMinu u m => Sys2Proof.Machine.execXaMinu u m s
  | .xaMaxu u m => Sys2Proof.Machine.execXaMaxu u m s
  | .xaAbs u m => Sys2Proof.Machine.execXaAbs u m s
  | .xaAnd u m => Sys2Proof.Machine.execXaAnd u m s
  | .xaOr u m => Sys2Proof.Machine.execXaOr u m s
  | .xaXor u m => Sys2Proof.Machine.execXaXor u m s
  | .xaAndn u m => Sys2Proof.Machine.execXaAndn u m s
  | .xaShl u m => Sys2Proof.Machine.execXaShl u m s
  | .xaShr u m => Sys2Proof.Machine.execXaShr u m s
  | .xaSra u m => Sys2Proof.Machine.execXaSra u m s
  | .xaRol u m => Sys2Proof.Machine.execXaRol u m s
  | .xaClz u m => Sys2Proof.Machine.execXaClz u m s
  | .xaCtz u m => Sys2Proof.Machine.execXaCtz u m s
  | .xaPopc u m => Sys2Proof.Machine.execXaPopc u m s
  | .xaSextB u m => Sys2Proof.Machine.execXaSextB u m s
  | .xaSextH u m => Sys2Proof.Machine.execXaSextH u m s
  | .xaBext u m => Sys2Proof.Machine.execXaBext u m s
  | .xaBins u m => Sys2Proof.Machine.execXaBins u m s
  | .xaPass u m => Sys2Proof.Machine.execXaPass u m s
  | .xaCmpEq u pair m => Sys2Proof.Machine.execXaCmpEq u pair m s
  | .xaCmpNe u pair m => Sys2Proof.Machine.execXaCmpNe u pair m s
  | .xaCmpLt u pair m => Sys2Proof.Machine.execXaCmpLt u pair m s
  | .xaCmpLe u pair m => Sys2Proof.Machine.execXaCmpLe u pair m s
  | .xaCmpLtu u pair m => Sys2Proof.Machine.execXaCmpLtu u pair m s
  | .xaCmpLeu u pair m => Sys2Proof.Machine.execXaCmpLeu u pair m s
  | .xaTst u pair m => Sys2Proof.Machine.execXaTst u pair m s
  | .xaSel u pn m => Sys2Proof.Machine.execXaSel u pn m s
  | .agLea m => Sys2Proof.Machine.execAgLea m s
  | .agGaddr m => Sys2Proof.Machine.execAgGaddr m s
  | .agTileid m => Sys2Proof.Machine.execAgTileid m s
  | .agHome m => Sys2Proof.Machine.execAgHome m s
  | .agStep m => Sys2Proof.Machine.execAgStep m s
  | .agWrap m => Sys2Proof.Machine.execAgWrap m s
  | .agCbInit m => Sys2Proof.Machine.execAgCbInit m s
  | .agCbWait m => Sys2Proof.Machine.execAgCbWait m s
  | .agCbRoom m => Sys2Proof.Machine.execAgCbRoom m s
  | .agCbAdvp m => Sys2Proof.Machine.execAgCbAdvp m s
  | .agCbAdvc m => Sys2Proof.Machine.execAgCbAdvc m s
  | .agCbPos m => Sys2Proof.Machine.execAgCbPos m s
  | .agCbPosp m => Sys2Proof.Machine.execAgCbPosp m s
  | .agCbFill m => Sys2Proof.Machine.execAgCbFill m s
  | .lsLdB cls m => Sys2Proof.Machine.execLsLdB cls m s
  | .lsLdBz cls m => Sys2Proof.Machine.execLsLdBz cls m s
  | .lsLdH cls m => Sys2Proof.Machine.execLsLdH cls m s
  | .lsLdHz cls m => Sys2Proof.Machine.execLsLdHz cls m s
  | .lsLdW cls m => Sys2Proof.Machine.execLsLdW cls m s
  | .lsStB cls m => Sys2Proof.Machine.execLsStB cls m s
  | .lsStH cls m => Sys2Proof.Machine.execLsStH cls m s
  | .lsStW cls m => Sys2Proof.Machine.execLsStW cls m s
  | .lsAmoAdd cls m => Sys2Proof.Machine.execLsAmoAdd cls m s
  | .lsAmoAnd cls m => Sys2Proof.Machine.execLsAmoAnd cls m s
  | .lsAmoOr cls m => Sys2Proof.Machine.execLsAmoOr cls m s
  | .lsAmoXor cls m => Sys2Proof.Machine.execLsAmoXor cls m s
  | .lsAmoMin cls m => Sys2Proof.Machine.execLsAmoMin cls m s
  | .lsAmoMax cls m => Sys2Proof.Machine.execLsAmoMax cls m s
  | .lsAmoMinu cls m => Sys2Proof.Machine.execLsAmoMinu cls m s
  | .lsAmoMaxu cls m => Sys2Proof.Machine.execLsAmoMaxu cls m s
  | .lsAmoSwap cls m => Sys2Proof.Machine.execLsAmoSwap cls m s
  | .lsAmoCas cls m => Sys2Proof.Machine.execLsAmoCas cls m s
  | .lsAmoFadd cls m => Sys2Proof.Machine.execLsAmoFadd cls m s
  | .lsAmoChunk cls m => Sys2Proof.Machine.execLsAmoChunk cls m s
  | .lsAcq cls m => Sys2Proof.Machine.execLsAcq cls m s
  | .lsRel cls m => Sys2Proof.Machine.execLsRel cls m s
  | .lsFence cls m => Sys2Proof.Machine.execLsFence cls m s
  | .lsSwArm cls m => Sys2Proof.Machine.execLsSwArm cls m s
  | .lsSwWait cls m => Sys2Proof.Machine.execLsSwWait cls m s
  | .lsSwAdd cls m => Sys2Proof.Machine.execLsSwAdd cls m s
  | .lsSwRead cls m => Sys2Proof.Machine.execLsSwRead cls m s
  | .vxVadd m => Sys2Proof.Machine.execVxVadd m s
  | .vxVsub m => Sys2Proof.Machine.execVxVsub m s
  | .vxVmul m => Sys2Proof.Machine.execVxVmul m s
  | .vxVfma m => Sys2Proof.Machine.execVxVfma m s
  | .vxVfms m => Sys2Proof.Machine.execVxVfms m s
  | .vxVfnma m => Sys2Proof.Machine.execVxVfnma m s
  | .vxVmin m => Sys2Proof.Machine.execVxVmin m s
  | .vxVmax m => Sys2Proof.Machine.execVxVmax m s
  | .vxVabs m => Sys2Proof.Machine.execVxVabs m s
  | .vxVneg m => Sys2Proof.Machine.execVxVneg m s
  | .vxVdiv m => Sys2Proof.Machine.execVxVdiv m s
  | .vxVsqrt m => Sys2Proof.Machine.execVxVsqrt m s
  | .vxVrcp m => Sys2Proof.Machine.execVxVrcp m s
  | .vxVrsqrt m => Sys2Proof.Machine.execVxVrsqrt m s
  | .vxVexp2 m => Sys2Proof.Machine.execVxVexp2 m s
  | .vxVlog2 m => Sys2Proof.Machine.execVxVlog2 m s
  | .vxVaddi m => Sys2Proof.Machine.execVxVaddi m s
  | .vxVsubi m => Sys2Proof.Machine.execVxVsubi m s
  | .vxVmuli m => Sys2Proof.Machine.execVxVmuli m s
  | .vxVand m => Sys2Proof.Machine.execVxVand m s
  | .vxVor m => Sys2Proof.Machine.execVxVor m s
  | .vxVxor m => Sys2Proof.Machine.execVxVxor m s
  | .vxVshl m => Sys2Proof.Machine.execVxVshl m s
  | .vxVshr m => Sys2Proof.Machine.execVxVshr m s
  | .vxVsra m => Sys2Proof.Machine.execVxVsra m s
  | .vxVmini m => Sys2Proof.Machine.execVxVmini m s
  | .vxVmaxi m => Sys2Proof.Machine.execVxVmaxi m s
  | .vxVcmpEq m => Sys2Proof.Machine.execVxVcmpEq m s
  | .vxVcmpNe m => Sys2Proof.Machine.execVxVcmpNe m s
  | .vxVcmpLt m => Sys2Proof.Machine.execVxVcmpLt m s
  | .vxVcmpLe m => Sys2Proof.Machine.execVxVcmpLe m s
  | .vxVcmpiEq m => Sys2Proof.Machine.execVxVcmpiEq m s
  | .vxVcmpiNe m => Sys2Proof.Machine.execVxVcmpiNe m s
  | .vxVcmpiLt m => Sys2Proof.Machine.execVxVcmpiLt m s
  | .vxVcmpiLe m => Sys2Proof.Machine.execVxVcmpiLe m s
  | .vxVsel m => Sys2Proof.Machine.execVxVsel m s
  | .vxMand m => Sys2Proof.Machine.execVxMand m s
  | .vxMor m => Sys2Proof.Machine.execVxMor m s
  | .vxMnot m => Sys2Proof.Machine.execVxMnot m s
  | .vxVcvt m => Sys2Proof.Machine.execVxVcvt m s
  | .vxVscale m => Sys2Proof.Machine.execVxVscale m s
  | .vxVcvti m => Sys2Proof.Machine.execVxVcvti m s
  | .vxVredsum m => Sys2Proof.Machine.execVxVredsum m s
  | .vxVredmax m => Sys2Proof.Machine.execVxVredmax m s
  | .vxVredmin m => Sys2Proof.Machine.execVxVredmin m s
  | .vxVbcast m => Sys2Proof.Machine.execVxVbcast m s
  | .vxVperm m => Sys2Proof.Machine.execVxVperm m s
  | .vxVrot m => Sys2Proof.Machine.execVxVrot m s
  | .vxVins m => Sys2Proof.Machine.execVxVins m s
  | .vxVget m => Sys2Proof.Machine.execVxVget m s
  | .vxVmov m => Sys2Proof.Machine.execVxVmov m s
  | .vxVout m => Sys2Proof.Machine.execVxVout m s
  | .vxVld m => Sys2Proof.Machine.execVxVld m s
  | .vxVst m => Sys2Proof.Machine.execVxVst m s
  | .vxVgath m => Sys2Proof.Machine.execVxVgath m s
  | .vxVscat m => Sys2Proof.Machine.execVxVscat m s
  | .vxVldc m => Sys2Proof.Machine.execVxVldc m s
  | .vxVstc m => Sys2Proof.Machine.execVxVstc m s
  | .vxVnest nest => Sys2Proof.Machine.execVxVnest nest s
  | .mxCfg m => Sys2Proof.Machine.execMxCfg m s
  | .mxWload m => Sys2Proof.Machine.execMxWload m s
  | .mxWloadx m => Sys2Proof.Machine.execMxWloadx m s
  | .mxRun m => Sys2Proof.Machine.execMxRun m s
  | .mxRunsp m => Sys2Proof.Machine.execMxRunsp m s
  | .mxGrp m => Sys2Proof.Machine.execMxGrp m s
  | .mxSclr m => Sys2Proof.Machine.execMxSclr m s
  | .mxDrain m => Sys2Proof.Machine.execMxDrain m s
  | .mxDrainc m => Sys2Proof.Machine.execMxDrainc m s
  | .mxScale m => Sys2Proof.Machine.execMxScale m s
  | .mxCap m => Sys2Proof.Machine.execMxCap m s
  | .mxPrio m => Sys2Proof.Machine.execMxPrio m s
  | .mxStat m => Sys2Proof.Machine.execMxStat m s
  | .mxSwap m => Sys2Proof.Machine.execMxSwap m s
  | .chCopy act m => Sys2Proof.Machine.execChCopy act m s
  | .chCopyt act m => Sys2Proof.Machine.execChCopyt act m s
  | .chCopyi act m => Sys2Proof.Machine.execChCopyi act m s
  | .chExpand act m => Sys2Proof.Machine.execChExpand act m s
  | .chFill act m => Sys2Proof.Machine.execChFill act m s
  | .chShadow act m => Sys2Proof.Machine.execChShadow act m s
  | .chPublish m => Sys2Proof.Machine.execChPublish m s
  | .chCrc act m => Sys2Proof.Machine.execChCrc act m s
  | .chPbinv m => Sys2Proof.Machine.execChPbinv m s
  | .chTlbinv m => Sys2Proof.Machine.execChTlbinv m s
  | .chTlbpin m => Sys2Proof.Machine.execChTlbpin m s
  | .chCancel m => Sys2Proof.Machine.execChCancel m s
  | .chStat m => Sys2Proof.Machine.execChStat m s
  | .ntSend m => Sys2Proof.Machine.execNtSend m s
  | .ntSendw m => Sys2Proof.Machine.execNtSendw m s
  | .ntPut m => Sys2Proof.Machine.execNtPut m s
  | .ntPutb m => Sys2Proof.Machine.execNtPutb m s
  | .ntReduce m => Sys2Proof.Machine.execNtReduce m s
  | .ntBcast m => Sys2Proof.Machine.execNtBcast m s
  | .ntSpawn m => Sys2Proof.Machine.execNtSpawn m s
  | .ntEvent m => Sys2Proof.Machine.execNtEvent m s
  | .ntMxcmd m => Sys2Proof.Machine.execNtMxcmd m s
  | .ntTree m => Sys2Proof.Machine.execNtTree m s
  | .ntStat m => Sys2Proof.Machine.execNtStat m s
  | .ntRedwait m => Sys2Proof.Machine.execNtRedwait m s
  | .lmBank m => Sys2Proof.Machine.execLmBank m s
  | .lmTick m => Sys2Proof.Machine.execLmTick m s
  | .lmFan m => Sys2Proof.Machine.execLmFan m s
  | .lmLoad m => Sys2Proof.Machine.execLmLoad m s
  | .lmStore m => Sys2Proof.Machine.execLmStore m s
  | .lmInject m => Sys2Proof.Machine.execLmInject m s
  | .lmRead m => Sys2Proof.Machine.execLmRead m s
  | .lmWrite m => Sys2Proof.Machine.execLmWrite m s
  | .lmRun m => Sys2Proof.Machine.execLmRun m s
  | .lmStop m => Sys2Proof.Machine.execLmStop m s
  | .lmDrain m => Sys2Proof.Machine.execLmDrain m s
  | .lmTie m => Sys2Proof.Machine.execLmTie m s
  | .lmStat m => Sys2Proof.Machine.execLmStat m s
  | .cqProbe m => Sys2Proof.Machine.execCqProbe m s
  | .cqBook m => Sys2Proof.Machine.execCqBook m s
  | .cqRelease m => Sys2Proof.Machine.execCqRelease m s
  | .cqExtend m => Sys2Proof.Machine.execCqExtend m s
  | .cqChain m => Sys2Proof.Machine.execCqChain m s
  | .cqCompact m => Sys2Proof.Machine.execCqCompact m s
  | .cqDemote m => Sys2Proof.Machine.execCqDemote m s
  | .cqSlack m => Sys2Proof.Machine.execCqSlack m s
  | .cqQuery m => Sys2Proof.Machine.execCqQuery m s
  | .syCsrr m => Sys2Proof.Machine.execSyCsrr m s
  | .syCsrw m => Sys2Proof.Machine.execSyCsrw m s
  | .syGtime m => Sys2Proof.Machine.execSyGtime m s
  | .syWaitgt m => Sys2Proof.Machine.execSyWaitgt m s
  | .syCurtain m => Sys2Proof.Machine.execSyCurtain m s
  | .syCarrive m => Sys2Proof.Machine.execSyCarrive m s
  | .syCwait m => Sys2Proof.Machine.execSyCwait m s
  | .syFumode m => Sys2Proof.Machine.execSyFumode m s
  | .syPbmark m => Sys2Proof.Machine.execSyPbmark m s
  | .syEcall m => Sys2Proof.Machine.execSyEcall m s
  | .syYield m => Sys2Proof.Machine.execSyYield m s
  | .syBrk m => Sys2Proof.Machine.execSyBrk m s
  | .syUsr m => Sys2Proof.Machine.execSyUsr m s
  | .syUsw m => Sys2Proof.Machine.execSyUsw m s
  | .syPerf m => Sys2Proof.Machine.execSyPerf m s
  | .syIdle m => Sys2Proof.Machine.execSyIdle m s
  | .bundleIssue a w => Sys2Proof.Machine.execBundleIssue a w s
  | .bundleComplete => Sys2Proof.Machine.execBundleComplete s
  | .resultLanding => Sys2Proof.Machine.execResultLanding s
  | .replyArrival => Sys2Proof.Machine.execReplyArrival s
  | .lineFetchComplete => Sys2Proof.Machine.execLineFetchComplete s
  | .interruptTake => Sys2Proof.Machine.execInterruptTake s
  | .gtComparePend => Sys2Proof.Machine.execGtComparePend s
  | .deferredFault => Sys2Proof.Machine.execDeferredFault s
  | .iterationOverrun => Sys2Proof.Machine.execIterationOverrun s
  | .slackExhausted => Sys2Proof.Machine.execSlackExhausted s
  | .bookingEndPassed => Sys2Proof.Machine.execBookingEndPassed s
  | .ageIncrement => Sys2Proof.Machine.execAgeIncrement s
  | .queueEnable => Sys2Proof.Machine.execQueueEnable s
  | .queueHeadParse => Sys2Proof.Machine.execQueueHeadParse s
  | .arbiterChoice => Sys2Proof.Machine.execArbiterChoice s
  | .gangStart => Sys2Proof.Machine.execGangStart s
  | .stepTurn => Sys2Proof.Machine.execStepTurn s
  | .bookingProbe => Sys2Proof.Machine.execBookingProbe s
  | .bookingNoFit => Sys2Proof.Machine.execBookingNoFit s
  | .stepLoadStart => Sys2Proof.Machine.execStepLoadStart s
  | .stepLoaded => Sys2Proof.Machine.execStepLoaded s
  | .taskStart => Sys2Proof.Machine.execTaskStart s
  | .bankFlipComplete => Sys2Proof.Machine.execBankFlipComplete s
  | .wingsFlipBack => Sys2Proof.Machine.execWingsFlipBack s
  | .stepRestart => Sys2Proof.Machine.execStepRestart s
  | .curtainArrive => Sys2Proof.Machine.execCurtainArrive s
  | .curtainClose => Sys2Proof.Machine.execCurtainClose s
  | .curtainRelease => Sys2Proof.Machine.execCurtainRelease s
  | .homeAccess => Sys2Proof.Machine.execHomeAccess s
  | .atomicAtHome => Sys2Proof.Machine.execAtomicAtHome s
  | .lockAcquireAtHome => Sys2Proof.Machine.execLockAcquireAtHome s
  | .lockReleaseAtHome => Sys2Proof.Machine.execLockReleaseAtHome s
  | .lockGrantArrival => Sys2Proof.Machine.execLockGrantArrival s
  | .lockReissue => Sys2Proof.Machine.execLockReissue s
  | .creditAtHome => Sys2Proof.Machine.execCreditAtHome s
  | .armAtHome => Sys2Proof.Machine.execArmAtHome s
  | .syncWaitAnswer => Sys2Proof.Machine.execSyncWaitAnswer s
  | .syncWaitReissue => Sys2Proof.Machine.execSyncWaitReissue s
  | .putArrival => Sys2Proof.Machine.execPutArrival s
  | .sendArrival => Sys2Proof.Machine.execSendArrival s
  | .sendAcceptance => Sys2Proof.Machine.execSendAcceptance s
  | .refusalArrival => Sys2Proof.Machine.execRefusalArrival s
  | .resend => Sys2Proof.Machine.execResend s
  | .flitInject => Sys2Proof.Machine.execFlitInject s
  | .handleUpdateArrival => Sys2Proof.Machine.execHandleUpdateArrival s
  | .spawnArrival => Sys2Proof.Machine.execSpawnArrival s
  | .siltEventArrival => Sys2Proof.Machine.execSiltEventArrival s
  | .mxcmdArrival => Sys2Proof.Machine.execMxcmdArrival s
  | .treePacketArrival => Sys2Proof.Machine.execTreePacketArrival s
  | .treeForward => Sys2Proof.Machine.execTreeForward s
  | .treeTimeout => Sys2Proof.Machine.execTreeTimeout s
  | .deliveryPass => Sys2Proof.Machine.execDeliveryPass s
  | .fanoutQueueTimeout => Sys2Proof.Machine.execFanoutQueueTimeout s
  | .cceAccept => Sys2Proof.Machine.execCceAccept s
  | .timedCopyStart => Sys2Proof.Machine.execTimedCopyStart s
  | .copyRowWrite => Sys2Proof.Machine.execCopyRowWrite s
  | .copyWriteAck => Sys2Proof.Machine.execCopyWriteAck s
  | .copyComplete => Sys2Proof.Machine.execCopyComplete s
  | .publishReady => Sys2Proof.Machine.execPublishReady s
  | .publishExchange => Sys2Proof.Machine.execPublishExchange s
  | .tlbinvComplete => Sys2Proof.Machine.execTlbinvComplete s
  | .tlbpinComplete => Sys2Proof.Machine.execTlbpinComplete s
  | .mxArraySelect => Sys2Proof.Machine.execMxArraySelect s
  | .mxLoadStart => Sys2Proof.Machine.execMxLoadStart s
  | .mxCommandComplete => Sys2Proof.Machine.execMxCommandComplete s
  | .vnestComplete => Sys2Proof.Machine.execVnestComplete s
  | .gapResume => Sys2Proof.Machine.execGapResume s
  | .recordFlushTimer => Sys2Proof.Machine.execRecordFlushTimer s
  | .pbEnable => Sys2Proof.Machine.execPbEnable s
  | .pbDisable => Sys2Proof.Machine.execPbDisable s
  | .pbModeWrite => Sys2Proof.Machine.execPbModeWrite s
  | .launchComplete => Sys2Proof.Machine.execLaunchComplete s
  | .dcDec => Sys2Proof.Machine.execDcDec s
  | .ctxBind => Sys2Proof.Machine.execCtxBind s
  | .ctxRestore => Sys2Proof.Machine.execCtxRestore s
  | .restoreComplete => Sys2Proof.Machine.execRestoreComplete s
  | .ctxPreempt => Sys2Proof.Machine.execCtxPreempt s
  | .copyOut => Sys2Proof.Machine.execCopyOut s
  | .copyOutComplete => Sys2Proof.Machine.execCopyOutComplete s
  | .ctxEnd => Sys2Proof.Machine.execCtxEnd s
  | .contextClearComplete => Sys2Proof.Machine.execContextClearComplete s
  | .ctxUnbind => Sys2Proof.Machine.execCtxUnbind s
  | .ctxInvalidate => Sys2Proof.Machine.execCtxInvalidate s
  | .invalidateComplete => Sys2Proof.Machine.execInvalidateComplete s
  | .ctxResume => Sys2Proof.Machine.execCtxResume s
  | .ctxRemap => Sys2Proof.Machine.execCtxRemap s
  | .remapEffect => Sys2Proof.Machine.execRemapEffect s
  | .ctxPair => Sys2Proof.Machine.execCtxPair s
  | .keyLoad => Sys2Proof.Machine.execKeyLoad s
  | .keyErase => Sys2Proof.Machine.execKeyErase s
  | .scrubStep => Sys2Proof.Machine.execScrubStep s
  | .hbmScrub => Sys2Proof.Machine.execHbmScrub s
  | .dbgHalt => Sys2Proof.Machine.execDbgHalt s
  | .dbgResume => Sys2Proof.Machine.execDbgResume s
  | .crossTrigger => Sys2Proof.Machine.execCrossTrigger s
  | .dbgValWrite => Sys2Proof.Machine.execDbgValWrite s
  | .codeWriteGo => Sys2Proof.Machine.execCodeWriteGo s
  | .lineDiscard => Sys2Proof.Machine.execLineDiscard s
  | .sampleTick => Sys2Proof.Machine.execSampleTick s
  | .powerGood => Sys2Proof.Machine.execPowerGood s
  | .bringupStageComplete => Sys2Proof.Machine.execBringupStageComplete s
  | .bringupTimeout => Sys2Proof.Machine.execBringupTimeout s
  | .pwrRun => Sys2Proof.Machine.execPwrRun s
  | .pwrClockStop => Sys2Proof.Machine.execPwrClockStop s
  | .pwrRetain => Sys2Proof.Machine.execPwrRetain s
  | .pwrOff => Sys2Proof.Machine.execPwrOff s
  | .pwrTransitionComplete => Sys2Proof.Machine.execPwrTransitionComplete s
  | .vddSet => Sys2Proof.Machine.execVddSet s
  | .vddRampStep => Sys2Proof.Machine.execVddRampStep s
  | .thermUpdate => Sys2Proof.Machine.execThermUpdate s
  | .thermRead => Sys2Proof.Machine.execThermRead s
  | .thermtrip => Sys2Proof.Machine.execThermtrip s
  | .podJoin => Sys2Proof.Machine.execPodJoin s
  | .timeBeatExchange => Sys2Proof.Machine.execTimeBeatExchange s
  | .parentLinkFail => Sys2Proof.Machine.execParentLinkFail s
  | .swGo => Sys2Proof.Machine.execSwGo s
  | .swCancel => Sys2Proof.Machine.execSwCancel s
  | .swTReached => Sys2Proof.Machine.execSwTReached s
  | .swDeadline => Sys2Proof.Machine.execSwDeadline s
  | .markerArrival => Sys2Proof.Machine.execMarkerArrival s
  | .markerTimeout => Sys2Proof.Machine.execMarkerTimeout s
  | .attGo => Sys2Proof.Machine.execAttGo s
  | .attReportDone => Sys2Proof.Machine.execAttReportDone s
  | .registerWrite => Sys2Proof.Machine.execRegisterWrite s
  | .powerRemoved => Sys2Proof.Machine.execPowerRemoved s
  | .apronLinkTrained => Sys2Proof.Machine.execApronLinkTrained s
  | .queueDisable => Sys2Proof.Machine.execQueueDisable s

end Sys2Proof.Machine
end

