-- ==== Sys2Proof/Machine/Step.lean ====
section
/-! DEFINITION. The step: the entry at the head of the agenda comes due. -/

namespace Sys2Proof.Machine

/-- One step: an event of the device, an issue cycle of an agent, or, with nothing to come, one cycle passes. -/
def step (s : State) : Host.Outcome State Fault Refusal :=
  match agendaHead s with
  | .stay t => .next t
  | .run i t => exec i t

/-- The state with an instruction placed where the next step fetches: a bundle in the instruction memory of tile 0, which is about to
issue it. An instruction of 64 bits or fewer is one slot of the bundle. -/
def State.withFetchWord (s : State) (nbits w : Nat) : State :=
  if nbits ≤ 64 then placeBundle s (oneSlot w) else placeBundle s w

end Sys2Proof.Machine
end

