-- ==== Sys2Proof/Safety.lean ====
section
/-! DEFINITION. The terms that the statements use: the canonical form of memory, what it takes for a lone operation to issue, the state
after it has, results on their way, and what an operation leaves as it was. -/

namespace Sys2Proof.Machine

/-- A byte memory has its canonical form: addresses strictly rising, and no byte listed that an unlisted address reads as. -/
def Memory.wf (m : List Host.Cell) : Bool := kwf (0 : Byte) m

/-- Every byte memory of the machine has its canonical form. -/
def State.memWf (s : State) : Bool := Memory.wf s.sram && Memory.wf s.hbm && Memory.wf s.host

/-- A step leads to a next state. -/
def completes (o : Host.Outcome State Fault Refusal) : Prop := ∃ t, o = .next t

/-! ### A lone operation in the issue register -/

/-- The value that the move carries to the trigger port. -/
def tVal (s : State) (m : Trig) : Word := lowW (srcVal s s.cur.a m.src)

/-- An operand port of the issuing agent. -/
def oVal (s : State) (u : Sock) (c : Nat) : Word := portW s s.cur.a u c

/-- A broad operand port of the issuing agent. -/
def oRow (s : State) (u : Sock) (c : Nat) : Row := portR s s.cur.a u c

/-- The header's loop-end mark, if any, is one that its bundle may carry (R188), and no micro branch is queued where it ends a scene (R192). -/
def markLegal (s : State) : Bool := (headerCause (bk s s.cur.a).q s.cur.hdr).isNone

/-- The move is in effect and can deliver its value: an agent that issues bundles, a guard that holds, a source latch that no result on
its way locks, and a legal mark (R150, R165, R188). -/
def Ready (s : State) (m : Trig) : Prop :=
  isIssuer s.cur.a = true ∧ guardOn s s.cur.a m = true ∧ latchHeld s s.cur.a m.src = false ∧ markLegal s = true

/-- The socket is neither occupied nor stopped, and latch `code` has room for `k` more results (R147, R150). -/
def Free (s : State) (u : Sock) (code k : Nat) : Prop := sockHeld s s.cur.a u = false ∧ inFlight s s.cur.a u code + k ≤ 32

/-- The state in which the operation takes effect: a source latch has been read (R150). -/
def sourced (s : State) (m : Trig) : State :=
  match m.src with
  | .latch u c => readLatch s s.cur.a u c.val
  | _ => s

/-- The state after a lone operation has issued with effect `eff`. -/
def issued (s : State) (m : Trig) (eff : State → State) : State := noteIssued (eff (sourced s m)) s.cur.a s.cur.hdr

/-- The context of a lone trigger. -/
def ctxOf (s : State) (m : Trig) : OpCtx := ⟨s.cur.a, tVal s m, s.cur.slot⟩

/-! ### What a state holds -/

/-- A result on its way: due in cycle `due`, for latch `code` of socket `u` of agent `a`, in the landing mode of `s` (R146, R148), with the
event that lands it. -/
def ResultDue (s t : State) (a : Nat) (u : Sock) (code due : Nat) (v : Row) : Prop :=
  (∃ f ∈ (bk t a).x.flights, f.u = u ∧ f.code = code ∧ f.due = some due ∧ f.val = v ∧ f.locked = lockedMode s a u ∧ f.pre = false) ∧
  ⟨due, priLand, .ev .resultLanding (.unit a u)⟩ ∈ t.agenda

/-- A register write on its way (R153). -/
def WriteDue (t : State) (a : Nat) (u : Sock) (due : Nat) (w : RegWrite) : Prop :=
  (∃ p ∈ (bk t a).x.pends, p.u = u ∧ p.due = some due ∧ p.w = w) ∧ ⟨due, priLand, .ev .resultLanding (.unit a u)⟩ ∈ t.agenda

/-- An event stands on the agenda. -/
def Comes (t : State) (at_ : Nat) (i : Instr) (o : Occ) : Prop := ∃ p, ⟨at_, p, .ev i o⟩ ∈ t.agenda

/-- Memory as any access reads it is unchanged: SRAM through its pairs, HBM and host memory. -/
def SameMemory (s t : State) : Prop :=
  (∀ x, readByte t x = readByte s x) ∧ (∀ x, hbmByte t x = hbmByte s x) ∧ ∀ x, hostByte t x = hostByte s x

/-- The registers of a step: general, predicate, vector and mask registers, handles and control registers (R14, R320). -/
def SameRegs (s t : State) (a : Nat) : Prop :=
  (bk t a).g = (bk s a).g ∧ (bk t a).p = (bk s a).p ∧ (bk t a).v = (bk s a).v ∧ (bk t a).m = (bk s a).m ∧
  (bk t a).h = (bk s a).h ∧ (bk t a).c = (bk s a).c

/-- The values of every port and latch (R143). -/
def SameValues (s t : State) (a : Nat) : Prop :=
  (∀ u c, portR t a u c = portR s a u c) ∧ ∀ u c, (latchOf t a u c).val = (latchOf s a u c).val

/-- The sequencer but for what it notes of the bundle in issue: its last cycle, mark and name. -/
def seqPlace (q : Seq) : Seq := { q with bundleEnd := 0, lend := 0, send := false, bound := false, lastPc := 0, started := false }

/-- What an action within the transport state and the sequencer of agent `a` leaves as it was: memory, every register, the other bank, every
other agent, and all of the device but the agenda. -/
def ActsWithin (s t : State) (a : Nat) : Prop :=
  { t with agents := s.agents, agenda := s.agenda } = s ∧ SameMemory s t ∧ SameRegs s t a ∧
  (∀ b, b ≠ a → ag t b = ag s b) ∧ (ag t a).wings = (ag s a).wings

/-- The same, of the agent that issues. -/
def Undisturbed (s t : State) : Prop := ActsWithin s t s.cur.a

/-- What an operation that only computes leaves as it was: besides, every port and latch value, and the sequencer's place. -/
def OnlyComputes (s t : State) : Prop :=
  Undisturbed s t ∧ SameValues s t s.cur.a ∧ seqPlace (bk t s.cur.a).q = seqPlace (bk s s.cur.a).q

/-- What an operation of the sequencer leaves as it was, and how it changes the sequencer. -/
def OnlySequences (s t : State) (f : Seq → Seq) : Prop :=
  Undisturbed s t ∧ SameValues s t s.cur.a ∧ seqPlace (bk t s.cur.a).q = seqPlace (f (bk s s.cur.a).q)

end Sys2Proof.Machine
end

