-- ==== Sys2Proof/Certificates/Slice0/Obligations.lean ====
section
/-! DEFINITION. The statements for the provers. Where a statement says what an operation does, the operation stands alone in the issue
register (`State.cur`); `LoneOperationIsItsSlot` says that it does the same among the slots of a bundle. -/

/-! ### Integer units (R198 to R203) -/

namespace Sys2Proof.Machine

/-- R199: operation, latency, and `q0` from a = `o0` and b = the value moved to `t`. -/
def intArith : List ((IntUnit → Trig → Instr) × Nat × (Word → Word → Word)) :=
  [(.xaAdd, 1, fun a b => BitVec.ofNat 32 (a.toNat + b.toNat)),
   (.xaSub, 1, fun a b => BitVec.ofInt 32 (a.toNat - b.toNat)),
   (.xaRsub, 1, fun a b => BitVec.ofInt 32 (b.toNat - a.toNat)),
   (.xaMul, 3, fun a b => BitVec.ofNat 32 (a.toNat * b.toNat)),
   (.xaMulh, 3, fun a b => BitVec.ofInt 32 (a.toInt * b.toInt / 2 ^ 32)),
   (.xaMulhu, 3, fun a b => BitVec.ofNat 32 (a.toNat * b.toNat / 2 ^ 32)),
   (.xaMin, 1, fun a b => BitVec.ofInt 32 (min a.toInt b.toInt)),
   (.xaMax, 1, fun a b => BitVec.ofInt 32 (max a.toInt b.toInt)),
   (.xaMinu, 1, fun a b => BitVec.ofNat 32 (min a.toNat b.toNat)),
   (.xaMaxu, 1, fun a b => BitVec.ofNat 32 (max a.toNat b.toNat)),
   (.xaAbs, 1, fun _ b => BitVec.ofNat 32 b.toInt.natAbs)]

/-- R199, R201: the logic, shift and bit operations. -/
def intLogic : List ((IntUnit → Trig → Instr) × (Word → Word → Word)) :=
  [(.xaAnd, fun a b => a &&& b), (.xaOr, fun a b => a ||| b), (.xaXor, fun a b => a ^^^ b), (.xaAndn, fun a b => a &&& ~~~b),
   (.xaShl, fun a b => BitVec.ofNat 32 (a.toNat * 2 ^ (b.toNat % 32))),
   (.xaShr, fun a b => BitVec.ofNat 32 (a.toNat / 2 ^ (b.toNat % 32))),
   (.xaSra, fun a b => BitVec.ofInt 32 (a.toInt / 2 ^ (b.toNat % 32))),
   (.xaRol, fun a b => BitVec.ofNat 32 (a.toNat * 2 ^ (b.toNat % 32) + a.toNat / 2 ^ (32 - b.toNat % 32))),
   (.xaClz, fun _ b => BitVec.ofNat 32 (((List.range 32).find? fun i => b.getLsbD (31 - i)).getD 32)),
   (.xaCtz, fun _ b => BitVec.ofNat 32 (((List.range 32).find? fun i => b.getLsbD i).getD 32)),
   (.xaPopc, fun _ b => BitVec.ofNat 32 ((List.range 32).countP fun i => b.getLsbD i)),
   (.xaSextB, fun _ b => BitVec.ofInt 32 (BitVec.ofNat 8 b.toNat).toInt),
   (.xaSextH, fun _ b => BitVec.ofInt 32 (BitVec.ofNat 16 b.toNat).toInt),
   (.xaBext, fun a b => BitVec.ofNat 32 (a.toNat / 2 ^ (b.toNat % 32) % 2 ^ min (b.toNat / 32 % 64) 32)),
   (.xaBins, fun a b =>
     let pos := b.toNat % 32
     let w := min (b.toNat / 32 % 64) 16
     let f := b.toNat / 2 ^ 16 % 2 ^ w
     let m := BitVec.ofNat 32 ((2 ^ w - 1) * 2 ^ pos)
     (a &&& ~~~m) ||| BitVec.ofNat 32 (f * 2 ^ pos)),
   (.xaPass, fun _ b => b)]

/-- R200: quotients and remainders. -/
def intDivide : List ((IntUnit → Trig → Instr) × (Word → Word → Word)) :=
  [(.xaDiv, fun a b => if b = 0 then 0xFFFFFFFF#32 else if a = 0x80000000#32 ∧ b = 0xFFFFFFFF#32 then 0x80000000#32
      else BitVec.ofInt 32 (a.toInt.tdiv b.toInt)),
   (.xaDivu, fun a b => if b = 0 then 0xFFFFFFFF#32 else BitVec.ofNat 32 (a.toNat / b.toNat)),
   (.xaRem, fun a b => if b = 0 then a else if a = 0x80000000#32 ∧ b = 0xFFFFFFFF#32 then 0
      else BitVec.ofInt 32 (a.toInt - a.toInt.tdiv b.toInt * b.toInt)),
   (.xaRemu, fun a b => if b = 0 then a else BitVec.ofNat 32 (a.toNat - a.toNat / b.toNat * b.toNat))]

/-- R202: the condition of each compare. -/
def intCompare : List ((IntUnit → Fin 8 → Trig → Instr) × (Word → Word → Bool)) :=
  [(.xaCmpEq, fun a b => decide (a = b)), (.xaCmpNe, fun a b => decide (a ≠ b)), (.xaCmpLt, fun a b => decide (a.toInt < b.toInt)),
   (.xaCmpLe, fun a b => decide (a.toInt ≤ b.toInt)), (.xaCmpLtu, fun a b => decide (a.toNat < b.toNat)),
   (.xaCmpLeu, fun a b => decide (a.toNat ≤ b.toNat)), (.xaTst, fun a b => decide (a &&& b ≠ 0))]

end Sys2Proof.Machine

open Sys2Proof Sys2Proof.Machine in
/-- R199: each arithmetic operation of `xa` and `xb` completes: its result is due in `q0` after its latency, and nothing else but the
bundle's own bookkeeping changes. -/
def Sys2Proof.Claims.IntegerArithmeticResults : Prop :=
  ∀ e ∈ intArith, ∀ (u : IntUnit) (m : Trig) (s : State), Ready s m → Free s u.sock 0x20 1 →
    ∃ t, exec (e.1 u m) s = .next t ∧ ResultDue s t s.cur.a u.sock 0x20 (s.now + e.2.1) (rowOf (e.2.2 (oVal s u.sock 0) (tVal s m))) ∧
      OnlyComputes s t

open Sys2Proof Sys2Proof.Machine in
/-- R199, R201: each logic, shift and bit operation completes with its result due in `q0` one cycle later, and nothing else changes. -/
def Sys2Proof.Claims.IntegerLogicResults : Prop :=
  ∀ e ∈ intLogic, ∀ (u : IntUnit) (m : Trig) (s : State), Ready s m → Free s u.sock 0x20 1 →
    ∃ t, exec (e.1 u m) s = .next t ∧ ResultDue s t s.cur.a u.sock 0x20 (s.now + 1) (rowOf (e.2 (oVal s u.sock 0) (tVal s m))) ∧
      OnlyComputes s t

open Sys2Proof Sys2Proof.Machine in
/-- R200: each division completes with its result due in `q0` 18 cycles later, also for a zero divisor and the signed overflow, and the
unit takes no trigger for 18 cycles. -/
def Sys2Proof.Claims.DivisionResults : Prop :=
  ∀ e ∈ intDivide, ∀ (u : IntUnit) (m : Trig) (s : State), Ready s m → Free s u.sock 0x20 1 →
    ∃ t, exec (e.1 u m) s = .next t ∧ ResultDue s t s.cur.a u.sock 0x20 (s.now + 18) (rowOf (e.2 (oVal s u.sock 0) (tVal s m))) ∧
      (∀ n, n < 18 → sockHeld { t with now := s.now + n } s.cur.a u.sock = true) ∧ OnlyComputes s t

open Sys2Proof Sys2Proof.Machine in
/-- R202: each compare completes: the predicate pair is written 2 cycles later, as p(2k) = c and p(2k + 1) = not c, and `q0` holds c after
one cycle. -/
def Sys2Proof.Claims.CompareResults : Prop :=
  ∀ e ∈ intCompare, ∀ (u : IntUnit) (k : Fin 8) (m : Trig) (s : State), Ready s m → Free s u.sock 0x20 1 →
    ∃ t c, c = e.2 (oVal s u.sock 0) (tVal s m) ∧ exec (e.1 u k m) s = .next t ∧
      ResultDue s t s.cur.a u.sock 0x20 (s.now + 1) (rowOf (if c then 1#32 else 0#32)) ∧
      WriteDue t s.cur.a u.sock (s.now + 2) (.preds k c) ∧ OnlyComputes s t ∧
      (∀ b : Bank, (applyWrite b (.preds k c)).p.getLsbD (2 * k.val) = c ∧ (applyWrite b (.preds k c)).p.getLsbD (2 * k.val + 1) = !c ∧
        ∀ n, n / 2 ≠ k.val → (applyWrite b (.preds k c)).p.getLsbD n = b.p.getLsbD n)

open Sys2Proof Sys2Proof.Machine in
/-- R203: `sel` completes with a where its predicate is 1 at the start of the issue cycle, and with b where it is 0. -/
def Sys2Proof.Claims.SelectResult : Prop :=
  ∀ (u : IntUnit) (n : Fin 16) (m : Trig) (s : State), Ready s m → Free s u.sock 0x20 1 →
    ∃ t, exec (.xaSel u n m) s = .next t ∧
      ResultDue s t s.cur.a u.sock 0x20 (s.now + 1)
        (rowOf (if (bk s s.cur.a).p.getLsbD n.val then oVal s u.sock 0 else tVal s m)) ∧ OnlyComputes s t

open Sys2Proof Sys2Proof.Machine in
/-- R199, R200, R202, R203: the opcodes of `xa` and `xb`, as the decoder reads them. -/
def Sys2Proof.Claims.IntegerOpcodes : Prop :=
  ∀ (u : IntUnit) (m : Trig),
    (∀ e ∈ [((.xaAdd : IntUnit → Trig → Instr), 0x001#12), (.xaSub, 0x002), (.xaRsub, 0x003), (.xaMul, 0x004), (.xaMulh, 0x005), (.xaMulhu, 0x006),
        (.xaDiv, 0x007), (.xaDivu, 0x008), (.xaRem, 0x009), (.xaRemu, 0x00A), (.xaMin, 0x00B), (.xaMax, 0x00C), (.xaMinu, 0x00D), (.xaMaxu, 0x00E),
        (.xaAbs, 0x00F), (.xaAnd, 0x101), (.xaOr, 0x102), (.xaXor, 0x103), (.xaAndn, 0x104), (.xaShl, 0x105), (.xaShr, 0x106), (.xaSra, 0x107),
        (.xaRol, 0x108), (.xaClz, 0x109), (.xaCtz, 0x10A), (.xaPopc, 0x10B), (.xaSextB, 0x10C), (.xaSextH, 0x10D), (.xaBext, 0x10E), (.xaBins, 0x10F),
        (.xaPass, 0x110)], decOp u.sock e.2 m = some (e.1 u m)) ∧
    (∀ (k : Fin 8), ∀ e ∈ [((.xaCmpEq : IntUnit → Fin 8 → Trig → Instr), 0), (.xaCmpNe, 1), (.xaCmpLt, 2), (.xaCmpLe, 3), (.xaCmpLtu, 4), (.xaCmpLeu, 5),
        (.xaTst, 6)], decOp u.sock (BitVec.ofNat 12 (0x200 + 8 * e.2 + k.val)) m = some (e.1 u k m)) ∧
    ∀ n : Fin 16, decOp u.sock (BitVec.ofNat 12 (0x300 + n.val)) m = some (.xaSel u n m)
/-! ### Address generator and handles (R204 to R212) -/

open Sys2Proof Sys2Proof.Machine in
/-- R199 to R203: every operation of `xa` and `xb` completes, with the value and the latency of its table, and changes nothing else. -/
def Obligations.IntegerOperationResults : Prop :=
  Sys2Proof.Claims.IntegerArithmeticResults ∧ Sys2Proof.Claims.IntegerLogicResults ∧ Sys2Proof.Claims.DivisionResults ∧ Sys2Proof.Claims.CompareResults ∧ Sys2Proof.Claims.SelectResult ∧ Sys2Proof.Claims.IntegerOpcodes

namespace Sys2Proof.Machine

/-- R204: `q0` from `o0`, `o1` and t; `tileid` is the agent's number. -/
def agAddress : List ((Trig → Instr) × (Nat → Word → Word → Word → Word)) :=
  [(.agLea, fun _ a b t => BitVec.ofNat 32 (a.toNat + t.toNat * 2 ^ (b.toNat % 8))),
   (.agGaddr, fun _ a _ t => ((a &&& 0x7FF#32) >>> 9 <<< 30) ||| ((a &&& 511#32) <<< 21) ||| (t &&& 0x1FFFFF#32)),
   (.agTileid, fun n _ _ _ => BitVec.ofNat 32 n),
   (.agHome, fun _ _ _ t => BitVec.ofNat 32 (t.toNat / 2 ^ 30 * 512 + t.toNat / 2 ^ 21 % 512 + t.toNat / 2 ^ 16 % 32 * 2 ^ 16)),
   (.agWrap, fun _ a b t => BitVec.ofNat 32 (if b = 0 then a.toNat + t.toNat else (a.toNat + t.toNat) % b.toNat))]

/-- A handle that may be used in one of the roles (R206, R212): its number is below 16, it is valid, and none of its fields breaks R207. -/
def HandleUsable (s : State) (t : Word) (roles : List Nat) : Prop :=
  t.toNat < 16 ∧ (let h := hReg s s.cur.a t.toNat
    hValid h = true ∧ hRole h ∈ roles ∧ hRole h ≠ 3 ∧ 6 ≤ hLsize h ∧ hLsize h ≤ 20 ∧ hBase h % 64 = 0 ∧ inData (hBase h) (2 ^ hLsize h) = true)

/-- The handle that t[3:0] names. -/
def handleAt (s : State) (m : Trig) : BitVec 128 := hReg s s.cur.a (tVal s m).toNat

end Sys2Proof.Machine

open Sys2Proof Sys2Proof.Machine in
/-- R204: each address operation completes with its result due in `q0` one cycle later, and nothing else changes. -/
def Sys2Proof.Claims.AddressResults : Prop :=
  ∀ e ∈ agAddress, ∀ (m : Trig) (s : State), Ready s m → Free s .ag 0x20 1 →
    ∃ t, exec (e.1 m) s = .next t ∧
      ResultDue s t s.cur.a .ag 0x20 (s.now + 1) (rowOf (e.2 s.cur.a (oVal s .ag 0) (oVal s .ag 1) (tVal s m))) ∧ OnlyComputes s t

open Sys2Proof Sys2Proof.Machine in
/-- R205: `step` completes: it delivers `o0` and then adds `o1` to it; every other port and every latch value stay. -/
def Sys2Proof.Claims.StepAddsStrideToItsPort : Prop :=
  ∀ (m : Trig) (s : State), Ready s m → Free s .ag 0x20 1 →
    ∃ t, exec (.agStep m) s = .next t ∧ ResultDue s t s.cur.a .ag 0x20 (s.now + 1) (rowOf (oVal s .ag 0)) ∧
      portW t s.cur.a .ag 0 = oVal s .ag 0 + oVal s .ag 1 ∧
      (∀ u c, pk u c ≠ pk .ag 0 → portR t s.cur.a u c = portR s s.cur.a u c) ∧
      (∀ u c, (latchOf t s.cur.a u c).val = (latchOf s s.cur.a u c).val) ∧ Undisturbed s t

open Sys2Proof Sys2Proof.Machine in
/-- R207: `cb.init` completes on legal operands: the handle is valid with its fields from `o0` and `o1` and both positions zero, `q0` is
zero, and the other registers and memory stay. -/
def Sys2Proof.Claims.HandleInitialises : Prop :=
  ∀ (m : Trig) (s : State), Ready s m → Free s .ag 0x20 1 →
    let n := (tVal s m).toNat
    let base := (oVal s .ag 0).toNat
    let o := (oVal s .ag 1).toNat
    n < 16 → base % 64 = 0 → 6 ≤ o % 32 → o % 32 ≤ 20 → o / 2 ^ 5 % 4 ≠ 3 → o / 2 ^ 26 = 0 → inData base (2 ^ (o % 32)) = true →
    ∃ t, exec (.agCbInit m) s = .next t ∧ ResultDue s t s.cur.a .ag 0x20 (s.now + 1) (rowOf 0) ∧
      (let h := hReg t s.cur.a n
       hValid h = true ∧ hBase h = base ∧ hLsize h = o % 32 ∧ hRole h = o / 2 ^ 5 % 4 ∧ hCls h = o / 2 ^ 7 % 8 ∧
       hPeer h = o / 2 ^ 10 % 2 ^ 12 ∧ hPhandle h = o / 2 ^ 22 % 16 ∧ hProd h = 0 ∧ hCons h = 0) ∧
      (∀ k, k ≠ n → hReg t s.cur.a k = hReg s s.cur.a k) ∧
      (bk t s.cur.a).g = (bk s s.cur.a).g ∧ (bk t s.cur.a).p = (bk s s.cur.a).p ∧ (bk t s.cur.a).v = (bk s s.cur.a).v ∧
      (bk t s.cur.a).m = (bk s s.cur.a).m ∧ (bk t s.cur.a).c = (bk s s.cur.a).c ∧ SameMemory s t ∧ SameValues s t s.cur.a ∧
      ∀ b, b ≠ s.cur.a → ag t b = ag s b

open Sys2Proof Sys2Proof.Machine in
/-- R209: `cb.wait` and `cb.room` complete once n bytes are filled, or there is room for them: `q0` is the address of the position. -/
def Sys2Proof.Claims.HandleWaitsDeliverAddresses : Prop :=
  ∀ (m : Trig) (s : State), Ready s m → Free s .ag 0x20 1 →
    let h := handleAt s m
    let n := (oVal s .ag 0).toNat
    (HandleUsable s (tVal s m) [0, 2] → n ≤ 2 ^ hLsize h → n ≤ (hProd h - hCons h).toNat →
      ∃ t, exec (.agCbWait m) s = .next t ∧
        ResultDue s t s.cur.a .ag 0x20 (s.now + 1) (rowOf (BitVec.ofNat 32 (hBase h + (hCons h).toNat % 2 ^ hLsize h))) ∧ OnlyComputes s t) ∧
    (HandleUsable s (tVal s m) [0, 1] → n ≤ 2 ^ hLsize h → n + (hProd h - hCons h).toNat ≤ 2 ^ hLsize h →
      ∃ t, exec (.agCbRoom m) s = .next t ∧
        ResultDue s t s.cur.a .ag 0x20 (s.now + 1) (rowOf (BitVec.ofNat 32 (hBase h + (hProd h).toNat % 2 ^ hLsize h))) ∧ OnlyComputes s t)

open Sys2Proof Sys2Proof.Machine in
/-- R209: `cb.wait` on a handle with fewer than n bytes filled, and `cb.room` on one with room for fewer than n, hold their bundle: the cycle
counts as a handle wait, and the bundle is tried again in the next cycle. -/
def Sys2Proof.Claims.HandleWaitHolds : Prop :=
  ∀ (m : Trig) (s : State), Ready s m →
    let h := handleAt s m
    let n := (oVal s .ag 0).toNat
    let filled := (hProd h - hCons h).toNat
    (HandleUsable s (tVal s m) [0, 2] → n ≤ 2 ^ hLsize h → filled < n → exec (.agCbWait m) s = .next (holdCycle s s.cur.a .handle)) ∧
    (HandleUsable s (tVal s m) [0, 1] → n ≤ 2 ^ hLsize h → filled ≤ 2 ^ hLsize h → 2 ^ hLsize h < n + filled →
      exec (.agCbRoom m) s = .next (holdCycle s s.cur.a .handle))

open Sys2Proof Sys2Proof.Machine in
/-- R211: `cb.pos`, `cb.posp` and `cb.fill` complete with `cons`, `prod` and the bytes filled, and change nothing else. -/
def Sys2Proof.Claims.HandleReads : Prop :=
  ∀ (m : Trig) (s : State), Ready s m → Free s .ag 0x20 1 → HandleUsable s (tVal s m) [0, 1, 2] →
    ∀ e ∈ [((.agCbPos : Trig → Instr), hCons (handleAt s m)), (.agCbPosp, hProd (handleAt s m)),
      (.agCbFill, hProd (handleAt s m) - hCons (handleAt s m))],
    ∃ t, exec (e.1 m) s = .next t ∧ ResultDue s t s.cur.a .ag 0x20 (s.now + 1) (rowOf e.2) ∧ OnlyComputes s t

open Sys2Proof Sys2Proof.Machine in
/-- R210: `cb.advp` and `cb.advc` complete when n fits and no earlier access of the handle's class is outstanding: the position moves by n,
`q0` is the new position, the update sets out for the peer of a handle with one, and the other handles, the other registers and memory
stay. A step that journals its pushes also writes a record (R121), and one that is restarted checks them (R123); the statement is about
the others. -/
def Sys2Proof.Claims.HandleAdvances : Prop :=
  ∀ (m : Trig) (s : State), Ready s m → Free s .ag 0x20 1 → stepJournals s (stepOf s s.cur.a) = false →
    restartEffect s s.cur.a 0x2A (objSram (hBase (handleAt s m))) = .fresh →
    let a := s.cur.a
    let h := handleAt s m
    let n := oVal s .ag 0
    let peer : Nat := hPeer h
    let ph : Fin 16 := ⟨hPhandle h % 16, Nat.mod_lt _ (by decide)⟩
    let frame : State → Prop := fun t => (∀ k, k ≠ (tVal s m).toNat → hReg t a k = hReg s a k) ∧ (bk t a).g = (bk s a).g ∧
      (bk t a).p = (bk s a).p ∧ (bk t a).v = (bk s a).v ∧ (bk t a).m = (bk s a).m ∧ (bk t a).c = (bk s a).c ∧ SameMemory s t ∧
      ∀ b, b ≠ a → ag t b = ag s b
    (HandleUsable s (tVal s m) [0, 1] → n.toNat + (hProd h - hCons h).toNat ≤ 2 ^ hLsize h →
      classPending s a (hCls h) true = false →
      ∃ t, exec (.agCbAdvp m) s = .next t ∧ ResultDue s t a .ag 0x20 (s.now + 1) (rowOf (hProd h + n)) ∧
        hReg t a (tVal s m).toNat = setHProd h (hProd h + n) ∧
        (hRole h = 1 → ∃ c, s.now < c ∧ Comes t c .handleUpdateArrival (.handle peer ph true (hProd h + n))) ∧ frame t) ∧
    (HandleUsable s (tVal s m) [0, 2] → n.toNat ≤ (hProd h - hCons h).toNat → classPending s a (hCls h) false = false →
      ∃ t, exec (.agCbAdvc m) s = .next t ∧ ResultDue s t a .ag 0x20 (s.now + 1) (rowOf (hCons h + n)) ∧
        hReg t a (tVal s m).toNat = setHCons h (hCons h + n) ∧
        (hRole h = 2 → ∃ c, s.now < c ∧ Comes t c .handleUpdateArrival (.handle peer ph false (hCons h + n))) ∧ frame t)

open Sys2Proof Sys2Proof.Machine in
/-- R206, R207, R209, R210, R212: the faults of the handle operations, at the trigger: 0x2A for a handle number above 15, a malformed handle and
illegal operands of `cb.init`; 0x28 for a handle that is not valid, or of the wrong role; 0x29 for a count that can never fit. -/
def Sys2Proof.Claims.HandleFaults : Prop :=
  ∀ (m : Trig) (s : State), Ready s m →
    let a := s.cur.a
    let t := (tVal s m).toNat
    let n := (oVal s .ag 0).toNat
    let o := (oVal s .ag 1).toNat
    let h := handleAt s m
    let faults : Instr → Nat → Prop := fun i c => exec i s = .next (syncFault s a c s.cur.slot none)
    let broken : Prop := hRole h = 3 ∨ hLsize h < 6 ∨ 20 < hLsize h ∨ hBase h % 64 ≠ 0 ∨ inData (hBase h) (2 ^ hLsize h) = false
    (∀ e ∈ [((.agCbWait : Trig → Instr), [0, 2]), (.agCbRoom, [0, 1]), (.agCbAdvp, [0, 1]), (.agCbAdvc, [0, 2]), (.agCbPos, [0, 1, 2]),
        (.agCbPosp, [0, 1, 2]), (.agCbFill, [0, 1, 2])],
      (16 ≤ t → faults (e.1 m) 0x2A) ∧
      (t < 16 → hValid h = false → faults (e.1 m) 0x28) ∧
      (t < 16 → hValid h = true → broken → faults (e.1 m) 0x2A) ∧
      (t < 16 → hValid h = true → ¬broken → hRole h ∉ e.2 → faults (e.1 m) 0x28)) ∧
    (HandleUsable s (tVal s m) [0, 2] → 2 ^ hLsize h < n → faults (.agCbWait m) 0x29) ∧
    (HandleUsable s (tVal s m) [0, 1] → 2 ^ hLsize h < n → faults (.agCbRoom m) 0x29) ∧
    (HandleUsable s (tVal s m) [0, 1] → (hProd h - hCons h).toNat ≤ 2 ^ hLsize h → 2 ^ hLsize h < n + (hProd h - hCons h).toNat →
      faults (.agCbAdvp m) 0x29) ∧
    (HandleUsable s (tVal s m) [0, 2] → (hProd h - hCons h).toNat < n → faults (.agCbAdvc m) 0x29) ∧
    (16 ≤ t ∨ n % 64 ≠ 0 ∨ o % 32 < 6 ∨ 20 < o % 32 ∨ o / 2 ^ 5 % 4 = 3 ∨ o / 2 ^ 26 ≠ 0 ∨ inData n (2 ^ (o % 32)) = false → faults (.agCbInit m) 0x2A)

open Sys2Proof Sys2Proof.Machine in
/-- R206, R207, R209, R210, R212: `cb.wait` and `cb.room` deliver their address, or hold their bundle until they may; and the faults of the handle operations. -/
def Obligations.HandleWaitsAndFaults : Prop :=
  Sys2Proof.Claims.HandleWaitsDeliverAddresses ∧ Sys2Proof.Claims.HandleWaitHolds ∧ Sys2Proof.Claims.HandleFaults

open Sys2Proof Sys2Proof.Machine in
/-- R204: the opcodes of the address operations, as the decoder reads them. -/
def Sys2Proof.Claims.AddressOpcodes : Prop :=
  ∀ m : Trig, ∀ e ∈ [((.agLea : Trig → Instr), 0x001#12), (.agGaddr, 0x002), (.agTileid, 0x003), (.agHome, 0x004), (.agStep, 0x005), (.agWrap, 0x006)],
    decOp .ag e.2 m = some (e.1 m)

open Sys2Proof Sys2Proof.Machine in
/-- R204: the address operations of `ag` complete with their values, and `step` also adds its stride to its port. -/
def Obligations.AddressOperationResults : Prop :=
  Sys2Proof.Claims.AddressResults ∧ Sys2Proof.Claims.StepAddsStrideToItsPort ∧ Sys2Proof.Claims.AddressOpcodes

open Sys2Proof Sys2Proof.Machine in
/-- R207, R209 to R211: the opcodes of the handle operations, as the decoder reads them. -/
def Sys2Proof.Claims.HandleOpcodes : Prop :=
  ∀ m : Trig, ∀ e ∈ [((.agCbInit : Trig → Instr), 0x010#12), (.agCbWait, 0x011), (.agCbRoom, 0x012), (.agCbAdvp, 0x013), (.agCbAdvc, 0x014),
    (.agCbPos, 0x015), (.agCbPosp, 0x016), (.agCbFill, 0x017)], decOp .ag e.2 m = some (e.1 m)
/-! ### Sequencer (R181 to R196) -/

open Sys2Proof Sys2Proof.Machine in
/-- R207, R210, R211: `cb.init`, the handle reads and the advances complete with the positions that the rules give. -/
def Obligations.HandleOperations : Prop :=
  Sys2Proof.Claims.HandleInitialises ∧ Sys2Proof.Claims.HandleReads ∧ Sys2Proof.Claims.HandleAdvances ∧ Sys2Proof.Claims.HandleOpcodes

namespace Sys2Proof.Machine

/-- A branch to `t` waits for two further bundles (R183). -/
def joinQueue (t : Int) (swap : Bool) (q : Seq) : Seq := { q with newq := q.newq ++ [⟨BitVec.ofInt 16 t, 2, swap⟩] }

/-- A request that takes effect after the bundle's hold cycles. -/
def requests (x : After) (q : Seq) : Seq := { q with after := x :: q.after }

/-- A target lies within the code, or in a scene within the scene (R182, R156). -/
def InCode (s : State) (a : Nat) (t : Int) : Prop :=
  0 ≤ t ∧ match (bk s a).q.scene with
    | some f => t < sceneLen s a f
    | none => t < codeLimit (bk s a)

/-- The branch of the queue that falls due as a bundle completes (R183). -/
def dueBranch (q : Seq) : Option BrEntry := q.bq.find? fun e => e.left - 1 = 0

/-- The mark of the bundle in issue loops back (R188). -/
def loopsBack (q : Seq) : Bool := q.lend ≠ 0 && decide ((loopOf q (q.lend - 1)).idx.toNat + 1 < (loopOf q (q.lend - 1)).cnt.toNat)

/-- The macro bundle after the present one (R183, R187, R188). -/
def successor (q : Seq) : Nat :=
  match dueBranch q with
  | some e => if e.swap then e.target.toNat % 512 else e.target.toNat
  | none => if loopsBack q then (loopOf q (q.lend - 1)).start.toNat else q.pc.toNat + 1

end Sys2Proof.Machine

open Sys2Proof Sys2Proof.Machine in
/-- R183, R185 to R187: a branch whose target lies within the code, or within its scene, completes, in every bundle but a scene's last (R197): its target
joins the branch queue with two bundles to go. `call` and `callx` also deliver b + 3 and raise the call depth, and `ret` lowers it; `brswap` joins as a swap. -/
def Sys2Proof.Claims.BranchesJoinTheQueue : Prop :=
  ∀ (m : Trig) (s : State), Ready s m → Free s .sq 0x20 1 → swapQueued (bk s s.cur.a).q = false →
    endsScene (bk s s.cur.a).q s.cur.hdr = false →
    let a := s.cur.a
    let q := (bk s a).q
    let t : Nat := (tVal s m).toNat % 2 ^ 16
    let back : Int := bIndex q + (BitVec.ofNat 16 t).toInt
    let linked : Instr → Prop := fun i => ∃ u, exec i s = .next u ∧ ResultDue s u a .sq 0x20 (s.now + 1) (rowOf (BitVec.ofNat 32 (q.pc.toNat + 3))) ∧
      OnlySequences s u fun q => joinQueue t false { q with cdepth := q.cdepth + 1 }
    (InCode s a t → ∃ u, exec (.sqBr m) s = .next u ∧ OnlySequences s u (joinQueue t false)) ∧
    (InCode s a back → ∃ u, exec (.sqBrr m) s = .next u ∧ OnlySequences s u (joinQueue back false)) ∧
    (InCode s a t → q.scene = none → q.cdepth ≠ 255 → linked (.sqCall m) ∧
      ((t, (oVal s .sq 0).toNat % 256) ∈ q.entries → linked (.sqCallx m))) ∧
    (InCode s a t → q.scene = none → q.cdepth ≠ 0 →
      ∃ u, exec (.sqRet m) s = .next u ∧ OnlySequences s u fun q => joinQueue t false { q with cdepth := q.cdepth - 1 }) ∧
    (q.imode = 1 → (tVal s m).extractLsb' 9 7 = 0 → ∃ u, exec (.sqBrswap m) s = .next u ∧ OnlySequences s u (joinQueue t true))

open Sys2Proof Sys2Proof.Machine in
/-- R185 to R187, R197: the faults of the branch class: a target outside the code or the scene, a call depth that cannot rise or fall, an
entry that the table lacks, a call or a return in a scene, and a second branch beside a queued swap. The bundle does not issue, and the fault
is recorded with the trigger's slot. Where several of them apply, R185 does not say which one is reported: that it is the lowest, and 0x25 for
a call or a return in a scene, is the model's choice (log 20). -/
def Sys2Proof.Claims.BranchFaults : Prop :=
  ∀ (m : Trig) (s : State), Ready s m →
    let a := s.cur.a
    let q := (bk s a).q
    let t : Nat := (tVal s m).toNat % 2 ^ 16
    let back : Int := bIndex q + (BitVec.ofNat 16 t).toInt
    let faults : Instr → Nat → Prop := fun i c => exec i s = .next (syncFault s a c s.cur.slot none)
    (¬ InCode s a t → faults (.sqBr m) (if q.scene.isSome then 0x21 else 0x25)) ∧
    (¬ InCode s a back → faults (.sqBrr m) (if q.scene.isSome then 0x21 else 0x25)) ∧
    (endsScene q s.cur.hdr = true → faults (.sqBr m) 0x21 ∧ faults (.sqBrr m) 0x21) ∧
    (q.scene = none → q.cdepth = 255 → faults (.sqCall m) 0x24 ∧ faults (.sqCallx m) 0x24) ∧
    (q.scene = none → q.cdepth = 0 → faults (.sqRet m) 0x24) ∧
    (q.scene = none → ¬ InCode s a t → (q.cdepth ≠ 255 → faults (.sqCall m) 0x25 ∧ faults (.sqCallx m) 0x25) ∧ (q.cdepth ≠ 0 → faults (.sqRet m) 0x25)) ∧
    (q.scene = none → swapQueued q = false → InCode s a t → q.cdepth ≠ 255 → (t, (oVal s .sq 0).toNat % 256) ∉ q.entries → faults (.sqCallx m) 0x26) ∧
    (q.scene.isSome → faults (.sqCall m) 0x25 ∧ faults (.sqCallx m) 0x25 ∧ faults (.sqRet m) 0x25) ∧
    (q.imode ≠ 1 → swapQueued q = false → (tVal s m).extractLsb' 9 7 = 0 → faults (.sqBrswap m) 0x27) ∧
    (q.imode = 1 → (tVal s m).extractLsb' 9 7 ≠ 0 → faults (.sqBrswap m) 0x25) ∧
    (swapQueued q = true → faults (.sqBr m) 0x25 ∧ faults (.sqBrr m) 0x25 ∧ faults (.sqBrswap m) 0x25 ∧
      (q.cdepth ≠ 255 → faults (.sqCall m) 0x25 ∧ faults (.sqCallx m) 0x25) ∧ (q.cdepth ≠ 0 → faults (.sqRet m) 0x25))

open Sys2Proof Sys2Proof.Machine in
/-- R183, R185 to R187, R197: the branch class joins the queue, or faults under an illegal target or depth, a missing entry, in a scene, or
beside a queued swap; the order among these causes is log 20's. -/
def Obligations.BranchesJoinOrFault : Prop :=
  Sys2Proof.Claims.BranchesJoinTheQueue ∧ Sys2Proof.Claims.BranchFaults

open Sys2Proof Sys2Proof.Machine in
/-- R189 to R191: `sq.loop` opens a level at the present depth, or for a count of zero goes on after the body's end; `sq.lbrk` pops the
innermost opened level and branches past its body; `sq.lidx` delivers the field or the depth, and writes it where asked to. That a popped
level keeps what it held and that a body start is written with 16 bits are the model's choices (log 169), and so is the target past a body that
ends with bundle 0xFFFF (log 193). -/
def Sys2Proof.Claims.LoopStackOperations : Prop :=
  ∀ (m : Trig) (s : State), Ready s m → Free s .sq 0x20 1 → (header s.cur.hdr).lend = 0 →
    let a := s.cur.a
    let q := (bk s a).q
    let t := tVal s m
    let o := oVal s .sq 0
    let stop := (o.toNat % 2 ^ 16)
    (q.depth < 6 → t ≠ 0 → ∃ u, exec (.sqLoop m) s = .next u ∧ OnlySequences s u fun q =>
      { q with loops := kset {} q.loops q.depth ⟨0, t, BitVec.ofNat 32 (bIndex q + 1), BitVec.ofNat 16 stop, false⟩, depth := q.depth + 1 }) ∧
    (q.depth < 6 → t = 0 → (∀ f, q.scene = some f → stop + 1 < sceneLen s a f) →
      ∃ u, exec (.sqLoop m) s = .next u ∧ OnlySequences s u (requests (.zeroTrip (stop + 1)))) ∧
    (q.depth ≠ 0 → (loopOf q (q.depth - 1)).fixed = false →
      let past := (loopOf q (q.depth - 1)).stop.toNat + 1
      (endsScene q s.cur.hdr = false → (∀ f, q.scene = some f → past < sceneLen s a f) → ∃ u, exec (.sqLbrk m) s = .next u ∧ OnlySequences s u fun q =>
        joinQueue past false { q with depth := q.depth - 1, popped := if q.scene.isSome then q.popped else q.popped ++ [(q.depth - 1, 3)] }) ∧
      (∀ f, q.scene = some f → sceneLen s a f ≤ past → exec (.sqLbrk m) s = .next (syncFault s a 0x21 s.cur.slot none))) ∧
    (let lv := o.toNat % 8
     let f := o.toNat / 2 ^ 4 % 4
     let sel := o.toNat / 2 ^ 6 % 4
     lv < 6 → (sel = 0 ∨ sel = 1 ∧ (o.getLsbD 8 = true → t.toNat ≤ 6)) → ∃ u, exec (.sqLidx m) s = .next u ∧
       ResultDue s u a .sq 0x20 (s.now + 1) (rowOf (if sel = 1 then BitVec.ofNat 32 q.depth else if lv < q.depth then loopField (loopOf q lv) f else 0)) ∧
       OnlySequences s u fun q => if o.getLsbD 8 = false then q
         else if sel = 1 then { q with depth := t.toNat }
         else { q with loops := kset {} q.loops lv (setLoopField (loopOf q lv) f t) })

open Sys2Proof Sys2Proof.Machine in
/-- R192 to R196: `sq.scene`, `sq.trap`, `sq.iret`, `sq.ifence` and `sq.halt` complete: their bundle issues, and what they ask for waits for
its hold cycles. -/
def Sys2Proof.Claims.SequencerRequests : Prop :=
  ∀ (m : Trig) (s : State), Ready s m → sockHeld s s.cur.a .sq = false →
    let a := s.cur.a
    let b := bk s a
    let t := tVal s m
    (∀ f, t.toNat < 64 → kget none b.q.scenes t.toNat = some f → ∃ u, exec (.sqScene m) s = .next u ∧ OnlySequences s u (requests (.scene f))) ∧
    (∃ u, exec (.sqTrap m) s = .next u ∧ OnlySequences s u (requests (.trap (0xC0 + t.toNat % 64) none s.cur.slot))) ∧
    (b.q.intrap = true → (b.q.xscenes.headD {}).scene = none → b.c.xpc.toNat % 2 ^ 16 < codeLimit b →
      (∀ w ∈ [b.c.xq0, b.c.xq1, b.c.xqm0, b.c.xqm1], w.getLsbD 31 = false) →
      ∃ u, exec (.sqIret m) s = .next u ∧ OnlySequences s u (requests .iret)) ∧
    (codeStores s a = false → ∃ u, exec (.sqIfence m) s = .next u ∧ OnlySequences s u fun q => requests .ifence { q with lines := [] }) ∧
    (∃ u, exec (.sqHalt m) s = .next u ∧ OnlySequences s u (requests .halt))

open Sys2Proof Sys2Proof.Machine in
/-- R189 to R196: the loop operations, and the requests that their bundle answers as it completes; a popped level's contents and the 16 bits of
a body start rest on log 169, and a target past bundle 0xFFFF on log 193. -/
def Obligations.LoopAndSequencerOperations : Prop :=
  Sys2Proof.Claims.LoopStackOperations ∧ Sys2Proof.Claims.SequencerRequests

open Sys2Proof Sys2Proof.Machine in
/-- R183, R187, R188: when a macro bundle that asks for nothing completes, the next bundle is the target of a branch that falls due, else the
body start of a level that loops back, else the following index; the other branches count down and the bundle's own join them, and a swap
flips the half and empties the queue. The tile comes to issue again in the next cycle, unless it was to come earlier. -/
def Obligations.BundleSuccession : Prop :=
  ∀ (s : State) (a : Nat) (r : Run), s.occ = .at a → (bk s a).run = some r → r.going = true →
    let q := (bk s a).q
    iterationPassed s a r = false → q.after = [] → q.scene = none → successor q < codeLimit (bk s a) →
    ∃ t, exec .bundleComplete s = .next t ∧ (bk t a).q.pc = BitVec.ofNat 16 (successor q) ∧
      (bk t a).q.scene = none ∧ (bk t a).q.newq = [] ∧
      (match dueBranch q with
        | some e => if e.swap then (bk t a).q.bq = [] ∧ (bk t a).q.half = !q.half
            else (bk t a).q.bq = ((q.bq.filter fun e => e.left - 1 ≠ 0).map fun e => { e with left := e.left - 1 }) ++ q.newq ∧ (bk t a).q.half = q.half
        | none => (bk t a).q.bq = (q.bq.map fun e => { e with left := e.left - 1 }) ++ q.newq ∧ (bk t a).q.half = q.half) ∧
      (loopsBack q = true → (bk t a).q.depth = q.depth ∧ (loopOf (bk t a).q (q.lend - 1)).idx = (loopOf q (q.lend - 1)).idx + 1 ∧
        ∀ k, k ≠ q.lend - 1 → loopOf (bk t a).q k = loopOf q k) ∧
      (q.lend ≠ 0 → loopsBack q = false → if (loopOf q (q.lend - 1)).fixed then (bk t a).q.depth = q.depth ∧ (loopOf (bk t a).q (q.lend - 1)).idx = 0
        else (bk t a).q.depth = q.lend - 1) ∧
      (q.lend = 0 → (bk t a).q.depth = q.depth ∧ (bk t a).q.loops = q.loops) ∧
      (ag t a).queued = true ∧ ((ag s a).queued = false → ⟨s.now + 1, priIssue, .issue a⟩ ∈ t.agenda) ∧
      ActsWithin s t a

open Sys2Proof Sys2Proof.Machine in
/-- R193: `sq.trap`'s trap is taken after its bundle: the control registers record it with the bundle that would have issued next as the
resume bundle, `intrap` is set, the queues are emptied, and the handler's first bundle is next. -/
def Sys2Proof.Claims.TrapIsTaken : Prop :=
  ∀ (s : State) (a : Nat) (r : Run) (c k : Nat) (ad : Option Word), s.occ = .at a → (bk s a).run = some r → r.going = true →
    unsaved s a = false → (ag s a).queued = false →
    let q := (bk s a).q
    iterationPassed s a r = false → q.after = [.trap c ad k] → q.scene = none → q.bound = false → successor q < codeLimit (bk s a) → q.bq = [] → c < 256 → k < 8 →
    ∃ t, exec .bundleComplete s = .next t ∧
      (let c' := (bk t a).c
       c'.xcause.toNat = c ∧ c'.xpc = (if q.half then 1#1 else 0#1) ++ BitVec.ofNat 16 (successor q) ∧ c'.xmpc = 0 ∧ c'.xslot.toNat = k ∧
       c'.xfpc = q.lastPc ∧ c'.xgtlo = BitVec.ofNat 32 (gtOf s) ∧ c'.xgthi = BitVec.ofNat 32 (gtOf s / 2 ^ 32) ∧
       c'.xq0 = encBr q.newq[0]? ∧ c'.xq1 = encBr q.newq[1]? ∧ c'.xqm0 = 0 ∧ c'.xqm1 = 0 ∧ c'.xaddr = ad.getD (bk s a).c.xaddr ∧
       c'.fumode = (bk s a).c.fumode ∧ c'.tvec = (bk s a).c.tvec ∧ c'.ien = (bk s a).c.ien ∧ c'.ipend = (bk s a).c.ipend ∧
       c'.mxcfg = (bk s a).c.mxcfg) ∧
      (bk t a).q.intrap = true ∧ (bk t a).q.bq = [] ∧ (bk t a).q.mq = [] ∧ (bk t a).q.pc = (bk s a).c.tvec.extractLsb' 0 16 ∧
      (bk t a).g = (bk s a).g ∧ (bk t a).p = (bk s a).p ∧ (bk t a).v = (bk s a).v ∧ (bk t a).m = (bk s a).m ∧ (bk t a).h = (bk s a).h ∧
      SameMemory s t ∧ (∀ b, b ≠ a → ag t b = ag s b) ∧ ⟨s.now + 1, priIssue, .issue a⟩ ∈ t.agenda

open Sys2Proof Sys2Proof.Machine in
/-- R194: `iret` takes effect after its bundle: `intrap` clears, the queue in effect is reloaded from `xq0` and `xq1`, what the handler left queued is
gone, and the resume bundle issues next; the loop stack and the call depth stay. That "next" is the cycle after the bundle's last is the model's
reading (log 15). -/
def Sys2Proof.Claims.ReturnFromHandler : Prop :=
  ∀ (s : State) (a : Nat) (r : Run), s.occ = .at a → (bk s a).run = some r → r.going = true → (ag s a).queued = false →
    let q := (bk s a).q
    iterationPassed s a r = false → q.after = [.iret] → q.scene = none → q.bound = false → q.lend = 0 → dueBranch q = none → q.pc.toNat + 1 < codeLimit (bk s a) →
    (q.xscenes.headD {}).scene = none →
    ∃ t, exec .bundleComplete s = .next t ∧
      (bk t a).q.intrap = false ∧ (bk t a).q.bq = (decBr (bk s a).c.xq0).toList ++ (decBr (bk s a).c.xq1).toList ∧
      (bk t a).q.pc = (bk s a).c.xpc.extractLsb' 0 16 ∧ (bk t a).q.depth = q.depth ∧ (bk t a).q.loops = q.loops ∧
      (bk t a).q.cdepth = q.cdepth ∧ SameRegs s t a ∧ SameMemory s t ∧ (∀ b, b ≠ a → ag t b = ag s b) ∧
      ⟨s.now + 1, priIssue, .issue a⟩ ∈ t.agenda

open Sys2Proof Sys2Proof.Machine in
/-- R196: the step reaches Done when the halt bundle's last cycle completes, unless its iteration has passed its maximum (R38), a refusal has come (R216)
or a hold keeps the bundle (R316): its branch queue is discarded with its bank, memory stays, and its launch counts one more step done. -/
def Sys2Proof.Claims.HaltEndsTheStep : Prop :=
  ∀ (s : State) (a : Nat) (r : Run) (x : StepRec), s.occ = .at a → (bk s a).run = some r → r.going = true →
    (bk s a).q.after.contains .halt = true → stepRec s r.key = some x → x.booking = none → x.restartable = false → isFaulted s r.key = false →
    iterationPassed s a r = false → (bk s a).dfaults = [] → postHolds (bk s a).wait = false → spawnHeld s a = false →
    ∃ t, exec .bundleComplete s = .next t ∧ (stepRec t r.key).map (·.st) = some .done ∧ (bk t a).run = none ∧ (bk t a).q.bq = [] ∧
      (∀ l, r.key.task = false → launchAt s r.key.pos = some l → ∃ l' ∈ t.launches, l'.id = l.id ∧ l'.doneSteps = l.doneSteps + 1) ∧
      SameMemory s t ∧ ∀ b, b ≠ a → ag t b = ag s b

open Sys2Proof Sys2Proof.Machine in
/-- R193, R194, R196: a trap enters the handler, `iret` returns from it, in the cycle after its bundle (log 15), and a halt ends the step. -/
def Obligations.TrapsAndReturns : Prop :=
  Sys2Proof.Claims.TrapIsTaken ∧ Sys2Proof.Claims.ReturnFromHandler ∧ Sys2Proof.Claims.HaltEndsTheStep

/-! ### Memory operations and what their homes do (R213 to R225) -/

namespace Sys2Proof.Machine

/-- The address of an `ls` operation: (`o0` + t) mod 2^32 (R213). -/
def lsTarget (s : State) (m : Trig) : Nat := (oVal s .ls 0 + tVal s m).toNat

/-- An `ls` operation of class `cls` may leave a tile: the step is unbooked, the socket and its latch have room for `k` results, and no acquire or
fence holds the class (R87, R91, R147). -/
def LsReady (s : State) (m : Trig) (cls k : Nat) : Prop :=
  Ready s m ∧ isTile s.cur.a = true ∧ isBooked s s.cur.a = false ∧ Free s .ls 0x20 k ∧ accessHeld s s.cur.a cls = false

/-- When an access that sets out in cycle `start` is performed at `p`, and whether that is promised: 4 cycles later in the tile's own banks, 8 within its
cluster, else at a free time (R214); and no earlier than accesses of the tile that it may not pass (R81). -/
def ReachesBanks (s : State) (addr : Nat) (keys : List Nat) (cls start p : Nat) (fixed : Bool) : Prop :=
  let ord := orderedFrom s s.cur.a cls keys
  ord ≤ p ∧
  (addrTile addr = s.cur.a → fixed = true ∧ p = max (start + 4) ord) ∧
  (addrTile addr ≠ s.cur.a → tileCluster (addrTile addr) = tileCluster s.cur.a → fixed = true ∧ p = max (start + 8) ord) ∧
  (tileCluster (addrTile addr) ≠ tileCluster s.cur.a → fixed = false ∧ start + 8 + transit s.cur.a (addrTile addr) < p)

/-- So, of `n` bytes of SRAM. -/
def Reaches (s : State) (addr n cls start p : Nat) (fixed : Bool) : Prop :=
  ReachesBanks s addr [bankKey addr, bankKey (addr + n - 1)] cls start p fixed

/-- Results `0` to `k - 1` of operation `id` are on their way to `ls.q0`: one cycle after another from `p + extra` on where the cycle of the performance is
promised, else undated (R214, R215). -/
def Awaits (t : State) (a id p extra k : Nat) (fixed : Bool) : Prop :=
  ∀ j, j < k → ∃ f ∈ (bk t a).x.flights, f.u = .ls ∧ f.code = 0x20 ∧ f.id = id ∧ f.pre = false ∧ f.due = if fixed then some (p + extra + j) else none

/-- What an operation that sends an access out leaves as it was: all memory, every register, port and latch value, the sequencer's place, the other
agents, and all of the device but the agenda and the counters of operations and free values. -/
def OnlySendsOut (s t : State) : Prop :=
  { t with agents := s.agents, agenda := s.agenda, free := s.free, seq := s.seq } = s ∧ SameMemory s t ∧ SameRegs s t s.cur.a ∧ SameValues s t s.cur.a ∧
  seqPlace (bk t s.cur.a).q = seqPlace (bk s s.cur.a).q ∧ (∀ b, b ≠ s.cur.a → ag t b = ag s b) ∧ (ag t s.cur.a).wings = (ag s s.cur.a).wings

/-- The access that a load or store sends to its home. -/
def sentAccess (s : State) (addr cls : Nat) (op : AccOp) (data : Row) (fixed : Bool) : Occ :=
  .access { id := s.seq, agent := s.cur.a, slot := slotOf s s.cur.a, op := op, cls := cls, loc := .sram addr, data := data, fixed := fixed,
            org := orgOf s s.cur.a s.cur.slot, step := stepOf s s.cur.a }

/-- The synchronisation operation that `ls` sends to its home, with `o1` and `o2`. -/
def sentSync (s : State) (addr cls : Nat) (fixed : Bool) : SyncOp :=
  { id := s.seq, agent := s.cur.a, issuer := s.cur.a, slot := slotOf s s.cur.a, cls := cls, loc := .sram addr, a := oVal s .ls 1, b := oVal s .ls 2,
    fixed := fixed, org := orgOf s s.cur.a s.cur.slot, step := stepOf s s.cur.a, pb := pbOf s s.cur.a, eff := none }

/-- R218: the loads, with their size and whether they extend the sign. -/
def lsLoads : List ((Fin 8 → Trig → Instr) × Nat × Bool) :=
  [(.lsLdB, 1, true), (.lsLdBz, 1, false), (.lsLdH, 2, true), (.lsLdHz, 2, false), (.lsLdW, 4, false)]

def lsStores : List ((Fin 8 → Trig → Instr) × Nat) := [(.lsStB, 1), (.lsStH, 2), (.lsStW, 4)]

/-- R219: the atomics. -/
def lsAtomics : List ((Fin 8 → Trig → Instr) × Amo) :=
  [(.lsAmoAdd, .add), (.lsAmoAnd, .and), (.lsAmoOr, .or), (.lsAmoXor, .xor), (.lsAmoMin, .min), (.lsAmoMax, .max), (.lsAmoMinu, .minu),
   (.lsAmoMaxu, .maxu), (.lsAmoSwap, .swap), (.lsAmoCas, .cas), (.lsAmoFadd, .fadd), (.lsAmoChunk, .chunk)]

/-- Nothing of an event is logged: the Prompt Book of its slot is off, or the launch neither records nor replays (R110). -/
def NotLogged (s : State) (slot mode : Nat) : Prop := pbEnabled s slot = false ∨ (mode ≠ 1 ∧ mode ≠ 2)

/-- No array holds an error that a reader would meet first (R390). -/
def NoErrors (s : State) : Prop := s.flaws = [] ∧ s.hflaws = []

/-- Operation `id` may be performed at its home now: no earlier access of its tile comes first there (R81), no other step keeps its bank or its way (R66), a bank
that is not promised to it has performed nothing in this cycle (R79), and none of its uses has overrun its step's booking (R241). -/
def HomeFree (s : State) (a id : Nat) (k : StepKey) (l : Loc) (fixed : Bool) : Prop :=
  homeHold s a id k (locRids l 1 ++ wayRids a l fixed) [locKey l] (locBanks l 1) = none ∧ opVoid s a id k ((locRids l 1).map fun r => (r, s.now)) = false

/-- It may, and nothing refuses `n` bytes there (R216). -/
def AtHome (s : State) (a id : Nat) (k : StepKey) (slot : Nat) (l : Loc) (n : Nat) (reads fixed : Bool) : Prop :=
  HomeFree s a id k l fixed ∧ locCause s slot l n reads = none

/-- A packet that fills `lines` is delivered now: no earlier operation of its tile comes first there, no other step keeps a bank or, unbooked, its way (R66), no bank that it fills has
performed an access in this cycle (R79), and none of its uses has overrun (R241). -/
def Lands (s : State) (p : Pkt) (lines : List Nat) : Prop :=
  let booked := stepBooked s p.agent p.step
  let rids := (lines.flatMap bankRid).eraseDups
  let keys := (lines.map bankKey).eraseDups
  pktBehind s p = false ∧
  homeHold s p.agent p.id p.step (rids ++ if booked then [] else (pktWay p).map (·.1)) keys (lines.flatMap turnKey).eraseDups = none ∧
  opVoid s p.agent p.id p.step (lineUses s.now lines) = false

/-- What `n` bytes hold of an SRAM address on, little-endian (R3), and that every byte that is not one of them, as pairs map them (R103), reads as before. -/
def Stored (s t : State) (addr n v : Nat) : Prop :=
  loadN t addr n = v % 256 ^ n ∧
  ∀ x, (∀ k, k < n → frontAddr s x % 2 ^ 32 ≠ frontAddr s (addr + k) % 2 ^ 32) → readByte t x = readByte s x

/-- No byte of an access falls into the reserved range, whose writes are ignored (R16), and pairs map no two of its bytes to one. -/
def Plain (s : State) (addr n : Nat) : Prop :=
  (∀ k, k < n → offReserved (addrOff (frontAddr s (addr + k))) = false) ∧
  ∀ j k, j < k → k < n → frontAddr s (addr + j) % 2 ^ 32 ≠ frontAddr s (addr + k) % 2 ^ 32

/-- A result of operation `id` on its way. -/
def resultsOf (s : State) (a id : Nat) : List Row := ((bk s a).x.flights.filter fun f => f.id == id).map (·.val)

end Sys2Proof.Machine

open Sys2Proof Sys2Proof.Machine in
/-- R213, R214, R218: a load or store of a tile whose address is mapped and aligned completes: its access sets out for its home with the class, the step
and the slot, a load's result follows, and nothing else changes. The cycle in which the home performs it is the model's reading (log 28). -/
def Sys2Proof.Claims.LoadsAndStoresSetOut : Prop :=
  (∀ e ∈ lsLoads, ∀ (cls : Fin 8) (m : Trig) (s : State), LsReady s m cls.val 1 →
    let addr := lsTarget s m
    allMapped addr e.2.1 = true → addr % e.2.1 = 0 →
    ∃ t p fixed, exec (e.1 cls m) s = .next t ∧ Reaches s addr e.2.1 cls.val s.now p fixed ∧
      Comes t p .homeAccess (sentAccess s addr cls.val (.load e.2.1 e.2.2) 0 fixed) ∧ Awaits t s.cur.a s.seq p 0 1 fixed ∧ OnlySendsOut s t) ∧
  ∀ e ∈ lsStores, ∀ (cls : Fin 8) (m : Trig) (s : State), LsReady s m cls.val 0 →
    let addr := lsTarget s m
    allMapped addr e.2 = true → addr % e.2 = 0 →
    ∃ t p fixed, exec (e.1 cls m) s = .next t ∧ Reaches s addr e.2 cls.val s.now p fixed ∧
      Comes t p .homeAccess (sentAccess s addr cls.val (.store e.2) (rowOf (oVal s .ls 1)) fixed) ∧ OnlySendsOut s t

open Sys2Proof Sys2Proof.Machine in
/-- R219 to R221: an atomic of a tile whose object lies aligned in data banks completes: it sets out with `o1` and `o2`, its results follow two cycles
after the performance, and nothing else changes. A step that journals its effects counts them besides (R121); the statement is about the others.
The cycle of the performance is the model's reading (log 28). -/
def Sys2Proof.Claims.AtomicsSetOut : Prop :=
  ∀ e ∈ lsAtomics, ∀ (cls : Fin 8) (m : Trig) (s : State), LsReady s m cls.val (if e.2 = .chunk then 2 else 1) →
    let addr := lsTarget s m
    let n := if e.2 = .chunk then 16 else 4
    inData addr n = true → addr % n = 0 → stepJournals s (stepOf s s.cur.a) = false → restartEffect s s.cur.a 0x28 (objSram addr) = .fresh →
    ∃ t p fixed, exec (e.1 cls m) s = .next t ∧ Reaches s addr n cls.val s.now p fixed ∧
      Comes t p .atomicAtHome (.amo e.2 { sentSync s addr cls.val fixed with ord := nextOrdinal s s.cur.a (slotOf s s.cur.a) }) ∧
      Awaits t s.cur.a s.seq p 2 (if e.2 = .chunk then 2 else 1) fixed ∧ OnlySendsOut s t

open Sys2Proof Sys2Proof.Machine in
/-- R87, R88, R91, R222 to R224: `acq`, `rel`, `fence` and the sync-word operations of a tile complete. `acq` holds its class from then on; `rel` and
`sw.add` leave no earlier than the accesses they release; `sw.wait` stops issue until its answer; a fence stands for the accesses it waits for. A
second `acq` and a `rel` hold while an acquire of the tile is not granted. The cycles of the performances are the model's reading (log 28). -/
def Obligations.SynchronisationSetsOut : Prop :=
  ∀ (cls : Fin 8) (m : Trig) (s : State), LsReady s m cls.val 4 → stepJournals s (stepOf s s.cur.a) = false →
    let a := s.cur.a
    let addr := lsTarget s m
    let op := sentSync s addr cls.val
    restartEffect s a 0x29 (objSram addr) = .fresh →
    (inData addr 8 = true → addr % 8 = 0 → (ag s a).acqs = [] →
      (∃ t p fixed, exec (.lsAcq cls m) s = .next t ∧ Reaches s addr 8 cls.val s.now p fixed ∧ Comes t p .lockAcquireAtHome (.sync (op fixed)) ∧
        (ag t a).acqs = [⟨s.seq, cls.val, addr⟩] ∧ OnlySendsOut s t) ∧
      ∃ t p fixed, exec (.lsRel cls m) s = .next t ∧ Reaches s addr 8 cls.val (releaseStart s a cls.val) p fixed ∧
        Comes t p .lockReleaseAtHome (.sync (op fixed)) ∧ OnlySendsOut s t) ∧
    (inData addr 8 = true → addr % 8 = 0 → (ag s a).acqs ≠ [] →
      exec (.lsAcq cls m) s = .next (holdCycle s a .lock) ∧ exec (.lsRel cls m) s = .next (holdCycle s a .lock)) ∧
    (inData addr 16 = true → addr % 16 = 0 →
      (∃ t p fixed, exec (.lsSwArm cls m) s = .next t ∧ Reaches s addr 16 cls.val s.now p fixed ∧ Comes t p .armAtHome (.sync (op fixed)) ∧ OnlySendsOut s t) ∧
      (∃ t p fixed, exec (.lsSwWait cls m) s = .next t ∧ Reaches s addr 16 cls.val s.now p fixed ∧ Comes t p .syncWaitReissue (.sync (op fixed)) ∧
        Awaits t a s.seq 0 0 1 false ∧ (bk t a).wait = .sync s.seq ∧ OnlySendsOut s t) ∧
      (∃ t p fixed, exec (.lsSwAdd cls m) s = .next t ∧ Reaches s addr 16 cls.val (releaseStart s a cls.val) p fixed ∧
        Comes t p .creditAtHome (.sync (op fixed)) ∧ Awaits t a s.seq p 2 1 fixed ∧ OnlySendsOut s t) ∧
      ∃ t p fixed, exec (.lsSwRead cls m) s = .next t ∧ Reaches s addr 16 cls.val s.now p fixed ∧
        Comes t p .homeAccess (sentAccess s addr cls.val .swRead 0 fixed) ∧ Awaits t a s.seq p 2 4 fixed ∧ OnlySendsOut s t) ∧
    ((tVal s m).toNat % 8 ≤ 4 → ∃ t, exec (.lsFence cls m) s = .next t ∧ OnlySendsOut s t ∧
      (ag t a).fences = (ag s a).fences ++ (let ids := fenceIds s a cls.val ((tVal s m).toNat % 8); if ids.isEmpty then [] else [⟨cls.val, ids⟩]))

open Sys2Proof Sys2Proof.Machine in
/-- R16, R80, R216: the faults at the trigger. An access to an unmapped address, or of an atomic outside the data banks, faults with cause 0x40 even where it is
also misaligned, a misaligned one with 0x43, and a fence of a reserved scope with 0x48; the bundle does not issue. -/
def Sys2Proof.Claims.AccessFaultsAtTheTrigger : Prop :=
  ∀ (cls : Fin 8) (m : Trig) (s : State), Ready s m → isTile s.cur.a = true →
    let addr := oVal s .ls 0 + tVal s m
    let faults : Instr → Nat → Option Word → Prop := fun i c x => exec i s = .next (syncFault s s.cur.a c s.cur.slot x)
    (∀ e ∈ lsLoads, (allMapped addr.toNat e.2.1 = false → faults (e.1 cls m) 0x40 (some addr)) ∧
      (allMapped addr.toNat e.2.1 = true → addr.toNat % e.2.1 ≠ 0 → faults (e.1 cls m) 0x43 (some addr))) ∧
    (∀ e ∈ lsStores, (allMapped addr.toNat e.2 = false → faults (e.1 cls m) 0x40 (some addr)) ∧
      (allMapped addr.toNat e.2 = true → addr.toNat % e.2 ≠ 0 → faults (e.1 cls m) 0x43 (some addr))) ∧
    (∀ e ∈ lsAtomics, restartEffect s s.cur.a 0x28 (objSram addr.toNat) = .fresh →
      (inData addr.toNat (amoBytes e.2) = false → faults (e.1 cls m) 0x40 (some addr)) ∧
      (inData addr.toNat (amoBytes e.2) = true → addr.toNat % amoBytes e.2 ≠ 0 → faults (e.1 cls m) 0x43 (some addr))) ∧
    (4 < (tVal s m).toNat % 8 → faults (.lsFence cls m) 0x48 none)

open Sys2Proof Sys2Proof.Machine in
/-- R16, R80, R213 to R221: the accesses of a tile set out for their home, where they are performed in the cycle that log 28 reads from R214, or fault at
their trigger. -/
def Obligations.TileAccessesSetOutOrFault : Prop :=
  Sys2Proof.Claims.LoadsAndStoresSetOut ∧ Sys2Proof.Claims.AtomicsSetOut ∧ Sys2Proof.Claims.AccessFaultsAtTheTrigger

open Sys2Proof Sys2Proof.Machine in
/-- R21, R225: a load, store or atomic of a dock core whose window page translates completes, and its access sets out for the address of HBM or of the
host that the translation of its address in the task's window gives. -/
def Obligations.DockCoreAccessesSetOut : Prop :=
  ∀ (cls : Fin 8) (m : Trig) (s : State), Ready s m → isDock s.cur.a = true → isBooked s s.cur.a = false → Free s .ls 0x20 2 →
    accessHeld s s.cur.a cls.val = false → stepJournals s (stepOf s s.cur.a) = false →
    let a := s.cur.a
    let addr := lsTarget s m
    let goes : Instr → Nat → Bool → Instr → (Loc → Occ → Prop) → Prop := fun i n write e is_ => addr % n = 0 → dockBlocked s a addr write = false →
      ∀ (host : Bool) (pa va : Nat) (key : Option Nat), (locate (sourced s m) a addr write).2 = .ok (.mem host pa key va) → NoErrors s →
      ∃ t p o, exec i s = .next t ∧ Comes t p e o ∧ s.now < p ∧ is_ (.mem host pa key va) o ∧ SameMemory s t ∧ SameRegs s t a ∧
        ∀ b, b ≠ a → ag t b = ag s b
    (∀ e ∈ lsLoads, goes (e.1 cls m) e.2.1 false .homeAccess fun l o =>
      ∃ x, o = .access x ∧ x.op = .load e.2.1 e.2.2 ∧ x.loc = l ∧ x.agent = a ∧ x.slot = slotOf s a ∧ x.cls = cls.val) ∧
    (∀ e ∈ lsStores, goes (e.1 cls m) e.2 true .homeAccess fun l o =>
      ∃ x, o = .access x ∧ x.op = .store e.2 ∧ x.loc = l ∧ x.data = rowOf (oVal s .ls 1) ∧ x.agent = a ∧ x.slot = slotOf s a ∧ x.cls = cls.val) ∧
    (∀ e ∈ lsAtomics, restartEffect s a 0x28 (objWord s a addr) = .fresh → goes (e.1 cls m) (amoBytes e.2) true .atomicAtHome fun l o =>
      ∃ x, o = .amo e.2 x ∧ x.loc = l ∧ x.agent = a ∧ x.slot = slotOf s a ∧ x.cls = cls.val ∧ x.a = oVal s .ls 1 ∧ x.b = oVal s .ls 2)

open Sys2Proof Sys2Proof.Machine in
/-- R214, R218: a load that its SRAM home performs takes its bytes into the result on its way, whose answer sets out where its cycle is not promised, and a store
writes exactly its bytes; a refusal for the owner tag (R18) performs nothing. -/
def Sys2Proof.Claims.AccessesArePerformed : Prop :=
  ∀ (s : State) (x : Access) (addr : Nat), s.occ = .access x → x.loc = .sram addr →
    (∀ n sg, x.op = .load n sg → AtHome s x.agent x.id x.step x.slot x.loc n true x.fixed →
      ∃ t, exec .homeAccess s = .next t ∧ SameMemory s t ∧ (bk t x.agent).g = (bk s x.agent).g ∧
        (x.fixed = false → ∃ d, s.now < d ∧ Comes t d .replyArrival (.reply x.agent x.id [])) ∧
        ∀ w ws, resultsOf s x.agent x.id = w :: ws → (resultsOf t x.agent x.id).head? = some (rowOf
          (if sg then (if n = 1 then BitVec.ofInt 32 (BitVec.ofNat 8 (loadN s addr n)).toInt else if n = 2 then BitVec.ofInt 32 (BitVec.ofNat 16 (loadN s addr n)).toInt
            else BitVec.ofNat 32 (loadN s addr n)) else BitVec.ofNat 32 (loadN s addr n)))) ∧
    (∀ n, x.op = .store n → n ≤ 4 → AtHome s x.agent x.id x.step x.slot x.loc n false x.fixed → Plain s addr n →
      ∃ t, exec .homeAccess s = .next t ∧ Stored s t addr n x.data.toNat ∧ (∀ b, (bk t b).g = (bk s b).g) ∧ t.hbm = s.hbm) ∧
    (∀ n, x.op = .store n → HomeFree s x.agent x.id x.step x.loc x.fixed → tagsOk s x.slot addr n = false →
      ∃ t f due, exec .homeAccess s = .next t ∧ SameMemory s t ∧ Comes t due .deferredFault (.dfault x.agent f) ∧ f.cause = 0x41 ∧ f.id = x.id ∧ s.now < due)

open Sys2Proof Sys2Proof.Machine in
/-- R214, R219 to R221: an atomic at its home reads its object, writes the operation's new value and nothing else, and its result is the old value (for `chunk`,
start and size); its answer sets out where its cycle is not promised. -/
def Sys2Proof.Claims.AtomicsArePerformed : Prop :=
  ∀ (s : State) (f : Amo) (x : SyncOp) (addr : Nat), s.occ = .amo f x → x.loc = .sram addr → x.issuer = x.agent → x.eff = none → NotLogged s x.slot x.pb →
    AtHome s x.agent x.id x.step x.slot x.loc (amoBytes f) true x.fixed → Plain s addr (amoBytes f) →
    let answers : State → Prop := fun t => x.fixed = false → ∃ d, s.now < d ∧ Comes t d .replyArrival (.reply x.agent x.id [])
    (f ≠ .chunk → ∃ t, exec .atomicAtHome s = .next t ∧ answers t ∧
      Stored s t addr 4 (let o := load32 s addr; match f with
        | .add => o.toNat + x.a.toNat
        | .and => (o &&& x.a).toNat
        | .or => (o ||| x.a).toNat
        | .xor => (o ^^^ x.a).toNat
        | .min => (if x.a.toInt < o.toInt then x.a else o).toNat
        | .max => (if o.toInt < x.a.toInt then x.a else o).toNat
        | .minu => min o.toNat x.a.toNat
        | .maxu => max o.toNat x.a.toNat
        | .swap => x.a.toNat
        | .cas => (if o = x.a then x.b else o).toNat
        | .fadd => (fadd32 o x.a).toNat
        | .chunk => 0) ∧
      ∀ w ws, resultsOf s x.agent x.id = w :: ws → (resultsOf t x.agent x.id).head? = some (rowOf (load32 s addr))) ∧
    (f = .chunk → loadN s (addr + 12) 4 = 0 → ∃ t, exec .atomicAtHome s = .next t ∧ answers t ∧
      let next := loadN s addr 4
      let rem := loadN s (addr + 4) 4
      let mn := max 1 (loadN s (addr + 8) 2)
      let dv := max 1 (loadN s (addr + 10) 2)
      let size := min (max mn ((rem + dv - 1) / dv)) rem
      loadN t addr 4 = (next + size) % 2 ^ 32 ∧ loadN t (addr + 4) 4 = rem - size ∧ loadN t (addr + 8) 8 = loadN s (addr + 8) 8 ∧
      (∀ y, (∀ k, k < 16 → frontAddr s y % 2 ^ 32 ≠ frontAddr s (addr + k) % 2 ^ 32) → readByte t y = readByte s y) ∧
      ∀ u v ws, resultsOf s x.agent x.id = u :: v :: ws → ∃ ws', resultsOf t x.agent x.id = rowOf (BitVec.ofNat 32 next) :: rowOf (BitVec.ofNat 32 size) :: ws')

open Sys2Proof Sys2Proof.Machine in
/-- R218 to R221: loads, stores and atomics at their home. -/
def Obligations.AccessesAndAtomicsArePerformed : Prop :=
  Sys2Proof.Claims.AccessesArePerformed ∧ Sys2Proof.Claims.AtomicsArePerformed

open Sys2Proof Sys2Proof.Machine in
/-- R86 to R88: a free lock is granted to the acquire at its home, and its grant sets out; a held one counts the waiter; a release by the holder frees the lock, or hands it
to the first of its waiters; a release by another is refused with cause 0x49. The grant's arrival ends the hold, and a request that found the queue full is issued again. -/
def Sys2Proof.Claims.LocksAtTheirHome : Prop :=
  (∀ (s : State) (x : SyncOp) (addr : Nat), s.occ = .sync x → x.loc = .sram addr → x.issuer = x.agent → NotLogged s x.slot x.pb → AtHome s x.agent x.id x.step x.slot x.loc 8 true x.fixed →
    Plain s addr 8 → isTile x.agent = true →
    let v := loadN s addr 8
    let holder := v % 2 ^ 32
    let q := homeQ s (bankKey addr)
    v < 2 ^ 48 →
    (holder = 0 → ∃ t, exec .lockAcquireAtHome s = .next t ∧ Stored s t addr 8 (v + 1 + x.agent) ∧ ∃ d, s.now < d ∧ Comes t d .lockGrantArrival (.at2 x.agent x.id)) ∧
    (holder ≠ 0 → q.locks.length < 32 → v / 2 ^ 32 + 1 < 2 ^ 16 → ∃ t, exec .lockAcquireAtHome s = .next t ∧ Stored s t addr 8 (v + 2 ^ 32) ∧
      (homeQ t (bankKey addr)).locks = q.locks ++ [x]) ∧
    (holder ≠ 0 → 32 ≤ q.locks.length → ∃ t, exec .lockAcquireAtHome s = .next t ∧ SameMemory s t ∧ Comes t (s.now + (16 - (pathCycles s x.agent x.loc).1)) .lockReissue (.sync x)) ∧
    ((releaseCovers s x.agent x.cls x.id).isEmpty = true → v = 1 + x.agent →
      ∃ t, exec .lockReleaseAtHome s = .next t ∧ Stored s t addr 8 0) ∧
    (∀ w ws, (releaseCovers s x.agent x.cls x.id).isEmpty = true → holder = 1 + x.agent → v / 2 ^ 32 ≠ 0 → q.locks = w :: ws → w.loc = x.loc → NotLogged s w.slot w.pb →
      isTile w.agent = true →
      ∃ t, exec .lockReleaseAtHome s = .next t ∧ Stored s t addr 8 (1 + w.agent + 2 ^ 32 * (v / 2 ^ 32 - 1)) ∧ (homeQ t (bankKey addr)).locks = ws ∧
        ∃ d, s.now < d ∧ Comes t d .lockGrantArrival (.at2 w.agent w.id)) ∧
    ((releaseCovers s x.agent x.cls x.id).isEmpty = true → holder ≠ 1 + x.agent → ∃ t f d, exec .lockReleaseAtHome s = .next t ∧ SameMemory s t ∧
      Comes t d .deferredFault (.dfault x.agent f) ∧ f.cause = 0x49)) ∧
  (∀ (s : State) (a id : Nat), s.occ = .at2 a id → ∃ t, exec .lockGrantArrival s = .next t ∧ (ag t a).acqs = (ag s a).acqs.filter fun q => q.id ≠ id) ∧
  ∀ (s : State) (x : SyncOp), s.occ = .sync x → ∃ t d, exec .lockReissue s = .next t ∧ Comes t d .lockAcquireAtHome (.sync x) ∧ s.now + 4 ≤ d ∧ SameMemory s t ∧
    ((pathCycles s x.agent x.loc).2 = true → d = s.now + min 16 (pathCycles s x.agent x.loc).1)

open Sys2Proof Sys2Proof.Machine in
/-- R94 to R96, R224: a credit at its sync word's home adds to the count, and on an armed word carries whole targets into the generation; an arm sets the target, arms the
word and clears its count; a wait whose generation has come is answered, another is kept; the answer lets the tile go on. -/
def Sys2Proof.Claims.SyncWordsAtTheirHome : Prop :=
  (∀ (s : State) (x : SyncOp) (addr : Nat), s.occ = .sync x → x.loc = .sram addr → x.issuer = x.agent → x.eff = none → NotLogged s x.slot x.pb → isTile x.agent = true →
    AtHome s x.agent x.id x.step x.slot x.loc 16 true x.fixed → Plain s addr 16 →
    let target := loadN s addr 4
    let count := loadN s (addr + 4) 4
    let gen := loadN s (addr + 8) 4
    let flags := loadN s (addr + 12) 4
    let q := homeQ s (bankKey addr)
    let c := (count + x.a.toNat) % 2 ^ 32
    flags < 4 → (flags % 2 = 1 → target ≠ 0) →
    ((releaseCovers s x.agent x.cls x.id).isEmpty = true → s.deadCredits.contains x.id = false → armComing s x.loc = false →
      ∃ t, exec .creditAtHome s = .next t ∧ loadN t addr 4 = target ∧
        (flags % 2 = 0 → loadN t (addr + 4) 4 = c ∧ loadN t (addr + 8) 4 = gen ∧ loadN t (addr + 12) 4 = flags) ∧
        (flags % 2 = 1 → loadN t (addr + 4) 4 = c % target ∧ loadN t (addr + 8) 4 = (gen + c / target) % 2 ^ 32 ∧
          loadN t (addr + 12) 4 = if target < c then 3 else flags) ∧
        ∀ y, (∀ k, k < 16 → frontAddr s y % 2 ^ 32 ≠ frontAddr s (addr + k) % 2 ^ 32) → readByte t y = readByte s y) ∧
    (x.a ≠ 0 → ∃ t, exec .armAtHome s = .next t ∧ Stored s t addr 16 (x.a.toNat + 2 ^ 64 * gen + 2 ^ 96)) ∧
    ((BitVec.ofNat 32 gen - x.a).toInt > 0 →
      ∃ t d, exec .syncWaitReissue s = .next t ∧ SameMemory s t ∧ s.now < d ∧ Comes t d .syncWaitAnswer (.reply x.agent x.id [(0, rowOf (BitVec.ofNat 32 gen))])) ∧
    ((BitVec.ofNat 32 gen - x.a).toInt ≤ 0 → q.waits.length < 32 →
      ∃ t, exec .syncWaitReissue s = .next t ∧ SameMemory s t ∧ (homeQ t (bankKey addr)).waits = q.waits ++ [x])) ∧
  ∀ (s : State) (a id : Nat) (v : Row) (w : Row), s.occ = .reply a id [(0, v)] → resultsOf s a id = [w] →
    (∃ t, exec .replyArrival s = .next t ∧ SameMemory s t ∧ resultsOf t a id = [v] ∧ ∀ f ∈ (bk t a).x.flights, f.id = id → f.due ≠ none) ∧
    ((bk s a).wait = .sync id → ∃ t, exec .syncWaitAnswer s = .next t ∧ SameMemory s t ∧ resultsOf t a id = [v] ∧ (bk t a).wait = .none)

open Sys2Proof Sys2Proof.Machine in
/-- R86 to R98, R224: locks and sync words at their home. -/
def Obligations.LocksAndSyncWordsAtTheirHome : Prop :=
  Sys2Proof.Claims.LocksAtTheirHome ∧ Sys2Proof.Claims.SyncWordsAtTheirHome

/-! ### Vector unit (R242 to R266) -/

namespace Sys2Proof.Machine

/-- A `vx` operation with the reads `r` may go: its move is in effect, no cause of `causes` holds, `vx` is free, nothing that it names is locked, its latches have room, and the
trigger falls into the booking of a booked step (R242, R244, R246). -/
def VxReady (s : State) (m : Trig) (r : VReads) (causes : List (Bool × Nat)) : Prop :=
  Ready s m ∧ (∀ c ∈ specCauses r (tVal s m) ++ causes, c.1 = false) ∧ vxHeld s s.cur.a = false ∧ vLocked s s.cur.a r (tVal s m) = false ∧
  inFlight s s.cur.a .vx 0x20 < 32 ∧ inFlight s s.cur.a .vx 0x21 < 32 ∧ useHeld s s.cur.a (ridTile 2 s.cur.a 0) = false ∧
  useOk s s.cur.a (ridTile 2 s.cur.a 0) s.now = true

/-- Vector register `n` of the issuing agent, lane `i`. -/
def vLane (s : State) (n i : Nat) : Word := lane (vReg s s.cur.a n) i

/-- Lane `i` is active (R245). -/
def vActive (s : State) (t : Word) (i : Nat) : Bool := !t.getLsbD 27 || (mReg s s.cur.a (t.toNat / 2 ^ 24 % 8)).getLsbD i

/-- `vd` is written `lat` cycles later: active lanes take `f`, the others keep their value (R244, R245). -/
def VectorDue (s t : State) (w : Word) (lat : Nat) (f : Nat → Word) : Prop :=
  ∃ v : Row, WriteDue t s.cur.a .vx (s.now + lat) (.vreg (w.toNat % 64) v) ∧
    ∀ i, i < 64 → lane v i = if vActive s w i then f i else vLane s (w.toNat % 64) i

/-- An integer clamped to int32, or its low 32 bits (R249). -/
def satInt (sat : Bool) (i : Int) : Word :=
  if sat then BitVec.ofInt 32 (max (-2 ^ 31) (min (2 ^ 31 - 1) i)) else BitVec.ofInt 32 i

/-- R140, R247, R248: the FP32 operations: what they read, latency, and the lane's result for a specifier word. `elemRound` takes the first NaN operand, else rounds the exact result
once (R127, R132). -/
def vxFloat : List ((Trig → Instr) × VReads × Nat × (Word → Word → Word → Word → Nat)) :=
  let m := fun (t : Word) => t.toNat / 2 ^ 28 % 8
  let sat := fun (t : Word) => t.getLsbD 31
  let un := fun (f : Num → Num) (t a _b _c : Word) => elemRound fp32 (m t) (sat t) [a.toNat] (f (num32 a))
  let bin := fun (f : Nat → Num → Num → Num) (t a b _c : Word) => elemRound fp32 (m t) (sat t) [a.toNat, b.toNat] (f (m t) (num32 a) (num32 b))
  let tri := fun (f : Nat → Num → Num → Num → Num) (t a b c : Word) =>
    elemRound fp32 (m t) (sat t) [a.toNat, b.toNat, c.toNat] (f (m t) (num32 a) (num32 b) (num32 c))
  [(.vxVadd, rABf, 6, bin addNum), (.vxVsub, rABf, 6, bin fun m a b => addNum m a (negNum b)), (.vxVmul, rABf, 6, bin fun _ a b => mulNum a b),
   (.vxVfma, rABCf, 6, tri fun m a b c => addNum m (mulNum a b) c), (.vxVfms, rABCf, 6, tri fun m a b c => addNum m (mulNum a b) (negNum c)),
   (.vxVfnma, rABCf, 6, tri fun m a b c => addNum m (negNum (mulNum a b)) c),
   (.vxVdiv, rABf, 14, bin fun _ a b => divNum a b), (.vxVsqrt, rAf, 14, un sqrtNum), (.vxVrcp, rAf, 14, un fun a => divNum (.fin false 1 0 false) a),
   (.vxVrsqrt, rAf, 14, un rsqrtNum), (.vxVexp2, rAf, 20, un exp2Num), (.vxVlog2, rAf, 20, un log2Num),
   (.vxVmin, rAB, 2, fun _ a b _ => if isNaN32 a then (quiet a).toNat else if isNaN32 b then (quiet b).toNat
      else if fpOrd fp32 b.toNat < fpOrd fp32 a.toNat then b.toNat else a.toNat),
   (.vxVmax, rAB, 2, fun _ a b _ => if isNaN32 a then (quiet a).toNat else if isNaN32 b then (quiet b).toNat
      else if fpOrd fp32 a.toNat < fpOrd fp32 b.toNat then b.toNat else a.toNat),
   (.vxVabs, rA, 2, fun _ a _ _ => if isNaN32 a then (quiet a).toNat else a.toNat % 2 ^ 31),
   (.vxVneg, rA, 2, fun _ a _ _ => if isNaN32 a then (quiet a).toNat else a.toNat + 2 ^ 31),
   (.vxVscale, rABf, 6, fun t a b _ => scaleStep (m t) (sat t) a.toNat (b.toNat % 2 ^ 16) (b.toNat / 2 ^ 16))]

/-- R249: the integer operations. -/
def vxInteger : List ((Trig → Instr) × VReads × (Word → Word → Word → Word)) :=
  let sat := fun (t : Word) => t.getLsbD 31
  [(.vxVaddi, rABs, fun t a b => satInt (sat t) (a.toInt + b.toInt)), (.vxVsubi, rABs, fun t a b => satInt (sat t) (a.toInt - b.toInt)),
   (.vxVmuli, rABs, fun t a b => satInt (sat t) (a.toInt * b.toInt)),
   (.vxVand, rAB, fun _ a b => a &&& b), (.vxVor, rAB, fun _ a b => a ||| b), (.vxVxor, rAB, fun _ a b => a ^^^ b),
   (.vxVshl, rAB, fun _ a b => BitVec.ofNat 32 (a.toNat * 2 ^ (b.toNat % 32))), (.vxVshr, rAB, fun _ a b => BitVec.ofNat 32 (a.toNat / 2 ^ (b.toNat % 32))),
   (.vxVsra, rAB, fun _ a b => BitVec.ofInt 32 (a.toInt / 2 ^ (b.toNat % 32))),
   (.vxVmini, rAB, fun _ a b => BitVec.ofInt 32 (min a.toInt b.toInt)), (.vxVmaxi, rAB, fun _ a b => BitVec.ofInt 32 (max a.toInt b.toInt))]

/-- R250: the compares. A NaN makes every comparison but `ne` fail. -/
def vxCompare : List ((Trig → Instr) × (Word → Word → Bool)) :=
  [(.vxVcmpEq, fun a b => numEq (num32 a) (num32 b)), (.vxVcmpNe, fun a b => !numEq (num32 a) (num32 b)),
   (.vxVcmpLt, fun a b => numLt (num32 a) (num32 b)), (.vxVcmpLe, fun a b => numLt (num32 a) (num32 b) || numEq (num32 a) (num32 b)),
   (.vxVcmpiEq, fun a b => decide (a = b)), (.vxVcmpiNe, fun a b => decide (a ≠ b)), (.vxVcmpiLt, fun a b => decide (a.toInt < b.toInt)),
   (.vxVcmpiLe, fun a b => decide (a.toInt ≤ b.toInt))]

/-- A node of the reduction tree: level 0 holds the lanes, and each level combines neighbours (R141). -/
def treeNode (f : Word → Word → Word) (x : Nat → Word) : Nat → Nat → Word
  | 0, i => x i
  | l + 1, i => f (treeNode f x l (2 * i)) (treeNode f x l (2 * i + 1))

end Sys2Proof.Machine

open Sys2Proof Sys2Proof.Machine in
/-- R127, R140, R247, R248, R255: each FP32 operation and `vscale` complete with every active lane of `vd` written after the operation's latency, and nothing else changes. -/
def Sys2Proof.Claims.VectorFloatResults : Prop :=
  ∀ e ∈ vxFloat, ∀ (m : Trig) (s : State), VxReady s m e.2.1 [] →
    let t := tVal s m
    ∃ u, exec (e.1 m) s = .next u ∧
      VectorDue s u t e.2.2.1 (fun i => BitVec.ofNat 32 (e.2.2.2 t (vLane s (t.toNat / 2 ^ 6 % 64) i) (vLane s (t.toNat / 2 ^ 12 % 64) i)
        (vLane s (t.toNat / 2 ^ 18 % 64) i))) ∧ OnlyComputes s u

open Sys2Proof Sys2Proof.Machine in
/-- R249: each integer operation of `vx` completes with every active lane of `vd` written 2 cycles later, and nothing else changes. -/
def Sys2Proof.Claims.VectorIntegerResults : Prop :=
  ∀ e ∈ vxInteger, ∀ (m : Trig) (s : State), VxReady s m e.2.1 [] →
    let t := tVal s m
    ∃ u, exec (e.1 m) s = .next u ∧
      VectorDue s u t 2 (fun i => e.2.2 t (vLane s (t.toNat / 2 ^ 6 % 64) i) (vLane s (t.toNat / 2 ^ 12 % 64) i)) ∧ OnlyComputes s u

open Sys2Proof Sys2Proof.Machine in
/-- R250, R251: a compare completes: 2 cycles later its mask holds the condition of each active lane and 0 for the others, and `q0` their number; `mand`, `mor` and `mnot` write their mask
2 cycles later. -/
def Sys2Proof.Claims.VectorMaskResults : Prop :=
  ∀ (m : Trig) (s : State),
    let a := s.cur.a
    let t := tVal s m
    let ma := mReg s a (t.toNat / 2 ^ 6 % 64)
    let mb := mReg s a (t.toNat / 2 ^ 12 % 64)
    let writes : Instr → BitVec 64 → Prop := fun i v => ∃ u, exec i s = .next u ∧ WriteDue u a .vx (s.now + 2) (.mask (t.toNat % 64) v) ∧ OnlyComputes s u
    (∀ e ∈ vxCompare, VxReady s m { d := .mask, a := .reg, b := .reg } [] → ∃ (u : State) (v : BitVec 64), exec (e.1 m) s = .next u ∧
      (∀ i, i < 64 → v.getLsbD i = (vActive s t i && e.2 (vLane s (t.toNat / 2 ^ 6 % 64) i) (vLane s (t.toNat / 2 ^ 12 % 64) i))) ∧
      WriteDue u a .vx (s.now + 2) (.mask (t.toNat % 64) v) ∧
      ResultDue s u a .vx 0x20 (s.now + 2) (rowOf (BitVec.ofNat 32 ((List.range 64).countP fun i => v.getLsbD i))) ∧ OnlyComputes s u) ∧
    (VxReady s m { d := .mask, a := .mask, b := .mask, men := false } [] → writes (.vxMand m) (ma &&& mb) ∧ writes (.vxMor m) (ma ||| mb)) ∧
    (VxReady s m { d := .mask, a := .mask, b := .no, men := false } [] → writes (.vxMnot m) (~~~ma))

open Sys2Proof Sys2Proof.Machine in
/-- R251, R257, R258: select, broadcast, permute, rotate, insert and move complete with the active lanes of `vd` from their sources; `vget` and `vout` deliver a lane and a whole register. -/
def Sys2Proof.Claims.VectorMoveResults : Prop :=
  ∀ (m : Trig) (s : State),
    let t := tVal s m
    let n := (oVal s .vx 0).toNat
    let va := vLane s (t.toNat / 2 ^ 6 % 64)
    let vb := vLane s (t.toNat / 2 ^ 12 % 64)
    let writes : Instr → VReads → Nat → (Nat → Word) → Prop := fun i r lat f => VxReady s m r [] → ∃ u, exec i s = .next u ∧ VectorDue s u t lat f ∧ OnlyComputes s u
    writes (.vxVsel m) { d := .reg, a := .reg, b := .reg, c := .mask } 2 (fun i => if (mReg s s.cur.a (t.toNat / 2 ^ 18 % 64)).getLsbD i then va i else vb i) ∧
    writes (.vxVbcast m) { d := .reg } 3 (fun _ => oVal s .vx 0) ∧
    writes (.vxVperm m) rAB 3 (fun i => va ((vb i).toNat % 64)) ∧
    writes (.vxVmov m) { d := .reg } 2 (fun i => lane (oRow s .vx 3) i) ∧
    (n < 64 → writes (.vxVrot m) rA 3 (fun i => va ((i + n) % 64)) ∧
      writes (.vxVins m) { d := .reg, old := true } 2 (fun i => if i = n then oVal s .vx 1 else vLane s (t.toNat % 64) i) ∧
      (VxReady s m { a := .reg, men := false } [] → ∃ u, exec (.vxVget m) s = .next u ∧ ResultDue s u s.cur.a .vx 0x20 (s.now + 2) (rowOf (va n)) ∧ OnlyComputes s u)) ∧
    (VxReady s m { a := .reg, men := false } [] → ∃ u, exec (.vxVout m) s = .next u ∧
      ResultDue s u s.cur.a .vx 0x21 (s.now + 2) (vReg s s.cur.a (t.toNat / 2 ^ 6 % 64)) ∧ OnlyComputes s u)

open Sys2Proof Sys2Proof.Machine in
/-- R252 to R254: a conversion completes 3 cycles later: element k, where bit k of the mask is set, goes from its position in `va` to its position in `vd`, the narrower side in the part that `o0`
names; every other element position of `vd` keeps its value. -/
def Sys2Proof.Claims.VectorConversionResults : Prop :=
  ∀ (m : Trig) (s : State) (f d : Fmt),
    let t := tVal s m
    let o := (oVal s .vx 0).toNat
    let part := o / 2 ^ 16
    let ws := fmtBits f / 8
    let wd_ := fmtBits d / 8
    fmtOf (o % 64) = some f → fmtOf (o / 2 ^ 8 % 64) = some d → o / 2 ^ 6 % 4 = 0 → o / 2 ^ 14 % 4 = 0 →
    (if ws = wd_ then part = 0 else part < 4 / min ws wd_) →
    let converts : Instr → VReads → Nat → Prop := fun i r mode => VxReady s m r [] → ∃ u v, exec i s = .next u ∧
      WriteDue u s.cur.a .vx (s.now + 3) (.vreg (t.toNat % 64) v) ∧ OnlyComputes s u ∧
      (∀ k, k < 64 → vActive s t k = true → elem v wd_ (if wd_ < ws then 64 * part + k else k) =
        convert f d mode (t.getLsbD 31) (elem (vReg s s.cur.a (t.toNat / 2 ^ 6 % 64)) ws (if ws < wd_ then 64 * part + k else k)) % 2 ^ (8 * wd_)) ∧
      ∀ p, p < 256 / wd_ → (∀ k, k < 64 → vActive s t k = true → p ≠ if wd_ < ws then 64 * part + k else k) →
        elem v wd_ p = elem (vReg s s.cur.a (t.toNat % 64)) wd_ p
    (isFloat f = true ∨ isFloat d = true → converts (.vxVcvt m) rAf (t.toNat / 2 ^ 28 % 8)) ∧
    (isFloat f = false → isFloat d = false → converts (.vxVcvti m) { d := .reg, a := .reg, sat := true } 0)

open Sys2Proof Sys2Proof.Machine in
/-- R141, R256: the reductions complete with their value due in `q0` after 10 cycles: the tree over the 64 lanes, in which inactive lanes read as the operation's neutral value. -/
def Sys2Proof.Claims.VectorReductionResults : Prop :=
  ∀ e ∈ [((.vxVredsum : Trig → Instr), (fun a b => if isNaN32 a then quiet a else if isNaN32 b then quiet b else BitVec.ofNat 32 (roundNum fp32 0 false (addNum 0 (num32 a) (num32 b)))), 0x80000000#32),
      (.vxVredmax, (fun a b => if isNaN32 a then quiet a else if isNaN32 b then quiet b else if fpOrd fp32 a.toNat < fpOrd fp32 b.toNat then b else a), 0xFF800000#32),
      (.vxVredmin, (fun a b => if isNaN32 a then quiet a else if isNaN32 b then quiet b else if fpOrd fp32 b.toNat < fpOrd fp32 a.toNat then b else a), 0x7F800000#32)],
    ∀ (m : Trig) (s : State), VxReady s m { a := .reg } [] →
    let t := tVal s m
    ∃ u, exec (e.1 m) s = .next u ∧ OnlyComputes s u ∧ ResultDue s u s.cur.a .vx 0x20 (s.now + 10)
      (rowOf (treeNode e.2.1 (fun i => if vActive s t i then vLane s (t.toNat / 2 ^ 6 % 64) i else e.2.2) 6 0))

open Sys2Proof Sys2Proof.Machine in
/-- R141, R252 to R256: conversions and reductions of `vx`. -/
def Obligations.VectorConversionsAndReductions : Prop :=
  Sys2Proof.Claims.VectorConversionResults ∧ Sys2Proof.Claims.VectorReductionResults

open Sys2Proof Sys2Proof.Machine in
/-- R245, R259, R260: `vld`, `vst`, `vgath` and `vscat` of an unbooked tile complete where the address is aligned and the bytes of the active lanes are mapped: the row's access sets out for its home
under the active lanes, `vld`'s register write waits for it, and each element of a gather or scatter is performed in the turn of its line, from 4 cycles after the trigger on and no earlier than the
accesses that come before it at its banks (R81). The cycle of a row's performance is the model's reading (log 28). -/
def Sys2Proof.Claims.VectorMemorySetsOut : Prop :=
  ∀ (m : Trig) (s : State), isTile s.cur.a = true → isBooked s s.cur.a = false → accessHeld s s.cur.a ((tVal s m).toNat / 2 ^ 28 % 8) = false →
    let a := s.cur.a
    let t := tVal s m
    let addr := (oVal s .vx 0).toNat
    let cls := t.toNat / 2 ^ 28 % 8
    let lines := [addr, addr + 64, addr + 128, addr + 192]
    let els := ((List.range 64).filter fun i => vActive s t i).map fun i => (i, (oVal s .vx 0 + vLane s (t.toNat / 2 ^ 12 % 64) i).toNat)
    let c := max (s.now + 4) (orderedFrom s a cls (els.map fun e => bankKey e.2))
    let banks := fun (act : BitVec 64) => ((activeLines lines act).map bankKey).eraseDups
    (addr % 64 = 0 → addr + 256 ≤ 2 ^ 32 → (∀ i, i < 64 → vActive s t i = true → allMapped (addr + 4 * i) 4 = true) →
      (VxReady s m { d := .reg, rnd := .cls } [] → ∃ u p fixed act, exec (.vxVld m) s = .next u ∧ ReachesBanks s addr (banks act) cls s.now p fixed ∧
        (∀ i, i < 64 → act.getLsbD i = vActive s t i) ∧ Comes u p .homeAccess (sentAccess s addr cls (.vload lines act none) 0 fixed) ∧
        (∃ w ∈ (bk u a).x.pends, w.id = s.seq ∧ w.due = (if fixed then some (p + 2) else none) ∧ w.w = .vreg (t.toNat % 64) (vReg s a (t.toNat % 64))) ∧ OnlySendsOut s u) ∧
      (VxReady s m { a := .reg, rnd := .cls } [] → ∃ u p fixed act, exec (.vxVst m) s = .next u ∧ ReachesBanks s addr (banks act) cls s.now p fixed ∧
        (∀ i, i < 64 → act.getLsbD i = vActive s t i) ∧
        Comes u p .homeAccess (sentAccess s addr cls (.vstore lines act none) (vReg s a (t.toNat / 2 ^ 6 % 64)) fixed) ∧ OnlySendsOut s u)) ∧
    ((∀ e ∈ els, addrTile e.2 = a ∧ inData e.2 4 = true ∧ e.2 % 4 = 0) →
      (VxReady s m { d := .reg, b := .reg, rnd := .cls } [] → ∃ u, exec (.vxVgath m) s = .next u ∧ OnlySendsOut s u ∧
        (∃ w ∈ (bk u a).x.pends, w.id = s.seq ∧ w.due = some (c + 7 + gatherTurns els) ∧ w.w = .vreg (t.toNat % 64) (vReg s a (t.toNat % 64))) ∧
        ∀ e ∈ els, ∃ x, Comes u (c + elTurn els e) .homeAccess (.access x) ∧ x.id = s.seq ∧ x.agent = a ∧
          ∃ mine, x.op = .gather mine ∧ e ∈ mine) ∧
      (VxReady s m { a := .reg, b := .reg, rnd := .cls } [] → ∃ u, exec (.vxVscat m) s = .next u ∧ OnlySendsOut s u ∧
        ∀ e ∈ els, ∃ x, Comes u (c + elTurn els e) .homeAccess (.access x) ∧ x.id = s.seq ∧ x.agent = a ∧ x.data = vReg s a (t.toNat / 2 ^ 6 % 64) ∧
          ∃ mine, x.op = .scatter mine ∧ e ∈ mine))

open Sys2Proof Sys2Proof.Machine in
/-- R261: `vldc` and `vstc` on a usable handle with no row claimed complete once 256 bytes are filled, or there is room for them: the row's access sets out for the buffer and claims it, and `q0` is to hold the
position after it. That `q0` lands 2 cycles after the performance is the model's choice (log 190), and the cycle of the performance its reading (log 28). -/
def Sys2Proof.Claims.VectorStreamsSetOut : Prop :=
  ∀ (m : Trig) (s : State), isTile s.cur.a = true → isBooked s s.cur.a = false → stepJournals s (stepOf s s.cur.a) = false → accessHeld s s.cur.a ((tVal s m).toNat / 2 ^ 28 % 8) = false →
    let a := s.cur.a
    let t := tVal s m
    let n := (oVal s .vx 0).toNat
    let h := hReg s a n
    let cls := t.toNat / 2 ^ 28 % 8
    let lines := fun (pos : Word) => [pos, pos + 64, pos + 128, pos + 192].map fun p => hBase h + p.toNat % 2 ^ hLsize h
    let usable := fun (roles : List Nat) => n < 16 ∧ hValid h = true ∧ hRole h ∈ roles ∧ hRole h ≠ 3 ∧ 8 ≤ hLsize h ∧ hLsize h ≤ 20 ∧ hBase h % 64 = 0 ∧
      inData (hBase h) (2 ^ hLsize h) = true ∧ kget 0 (bk s a).claimed n = 0 ∧ ∀ o ∈ (ag s a).outs, o.hnd ≠ some n
    let goes : Instr → Word → (BitVec 64 → AccOp) → Row → Prop := fun i pos op data => ∃ u p fixed act, exec i s = .next u ∧
      ReachesBanks s ((lines pos).headD 0) ((activeLines (lines pos) act).map bankKey).eraseDups cls s.now p fixed ∧ (∀ i, i < 64 → act.getLsbD i = vActive s t i) ∧
      Comes u p .homeAccess (sentAccess s ((lines pos).headD 0) cls (op act) data fixed) ∧ kget 0 (bk u a).claimed n = 1 ∧
      (∃ f ∈ (bk u a).x.flights, f.u = .vx ∧ f.code = 0x20 ∧ f.id = s.seq ∧ f.val = rowOf (pos + 256) ∧ f.due = if fixed then some (p + 2) else none) ∧ OnlySendsOut s u
    (usable [0, 2] → (hCons h).toNat % 64 = 0 → 256 ≤ (hProd h - hCons h).toNat → VxReady s m { d := .reg, rnd := .cls } [] →
      goes (.vxVldc m) (hCons h) (fun act => .vload (lines (hCons h)) act (some ⟨n % 16, Nat.mod_lt _ (by decide)⟩)) 0) ∧
    (usable [0, 1] → (hProd h).toNat % 64 = 0 → (hProd h - hCons h).toNat + 256 ≤ 2 ^ hLsize h → VxReady s m { a := .reg, rnd := .cls } [] →
      goes (.vxVstc m) (hProd h) (fun act => .vstore (lines (hProd h)) act (some ⟨n % 16, Nat.mod_lt _ (by decide)⟩)) (vReg s a (t.toNat / 2 ^ 6 % 64)))

open Sys2Proof Sys2Proof.Machine in
/-- R264, R265: a loop nest whose operands are legal completes its trigger: with no points it does nothing; else it occupies `vx`, and its first point reads in the next cycle. The end of the nest, with all its rows written, frees `vx`, and its
store is no longer outstanding. -/
def Sys2Proof.Claims.LoopNestStarts : Prop :=
  (∀ (n : Nest) (s : State), Ready s ⟨none, .zero⟩ → vxHeld s s.cur.a = false → accessHeld s s.cur.a 0 = false →
    useHeld s s.cur.a (ridTile 2 s.cur.a 0) = false → useOk s s.cur.a (ridTile 2 s.cur.a 0) s.now = true →
    (∀ c ∈ nestCauses s.cur.a n (oVal s .vx 0).toNat (oVal s .vx 1).toNat (oVal s .vx 2).toNat, c.1 = false) →
    (nestPoints n = 0 → ∃ u, exec (.vxVnest n) s = .next u ∧ OnlyComputes s u) ∧
    (nestPoints n ≠ 0 → ∃ u x r, exec (.vxVnest n) s = .next u ∧ Comes u (s.now + 1) .homeAccess (.access x) ∧ x.op = .nestRead ∧ x.agent = s.cur.a ∧ x.id = s.seq ∧
      (ag u s.cur.a).nest = some r ∧ r.nest = n ∧ r.dst = (oVal s .vx 0).toNat ∧ r.a = (oVal s .vx 1).toNat ∧ r.b = (oVal s .vx 2).toNat ∧ r.point = 0 ∧ OnlySendsOut s u)) ∧
  ∀ (s : State) (a : Nat), s.occ = .at a → (ag s a).nest.isSome → (∀ e ∈ s.agenda, nestRowOut a e = none) → ∃ u, exec .vnestComplete s = .next u ∧ (ag u a).nest = none ∧ SameMemory s u ∧
    (∀ r, (ag s a).nest = some r → ∀ o ∈ (ag u a).outs, o.id ≠ r.id) ∧ ∀ b, b ≠ a → ag u b = ag s b

open Sys2Proof Sys2Proof.Machine in
/-- R259 to R261, R264: the row accesses, streams and loop nests of `vx` of an unbooked step set out, and a nest ends; the cycles of the performances rest on log
28, and that of a stream's `q0` on log 190. `BookedOperationsKeepTheirWindows` is about booked steps. -/
def Obligations.VectorMemoryOperations : Prop :=
  Sys2Proof.Claims.VectorMemorySetsOut ∧ Sys2Proof.Claims.VectorStreamsSetOut ∧ Sys2Proof.Claims.LoopNestStarts

namespace Sys2Proof.Machine

/-- A row or turn of a tile comes to be performed: no earlier access of the tile comes first, nobody else keeps its banks, and none of them has performed an access in this
cycle (R66, R79, R81). -/
def RowReady (s : State) (x : Access) : Prop :=
  s.occ = .access x ∧ isTile x.agent = true ∧ homeHold s x.agent x.id x.step (accRids s x) (accHomes s x) (accBanks s x) = none

/-- The register write of operation `id` on its way, for each register and old value, becomes `f` of them; where `kept`, it stays due as it was. -/
def VectorTakes (s t : State) (a id : Nat) (kept : Bool) (f : Row → Nat → Word) : Prop :=
  ∀ w ∈ (bk s a).x.pends, w.id = id → ∀ n v, w.w = .vreg n v → ∃ w' ∈ (bk t a).x.pends, w'.id = id ∧ (kept = true → w'.due = w.due) ∧
    ∃ v', w'.w = .vreg n v' ∧ ∀ i, i < 64 → lane v' i = f v i

/-- The words that a list of addresses holds become those of the list, and every byte of none of them reads as before. -/
def WordsStored (s t : State) (ws : List (Nat × Word)) : Prop :=
  (∀ w ∈ ws, load32 t w.1 = w.2) ∧
  ∀ y, (∀ w ∈ ws, ∀ k, k < 4 → frontAddr s y % 2 ^ 32 ≠ frontAddr s (w.1 + k) % 2 ^ 32) → readByte t y = readByte s y

/-- None of the words lies in the reserved range, and no two of their bytes are one (R16, R103). -/
def PlainWords (s : State) (as : List Nat) : Prop :=
  (∀ a ∈ as, ∀ k, k < 4 → offReserved (addrOff (frontAddr s (a + k))) = false) ∧
  ∀ i j k l, i < as.length → j < as.length → k < 4 → l < 4 → frontAddr s (as.getD i 0 + k) % 2 ^ 32 = frontAddr s (as.getD j 0 + l) % 2 ^ 32 → i = j ∧ k = l

/-- The active lanes of a row. -/
def lanesOn (act : BitVec 64) : List Nat := (List.range 64).filter fun i => act.getLsbD i

/-- An answer whose cycle is not promised sets out (R214). -/
def AnswerSetsOut (s t : State) (x : Access) : Prop := x.fixed = false → ∃ d, s.now < d ∧ Comes t d .replyArrival (.reply x.agent x.id [])

end Sys2Proof.Machine

open Sys2Proof Sys2Proof.Machine in
/-- R245, R259: a home performs a row: a load takes the words of its active lanes into the register write on its way, and a store writes the active lanes' words and nothing else. -/
def Sys2Proof.Claims.VectorRowsArePerformed : Prop :=
  ∀ (s : State) (x : Access), RowReady s x →
    (∀ lines act, x.op = .vload lines act none → linesCause s x.slot 64 true (activeLines lines act) = none → lines.length = 4 →
      ∃ t, exec .homeAccess s = .next t ∧ SameMemory s t ∧ AnswerSetsOut s t x ∧
        VectorTakes s t x.agent x.id true fun v i => if act.getLsbD i then load32 s (lines.getD (i / 16) 0 + 4 * (i % 16)) else lane v i) ∧
    ∀ lines act, x.op = .vstore lines act none → linesCause s x.slot 64 false (activeLines lines act) = none → lines.length = 4 →
      let at_ := fun (i : Nat) => lines.getD (i / 16) 0 + 4 * (i % 16)
      PlainWords s ((lanesOn act).map at_) →
      ∃ t, exec .homeAccess s = .next t ∧ WordsStored s t ((lanesOn act).map fun i => (at_ i, lane x.data i))

open Sys2Proof Sys2Proof.Machine in
/-- R208, R210, R261: a row streamed through a handle of the step in front is performed as any row; its handle then advances by 256 bytes, its claim ends, and the peer of a handle with one is told. A step
that journals its pushes also writes a record (R121), and one that is restarted checks them (R123); the statement is about the others. -/
def Sys2Proof.Claims.StreamedRowsArePerformed : Prop :=
  ∀ (s : State) (x : Access) (r : Run) (n : Fin 16), RowReady s x → (bk s x.agent).run = some r → r.key = x.step →
    let a := x.agent
    let h := hReg s a n.val
    let peer : Nat := hPeer h
    let ph : Fin 16 := ⟨hPhandle h % 16, Nat.mod_lt _ (by decide)⟩
    let moves : State → BitVec 128 → Bool → Word → Prop := fun t h' prod v => hReg t a n.val = h' ∧ kget 0 (bk t a).claimed n.val = kget 0 (bk s a).claimed n.val - 1 ∧
      (∀ k, k ≠ n.val → hReg t a k = hReg s a k) ∧ (hRole h ≠ 0 → ∃ c, s.now < c ∧ Comes t c .handleUpdateArrival (.handle peer ph prod v))
    (∀ lines act, x.op = .vload lines act (some n) → linesCause s x.slot 64 true (activeLines lines act) = none → lines.length = 4 →
      ∃ t, exec .homeAccess s = .next t ∧ SameMemory s t ∧ AnswerSetsOut s t x ∧ moves t (setHCons h (hCons h + 256)) false (hCons h + 256) ∧
        VectorTakes s t a x.id true fun v i => if act.getLsbD i then load32 s (lines.getD (i / 16) 0 + 4 * (i % 16)) else lane v i) ∧
    ∀ lines act, x.op = .vstore lines act (some n) → linesCause s x.slot 64 false (activeLines lines act) = none → lines.length = 4 →
      stepJournals s x.step = false → effectOf s x.step 0x2A (objSram (hBase h)) = .fresh →
      let at_ := fun (i : Nat) => lines.getD (i / 16) 0 + 4 * (i % 16)
      PlainWords s ((lanesOn act).map at_) →
      ∃ t, exec .homeAccess s = .next t ∧ AnswerSetsOut s t x ∧ moves t (setHProd h (hProd h + 256)) true (hProd h + 256) ∧
        WordsStored s t ((lanesOn act).map fun i => (at_ i, lane x.data i))

open Sys2Proof Sys2Proof.Machine in
/-- R216, R260: a turn of a gather takes each of its elements into its lane of the register write on its way, and one of a scatter stores them; an element that is refused does neither, and the others are performed. -/
def Sys2Proof.Claims.VectorElementsArePerformed : Prop :=
  ∀ (s : State) (x : Access), RowReady s x →
    let ok := fun (reads : Bool) (els : List (Nat × Nat)) => els.filter fun e => (linesCause s x.slot 4 reads [e.2]).isNone
    (∀ els, x.op = .gather els → (els.map (·.1)).Nodup →
      ∃ t, exec .homeAccess s = .next t ∧ SameMemory s t ∧ VectorTakes s t x.agent x.id (decide (ok true els = els)) fun v i =>
        match (ok true els).find? fun e => e.1 = i with
        | some e => load32 s e.2
        | none => lane v i) ∧
    ∀ els, x.op = .scatter els → PlainWords s ((ok false els).map (·.2)) →
      ∃ t, exec .homeAccess s = .next t ∧ WordsStored s t ((ok false els).map fun e => (e.2, lane x.data e.1))

open Sys2Proof Sys2Proof.Machine in
/-- R263 to R265: a point of a nest reads its rows and sends its result row out for the cycle Lop + 1 later, whose write changes exactly that row; the next point, or the end of the nest, is on its way. -/
def Sys2Proof.Claims.NestPointsArePerformed : Prop :=
  ∀ (s : State) (x : Access), RowReady s x →
    (∀ r, x.op = .nestRead → (ag s x.agent).nest = some r → nestStop s x.agent x.slot r = none → nestLate s x = false →
      let rowA := loadN s (nestAddr r.nest r.a 1 r.point) (nestRow r.nest)
      let rowB := loadN s (nestAddr r.nest r.b 2 r.point) (nestRow r.nest)
      let rowD := loadN s (nestAddr r.nest r.dst 0 r.point) (nestRow r.nest)
      ∃ t v, exec .homeAccess s = .next t ∧ SameMemory s t ∧
        Comes t (s.now + nestLat r.nest + 1) .homeAccess (.access { x with op := .nestWrite, loc := .sram (nestAddr r.nest r.dst 0 r.point), data := v }) ∧
        v = BitVec.ofNat 2048 (nestResult r.nest rowA rowB (if r.nest.eop = 4 then rowD else 0)) ∧
        (if r.point + 1 < nestPoints r.nest then (∃ r', (ag t x.agent).nest = some r' ∧ r'.point = r.point + 1) ∧ ∃ c, s.now ≤ c ∧ Comes t c .homeAccess (.access x)
          else Comes t (s.now + nestLat r.nest + 1) .vnestComplete (.at x.agent))) ∧
    ∀ r addr, x.op = .nestWrite → x.loc = .sram addr → (ag s x.agent).nest = some r → Plain s addr (nestRow r.nest) →
      ∃ t, exec .homeAccess s = .next t ∧ Stored s t addr (nestRow r.nest) x.data.toNat

open Sys2Proof Sys2Proof.Machine in
/-- R216, R245, R259 to R261, R263 to R265: rows, streamed rows, gathered and scattered elements and the points of a nest, as their banks perform them. -/
def Obligations.VectorAccessesArePerformed : Prop :=
  Sys2Proof.Claims.VectorRowsArePerformed ∧ Sys2Proof.Claims.StreamedRowsArePerformed ∧ Sys2Proof.Claims.VectorElementsArePerformed ∧ Sys2Proof.Claims.NestPointsArePerformed

open Sys2Proof Sys2Proof.Machine in
/-- R127, R140: a NaN operand decides an element-wise result: the first one in the order a, b, c, with its quiet bit set and every other bit kept; without one, the special cases give NaNs of causes 3 to 6. -/
def Sys2Proof.Claims.FloatSpecialCases : Prop :=
  ∀ (mode : Nat) (sat : Bool) (a b : Word),
    let inf := fun (n : Bool) => if n then 0xFF800000 else 0x7F800000
    (isNaN32 a = true → ∀ r xs, elemRound fp32 mode sat (a.toNat :: xs) r = (a ||| 0x400000#32).toNat) ∧
    (isNaN32 a = false → isNaN32 b = true → ∀ r xs, elemRound fp32 mode sat (a.toNat :: b.toNat :: xs) r = (b ||| 0x400000#32).toNat) ∧
    fpAdd fp32 mode sat 0x7F800000 0xFF800000 = 0x7FC00003 ∧ fpSub fp32 mode sat 0x7F800000 0x7F800000 = 0x7FC00003 ∧
    (∀ z ∈ [0, 0x80000000], ∀ n, fpMul fp32 mode sat z (inf n) = 0x7FC00004) ∧
    elemRound fp32 mode sat [0, 0] (divNum (num32 0#32) (num32 0#32)) = 0x7FC00005 ∧
    (isNaN32 a = false → a.getLsbD 31 = true → a ≠ 0x80000000#32 → elemRound fp32 mode sat [a.toNat] (sqrtNum (num32 a)) = 0x7FC00006 ∧
      elemRound fp32 mode sat [a.toNat] (rsqrtNum (num32 a)) = 0x7FC00006 ∧ elemRound fp32 mode sat [a.toNat] (log2Num (num32 a)) = 0x7FC00006) ∧
    (∀ i : Int, -126 ≤ i → i ≤ 127 → mode < 4 → roundNum fp32 mode sat (exp2Num (.fin (i < 0) i.natAbs 0 false)) = ((i + 127).toNat) * 2 ^ 23)

open Sys2Proof Sys2Proof.Machine in
/-- R247, R249: the opcodes of the element-wise operations, as the decoder reads them. -/
def Sys2Proof.Claims.VectorArithmeticOpcodes : Prop :=
  ∀ m : Trig, ∀ e ∈ [((.vxVadd : Trig → Instr), 0x001#12), (.vxVsub, 0x002), (.vxVmul, 0x003), (.vxVfma, 0x004), (.vxVfms, 0x005), (.vxVfnma, 0x006),
    (.vxVmin, 0x007), (.vxVmax, 0x008), (.vxVabs, 0x009), (.vxVneg, 0x00A), (.vxVdiv, 0x00B), (.vxVsqrt, 0x00C), (.vxVrcp, 0x00D), (.vxVrsqrt, 0x00E),
    (.vxVexp2, 0x00F), (.vxVlog2, 0x010), (.vxVaddi, 0x101), (.vxVsubi, 0x102), (.vxVmuli, 0x103), (.vxVand, 0x104), (.vxVor, 0x105), (.vxVxor, 0x106),
    (.vxVshl, 0x107), (.vxVshr, 0x108), (.vxVsra, 0x109), (.vxVmini, 0x10A), (.vxVmaxi, 0x10B)], decOp .vx e.2 m = some (e.1 m)

open Sys2Proof Sys2Proof.Machine in
/-- R127, R140, R247 to R249: the element-wise arithmetic of `vx`, with what FP32 gives for special values. -/
def Obligations.VectorArithmeticResults : Prop :=
  Sys2Proof.Claims.VectorFloatResults ∧ Sys2Proof.Claims.VectorIntegerResults ∧ Sys2Proof.Claims.FloatSpecialCases ∧ Sys2Proof.Claims.VectorArithmeticOpcodes

open Sys2Proof Sys2Proof.Machine in
/-- R250, R251: the opcodes of compares, selects and mask operations, as the decoder reads them. -/
def Sys2Proof.Claims.VectorMaskOpcodes : Prop :=
  ∀ m : Trig, ∀ e ∈ [((.vxVcmpEq : Trig → Instr), 0x201#12), (.vxVcmpNe, 0x202), (.vxVcmpLt, 0x203), (.vxVcmpLe, 0x204), (.vxVcmpiEq, 0x205),
    (.vxVcmpiNe, 0x206), (.vxVcmpiLt, 0x207), (.vxVcmpiLe, 0x208), (.vxVsel, 0x209), (.vxMand, 0x20A), (.vxMor, 0x20B), (.vxMnot, 0x20C)],
    decOp .vx e.2 m = some (e.1 m)
/-! ### Matrix unit (R268 to R283) -/

open Sys2Proof Sys2Proof.Machine in
/-- R250, R251, R257, R258: compares, mask operations, selects and moves of `vx`. -/
def Obligations.VectorMaskAndMoveResults : Prop :=
  Sys2Proof.Claims.VectorMaskResults ∧ Sys2Proof.Claims.VectorMoveResults ∧ Sys2Proof.Claims.VectorMaskOpcodes

namespace Sys2Proof.Machine

/-- What a trigger of `mx` that only acts on the unit and its queue leaves as it was. -/
def OnlyMatrix (s t : State) : Prop :=
  { t with agents := s.agents, agenda := s.agenda, seq := s.seq, mx := s.mx } = s ∧ SameMemory s t ∧ SameRegs s t s.cur.a ∧ SameValues s t s.cur.a ∧
  seqPlace (bk t s.cur.a).q = seqPlace (bk s s.cur.a).q ∧ (∀ b, b ≠ s.cur.a → ag t b = ag s b ∧ mxOf t b = mxOf s b)

/-- A command of the tile has joined the queue with all that it latches (R268 to R270, R273), and the rest of the unit is as it was but for what `f` says. -/
def Queued (s t : State) (o : MxOp) (f : Mx → Mx) : Prop :=
  let a := s.cur.a
  let m := mxOf s a
  mxOf t a = f { m with q := m.q ++ [{
    id := s.seq, agent := a, remote := false, slot := slotOf s a, pb := pbOf s a, step := stepOf s a, org := orgOf s a s.cur.slot, trig := s.now, op := o,
    set := if isLoadOp o then (if m.act then 0 else 1) else (if m.act then 1 else 0), cfg := (bk s a).c.mxcfg, prio := m.prio, since := some s.now }] }

end Sys2Proof.Machine

open Sys2Proof Sys2Proof.Machine in
/-- R269, R270, R273: `mx.cfg`, `mx.cap`, `mx.prio` and `mx.swap` complete on legal values, and write `mxcfg`, the remote key, the priority and the number of the active set; out of range they fault and
write nothing. -/
def Sys2Proof.Claims.MatrixSettings : Prop :=
  ∀ (m : Trig) (s : State), Ready s m → sockHeld s s.cur.a .mx = false → useHeld s s.cur.a (ridTile 1 s.cur.a 0) = false →
    let a := s.cur.a
    let t := tVal s m
    let x := mxOf s a
    let sets : Instr → Mx → Prop := fun i y => ∃ u, exec i s = .next u ∧ mxOf u a = y ∧ OnlyMatrix s u
    let faults : Instr → Nat → Prop := fun i c => exec i s = .next (syncFault s a c s.cur.slot none)
    (∀ f, t.toNat < 2 ^ 22 → t.toNat / 2 ^ 18 % 8 < 4 → fmtOf (t.toNat / 2 ^ 12 % 64) = some f → isFloat f = true →
      ∃ u, exec (.mxCfg m) s = .next u ∧ (bk u a).c = { (bk s a).c with mxcfg := t } ∧ (bk u a).g = (bk s a).g ∧ (bk u a).p = (bk s a).p ∧ SameMemory s u ∧
        u.mx = s.mx ∧ ∀ b, b ≠ a → ag u b = ag s b) ∧
    (2 ^ 22 ≤ t.toNat → t.toNat / 2 ^ 18 % 8 < 4 → fmtOf (t.toNat / 2 ^ 12 % 64) ≠ none → faults (.mxCfg m) 0x76) ∧
    (4 ≤ t.toNat / 2 ^ 18 % 8 → fmtOf (t.toNat / 2 ^ 12 % 64) ≠ none → faults (.mxCfg m) 0x71) ∧
    sets (.mxCap m) { x with key := t } ∧
    (t.toNat < 8 → sets (.mxPrio m) { x with prio := t.toNat }) ∧ (8 ≤ t.toNat → faults (.mxPrio m) 0x76) ∧
    (t = 0 → sets (.mxSwap m) { x with act := !x.act }) ∧ (t ≠ 0 → faults (.mxSwap m) 0x76)

open Sys2Proof Sys2Proof.Machine in
/-- R268 to R272, R274 to R277, R280: the queued operations complete while the queue has room and their operands pass the checks: the command joins the queue, bound to its set, with `mxcfg` and the priority latched; a weight
load gives its set the panel count, format and kind at once. Nothing else changes. -/
def Sys2Proof.Claims.MatrixCommandsQueue : Prop :=
  ∀ (m : Trig) (s : State), Ready s m → sockHeld s s.cur.a .mx = false → useHeld s s.cur.a (ridTile 1 s.cur.a 0) = false → (mxOf s s.cur.a).q.length < 16 → tVal s m = 0 →
    let a := s.cur.a
    let x := mxOf s a
    let o := fun k => (oVal s .mx k).toNat
    let cfg := (bk s a).c.mxcfg.toNat
    let usable := fun (n : Nat) (roles : List Nat) => handleCause (hReg s a n) roles = none
    let active := if x.act then x.s1 else x.s0
    let queues : Instr → MxOp → (Mx → Mx) → Prop := fun i p f => ∃ u, exec i s = .next u ∧ Queued s u p f ∧ OnlyMatrix s u
    let loaded := fun (k fmt : Nat) (sp : Bool) (y : Mx) =>
      if y.act then { y with s0 := { y.s0 with panels := k, fmt := fmt, sparse := sp } } else { y with s1 := { y.s1 with panels := k, fmt := fmt, sparse := sp } }
    (usable (cfg / 16 % 16) [0, 2] →
      queues (.mxSclr m) .sclr id ∧
      (o 0 < 64 → widthClass (o 0) ≠ none → 1 ≤ o 1 → o 1 ≤ 8 → queues (.mxWload m) (.load false (o 0) (o 1)) (loaded (o 1) (o 0) false)) ∧
      (o 0 < 64 → widthClass (o 0) ≠ none → 1 ≤ o 1 → o 1 ≤ 4 → queues (.mxWloadx m) (.load true (o 0) (o 1)) (loaded (2 * o 1) (o 0) true)) ∧
      (o 0 < 2 → 1 ≤ o 2 → o 1 + o 2 ≤ 8 → queues (.mxScale m) (.scale (decide (o 0 = 1)) (o 1) (o 2)) id)) ∧
    (usable (cfg % 16) [0, 2] → o 0 < 64 → widthClass (o 0) ≠ none → widthClass (o 0) = widthClass active.fmt → 1 ≤ o 1 → o 1 ≤ 256 → o 2 < 1024 → o 2 % 256 + o 1 ≤ 256 →
      o 3 < 128 → 1 ≤ o 3 % 16 → o 3 / 16 + o 3 % 16 ≤ active.panels → active.panels ≤ 8 →
      (active.sparse = false → queues (.mxRun m) (.run false (o 0) (o 2 / 256 % 2) (o 2 % 256) (decide (512 ≤ o 2)) [⟨o 1, o 3 / 16, o 3 % 16⟩] 0) id) ∧
      (active.sparse = true → o 3 % 2 = 0 → o 3 / 16 % 2 = 0 →
        queues (.mxRunsp m) (.run true (o 0) (o 2 / 256 % 2) (o 2 % 256) (decide (512 ≤ o 2)) [⟨o 1, o 3 / 16, o 3 % 16⟩] 0) id)) ∧
    (usable (cfg / 256 % 16) [0, 1] → o 0 < 512 → o 1 < 2048 → 1 ≤ o 1 % 512 → o 0 % 256 + o 1 % 512 ≤ 256 →
      queues (.mxDrainc m) (.drainc (o 0 / 256) (o 0 % 256) (o 1 % 512) (decide (o 1 / 512 % 2 = 1)) (decide (o 1 / 1024 = 1))) id)

open Sys2Proof Sys2Proof.Machine in
/-- R279: `mx.grp` completes when its table lies in the tile's banks, its words pass the checks, and nothing refuses the read: the command joins the queue with the groups as the table held them, and issue waits 1 + G cycles. That the tile's own earlier accesses are
performed first is the model's choice (log 188). -/
def Sys2Proof.Claims.GroupCommandQueues : Prop :=
  ∀ (m : Trig) (s : State), Ready s m → sockHeld s s.cur.a .mx = false → useHeld s s.cur.a (ridTile 1 s.cur.a 0) = false → (mxOf s s.cur.a).q.length < 16 → tVal s m = 0 →
    performedAt s s.cur.a s.cur.a = true → NoErrors s →
    let a := s.cur.a
    let x := mxOf s a
    let o := fun k => (oVal s .mx k).toNat
    let n := o 1 % 32
    let active := if x.act then x.s1 else x.s0
    let gs := (List.range n).map fun i =>
      let w := loadN s (o 0 + 4 * i) 4
      (⟨w % 512, w / 2 ^ 12 % 8, w / 2 ^ 16 % 16⟩ : MxGroup)
    usesHeld s a (tableUses a (o 0) n s.now) = none →
    handleCause (hReg s a ((bk s a).c.mxcfg.toNat % 16)) [0, 2] = none → o 0 % 4 = 0 → addrTile (o 0) = a → inData (o 0) (4 * n) = true →
    locCause s (slotOf s a) (.sram (o 0)) (4 * n) true = none → (o 3 = 0 ∨ o 3 % 16 = 0 ∧ inData (o 3) 16 = true) →
    active.sparse = false → active.panels ≤ 8 → 1 ≤ active.panels → 1 ≤ n → n ≤ 16 → o 1 / 2 ^ 5 % 8 = 0 → o 1 < 2 ^ 14 → o 2 < 1024 →
    widthClass (o 1 / 2 ^ 8) ≠ none → widthClass (o 1 / 2 ^ 8) = widthClass active.fmt →
    (∀ i, i < n → let w := loadN s (o 0 + 4 * i) 4; w / 2 ^ 9 % 8 = 0 ∧ w / 2 ^ 15 % 2 = 0 ∧ w < 2 ^ 20) →
    (∀ g ∈ gs, g.rows ≤ 256 ∧ 1 ≤ g.npanel ∧ g.pan0 + g.npanel ≤ active.panels) → o 2 % 256 + (gs.map (·.rows)).sum ≤ 256 →
    ∃ u, exec (.mxGrp m) s = .next u ∧ Queued s u (.run false (o 1 / 2 ^ 8) (o 2 / 256 % 2) (o 2 % 256) (decide (512 ≤ o 2)) gs (o 3)) id ∧ OnlyMatrix s u ∧
      (bk u a).wait = .usr (s.now + 2 + n)

open Sys2Proof Sys2Proof.Machine in
/-- R66: while another step's booking, or an aged reservation, keeps the unit, a trigger that its checks pass holds its bundle. -/
def Sys2Proof.Claims.KeptMatrixUnitHolds : Prop :=
  ∀ (m : Trig) (s : State), Ready s m → sockHeld s s.cur.a .mx = false → useHeld s s.cur.a (ridTile 1 s.cur.a 0) = true →
    let holds : Instr → Prop := fun i => exec i s = .next (holdCycle s s.cur.a (.booked (ridTile 1 s.cur.a 0)))
    holds (.mxCap m) ∧ ((tVal s m).toNat < 8 → holds (.mxPrio m)) ∧ (tVal s m = 0 → holds (.mxSwap m))

open Sys2Proof Sys2Proof.Machine in
/-- R66, R268 to R280: the operations of `mx` write their settings, or join the command queue. -/
def Obligations.MatrixCommands : Prop :=
  Sys2Proof.Claims.MatrixSettings ∧ Sys2Proof.Claims.MatrixCommandsQueue ∧ Sys2Proof.Claims.GroupCommandQueues ∧ Sys2Proof.Claims.KeptMatrixUnitHolds

open Sys2Proof Sys2Proof.Machine in
/-- R280, R281: `mx.drain` completes once no command of its bank is queued: row `row0` + k is due in `q0` 2 + k cycles later, and with `clear` those rows become zero; `mx.stat` delivers the status word in `q1`, at once for
selectors 0 and 2, the latter clearing the sticky fields, and for selector 1 once the tile's commands are complete. -/
def Sys2Proof.Claims.MatrixReads : Prop :=
  ∀ (m : Trig) (s : State), Ready s m → sockHeld s s.cur.a .mx = false → useHeld s s.cur.a (ridTile 1 s.cur.a 0) = false →
    let a := s.cur.a
    let x := mxOf s a
    let t := (tVal s m).toNat
    let bank := t / 256 % 2
    let row0 := t % 256
    let n := t / 512 % 32 + 1
    (t < 2 ^ 15 → row0 + n ≤ 256 → inFlight s a .mx 0x20 + n ≤ 32 → (∀ c ∈ x.q, opBank c.op ≠ some bank) →
      (∀ k, k < n → (kget (0, 0) x.clears (256 * bank + row0 + k)).1 < s.now + 1 + k) →
      ∃ u, exec (.mxDrain m) s = .next u ∧ OnlyMatrix s u ∧ (∀ k, k < n → ResultDue s u a .mx 0x20 (s.now + 2 + k) (accOf x bank (row0 + k))) ∧
        (∀ b r, accOf (mxOf u a) b r = if 2 ^ 14 ≤ t ∧ ∃ k, k < n ∧ 256 * b + r = 256 * bank + row0 + k then 0 else accOf x b r)) ∧
    (inFlight s a .mx 0x21 < 32 →
      (t = 0 → ∃ u, exec (.mxStat m) s = .next u ∧ ResultDue s u a .mx 0x21 (s.now + 2) (rowOf (statusWord x)) ∧ OnlyComputes s u) ∧
      (t = 2 → ∃ u, exec (.mxStat m) s = .next u ∧ ResultDue s u a .mx 0x21 (s.now + 2) (rowOf (statusWord x)) ∧ OnlyMatrix s u ∧
        mxOf u a = { x with nv := false, ncause := 0, err := 0 }) ∧
      (t = 1 → (∀ c ∈ x.q, c.remote = true) → ∃ u, exec (.mxStat m) s = .next u ∧ ResultDue s u a .mx 0x21 (s.now + 2) (rowOf (statusWord x)) ∧ OnlyComputes s u) ∧
      (t = 1 → (∃ c ∈ x.q, c.remote = false) → ∃ u, exec (.mxStat m) s = .next u ∧ OnlyMatrix s u ∧ mxOf u a = { x with stats := x.stats ++ [(s.seq, s.seq)] }))

open Sys2Proof Sys2Proof.Machine in
/-- R278, R281 to R283: the array engine, idle with one candidate whose selection is not logged and whose first pass nobody else's booking meets, takes it, and its first row updates at the later of its
trigger + 70, its selection + 9 and the last command's end + 9. A command that completes leaves the queue and counts in `done` (log 69), and frees its engine. -/
def Sys2Proof.Claims.MatrixSelection : Prop :=
  (∀ (s : State) (a : Nat) (c : MxCmd), s.occ = .at2 a 0 → (mxOf s a).array = none → candidates s a = [c] → c.started = false → c.chosen = false → NotLogged s c.slot c.pb →
    let n := max (c.trig + 70) (match (mxOf s a).arrayEnd with
      | some e => max (s.now + 9) (e + 9)
      | none => s.now + 9)
    (mxBooked s a c = true ∨ mxKept s a c n (arraySpan s a c) = false) →
    ∃ u, exec .mxArraySelect s = .next u ∧ (mxOf u a).array = some (c.id, n) ∧ Comes u n .mxArraySelect (.at2 a c.id) ∧ SameMemory s u ∧
      (mxOf u a).acc = (mxOf s a).acc ∧ u.agents = s.agents) ∧
  ∀ (s : State) (a id : Nat) (c : MxCmd), s.occ = .at2 a id → cmdOf (mxOf s a) id = some c →
    ∃ u, exec .mxCommandComplete s = .next u ∧ (mxOf u a).q = (mxOf s a).q.filter (fun d => d.id ≠ id) ∧ (mxOf u a).done = (mxOf s a).done + 1 ∧
      (mxOf u a).acc = (mxOf s a).acc ∧ (if isLoadOp c.op then (mxOf u a).load = none else (mxOf u a).array = none) ∧ SameMemory s u ∧ u.agents = s.agents

open Sys2Proof Sys2Proof.Machine in
/-- R208, R270, R274, R276: the load engine looks for work: idle, it takes the first load command of the queue, once no array command queued before it is bound to its set and nobody keeps it from the unit, and reads 64 bytes of its stream in that
cycle, or waits for them; `sclr` takes its one cycle. Busy, or with an array command before every load that is queued, it changes nothing. In every case it comes to a next state. That a load waits for the array commands before it and not for later
ones is the model's reading (log 70). -/
def Sys2Proof.Claims.MatrixLoadSelection : Prop :=
  (∀ (s : State) (a id : Nat), s.occ = .at2 a id → ∃ u, exec .mxLoadStart s = .next u) ∧
  ∀ (s : State) (a : Nat), s.occ = .at2 a 0 →
    let x := mxOf s a
    (x.load.isSome = true → exec .mxLoadStart s = .next s) ∧
    ((∀ c ∈ x.q, isLoadOp c.op = true → behindArray x c = true) → exec .mxLoadStart s = .next s) ∧
    ∀ c, x.load = none → x.q.find? (fun c => isLoadOp c.op) = some c → (∀ d ∈ x.q, d.chosen = false) → NoErrors s →
      let h := cmdHandle s a c
      let goesOn := fun (u : State) => (mxOf u a).load = some (c.id, s.now + 1) ∧ Comes u (s.now + 1) .mxLoadStart (.at2 a c.id) ∧ (mxOf u a).acc = x.acc ∧ SameMemory s u
      behindArray x c = false → NotLogged s c.slot c.pb → c.set ≤ 1 → c.done = 0 → mxKept s a c s.now (loadSpan s a c) = false →
        (c.op ≠ .sclr → handleCause h [0, 2] = none → hFilled h < 64 → ∃ u, exec .mxLoadStart s = .next u ∧ goesOn u ∧ ∀ k, k ≤ 1 → mxSet (mxOf u a) k = mxSet x k) ∧
        (∀ f n v, c.op = .load false f n → 1 ≤ n → feed s c h 64 = .ready v → mxBank s c (ringRids h (hCons h) 64) = none →
          ∃ u, exec .mxLoadStart s = .next u ∧ goesOn u ∧ (mxSet (mxOf u a) c.set).held = f ∧
            ∀ p, kget 0 (mxSet (mxOf u a) c.set).w p = if p = 0 then putBits (kget 0 (mxSet x c.set).w 0) 0 512 v else kget 0 (mxSet x c.set).w p) ∧
        (c.op = .sclr → ∃ u, exec .mxLoadStart s = .next u ∧ (mxOf u a).load = some (c.id, s.now) ∧ SameMemory s u ∧
          Comes u s.now .mxCommandComplete (.at2 a c.id) ∧ ∀ r p, saOf (mxSet (mxOf u a) c.set) r p = 0x3F80#16 ∧ sbOf (mxSet (mxOf u a) c.set) r p = 0x3F80#16)

open Sys2Proof Sys2Proof.Machine in
/-- R270, R274, R276, R278, R280 to R282: `drain` and `stat` deliver, and the engines select their next commands. Which array commands a load waits for is log 70's reading, and when a command leaves the queue log 69's. -/
def Obligations.MatrixReadsAndSelection : Prop :=
  Sys2Proof.Claims.MatrixReads ∧ Sys2Proof.Claims.MatrixSelection ∧ Sys2Proof.Claims.MatrixLoadSelection

open Sys2Proof Sys2Proof.Machine in
/-- R274, R276: the turns of the load engine. A load takes 64 bytes of its stream into its panel; `scale` takes them as 32 scales of the columns or of a group of 32 rows; `sclr` sets every scale to 1.0. -/
def Sys2Proof.Claims.MatrixLoadTurns : Prop :=
  ∀ (s : State) (a id : Nat) (c : MxCmd), s.occ = .at2 a id → id ≠ 0 → cmdOf (mxOf s a) id = some c → (mxOf s a).load = some (id, s.now) → c.set ≤ 1 → NoErrors s →
    mxKept s a c s.now (loadSpan s a c) = false →
    let h := cmdHandle s a c
    let x := mxOf s a
    let w := mxSet x c.set
    let wide := fun (v j : Nat) => BitVec.ofNat 16 (v / 2 ^ (16 * j))
    (∀ f n v, c.op = .load false f n → feed s c h 64 = .ready v → mxBank s c (ringRids h (hCons h) 64) = none →
      ∃ u, exec .mxLoadStart s = .next u ∧ SameMemory s u ∧ (mxOf u a).acc = x.acc ∧
        ∀ p, kget 0 (mxSet (mxOf u a) c.set).w p = if p = c.done / 32 then putBits (kget 0 w.w p) (512 * (c.done % 32)) 512 v else kget 0 w.w p) ∧
    (∀ cols p0 n v, c.op = .scale cols p0 n → p0 + n ≤ 8 → feed s c h 64 = .ready v → mxBank s c (ringRids h (hCons h) 64) = none →
      ∃ u, exec .mxLoadStart s = .next u ∧ SameMemory s u ∧ (mxOf u a).acc = x.acc ∧
        let w' := mxSet (mxOf u a) c.set
        w'.w = w.w ∧
        (cols = true → c.done < n → ∀ r p, p < 8 → saOf w' r p = saOf w r p ∧ sbOf w' r p = if p = p0 + c.done ∧ r < 32 then wide v r else sbOf w r p) ∧
        (cols = false → c.done < 8 * n → let r0 := c.done % 8 * 32
          ∀ r p, p < 8 → sbOf w' r p = sbOf w r p ∧ saOf w' r p = if p = p0 + c.done / 8 ∧ r0 ≤ r ∧ r < r0 + 32 then wide v (r - r0) else saOf w r p)) ∧
    (c.op = .sclr → c.done = 0 →
      ∃ u, exec .mxLoadStart s = .next u ∧ (∀ r p, saOf (mxSet (mxOf u a) c.set) r p = 0x3F80#16 ∧ sbOf (mxSet (mxOf u a) c.set) r p = 0x3F80#16) ∧
        Comes u s.now .mxCommandComplete (.at2 a id) ∧ SameMemory s u)

open Sys2Proof Sys2Proof.Machine in
/-- R137, R139, R277, R278: a row of A, dense or sparse, updates its accumulator row, column by column, by the scaled panel partials, and no other; with `zero`, the first row of a group finds the group's rows cleared. The next row comes in the next cycle; after
a pass's last row the pass is over, and after the last row of the last one so is the command. -/
def Sys2Proof.Claims.MatrixRowTurns : Prop :=
  ∀ (s : State) (a id : Nat) (c : MxCmd), s.occ = .at2 a id → id ≠ 0 → cmdOf (mxOf s a) id = some c → (mxOf s a).array = some (id, s.now) → NoErrors s →
    mxKept s a c s.now (arraySpan s a c) = false →
    let h := cmdHandle s a c
    let x := mxOf s a
    let w := mxSet x c.set
    let cls := (widthClass w.held).getD 16
    ∀ sparse f bank row0 zero gs credit g v, c.op = .run sparse f bank row0 zero gs credit → gs[c.group]? = some g → c.row < g.rows →
      let n := if sparse then 128 else 64
      feed s c h n = .ready v → mxBank s c (ringRids h (hCons h) n) = none →
      let base := row0 + ((gs.take c.group).map (·.rows)).foldl (· + ·) 0
      let cleared := fun (k : Nat) => zero = true ∧ c.pass = 0 ∧ c.row = 0 ∧ ∃ i, i < g.rows ∧ k = 256 * bank + (base + i)
      let part := fun (p v j : Nat) => panelPart f w.held cls v (kget 0 w.w p) (kget 0 w.pruned p) j (saOf w (base + c.row) p) (sbOf w j p)
      let passes := if sparse then g.npanel / 2 else g.npanel
      ∃ u, exec .mxArraySelect s = .next u ∧
        (∀ j, j < 32 → let old := if zero = true ∧ c.pass = 0 ∧ c.row = 0 then 0#32 else lane (accOf x bank (base + c.row)) j
          lane (accOf (mxOf u a) bank (base + c.row)) j = if sparse then
              fadd32 (fadd32 old (part (g.pan0 + 2 * c.pass) (v % 2 ^ 512) j)) (part (g.pan0 + 2 * c.pass + 1) (v / 2 ^ 512) j)
            else fadd32 old (part (g.pan0 + c.pass) v j)) ∧
        (∀ b r, 256 * b + r ≠ 256 * bank + (base + c.row) → (cleared (256 * b + r) → accOf (mxOf u a) b r = 0) ∧ (¬cleared (256 * b + r) → accOf (mxOf u a) b r = accOf x b r)) ∧
        (c.row + 1 < g.rows → (mxOf u a).array = some (id, s.now + 1) ∧ Comes u (s.now + 1) .mxArraySelect (.at2 a id) ∧ SameMemory s u) ∧
        (c.row + 1 = g.rows → c.pass + 1 < passes → if mxBooked s a c = true then (mxOf u a).array = some (id, s.now + 9) else (mxOf u a).arrayEnd = some s.now) ∧
        (c.row + 1 = g.rows → passes ≤ c.pass + 1 → c.group + 1 = gs.length → Comes u s.now .mxCommandComplete (.at2 a id) ∧ SameMemory s u)

open Sys2Proof Sys2Proof.Machine in
/-- R280: a row of `drainc` writes the converted accumulator row at the handle's position, and with `clear` the accumulator row becomes zero. -/
def Sys2Proof.Claims.MatrixDrainTurns : Prop :=
  ∀ (s : State) (a id : Nat) (c : MxCmd), s.occ = .at2 a id → id ≠ 0 → cmdOf (mxOf s a) id = some c → (mxOf s a).array = some (id, s.now) →
    mxKept s a c s.now (arraySpan s a c) = false →
    let h := cmdHandle s a c
    let x := mxOf s a
    let n := 4 * fmtBits (fmtD (c.cfg.toNat / 2 ^ 12 % 64))
    let off := (hProd h).toNat % hSize h
    ∀ bank row0 count clear, c.op = .drainc bank row0 count clear false → handleCause h [0, 1] = none → pushHeld s c.step h = false →
      mxBank s c (ringRids h (hProd h) n) = none → n ≤ hRoom h → off + n ≤ hSize h → ringCause s c.slot h (hProd h) n = none → Plain s (hBase h + off) n →
      ∃ u, exec .mxArraySelect s = .next u ∧ Stored s u (hBase h + off) n (drainRow c.cfg (accOf x bank (row0 + c.row))).2 ∧
        ∀ b r, accOf (mxOf u a) b r = if clear = true ∧ 256 * b + r = 256 * bank + (row0 + c.row) then 0 else accOf x b r

open Sys2Proof Sys2Proof.Machine in
/-- R137, R139, R274, R276 to R278, R280: the turns of the engines: loads take their panels and scales, `sclr` sets every scale to 1.0, products update accumulator rows, cleared first where `zero` asks for it, and `drainc` stores them. -/
def Obligations.MatrixTurns : Prop :=
  Sys2Proof.Claims.MatrixLoadTurns ∧ Sys2Proof.Claims.MatrixRowTurns ∧ Sys2Proof.Claims.MatrixDrainTurns

open Sys2Proof Sys2Proof.Machine in
/-- R239: a remote matrix command that reaches its target is answered: 1 for a key that does not match, 2 for an operation that may not come so, 3 for a full queue, else 0, and then it joins the queue as a remote command, or exchanges
the sets. What a remote command answers is as log 72 reads the rules. -/
def Obligations.RemoteMatrixCommands : Prop :=
  ∀ (s : State) (p : Pkt) (a : Nat) (key : Word) (vals : Row) (op : BitVec 12), s.occ = .pkt p → p.kind = .mxcmd a key vals op → Lands s p [] →
    let x := mxOf s a
    let answered := fun (u : State) (v : Nat) => ∃ d, Comes u d .replyArrival (.reply p.agent p.id [(0, rowOf (BitVec.ofNat 32 v))])
    ∃ u, exec .mxcmdArrival s = .next u ∧
      (x.key = 0 ∨ key ≠ x.key → answered u 1 ∧ mxOf u a = x) ∧
      (x.key ≠ 0 → key = x.key → op.toNat ∉ [2, 3, 4, 5, 6, 7, 9, 10, 14] → answered u 2 ∧ mxOf u a = x) ∧
      (x.key ≠ 0 → key = x.key → op.toNat ∈ [2, 3, 4, 5, 6, 7, 9, 10] → 16 ≤ x.q.length → answered u 3 ∧ mxOf u a = x) ∧
      (x.key ≠ 0 → key = x.key → op.toNat = 14 → answered u 0 ∧ mxOf u a = { x with act := !x.act }) ∧
      (∀ o, x.key ≠ 0 → key = x.key → op.toNat ∈ [2, 3, 4, 5, 7, 9, 10] → x.q.length < 16 →
        mxParse s a op.toNat ⟨0, lane vals 0, lane vals 1, lane vals 2, lane vals 3⟩ [] = .ok o →
        answered u 0 ∧ ∃ c, (mxOf u a).q = x.q ++ [c] ∧ c.op = o ∧ c.remote = true ∧ c.agent = p.agent ∧ c.slot = p.slot ∧ c.prio = 0 ∧ c.trig = s.now)


/-! ### Copy engines (R284 to R296) -/

namespace Sys2Proof.Machine

/-- A `ch` operation may set out: the socket is not stopped, `q0` has room, and no fence stands before it (R91, R147). -/
def ChReady (s : State) (m : Trig) : Prop := Ready s m ∧ Free s .ch 0x20 1 ∧ fenceHeld s s.cur.a = false

/-- The tile's operation waits in its copy engine, which takes it up in the next cycle; its result is on its way to `q0`, and nothing else changes. -/
def Asked (s t : State) (op : ChOp) : Prop :=
  let a := s.cur.a
  let e := engineOf a
  cceOf t e = { cceOf s e with pend := (cceOf s e).pend ++
    [{ id := s.seq, agent := a, slot := slotOf s a, step := stepOf s a, org := orgOf s a s.cur.slot, pb := pbOf s a, op := op }] } ∧
  (∀ x, x ≠ e → cceOf t x = cceOf s x) ∧ Comes t (s.now + 1) .cceAccept (.at2 e s.seq) ∧
  (∃ f ∈ (bk t a).x.flights, f.u = .ch ∧ f.code = 0x20 ∧ f.id = s.seq ∧ f.due = none) ∧
  { t with agents := s.agents, agenda := s.agenda, seq := s.seq, cces := s.cces } = s ∧ SameMemory s t ∧ SameRegs s t a ∧ SameValues s t a ∧
  seqPlace (bk t a).q = seqPlace (bk s a).q ∧ (∀ b, b ≠ a → ag t b = ag s b) ∧ (ag t a).wings = (ag s a).wings

/-- An address in `lo` and `hi` that R284 allows: space 0 with no high bits, or space 1; a multiple of 8. -/
def AddrLegal (lo hi : Word) : Prop := hi.toNat < 2 ^ 21 ∧ (hi.toNat < 2 ^ 20 → hi = 0) ∧ lo.toNat % 8 = 0

def addrNum (lo hi : Word) : Nat := lo.toNat + hi.toNat % 2 ^ 20 * 2 ^ 32

/-- What R284 asks of a command whose kind names a source, a destination, or may deliver into a handle. -/
def BlockLegal (s : State) (m : Trig) (src dst hnd : Bool) (rows ss ds : Word) : Prop :=
  let o := oVal s .ch
  let t := (tVal s m).toNat
  (src = true → AddrLegal (o 0) (o 1)) ∧ (dst = true → t / 2 ^ 9 % 2 = 0 → AddrLegal (o 2) (o 3)) ∧ t < 2 ^ 10 ∧ t / 2 ^ 4 % 2 = 0 ∧
  (t / 2 ^ 3 % 2 = 1 → t % 8 = 0 ∧ isBooked s s.cur.a = false) ∧ (o 4).toNat % 8 = 0 ∧ (o 4).toNat ≤ 2 ^ 20 ∧ rows.toNat ≤ 65535 ∧
  ss.toNat % 8 = 0 ∧ ds.toNat % 8 = 0 ∧
  (t / 2 ^ 9 % 2 = 1 → hnd = true ∧ let h := hReg s s.cur.a (t / 2 ^ 5 % 16)
    handleCause h [0, 1] = none ∧ (o 4).toNat % 64 = 0 ∧ (o 4).toNat ≤ hSize h)

/-- The command that the ports and t describe, with its completion action and the targets latched from `chsw` and `chdc` (R284, R285). -/
def described (s : State) (m : Trig) (kind : XferKind) (src dst : Bool) (rows ss ds : Word) (gt : Option Nat) (act : Fin 4) : Xfer :=
  let o := oVal s .ch
  let t := (tVal s m).toNat
  let toMem := dst && decide (t / 2 ^ 9 % 2 = 0)
  { kind := kind, srcVirt := src && decide (2 ^ 20 ≤ (o 1).toNat), src := if src then addrNum (o 0) (o 1) else 0,
    dstVirt := toMem && decide (2 ^ 20 ≤ (o 3).toNat), dst := if toMem then addrNum (o 2) (o 3) else 0,
    rowBytes := (o 4).toNat, rows := rows.toNat, sstr := ss.toInt, dstr := ds.toInt, gt := gt,
    lane := if t / 2 ^ 3 % 2 = 1 then freestLane s (engineOf s.cur.a) else t % 8,
    hnd := if t / 2 ^ 9 % 2 = 1 then some (t / 2 ^ 5 % 16) else none, act := act.val,
    sw := if act.val = 0 then 0 else (bk s s.cur.a).c.chsw.toNat, dc := if act.val = 0 then 0 else (bk s s.cur.a).c.chdc.toNat }

/-- Room for the command: in its lane's queue, or for a timed one in the buffer (R286, R289). -/
def HasRoom (s : State) (x : Xfer) : Prop :=
  if x.gt.isSome then timedLoad s (engineOf s.cur.a) < 32 else laneLoad s (engineOf s.cur.a) x.lane < 16

/-- The block's homes are in SRAM, so that acceptance needs no translation. -/
def InSram (x : Xfer) : Prop := x.srcVirt = false ∧ x.dstVirt = false

end Sys2Proof.Machine

open Sys2Proof Sys2Proof.Machine in
/-- R284 to R291: the commands of the copy family, expansion and checksum complete on operands that R284 allows and with room: the request goes to the copy engine with every field. A full lane holds the bundle; a
malformed command faults with 0x80, and one into a handle that is invalid or of the wrong role with 0x28, and nothing is queued. -/
def Sys2Proof.Claims.ChannelCommandsSetOut : Prop :=
  ∀ (act : Fin 4) (m : Trig) (s : State), ChReady s m →
    let o := oVal s .ch
    let asks : Instr → XferKind → Bool → Bool → Bool → Word → Word → Word → Option Nat → Prop := fun i k src dst hnd rows ss ds gt =>
      let x := described s m k src dst rows ss ds gt act
      BlockLegal s m src dst hnd rows ss ds →
        (HasRoom s x → ∃ u, exec i s = .next u ∧ Asked s u (.xfer x)) ∧ (¬ HasRoom s x → exec i s = .next (holdCycle s s.cur.a .lock))
    let faults : Instr → Nat → Prop := fun i c => exec i s = .next (syncFault s s.cur.a c s.cur.slot none)
    asks (.chCopy act m) .copy true true true (o 5) (o 6) (o 7) none ∧
    asks (.chCopyt act m) .copy true true true (o 5) (o 6) (o 7) (some ((o 8).toNat + 2 ^ 32 * (o 9).toNat)) ∧
    asks (.chFill act m) (.fill (o 1 ++ o 0)) false true true (o 5) 0 (o 7) none ∧
    asks (.chShadow act m) .shadow true true true (o 5) (o 6) (o 7) none ∧
    ((o 7).toNat % 16 = 0 → asks (.chCrc act m) (.crc (o 7).toNat) true false false (o 5) (o 6) 0 none) ∧
    ((o 5).toNat % 16 = 0 → o 3 = 0 → (o 2).toNat % 64 = 0 → 0x180000 ≤ addrOff (o 2).toNat → addrOff (o 2).toNat < 0x190000 →
      asks (.chExpand act m) (.expand (o 5).toNat) true true false 1 0 0 none) ∧
    (AddrLegal (o 0) (o 1) → o 0 &&& 63#32 = 0 → tVal s m = 0 →
      ∃ u, exec (.chCopyi act m) s = .next u ∧ Asked s u (.block (decide (2 ^ 20 ≤ (o 1).toNat)) (addrNum (o 0) (o 1)) act.val)) ∧
    (2 ^ 10 ≤ (tVal s m).toNat → (tVal s m).toNat / 2 ^ 9 % 2 = 0 → faults (.chCopy act m) 0x80 ∧ faults (.chFill act m) 0x80 ∧ faults (.chShadow act m) 0x80) ∧
    ((tVal s m).toNat / 2 ^ 9 % 2 = 1 → hValid (hReg s s.cur.a ((tVal s m).toNat / 2 ^ 5 % 16)) = false → faults (.chCopy act m) 0x28)

open Sys2Proof Sys2Proof.Machine in
/-- R293 to R296: the control operations of `ch` complete on legal operands, and their requests go to the copy engine; malformed ones fault with 0x80, and a publish without a valid pair with 0x45. -/
def Sys2Proof.Claims.ChannelControlSetsOut : Prop :=
  ∀ (m : Trig) (s : State), ChReady s m →
    let o := oVal s .ch
    let t := tVal s m
    let virt := decide (2 ^ 20 ≤ (o 1).toNat)
    let n := addrNum (o 0) (o 1)
    let asks : Instr → ChOp → Prop := fun i op => ∃ u, exec i s = .next u ∧ Asked s u op
    let faults : Instr → Nat → Prop := fun i c => exec i s = .next (syncFault s s.cur.a c s.cur.slot none)
    (pairExists s (slotOf s s.cur.a) (t.toNat % 2 ^ 16) = true → (t.toNat < 2 ^ 16 → asks (.chPublish m) (.publish t.toNat)) ∧ (2 ^ 16 ≤ t.toNat → faults (.chPublish m) 0x80)) ∧
    (pairExists s (slotOf s s.cur.a) (t.toNat % 2 ^ 16) = false → faults (.chPublish m) 0x45) ∧
    (t = 1 → asks (.chPbinv m) (.pbinv true false 0) ∧ asks (.chTlbinv m) (.tlbinv true 0)) ∧
    (AddrLegal (o 0) (o 1) → (t = 0 → n % 64 = 0 → asks (.chPbinv m) (.pbinv false virt n)) ∧ (t = 0 → virt = true → asks (.chTlbinv m) (.tlbinv false n)) ∧
      (t.toNat < 2 → virt = true → 1 ≤ (o 4).toNat → (o 4).toNat ≤ 256 → asks (.chTlbpin m) (.tlbpin (decide (t = 1)) n (o 4).toNat))) ∧
    (2 ≤ t.toNat → faults (.chPbinv m) 0x80 ∧ faults (.chTlbinv m) 0x80 ∧ faults (.chTlbpin m) 0x80) ∧
    (t.toNat < 2 ^ 16 → asks (.chCancel m) (.cancel t.toNat)) ∧ (2 ^ 16 ≤ t.toNat → faults (.chCancel m) 0x80) ∧
    (t.toNat ≤ 4 → (t = 0 → (o 0).toNat < 8) → (t = 2 → (o 0).toNat < 2 ^ 16) → asks (.chStat m) (.stat t.toNat (o 0).toNat)) ∧
    (5 ≤ t.toNat → faults (.chStat m) 0x80)

open Sys2Proof Sys2Proof.Machine in
/-- R284 to R296: the operations of `ch` complete, and their requests go to the copy engine. -/
def Obligations.ChannelOperationsSetOut : Prop :=
  Sys2Proof.Claims.ChannelCommandsSetOut ∧ Sys2Proof.Claims.ChannelControlSetsOut

open Sys2Proof Sys2Proof.Machine in
/-- R100, R286, R287, R289, R294 to R296: the engine's turns. A request waits while an earlier store of its tile is outstanding; at its turn it is accepted: a block in SRAM gets the next identifier and joins its lane, or the buffer, or completes at once with nothing to move, and a status or a cancel is answered;
a timed copy whose time has come starts in its free lane; a unit of up to 64 bytes is read and then written at its destination; a completed command leaves and decrements its counter; the ends of an invalidation and of a pin answer. Units move in ascending order, one a cycle (the model's choice, log 79, 83); that a status or a cancel is answered whatever other requests wait, and that the credit leaves one cycle after the write, are log 81 and 84. -/
def Obligations.CopyEngineTurns : Prop :=
  (∀ (s : State) (e id : Nat) (r : ChReq), s.occ = .at2 e id → (cceOf s e).pend.find? (fun q => q.id == id) = some r → s.voids.contains id = false →
    let answers : Nat → State → Prop := fun v t => Comes t (s.now + 1) .replyArrival (.reply r.agent r.id [(0, rowOf (BitVec.ofNat 32 v))])
    (storesDone s r.agent id = false → (∀ q ∈ (cceOf s e).kept, q.agent ≠ r.agent) → ∃ t, exec .cceAccept s = .next t ∧ SameMemory s t ∧ t.cces = s.cces ∧ Comes t (s.now + 1) .cceAccept (.at2 e r.id)) ∧
    (storesDone s r.agent id = true →
    (∀ sel o, r.op = .stat sel o → ∃ t, exec .cceAccept s = .next t ∧ SameMemory s t ∧ answers (chStatus s e r sel o) t ∧ t.agents = s.agents) ∧
    (∀ cid, r.op = .cancel cid → (∀ c ∈ copiesOf (cceOf s e), c.req.agent = r.agent → c.cid ≠ cid) →
      ∃ t, exec .cceAccept s = .next t ∧ SameMemory s t ∧ answers 0 t ∧ t.agents = s.agents) ∧
    (∀ x, r.op = .xfer x → (∀ q ∈ (cceOf s e).kept, q.agent ≠ r.agent) → (∀ q ∈ (cceOf s e).pend, q.agent = r.agent → chAtOnce q.op = true ∨ id ≤ q.id) →
      InSram x → x.kind ≠ .shadow → (x.act % 2 = 1 → inData x.sw 16 = true) →
      (x.gt = none → (laneOf s e x.lane).queue.length < 16) → (x.gt ≠ none → (cceOf s e).timed.length < 32) →
      ∃ t, exec .cceAccept s = .next t ∧ SameMemory s t ∧ answers (cceOf s e).next t ∧ (cceOf t e).next = ((cceOf s e).next + 1) % 2 ^ 16 ∧
        (nothingToMove x = true → (x.act / 2 = 1 → Comes t (s.now + 1) .dcDec (.at3 r.slot x.dc r.agent)) ∧ (cceOf t e).lanes = (cceOf s e).lanes ∧ (cceOf t e).timed = (cceOf s e).timed) ∧
        (nothingToMove x = false → ∀ g, x.gt = some g → (∃ c, (cceOf t e).timed = (cceOf s e).timed ++ [c] ∧ c.x = x ∧ c.cid = (cceOf s e).next) ∧
          Comes t (max (s.now + 1) (cycleOf s g)) .timedCopyStart (.at3 e x.lane r.id)) ∧
        (nothingToMove x = false → x.gt = none → (laneOf s e x.lane).run = none → (laneOf s e x.lane).queue = [] → (cceOf s e).timed = [] →
          (∃ c, (laneOf t e x.lane).run = some c ∧ c.x = x ∧ c.cid = (cceOf s e).next ∧ c.row = 0) ∧ Comes t (s.now + 1) .copyRowWrite (.at3 e x.lane r.id))))) ∧
  (∀ (s : State) (e l id : Nat) (c : Copy), s.occ = .at3 e l id →
    (∀ d, (cceOf s e).timed.find? (fun c => c.req.id == id) = some d → d.x.gt.getD 0 ≤ gtOf s → (laneOf s e l).run = none → dueCopy s e l (gtOf s) = some c → (∀ g, c.x.gt = some g → g ≤ gtOf s) →
      (∀ b ∈ (cceOf s e).timed, b.x.lane = l → ∀ g, b.x.gt = some g → g ≤ gtOf s → c.x.gt.getD 0 ≤ g) ∧
      ∃ t, exec .timedCopyStart s = .next t ∧ (laneOf t e l).run = some c ∧ Comes t s.now .copyRowWrite (.at3 e l c.req.id) ∧ SameMemory s t ∧ t.agents = s.agents) ∧
    ((laneOf s e l).run = some c → c.req.id = id → (laneOf s e l).line ≤ s.now → c.x.kind = .copy → c.x.hnd = none → InSram c.x → stepBooked s c.req.agent c.req.step = false → NoErrors s →
      let sa := rowAddr c.x.src c.x.sstr false c.row c.unit_
      let da := rowAddr c.x.dst c.x.dstr false c.row c.unit_
      let n := min (min 64 (c.x.rowBytes - c.unit_)) (min (65536 - sa % 65536) (65536 - da % 65536))
      turnKept s e l c (some (.sram sa)) n false = none → copyCause s c.req.slot (.sram sa) n true = none →
      ∃ t d acc, exec .copyRowWrite s = .next t ∧ SameMemory s t ∧ s.now < d ∧ Comes t d .copyRowWrite (.access acc) ∧ acc.op = .store n ∧ acc.loc = .sram da ∧
        acc.data = BitVec.ofNat 2048 (loadN s sa n) ∧ acc.id = id ∧ acc.agent = e)) ∧
  (∀ (s : State) (x : Access) (addr n : Nat) (c : Copy), s.occ = .access x → x.loc = .sram addr → x.op = .store n → n ≤ 64 → copyOf s x.agent x.id = some c → c.x.hnd = none → c.x.kind ≠ .shadow →
    stepBooked s c.req.agent c.req.step = false → locKept s c.req.agent c.req.step x.loc n true = none → copyCause s x.slot x.loc n false = none → Plain s addr n →
    ∃ t, exec .copyRowWrite s = .next t ∧ Stored s t addr n x.data.toNat ∧ t.hbm = s.hbm ∧
      (c.x.act % 2 = 1 → s.deadCredits.contains x.id = false → effectOf s c.req.step 0x29 (objSram c.x.sw) = .fresh → ∃ d op, s.now < d ∧ (addrTile c.x.sw = c.req.agent → d = s.now + 1) ∧ Comes t d .creditAtHome (.sync op) ∧
        op.loc = .sram c.x.sw ∧ op.a = BitVec.ofNat 32 n)) ∧
  (∀ (s : State) (op : SyncOp), s.occ = .sync op → s.deadCredits.contains op.id = false → stepBooked s op.issuer op.step = false → effectOf s op.step 0x29 (locObj op.loc) = .fresh →
    ∃ t d f, exec .copyWriteAck s = .next t ∧ SameMemory s t ∧ s.now < d ∧ Comes t d .creditAtHome (.sync { op with eff := f })) ∧
  ∀ (s : State) (e id : Nat), s.occ = .at2 e id →
    (∀ c, copyOf s e id = some c → (∀ d ∈ copiesOf (cceOf s e), d.x.hnd = none) →
      ∃ t, exec .copyComplete s = .next t ∧ SameMemory s t ∧ copyOf t e id = none ∧ (c.x.act / 2 = 1 → Comes t (s.now + 1) .dcDec (.at3 c.req.slot c.x.dc c.req.agent))) ∧
    (∀ v, (cceOf s e).invs.find? (fun v => v.1 == id) = some v →
      ∃ t, exec .tlbinvComplete s = .next t ∧ SameMemory s t ∧ Comes t (s.now + 1) .replyArrival (.reply v.2.1 id [(0, rowOf (BitVec.ofNat 32 v.2.2.1))])) ∧
    (∀ r pin va n, (cceOf s e).pubs.find? (fun q => q.id == id) = some r → r.op = .tlbpin pin va n →
      (∀ k, pinWalk s e r.slot va n = .error k → ∃ t, exec .tlbpinComplete s = .next t ∧ t.tlbs = s.tlbs ∧ SameMemory s t ∧
        (k = 0xA4 → r.slot ≠ 0 → regF t (slotReg r.slot 0x078) 0 0 = 1) ∧ Comes t (s.now + 1) .replyArrival (.reply r.agent r.id [(0, rowOf (BitVec.ofNat 32 (2 ^ 31 + pinnedIn (tlbOf s e) r.slot)))])) ∧
      ∀ k, n = 1 → (tlbOf s e).find? (fun u => tlbHits u r.slot va) = some k →
        let l := (tlbOf s e).map fun u => if u.slot = k.slot ∧ u.page = k.page ∧ u.big = k.big then { u with pinned := pin } else u
        (l.filter (·.pinned)).length ≤ 256 → ∃ t, exec .tlbpinComplete s = .next t ∧ tlbOf t e = l ∧ SameMemory s t ∧
          Comes t (s.now + 1) .replyArrival (.reply r.agent r.id [(0, rowOf (BitVec.ofNat 32 (pinnedIn l r.slot)))]))

open Sys2Proof Sys2Proof.Machine in
/-- R104, R105, R293: a publish with no shadow copy of its tile outstanding fixes P at 256 cycles after its Q, delivers P and makes the exchange due at P; at P every valid entry of the pair, in every tile of the context
and at the home channels, exchanges front and shadow, and no other entry changes. -/
def Obligations.PublishExchangesThePair : Prop :=
  (∀ (s : State) (e id pid : Nat) (r : ChReq), s.occ = .at2 e id → (cceOf s e).pubs.find? (fun q => q.id == id) = some r → r.op = .publish pid →
    shadowPending s e r pid = false → NotLogged s r.slot r.pb →
    ∃ t, exec .publishReady s = .next t ∧ Comes t (s.now + 2) .replyArrival (.reply r.agent id [(0, rowOf (BitVec.ofNat 32 (gtOf s + 256)))]) ∧
      Comes t (cycleOf s (gtOf s + 256)) .publishExchange (.at3 r.slot pid (gtOf s + 256)) ∧ SameMemory s t ∧ t.pairs = s.pairs ∧ t.agents = s.agents) ∧
  ∀ (s : State) (slot pid p : Nat), s.occ = .at3 slot pid p → p ≤ gtOf s →
    ∃ t, exec .publishExchange s = .next t ∧
      (∀ k, kget 0 t.pairs k = if isPair s slot pid (k, kget 0 s.pairs k) then kget 0 s.pairs k ^^^ 0x4000#32 else kget 0 s.pairs k) ∧
      t.hpairs = s.hpairs.map (fun p => if p.slot = slot ∧ p.pid = pid then { p with swapped := !p.swapped } else p) ∧
      t.sram = s.sram ∧ t.hbm = s.hbm ∧ t.agents = s.agents

/-! ### Network operations and packets (R226 to R240) -/

namespace Sys2Proof.Machine

/-- A packet of kind `k` may leave: the socket is not stopped, and its channel has room for all its flits (R226). -/
def NtReady (s : State) (m : Trig) (k : PktKind) : Prop :=
  Ready s m ∧ sockHeld s s.cur.a .nt = false ∧ chanFlits (chanOf s s.cur.a (pktChan k)) + pktFlits k ≤ 16

/-- The package that a put leaves for: the one that `ntpkg` names, if it is enabled and another (R231). -/
def putPackage (s : State) : Option Nat :=
  let w := (bk s s.cur.a).c.ntpkg
  if w.getLsbD 15 = true ∧ w.toNat % 1024 ≠ regF s 0x7000 9 0 then some (w.toNat % 1024) else none

/-- The packet is the last of its channel, with all its flits to go, and the channels inject from the next cycle on; every other channel is as it was. A put has latched its package, and a
spawn the word of its target. -/
def Enqueued (s t : State) (k : PktKind) : Prop :=
  let a := s.cur.a
  let p : Pkt := { id := s.seq, agent := a, slot := slotOf s a, kind := k, flits := pktFlits k, booked := isBooked s a, org := orgOf s a s.cur.slot,
                   step := stepOf s a, pb := pbOf s a, eff := none,
                   pkg := match k with
                     | .put _ _ _ | .putb _ _ _ => putPackage s
                     | _ => none,
                   addr := match k with
                     | .spawn _ _ _ _ => oVal s .nt 0
                     | _ => 0 }
  (chanOf t a (pktChan k)).pkts = (chanOf s a (pktChan k)).pkts ++ [(p, pktFlits k)] ∧ (chanOf t a (pktChan k)).refused = (chanOf s a (pktChan k)).refused ∧
  (∀ c, c ≠ pktChan k → chanOf t a c = chanOf s a c) ∧ ((ag s a).injecting = false → Comes t (s.now + 1) .flitInject (.at a))

/-- What an `nt` operation that sends a packet leaves as it was: beside the tile's channels, its router and its copy engine's translations, all. -/
def OnlySendsPacket (s t : State) : Prop :=
  let a := s.cur.a
  { t with agents := s.agents, agenda := s.agenda, seq := s.seq, routers := s.routers, tlbs := s.tlbs } = s ∧ SameMemory s t ∧ SameRegs s t a ∧ SameValues s t a ∧
  seqPlace (bk t a).q = seqPlace (bk s a).q ∧ (∀ b, b ≠ a → ag t b = ag s b ∧ rtr t b = rtr s b) ∧ (ag t a).wings = (ag s a).wings

/-- The event in which a packet reaches its target (R228, R230, R232, R237 to R239). -/
def arrivesAs : PktKind → Instr
  | .put _ _ _ | .putb _ _ _ => .putArrival
  | .send _ _ _ _ _ _ => .sendArrival
  | .spawn _ _ _ _ => .spawnArrival
  | .event _ => .siltEventArrival
  | .mxcmd _ _ _ _ => .mxcmdArrival
  | .reduce _ _ _ _ | .bcast _ _ _ => .treePacketArrival

/-- The flit counts of R226. -/
def flitsOf : PktKind → Nat
  | .put _ _ _ | .event _ | .mxcmd _ _ _ _ => 1
  | .spawn _ _ _ _ => 2
  | .send _ _ n _ _ _ | .putb _ n _ => 1 + n / 64
  | .reduce _ w _ _ | .bcast _ w _ => if w then 5 else 3

end Sys2Proof.Machine

open Sys2Proof Sys2Proof.Machine in
/-- R226 to R231, R233, R234, R237 to R239: the operations of `nt` that send a packet complete while it fits in their channel and their operands pass the checks: the packet, with the port values as latched, joins its channel. A packet that does not fit holds the bundle; malformed
operands fault and send nothing. -/
def Obligations.NetworkOperationsSendPackets : Prop :=
  (∀ k, pktFlits k = flitsOf k) ∧
  ∀ (m : Trig) (s : State), stepJournals s (stepOf s s.cur.a) = false →
    let a := s.cur.a
    let o := oVal s .nt
    let w := oRow s .nt 2
    let t := tVal s m
    let sends : Instr → PktKind → Prop := fun i k =>
      (NtReady s m k → ∃ u, exec i s = .next u ∧ Enqueued s u k ∧ OnlySendsPacket s u) ∧
      (Ready s m → 16 < chanFlits (chanOf s a (pktChan k)) + pktFlits k → exec i s = .next (holdCycle s a .lock))
    let faults : Instr → Nat → Option Word → Prop := fun i c x => Ready s m → exec i s = .next (syncFault s a c s.cur.slot x)
    let free := inFlight s a .nt 0x20 < 32
    (∀ n : Fin 16, t = BitVec.ofNat 32 n.val → (o 1).toNat < 4 → let h := hReg s a n.val
      (handleCause h [1] = none → restartEffect s a 0x2A (objSram (hBase h)) = .fresh →
        let k := fun w_ => PktKind.send (hPeer h) (Fin.ofNat 16 (hPhandle h)) (64 * ((o 1).toNat + 1)) w w_ n
        sends (.ntSend m) (k false) ∧ (free → sends (.ntSendw m) (k true))) ∧
      (hMalformed h = true → faults (.ntSend m) 0x2A none) ∧ (hMalformed h = false → (hValid h = false ∨ hRole h ≠ 1) → faults (.ntSend m) 0x28 none)) ∧
    ((16 ≤ t.toNat ∨ 4 ≤ (o 1).toNat) → faults (.ntSend m) 0x2A none ∧ faults (.ntSendw m) 0x2A none) ∧
    (fenceHeld s a = false →
      (inData (o 0).toNat 8 = true → (o 0).toNat % 8 = 0 → sends (.ntPut m) (.put (o 0).toNat (o 1) t)) ∧
      (t.toNat < 4 → let n := 64 * (t.toNat + 1)
        inData (o 0).toNat n = true → (o 0).toNat % 64 = 0 → sends (.ntPutb m) (.putb (o 0).toNat n w))) ∧
    (inData (o 0).toNat 8 = false → faults (.ntPut m) 0x40 (some (o 0))) ∧ (inData (o 0).toNat 8 = true → (o 0).toNat % 8 ≠ 0 → faults (.ntPut m) 0x43 (some (o 0))) ∧
    (∀ n : Fin 16, t.toNat < 32 → t.toNat % 16 = n.val → let e := (treeAt s a n).entry
      let wide := decide (16 ≤ t.toNat)
      (teValid e = true → teLocal e = true → sends (.ntReduce m) (.reduce n wide w (treeAt s a n).inst) ∧
        (NtReady s m (.reduce n wide w 0) → ∀ u, exec (.ntReduce m) s = .next u → (treeAt u a n).inst = ((treeAt s a n).inst + 1) % 256)) ∧
      ((teValid e = false ∨ teLocal e = false) → faults (.ntReduce m) 0x4D none) ∧
      (teParent e = 7 → sends (.ntBcast m) (.bcast n wide w)) ∧ (teParent e ≠ 7 → faults (.ntBcast m) 0x4A none)) ∧
    (32 ≤ t.toNat → faults (.ntReduce m) 0x4A none ∧ faults (.ntBcast m) 0x4A none) ∧
    (t.toNat < 256 → let e := spawnTableEntry s a t.toNat
      (o 1 = 0 → sends (.ntSpawn m) (.spawn (addrTile (o 0).toNat) 0 e w)) ∧
      (2 ^ 31 ≤ (o 1).toNat → (o 1).toNat < 2 ^ 31 + 2 ^ 20 → isBooked s a = false → let va := (o 1).toNat % 2 ^ 20 * 2 ^ 32 + (o 0).toNat
        ∀ p pinned, (translate (sourced s m) (engineOf a) (slotOf s a) va false).2 = .ok (p, pinned) → p.host = false → paOk p.pa = true → NoErrors s →
          NtReady s m (.spawn 0 0 0 0) → ∃ u, exec (.ntSpawn m) s = .next u ∧ Enqueued s u (.spawn (paDock p.pa) (va / 65536 * 65536) e w) ∧ OnlySendsPacket s u)) ∧
    ((256 ≤ t.toNat ∨ (o 1 ≠ 0 ∧ (o 1).toNat < 2 ^ 31)) → faults (.ntSpawn m) 0x4A none) ∧
    ((o 0).toNat % 8 < 4 → sends (.ntEvent m) (.event (t ++ o 0))) ∧ (4 ≤ (o 0).toNat % 8 → faults (.ntEvent m) 0x4A none) ∧
    ((o 0).toNat < 2048 → t.toNat < 4096 → free → sends (.ntMxcmd m) (.mxcmd (o 0).toNat (o 1) w (t.extractLsb' 0 12))) ∧
    ((2048 ≤ (o 0).toNat ∨ 4096 ≤ t.toNat) → faults (.ntMxcmd m) 0x4A none)

open Sys2Proof Sys2Proof.Machine in
/-- R232, R236, R240: `nt.tree` completes on a word that the entry may hold and writes that word of the tile's own entry alone; `nt.stat` delivers its counters with latency 1; `nt.redwait` delivers count and flag, where the count differs already in the next cycle (the model's choice, log 62), else holding the tile until then. -/
def Obligations.TreeEntriesAndStatus : Prop :=
  ∀ (m : Trig) (s : State), Ready s m → sockHeld s s.cur.a .nt = false →
    let a := s.cur.a
    let o := oVal s .nt
    let t := (tVal s m).toNat
    let faults : Instr → Nat → Option Word → Prop := fun i c x => exec i s = .next (syncFault s a c s.cur.slot x)
    (∀ n : Fin 16, t = n.val →
      let writes : (TreeEntry → TreeEntry) → Prop := fun f => ∃ u, exec (.ntTree m) s = .next u ∧ OnlySendsPacket s u ∧
        (∀ c, treeAt u a c = if c = n then { treeAt s a n with entry := f (treeAt s a n).entry } else treeAt s a c)
      (o 1 = 0 → ctlOk a (o 0) = true → writes fun e => { e with ctl := o 0 }) ∧ (o 1 = 0 → ctlOk a (o 0) = false → faults (.ntTree m) 0x4A none) ∧
      (o 1 = 1 → writes fun e => { e with lo := o 0 }) ∧ (o 1 = 2 → writes fun e => { e with hi := o 0 }) ∧
      (o 1 = 3 → addrTile (o 0).toNat = a → inData (o 0).toNat 264 = true → ((o 0).toNat % 64 = 0 → writes fun e => { e with addr := o 0 }) ∧
        ((o 0).toNat % 64 ≠ 0 → faults (.ntTree m) 0x43 (some (o 0)))) ∧
      (o 1 = 3 → (addrTile (o 0).toNat ≠ a ∨ inData (o 0).toNat 264 = false) → faults (.ntTree m) 0x40 (some (o 0))) ∧
      let tr := treeAt s a n
      inFlight s a .nt 0x20 < 32 →
        (tr.count ≠ (o 0).extractLsb' 0 8 → ∃ u, exec (.ntRedwait m) s = .next u ∧ ResultDue s u a .nt 0x20 (s.now + 1) (rowOf (BitVec.ofNat 32 (tr.count.toNat + if tr.masked then 256 else 0))) ∧
          OnlyComputes s u) ∧
        (tr.count = (o 0).extractLsb' 0 8 → ∃ u, exec (.ntRedwait m) s = .next u ∧ (bk u a).wait = .tree n tr.count s.seq ∧ OnlySendsPacket s u ∧
          ∃ f ∈ (bk u a).x.flights, f.u = .nt ∧ f.code = 0x20 ∧ f.id = s.seq ∧ f.due = none)) ∧
    ((16 ≤ t ∨ 4 ≤ (o 1).toNat) → faults (.ntTree m) 0x4A none) ∧ (16 ≤ t → faults (.ntRedwait m) 0x4A none) ∧
    (inFlight s a .nt 0x20 < 32 →
      let tells : Nat → Prop := fun v => ∃ u, exec (.ntStat m) s = .next u ∧ ResultDue s u a .nt 0x20 (s.now + 1) (rowOf (BitVec.ofNat 32 v)) ∧ OnlyComputes s u
      let flits := fun c => min 16 (chanFlits (chanOf s a c)) * 2 ^ (8 * c)
      (t = 0 → tells (flits 0 + flits 1 + flits 2 + flits 3)) ∧ (t = 1 → tells (rtr s a).discards) ∧ (t = 2 → tells (ag s a).refusals) ∧
      ∀ n : Fin 16, (o 0).toNat % 16 = n.val → let tr := treeAt s a n
        t = 3 → tells (tr.count.toNat + 256 * tr.inst + if teValid tr.entry then 65536 else 0)) ∧
    (4 ≤ t → faults (.ntStat m) 0x4A none)

open Sys2Proof Sys2Proof.Machine in
/-- R226, R228 to R230, R237: in a cycle the lowest ready channel injects one flit of its first packet, and a packet with its last flit out is on its way; a put is performed whole at its home; a send that fits is written into the consumer's ring, wrapping, moves its `prod` and is accepted,
else refused; a refused packet is sent again 16 cycles after the refusal arrives, ahead of every later packet of its channel that has not begun; a task that its target takes joins its queue. Unbooked arrivals take a free time; refused packets are kept as log 54 and 55 read the rules, and the tile's turn comes in the cycle after a task's arrival (the model's choice, log 41). -/
def Obligations.PacketsTravel : Prop :=
  (∀ (s : State) (a c n : Nat) (p : Pkt) (ps : List (Pkt × Nat)), s.occ = .at a → c < 4 → (∀ d, d < c → chanReady s a d = false) → chanReady s a c = true → chanKept s a c = none →
    (chanOf s a c).pkts = (p, n) :: ps → p.agent = a → stepBooked s a p.step = false →
    ∃ t, exec .flitInject s = .next t ∧ (chanOf t a c).pkts = (if n ≤ 1 then ps else (p, n - 1) :: ps) ∧ (chanOf t a c).refused = (chanOf s a c).refused ∧
      (∀ d, d ≠ c → chanOf t a d = chanOf s a d) ∧ SameMemory s t ∧ SameRegs s t a ∧ (n ≤ 1 → ∃ d, s.now < d ∧ Comes t d (arrivesAs p.kind) (.pkt p))) ∧
  (∀ (s : State) (p : Pkt) (addr n v : Nat), s.occ = .pkt p → putRemote p = false → putBehind s p (addrTile addr) = false →
    ((∃ lo hi, p.kind = .put addr lo hi ∧ n = 8 ∧ v = lo.toNat + 2 ^ 32 * hi.toNat) ∨ ∃ w, p.kind = .putb addr n w ∧ v = w.toNat ∧ n ≤ 256) →
    Lands s p (byteLines addr n) → locCause s p.slot (.sram addr) n false = none → Plain s addr n →
    ∃ t, exec .putArrival s = .next t ∧ Stored s t addr n v ∧ t.hbm = s.hbm ∧ (ag t p.agent).outs = (ag s p.agent).outs.filter fun o => o.id ≠ p.id) ∧
  (∀ (s : State) (p : Pkt) (peer n : Nat) (ph h : Fin 16) (w : Row) (b : Bool), s.occ = .pkt p → p.kind = .send peer ph n w b h → isIssuer peer = true → 1 ≤ n → n ≤ 256 →
    let k := hReg s peer ph.val
    handleCause k [2] = none → ringCause s p.slot k (hProd k) n = none → n ≤ hSize k → Lands s p (if n ≤ hRoom k then ringLines k (hProd k) n else []) →
    (hRoom k < n → ∃ t d, exec .sendArrival s = .next t ∧ SameMemory s t ∧ SameRegs s t peer ∧ s.now ≤ d ∧ Comes t d .refusalArrival (.pkt p)) ∧
    (n ≤ hRoom k → NotLogged s p.slot p.pb → Plain s (hBase k) (hSize k) →
      ∃ t d, exec .sendArrival s = .next t ∧ (∀ i, i < n → readByte t (hBase k + ((hProd k).toNat + i) % hSize k) = BitVec.ofNat 8 (w.toNat / 256 ^ i)) ∧
        (∀ x, (∀ i, i < n → frontAddr s x % 2 ^ 32 ≠ frontAddr s (hBase k + ((hProd k).toNat + i) % hSize k) % 2 ^ 32) → readByte t x = readByte s x) ∧
        hReg t peer ph.val = setHProd k (hProd k + BitVec.ofNat 32 n) ∧ s.now ≤ d ∧ Comes t d .sendAcceptance (.pktPos p (hProd k)))) ∧
  (∀ (s : State) (p : Pkt) (pos : Word) (peer n : Nat) (ph h : Fin 16) (w : Row) (b : Bool) (r : Run), s.occ = .pktPos p pos →
    p.kind = .send peer ph n w b h → p.eff = none → (bk s p.agent).run = some r → r.key = p.step →
      ∃ t, exec .sendAcceptance s = .next t ∧ SameMemory s t ∧ hReg t p.agent h.val = setHProd (hReg s p.agent h.val) (hProd (hReg s p.agent h.val) + BitVec.ofNat 32 n) ∧
        ∀ x, b = true → resultsOf s p.agent p.id = [x] → resultsOf t p.agent p.id = [rowOf pos]) ∧
  (∀ (s : State) (p : Pkt), s.occ = .pkt p → ∃ t, exec .refusalArrival s = .next t ∧ SameMemory s t ∧ (ag t p.agent).refusals = min 0xFFFFFFFF ((ag s p.agent).refusals + 1) ∧
    (chanOf t p.agent (pktChan p.kind)).refused = (chanOf s p.agent (pktChan p.kind)).refused.map (fun q => if q.1.id = p.id then (q.1, some (s.now + 16)) else q) ∧
    Comes t (s.now + 16) .resend (.at2 p.agent (pktChan p.kind))) ∧
  (∀ (s : State) (a c at_ : Nat) (p : Pkt) (sent rest : List (Pkt × Nat)), s.occ = .at2 a c → (chanOf s a c).refused = [(p, some at_)] → at_ ≤ s.now →
    (chanOf s a c).pkts = sent ++ rest → (∀ x ∈ sent, x.2 < x.1.flits ∨ x.1.id < p.id) → (∀ x ∈ rest.head?, x.1.flits ≤ x.2 ∧ p.id ≤ x.1.id) →
    ∃ t, exec .resend s = .next t ∧ SameMemory s t ∧ (chanOf t a c).pkts = sent ++ (p, p.flits) :: rest ∧ (chanOf t a c).refused = [(p, none)] ∧
      Comes t s.now .flitInject (.at a)) ∧
  ∀ (s : State) (p : Pkt) (target win entry : Nat) (w : Row) (k : Kern), s.occ = .pkt p → p.kind = .spawn target win entry w →
    (isTile target = true → kget 0 s.owners (tileCluster target) = p.slot) → spawnEntry s p.slot [entry] 0 = some k → NotLogged s p.slot p.pb → Lands s p [] →
    let room := if isTile target then 32 else 64
    ((ag s target).spawnQ.length < room → ∃ t, exec .spawnArrival s = .next t ∧ SameMemory s t ∧
      (ag t target).spawnQ = (ag s target).spawnQ ++ [{ sender := p.agent, slot := p.slot, pbMode := p.pb, kern := k, window := win, args := w }] ∧
      Comes t (s.now + 1) .stepTurn (.at target)) ∧
    (room ≤ (ag s target).spawnQ.length → ∃ t d, exec .spawnArrival s = .next t ∧ SameMemory s t ∧ (ag t target).spawnQ = (ag s target).spawnQ ∧
      Comes t d .refusalArrival (.pkt p))

open Sys2Proof Sys2Proof.Machine in
/-- R232 to R236: a term that its node expects opens its instance or joins it; with every term present, or its time passed, the instance is forwarded 8 cycles later: terms combined lane by lane in the fixed order, to the parent, or at the root into the result area with the mask of missing
contributors, and the delivery count advances. A broadcast is written where it is delivered and goes on to every child port. A packet on a port that is no child port, or for a tree without a valid entry, is discarded and counted, and so is one that a replay's time-out record masks whole (the record goes to the next instance: the model's reading, log 153). -/
def Obligations.ReductionTreesForward : Prop :=
  (∀ (s : State) (t : Nat) (port : RPort) (k : TreePkt), s.occ = .tree t port k → k.bcast = false → routerStill s t k.slot = false →
    let tr := treeAt s t k.tree
    (tr.opens.all (fun i => i.num != k.inst) = true → forwarded tr k.inst = false → teValid tr.entry = true → port ≠ .own → teChild tr.entry (portNo port) = true → tr.opens.length < 2 → (k.pb ≠ 2 ∨ pbEnabled s k.slot = false) → retryAhead s t port k = none →
      (∀ x ∈ s.timersOff, x.1 ≠ k.slot) → ∃ u i, exec .treePacketArrival s = .next u ∧ SameMemory s u ∧ (treeAt u t k.tree).opens.length = tr.opens.length + 1 ∧ i ∈ (treeAt u t k.tree).opens ∧ i.num = k.inst ∧
        i.entry = tr.entry ∧ i.kids = [(port, k)] ∧ i.own = none ∧ (instComplete i = true → i.closing = true ∧ Comes u (s.now + 8) .treeForward (.at3 t k.tree.val k.inst)) ∧
        (instComplete i = false → teTmo tr.entry ≠ 0 → Comes u (s.now + teTmo tr.entry) .treeTimeout (.at3 t k.tree.val k.inst))) ∧
    (tr.opens.all (fun i => i.num != k.inst) = true → (teValid tr.entry = false ∨ (port ≠ .own ∧ (teChild tr.entry (portNo port) = false ∨ ∃ d, treeDrive s tr k = some d ∧ k.expect &&& ~~~d.2 = 0#64))) →
      retryAhead s t port k = none →
      ∃ u, exec .treePacketArrival s = .next u ∧ SameMemory s u ∧ (rtr u t).trees = (rtr s t).trees ∧ (rtr u t).discards = min 0xFFFFFFFF ((rtr s t).discards + 1)) ∧
    (∀ i, tr.opens.find? (fun i => i.num == k.inst) = some i → i.closing = false → i.drive = none → teValid i.entry = true → port ≠ .own → teChild i.entry (portNo port) = true →
      (∀ x ∈ i.kids, x.1 ≠ port) → retryAhead s t port k = none →
      let whole := instComplete { i with kids := i.kids ++ [(port, k)] }
      ∃ u, exec .treePacketArrival s = .next u ∧ SameMemory s u ∧ (whole = true → Comes u (s.now + 8) .treeForward (.at3 t k.tree.val k.inst)) ∧
        (treeAt u t k.tree).opens = tr.opens.map fun x =>
          if x.num = k.inst then { x with kids := x.kids ++ [(port, k)], closing := x.closing || whole, expired := x.expired && !whole } else x)) ∧
  (∀ (s : State) (p : Pkt) (n : Fin 16) (wide : Bool) (v : Row) (inst : Nat) (i : TreeInst), s.occ = .pkt p → p.kind = .reduce n wide v inst → Lands s p [] → routerStill s p.agent p.slot = false →
    termBehind s p n = false → (treeAt s p.agent n).opens.find? (fun i => i.num == inst) = some i → i.closing = false → i.drive = none → i.own = none → teValid i.entry = true →
    teLocal i.entry = true →
    ∃ u k, exec .treePacketArrival s = .next u ∧ SameMemory s u ∧ k.data = v ∧ k.wide = wide ∧ k.missing = 0 ∧ k.inst = inst ∧ k.tree = n ∧
      let whole := instComplete { i with own := some k }
      (whole = true → Comes u (s.now + 8) .treeForward (.at3 p.agent n.val inst)) ∧
      (treeAt u p.agent n).opens = (treeAt s p.agent n).opens.map fun x =>
        if x.num = inst then { x with own := some k, closing := x.closing || whole, expired := x.expired && !whole } else x) ∧
  (∀ (s : State) (t inst : Nat) (n : Fin 16) (i : TreeInst) (p : TreePkt) (ps : List TreePkt), s.occ = .at3 t n.val inst →
    ((treeAt s t n).opens.find? (fun i => i.num == inst && !i.closing && i.due.any (· ≤ s.now)) = some i → routerStill s t (instSlot i) = false →
      (∀ x ∈ s.timersOff, x.1 ≠ instSlot i) → (∀ k ∈ i.own.toList ++ i.kids.map (·.2), k.pb ≠ 2) →
      ∃ u, exec .treeTimeout s = .next u ∧ SameMemory s u ∧ Comes u (s.now + 8) .treeForward (.at3 t n.val inst) ∧
        ∃ j ∈ (treeAt u t n).opens, j.num = inst ∧ j.closing = true ∧ j.expired = true) ∧
    ((treeAt s t n).opens.find? (fun i => i.num == inst && i.closing) = some i → routerStill s t (instSlot i) = false → termsOf t i = p :: ps →
      let wide := (p :: ps).any (·.wide)
      let lanes := if wide then 64 else 32
      let v := combine lanes (p :: ps)
      let base := i.entry.addr.toNat
      (∀ j, j < lanes → lane v j = ps.foldl (fun acc q => fadd32 acc (if q.wide = true ∨ j < 32 then lane q.data j else 0x80000000#32))
        (if p.wide = true ∨ j < 32 then lane p.data j else 0x80000000#32)) ∧
      (teParent i.entry = 7 → addrTile base = t → inData base 264 = true → tagsOk s p.slot base 264 = true → Plain s base 264 → i.drive = none → (missingOf i = 0#64 ∨ ∀ k ∈ p :: ps, k.pb ≠ 1) → (bk s t).wait = .none →
        areaHold s t i.entry wide = none → (∀ x ∈ lineUses s.now (areaLines i.entry wide), useOk s t x.1 x.2 = true) →
        ∃ u, exec .treeForward s = .next u ∧ loadN u base (4 * lanes) = v.toNat % 256 ^ (4 * lanes) ∧ loadN u (base + 256) 8 = (missingOf i).toNat ∧
          (∀ j, 4 * lanes ≤ j → j < 256 → readByte u (base + j) = readByte s (base + j)) ∧
          (∀ x, (∀ j, j < 264 → frontAddr s x % 2 ^ 32 ≠ frontAddr s (base + j) % 2 ^ 32) → readByte u x = readByte s x) ∧
          (treeAt u t n).count = (treeAt s t n).count + 1 ∧ (treeAt u t n).masked = decide (missingOf i ≠ 0#64)) ∧
      ∀ x, teParent i.entry < 4 → neighbour t (teParent i.entry) = some x → (∀ k ∈ i.own, stepBooked s k.agent k.step = false) →
        ∃ u d k, exec .treeForward s = .next u ∧ SameMemory s u ∧ s.now ≤ d ∧ Comes u d .treePacketArrival (.tree x (portOf ((teParent i.entry + 2) % 4)) k) ∧ k.data = v ∧ k.missing = missingOf i ∧
          k.inst = inst ∧ k.tree = n)) ∧
  (∀ (s : State) (t : Nat) (port : RPort) (k : TreePkt), s.occ = .tree t port k → k.bcast = true → routerStill s t k.slot = false → teValid (treeAt s t k.tree).entry = true →
    ∃ u, exec .treePacketArrival s = .next u ∧ SameMemory s u ∧ Comes u (s.now + 8) .treeForward (.tree t port { k with cast := s.seq }) ∧
      (treeAt u t k.tree).casts = (treeAt s t k.tree).casts ++ [{ num := s.seq, entry := (treeAt s t k.tree).entry }]) ∧
  ∀ (s : State) (t : Nat) (port : RPort) (k : TreePkt) (i : TreeInst), s.occ = .tree t port k → (treeAt s t k.tree).casts.find? (fun i => i.num == k.cast) = some i → routerStill s t k.slot = false →
    stepBooked s k.agent k.step = false →
    let base := i.entry.addr.toNat
    let n := if k.wide then 256 else 128
    let mine := teLocal i.entry = true
    (mine → addrTile base = t ∧ inData base 264 = true ∧ tagsOk s k.slot base 264 = true ∧ Plain s base 264 ∧ areaHold s t i.entry k.wide = none ∧
      ∀ x ∈ lineUses s.now (areaLines i.entry k.wide), useOk s t x.1 x.2 = true) →
    ∃ u, exec .treeForward s = .next u ∧ (treeAt u t k.tree).casts = (treeAt s t k.tree).casts.filter (fun x => x.num ≠ k.cast) ∧
      (¬ mine → SameMemory s u ∧ (treeAt u t k.tree).count = (treeAt s t k.tree).count) ∧
      (mine → loadN u base n = k.data.toNat % 256 ^ n ∧ loadN u (base + 256) 8 = 0 ∧ (∀ j, n ≤ j → j < 256 → readByte u (base + j) = readByte s (base + j)) ∧
        (∀ x, (∀ j, j < 264 → frontAddr s x % 2 ^ 32 ≠ frontAddr s (base + j) % 2 ^ 32) → readByte u x = readByte s x) ∧
        (treeAt u t k.tree).count = (treeAt s t k.tree).count + 1 ∧ (treeAt u t k.tree).masked = false) ∧
      ∀ q x, q < 4 → teChild i.entry q = true → neighbour t q = some x →
        ∃ d, s.now ≤ d ∧ Comes u d .treePacketArrival (.tree x (portOf ((q + 2) % 4)) { k with again := false })

/-! ### Loam (R298 to R310) -/

namespace Sys2Proof.Machine

/-- What an operation of the Loam unit that acts on the unit leaves as it was. -/
def OnlyLoam (s t : State) : Prop :=
  { t with agents := s.agents, agenda := s.agenda, free := s.free, seq := s.seq } = s ∧ SameMemory s t ∧ SameRegs s t s.cur.a ∧ SameValues s t s.cur.a ∧
  seqPlace (bk t s.cur.a).q = seqPlace (bk s s.cur.a).q ∧ (∀ b, b ≠ s.cur.a → ag t b = ag s b) ∧ (ag t s.cur.a).wings = (ag s s.cur.a).wings

/-- The 32 bytes `d` are the descriptor of a bank (R299). -/
def IsDescriptor (d : Nat) (x : LmBank) : Prop :=
  fld d 0 4 = x.theta.toNat ∧ fld d 4 4 = x.vreset.toNat ∧ fld d 8 2 = x.k ∧ fld d 10 1 = x.rticks ∧ fld d 11 1 = x.tlog ∧ fld d 12 4 = x.fnext.getD x.fbase ∧
  fld d 16 16 = 0

/-- A descriptor that R299 allows. -/
def GoodDescriptor (d : Nat) : Prop := 4 ≤ fld d 11 1 ∧ fld d 11 1 ≤ 20 ∧ fld d 12 4 < 0x180000 ∧ fld d 12 4 % 8 = 0 ∧ fld d 16 16 = 0

/-- The bytes `v` are the image of a unit (R309). -/
def IsImage (v : Nat) (l : Loam) : Prop :=
  fld v 0 4 = l.queue.length ∧ fld v 4 2 = l.on.toNat ∧ fld v 6 1 = l.nextModes.toNat + 4 * l.probe.toNat ∧ fld v 7 57 = 0 ∧
  (∀ b, b < 16 → IsDescriptor (fld v (64 + 32 * b) 32) (lmBank l b)) ∧ ∀ j (h : j < l.queue.length), fld v (576 + 8 * j) 8 = (l.queue[j]).word.toNat

/-- An image that `lm.load` takes on tile `a` (R309). -/
def GoodImage (a v : Nat) : Prop :=
  fld v 0 4 ≤ 4096 ∧ fld v 6 1 < 128 ∧ fld v 7 57 = 0 ∧ (∀ b, b < 16 → GoodDescriptor (fld v (64 + 32 * b) 32)) ∧
  ∀ j, j < fld v 0 4 → fld v (576 + 8 * j) 8 % 8 < 4 ∧ fld v (576 + 8 * j) 8 / 2 ^ 33 % 2048 = a

/-- Fields of the unit's banks within their widths. -/
def LoamFits (l : Loam) : Prop :=
  l.queue.length ≤ 4096 ∧ ∀ b, let x := lmBank l b; x.k < 2 ^ 16 ∧ x.rticks < 2 ^ 8 ∧ x.tlog < 2 ^ 8 ∧ x.fnext.getD x.fbase < 2 ^ 32

/-- The cycles in which the unit reads the lines of an operand structure: from the fourth after the trigger on, one a cycle (R66, R307). -/
def lmReads (s : State) (addr n : Nat) : List (Nat × Nat) :=
  lineUses (s.now + 4 + if addrTile addr = s.cur.a then 0 else transit s.cur.a (addrTile addr)) (byteLines addr n)

/-- An aligned block in data banks. -/
def LmBlock (addr n align : Nat) : Prop := addr % align = 0 ∧ inData addr n = true

end Sys2Proof.Machine

open Sys2Proof Sys2Proof.Machine in
/-- R300, R308 to R310: the operations of `lm` of an unbooked step complete on legal operands: bank parameters, modes, banks enabled and the running state change as the table says and nothing else does; reads have their latencies; images are written and restored whole; `drain` issues and then holds the tile
until the pass of its tick is over, and `tie` sets the modes from the next pass on. A stopped operation on a running unit, and malformed operands, fault with 0x90 (that a bad tile or kind of an event does
is log 65); a malformed structure's fault comes 4 cycles after the trigger (the model's choice, log 191). -/
def Obligations.LoamOperations : Prop :=
  ∀ (m : Trig) (s : State), Ready s m → sockHeld s s.cur.a .lm = false → isBooked s s.cur.a = false → useHeld s s.cur.a (ridTile 3 s.cur.a 0) = false → NoErrors s →
    let a := s.cur.a
    let l := lmOf s a
    let o := oVal s .lm
    let t := (tVal s m).toNat
    let addr := (o 0).toNat
    let faults : Instr → Nat → Prop := fun i c => exec i s = .next (syncFault s a c s.cur.slot none)
    let sets : Instr → Loam → Prop := fun i l' => ∃ u, exec i s = .next u ∧ lmOf u a = l' ∧ OnlyLoam s u
    let reads : Nat → Prop := fun n => locCause s (slotOf s a) (.sram addr) n true = none
    (l.running = false → performedAt s a (addrTile addr) = true →
      (t < 16 → LmBlock addr 32 32 → addrTile addr = a → reads 32 → usesHeld s a (lmReads s addr 32) = none → let d := loadN s addr 32
        (GoodDescriptor d → ∃ u, exec (.lmBank m) s = .next u ∧ OnlyLoam s u ∧ IsDescriptor d (lmBank (lmOf u a) t) ∧ (bk u a).wait = .usr (s.now + 6) ∧
          ∀ b, b ≠ t → lmBank (lmOf u a) b = lmBank l b) ∧
        (¬ GoodDescriptor d → ∃ u f, exec (.lmBank m) s = .next u ∧ lmOf u a = l ∧ f.cause = 0x90 ∧ Comes u (s.now + 4) .deferredFault (.dfault a f))) ∧
      (t = 0 → LmBlock addr 576 64 → let n := 576 + 8 * loadN s addr 4
        inData addr n = true → reads n → GoodImage a (loadN s addr n) → usesHeld s a (lmReads s addr n) = none → ∃ u, exec (.lmLoad m) s = .next u ∧ OnlyLoam s u ∧ IsImage (loadN s addr n) (lmOf u a) ∧ (lmOf u a).running = false)) ∧
    (l.running = false → t = 0 → LoamFits l → let n := 576 + 8 * l.queue.length
      LmBlock addr n 64 → accessHeld s a 0 = false → inFlight s a .lm 0x20 < 32 →
      ∃ u v, exec (.lmStore m) s = .next u ∧ IsImage v l ∧ (bk u a).wait = .stores s.seq u.seq (some (BitVec.ofNat 32 n, lockedMode s a .lm)) ∧ SameMemory s u ∧ SameRegs s u a ∧
        ∀ i, 64 * i < n → ∃ p x, s.now + i + 4 ≤ p ∧ Comes u p .homeAccess (.access x) ∧ x.op = .store (min 64 (n - 64 * i)) ∧ x.cls = 0 ∧ x.loc = .sram (addr + 64 * i) ∧ s.seq ≤ x.id ∧ x.id < u.seq ∧
          x.data = BitVec.ofNat 2048 (fld v (64 * i) 64)) ∧
    (l.running = true → faults (.lmBank m) 0x90 ∧ faults (.lmLoad m) 0x90 ∧ faults (.lmStore m) 0x90) ∧
    (16 ≤ t → faults (.lmBank m) 0x90 ∧ faults (.lmTick m) 0x90 ∧ faults (.lmFan m) 0x90 ∧ faults (.lmTie m) 0x90 ∧ faults (.lmStat m) 0x90 ∧ faults (.lmStop m) 0x90 ∧ faults (.lmRead m) 0x90 ∧
      faults (.lmWrite m) 0x90) ∧
    (t < 16 → inFlight s a .lm 0x20 < 32 → ∃ u, exec (.lmTick m) s = .next u ∧ ResultDue s u a .lm 0x20 (s.now + 1) (rowOf (BitVec.ofNat 32 (gtOf s / 2 ^ (lmBank l t).tlog % 2 ^ 20))) ∧
      OnlyComputes s u) ∧
    (t < 16 → addr % 8 = 0 → addr < 0x180000 →
      sets (.lmFan m) (setLmBank l t (if l.pass.isSome then { lmBank l t with fnext := some addr } else { lmBank l t with fbase := addr, fnext := none }))) ∧
    (evTile (tVal s m ++ o 0) = a → (o 0).toNat % 8 < 4 →
      (l.queue.length < 4096 → isLate s a (tVal s m ++ o 0) = false →
        sets (.lmInject m) { l with queue := insertEvent { word := tVal s m ++ o 0, src := a, at_ := s.now, late := false } l.queue }) ∧
      (4096 ≤ l.queue.length → exec (.lmInject m) s = .next (holdCycle s a .lock))) ∧
    ((evTile (tVal s m ++ o 0) ≠ a ∨ 4 ≤ (o 0).toNat % 8) → faults (.lmInject m) 0x90) ∧
    (t = 0 → addr < 2 ^ 14 → inFlight s a .lm 0x20 < 31 → let r := loadN s (a * 2 ^ 21 + 0x194000 + 8192 * (addr / 2 ^ 10) + 8 * (addr % 1024)) 8
      poisoned s (a * 2 ^ 21 + 0x194000 + 8192 * (addr / 2 ^ 10) + 8 * (addr % 1024)) 8 = false →
      ∃ u, exec (.lmRead m) s = .next u ∧ ResultDue s u a .lm 0x20 (s.now + 3) (rowOf (BitVec.ofNat 32 r)) ∧ ResultDue s u a .lm 0x20 (s.now + 4) (rowOf (BitVec.ofNat 32 (r / 2 ^ 32))) ∧
        OnlyComputes s u) ∧
    (t < 4 → addr < 2 ^ 14 → let n := a * 2 ^ 21 + 0x194000 + 8192 * (addr / 2 ^ 10) + 8 * (addr % 1024)
      let r := loadN s n 8
      let v := (o 1).toNat
      Plain s n 8 → poisoned s n 8 = false → (t = 1 → v < 2 ^ 8) → (t = 2 → v < 2 ^ 20) → (t = 3 → v < 4) →
      ∃ u, exec (.lmWrite m) s = .next u ∧ SameRegs s u a ∧ u.hbm = s.hbm ∧ Stored s u n 8
        (match t with
        | 0 => r / 2 ^ 32 * 2 ^ 32 + v
        | 1 => r % 2 ^ 52 + v * 2 ^ 52 + r / 2 ^ 60 * 2 ^ 60
        | 2 => r % 2 ^ 32 + v * 2 ^ 32 + r / 2 ^ 52 * 2 ^ 52
        | _ => r % 2 ^ 60 + v * 2 ^ 60 + r / 2 ^ 62 * 2 ^ 62)) ∧
    (t < 2 ^ 16 → (o 1).toNat < 32 → ((o 1).toNat / 2 ^ 4 % 2 = 1 → handleCause (hReg s a ((o 1).toNat % 16)) [0, 1] = none) →
      ∃ u, exec (.lmRun m) s = .next u ∧ OnlyLoam s u ∧ (lmOf u a).running = true ∧ (lmOf u a).on.toNat = t ∧ (lmOf u a).probe.toNat = (o 1).toNat ∧
        (∀ b, b < 16 → lmBank (lmOf u a) b = if t / 2 ^ b % 2 = 1 ∧ (l.running = false ∨ l.on.getLsbD b = false) then { lmBank l b with next := gtOf s / 2 ^ (lmBank l b).tlog + 1 } else lmBank l b) ∧
        (l.running = false → Comes u (s.now + 1) .deliveryPass (.at2 a (lmOf u a).chain))) ∧
    ((o 1).toNat / 2 ^ 4 % 2 = 1 → (o 1).toNat < 32 → t < 2 ^ 16 → hValid (hReg s a ((o 1).toNat % 16)) = false → faults (.lmRun m) 0x28) ∧
    (t = 0 → (l.running = false → sets (.lmStop m) l) ∧ (l.running = true → l.pass = none → l.fan = none → sets (.lmStop m) (lmHalt l)) ∧
      (l.running = true → l.pass ≠ none → ∃ u, exec (.lmStop m) s = .next u ∧ lmOf u a = { l with stopping := true } ∧ (bk u a).wait = .loam ∧ OnlyLoam s u)) ∧
    (addr < 16 → t < 2 ^ 20 → inFlight s a .lm 0x20 < 32 →
      (∀ e, (lmBank l addr).ended = some e → (e = t ∨ precedes t e = true) → ∃ u, exec (.lmDrain m) s = .next u ∧
        ResultDue s u a .lm 0x20 (s.now + 1) (rowOf (BitVec.ofNat 32 l.queue.length)) ∧ OnlyComputes s u) ∧
      ((∀ e, (lmBank l addr).ended = some e → e ≠ t ∧ precedes t e = false) → ∃ u, exec (.lmDrain m) s = .next u ∧ (bk u a).wait = .drain addr t (lockedMode s a .lm) ∧ lmOf u a = l ∧
        OnlyLoam s u)) ∧
    (t < 4 → (l.running = false ∨ l.idle = false → sets (.lmTie m) { l with nextModes := BitVec.ofNat 2 t }) ∧
      (l.running = true → l.idle = true → ∃ u, exec (.lmTie m) s = .next u ∧ lmOf u a = { l with nextModes := BitVec.ofNat 2 t, chain := s.seq, idle := false } ∧
        Comes u (s.now + 1) .deliveryPass (.at2 a s.seq) ∧ OnlyLoam s u)) ∧
    (t < 16 → t % 8 < 6 → inFlight s a .lm 0x20 < 32 →
      ∃ u, exec (.lmStat m) s = .next u ∧ ResultDue s u a .lm 0x20 (s.now + 1) (rowOf (BitVec.ofNat 32 (match t % 8 with
        | 0 => l.drops
        | 1 => l.lates
        | 2 => l.fires
        | 3 => l.lost
        | 4 => l.queue.length
        | _ => (if l.running then 1 else 0) + 2 * l.modes.toNat + 2 ^ 16 * l.on.toNat))) ∧ OnlyLoam s u ∧
        lmOf u a = if t < 8 then l else match t % 8 with
          | 0 => { l with drops := 0 }
          | 1 => { l with lates := 0 }
          | 2 => { l with fires := 0 }
          | 3 => { l with lost := 0 }
          | _ => l)

open Sys2Proof Sys2Proof.Machine in
/-- R303 to R307: an event that reaches a tile whose step owns the unit, in time and with room, joins its queue; a late one in fault mode stops the unit with 0x91, and in deliver mode joins as late and is delivered between passes at the bank's present tick; a full queue refuses it, and so does an earlier event
of its sender that stands refused (log 55); without an owner it is discarded. A running pass delivers its next event to the neuron as R304 says: a fire begins its fan-out, and a probe pushes its record into the handle
or is counted as lost; a pass without further events ends; a fan-out entry for another tile leaves as an event packet; a queue without room for 256 cycles stops the unit with 0x92. Ties, due banks and the time of a delivery are as log 64 to 68 read the rules. -/
def Obligations.LoamDeliversEvents : Prop :=
  (∀ (s : State) (p : Pkt) (w : BitVec 64), s.occ = .pkt p → p.kind = .event w → kget 0 s.owners (tileCluster (evTile w)) = p.slot →
    Lands s p [] →
    let t := evTile w
    let l := lmOf s t
    (eventBehind s p t = true → ∃ u d, exec .siltEventArrival s = .next u ∧ lmOf u t = l ∧ Comes u d .refusalArrival (.pkt p)) ∧
    (eventBehind s p t = false → lmOwned s t = true → l.queue.length < 4096 → isLate s t w = false → ∃ u, exec .siltEventArrival s = .next u ∧ SameMemory s u ∧
      lmOf u t = { l with queue := insertEvent { word := w, src := p.agent, at_ := s.now, late := false } l.queue }) ∧
    (eventBehind s p t = false → lmOwned s t = true → l.queue.length < 4096 → isLate s t w = true → l.modes.getLsbD 1 = false → ∃ u f d, exec .siltEventArrival s = .next u ∧ SameMemory s u ∧
      (lmOf u t).running = false ∧ (lmOf u t).queue = l.queue ∧ (lmOf u t).lates = min 0xFFFFFFFF (l.lates + 1) ∧ f.cause = 0x91 ∧ Comes u d .deferredFault (.dfault t f)) ∧
    (eventBehind s p t = false → lmOwned s t = true → l.queue.length < 4096 → isLate s t w = true → l.modes.getLsbD 1 = true → ∃ u, exec .siltEventArrival s = .next u ∧ SameMemory s u ∧
      (lmOf u t).running = l.running ∧ (lmOf u t).queue = insertEvent { word := w, src := p.agent, at_ := s.now, late := true } l.queue ∧
      (lmOf u t).lates = min 0xFFFFFFFF (l.lates + 1) ∧ (l.running = true → l.idle = true → Comes u (s.now + 1) .deliveryPass (.at2 t (lmOf u t).chain))) ∧
    (lmOwned s t = true → 4096 ≤ l.queue.length → ∃ u d, exec .siltEventArrival s = .next u ∧ lmOf u t = l ∧ Comes u d .refusalArrival (.pkt p)) ∧
    (eventBehind s p t = false → lmOwned s t = false → ∃ u, exec .siltEventArrival s = .next u ∧ lmOf u t = l)) ∧
  ∀ (s : State) (t : Nat), let l := lmOf s t
    let free : Nat → List (Nat × Nat) → Prop := fun d us => lmKept s t d us = none ∧ ∀ u ∈ spanUses s (ridTile 3 t 0) s.now d ++ us, useOk s t u.1 u.2 = true
    s.occ = .at2 t l.chain → l.running = true → lmOwned s t = true →
    let delivers : Nat → LmEvent → Prop := fun τ e => NoErrors s →
      let x := lmBank l (evBank e.word)
      let addr := t * 2 ^ 21 + 0x194000 + 8192 * evBank e.word + 8 * evNeuron e.word
      let n := neuronOf (loadN s addr 8)
      let dt := (τ % 2 ^ 20 + 2 ^ 20 - n.last) % 2 ^ 20
      let v := leak x.k n.v dt
      let n1 : Neuron := { n with v := v, refr := n.refr - dt, last := τ % 2 ^ 20 }
      let i := if evKind e.word = 0 then v + evWeight e.word * 256 else evWeight e.word * 256
      let c := max (-(2 ^ 31)) (min (2 ^ 31 - 1) i)
      let n2 : Neuron := { n1 with v := c, ovf := n.ovf || decide (c ≠ i) }
      let becomes : Neuron → Nat → Option LmFan → Prop := fun n' drops fan => ∃ u, exec .deliveryPass s = .next u ∧ Stored s u addr 8 (neuronVal n') ∧ (lmOf u t).drops = drops ∧
        (lmOf u t).fires = l.fires + (if fan.isSome then 1 else 0) ∧ (lmOf u t).fan = fan ∧ (lmOf u t).queue = l.queue.erase e ∧
        Comes u (s.now + lmCycles s) .deliveryPass (.at2 t l.chain)
      let fire : LmFan := { bank := evBank e.word, tick := τ, base := x.fbase, at_ := x.fbase + 2 * evNeuron e.word, index := true }
      let hn := l.probe.toNat % 16
      let h := hReg s t hn
      let mayPush := l.probe.getLsbD 4 = true ∧ handleCause h [0, 1] = none ∧ 16 ≤ hRoom h
      free (lmCycles s) (probeUses s t e) → poisoned s addr 8 = false → Plain s addr 8 → l.drops < 0xFFFFFFFF → l.fires < 0xFFFFFFFF →
      leak x.k n.v 0 = n.v ∧ (∀ k y j, leak k y (j + 1) = leak k (y - y * (k : Int) / 65536) j) ∧
      (n.off = true → becomes n1 (l.drops + 1) none) ∧
      (n.off = false → evKind e.word = 0 → 0 < n1.refr → becomes n1 (l.drops + 1) none) ∧
      (n.off = false → (evKind e.word = 0 ∧ n1.refr = 0 ∨ evKind e.word = 1) → ¬ (x.theta.toInt ≤ c ∧ n1.refr = 0) → becomes n2 l.drops none) ∧
      (n.off = false → evKind e.word < 2 → n1.refr = 0 → x.theta.toInt ≤ c → becomes { n2 with v := x.vreset.toInt, refr := x.rticks } l.drops (some fire)) ∧
      (n.off = false → evKind e.word = 2 → becomes { n1 with v := x.vreset.toInt } l.drops none) ∧
      (n.off = false → evKind e.word = 3 → ¬ mayPush → l.lost < 0xFFFFFFFF → becomes n1 l.drops none ∧ ∀ u, exec .deliveryPass s = .next u → (lmOf u t).lost = l.lost + 1) ∧
      (n.off = false → evKind e.word = 3 → mayPush → ringCause s (slotOf s t) h (hProd h) 16 = none → s.pairs = [] → ∃ u, exec .deliveryPass s = .next u ∧
        (lmOf u t).drops = l.drops ∧ (lmOf u t).fires = l.fires ∧ (lmOf u t).lost = l.lost ∧ (lmOf u t).fan = none ∧ (lmOf u t).queue = l.queue.erase e ∧ loadN u addr 8 = neuronVal n1 ∧
        (let w := neuronVal n1 + 2 ^ 64 * τ + 2 ^ 96 * (evBank e.word * 1024 + evNeuron e.word) + 2 ^ 112 * e.src
         ∀ i, i < 16 → readByte u (hBase h + ((hProd h).toNat + i) % hSize h) = BitVec.ofNat 8 (w / 256 ^ i)) ∧
        hReg u t hn = setHProd h (hProd h + 16#32))
    (∀ (p : LmPass) (e : LmEvent), l.fan = none → l.pass = some p → nextEvent l p = some e → (chanOf s t 3).refused = [] → delivers p.tick e) ∧
    (∀ (e : LmEvent), l.fan = none → l.pass = none → l.stopping = false → (chanOf s t 3).refused = [] → tieReplay s t = false → NotLogged s (slotOf s t) (pbOf s t) →
      (l.queue.filter (·.late)).head? = some e → delivers (gtOf s / 2 ^ (lmBank l (evBank e.word)).tlog % 2 ^ 20) e) ∧
    (∀ (p : LmPass), l.fan = none → l.pass = some p → nextEvent l p = none → l.stopping = false → tieReplay s t = false → p.done.eraseDups.length < 2 → (chanOf s t 3).refused = [] →
      ∃ u, exec .deliveryPass s = .next u ∧ SameMemory s u ∧ (lmOf u t).pass = none ∧ (lmBank (lmOf u t) p.bank).ended = some p.tick ∧ (lmOf u t).queue = l.queue ∧
        Comes u s.now .deliveryPass (.at2 t l.chain)) ∧
    (∀ (f : LmFan), l.fan = some f → f.got = none → f.index = true → NoErrors s → f.at_ + 2 ≤ 0x180000 → free 1 [(ridTile 4 t (addrBank f.at_), s.now)] →
      poisoned s (t * 2 ^ 21 + f.at_) 2 = false → let i := loadN s (t * 2 ^ 21 + f.at_) 2
      ∃ u, exec .deliveryPass s = .next u ∧ SameMemory s u ∧ Comes u (s.now + 1) .deliveryPass (.at2 t l.chain) ∧
        (lmOf u t).fan = if i = 0xFFFF then none else some { f with at_ := f.base + 2048 + 8 * i, index := false }) ∧
    (∀ (f : LmFan), l.fan = some f → f.got = none → f.index = false → NoErrors s → f.at_ + 8 ≤ 0x180000 → free 1 [(ridTile 4 t (addrBank f.at_), s.now)] →
      poisoned s (t * 2 ^ 21 + f.at_) 8 = false → let e := loadN s (t * 2 ^ 21 + f.at_) 8
      e / 2 ^ 49 % 2 ^ 14 = 0 → let w := BitVec.ofNat 64 ((f.tick + e / 2 ^ 41 % 256 + 1) % 2 ^ 20 * 2 ^ 44 + e / 2 ^ 30 % 2048 * 2 ^ 33 + e / 2 ^ 26 % 16 * 2 ^ 29 + e / 2 ^ 16 % 1024 * 2 ^ 19 + e % 2 ^ 16 * 2 ^ 3)
      (e / 2 ^ 30 % 2048 ≠ t → (chanOf s t 3).refused = [] → chanFlits (chanOf s t 3) < 16 → ∃ u p, exec .deliveryPass s = .next u ∧ SameMemory s u ∧
        (chanOf u t 3).pkts = (chanOf s t 3).pkts ++ [(p, 1)] ∧ p.kind = .event w ∧ p.agent = t ∧ (lmOf u t).fan = (if e / 2 ^ 63 = 1 then none else some { f with at_ := f.at_ + 8, since := none }) ∧
        Comes u (s.now + 1) .deliveryPass (.at2 t l.chain)) ∧
      (e / 2 ^ 30 % 2048 = t → l.queue.length < 4096 → isLate s t w = false → ∃ u, exec .deliveryPass s = .next u ∧ SameMemory s u ∧
        (lmOf u t).queue = insertEvent { word := w, src := t, at_ := s.now, late := false } l.queue)) ∧
    ∀ (f : LmFan) (c : Nat), l.fan = some f → f.since = some c → c + 256 ≤ s.now →
      ∃ u f' d, exec .fanoutQueueTimeout s = .next u ∧ SameMemory s u ∧ (lmOf u t).running = false ∧ f'.cause = 0x92 ∧ Comes u d .deferredFault (.dfault t f')

open Sys2Proof Sys2Proof.Machine in
/-- R232, R233, R235: the events of a reduction tree complete. A term that arrives first at a node with a valid entry opens its instance there, through a child port or from the node's own tile; an instance whose time
passes closes, and is forwarded 8 cycles later; a closed instance leaves the node, for its parent or, at the root, with the delivery counted. -/
def Sys2Proof.Claims.TreeEventsComplete : Prop :=
  (∀ (s : State) (t : Nat) (port : RPort) (k : TreePkt), s.occ = .tree t port k → port ≠ .own → k.bcast = false → k.pb ≠ 2 → routerStill s t k.slot = false → retryAhead s t port k = none →
    let tr := treeAt s t k.tree
    tr.opens = [] → tr.gone = [] → teValid tr.entry = true → teChild tr.entry (portNo port) = true →
    ∃ u i, exec .treePacketArrival s = .next u ∧ (treeAt u t k.tree).opens = [i] ∧ i.num = k.inst ∧ i.kids = [(port, k)] ∧ i.own = none ∧ SameMemory s u) ∧
  (∀ (s : State) (p : Pkt) (n : Fin 16) (wide : Bool) (v : Row) (inst : Nat), s.occ = .pkt p → p.kind = .reduce n wide v inst → p.pb ≠ 2 → Lands s p [] → routerStill s p.agent p.slot = false →
    termBehind s p n = false →
    let tr := treeAt s p.agent n
    tr.opens = [] → tr.gone = [] → teValid tr.entry = true → teLocal tr.entry = true →
    ∃ u i k, exec .treePacketArrival s = .next u ∧ (treeAt u p.agent n).opens = [i] ∧ i.num = inst ∧ i.own = some k ∧ k.data = v ∧ i.kids = [] ∧ SameMemory s u) ∧
  ∀ (s : State) (t inst : Nat) (n : Fin 16) (i : TreeInst), s.occ = .at3 t n.val inst → (treeAt s t n).opens = [i] → i.num = inst → routerStill s t (instSlot i) = false →
    (i.closing = false → (∃ d, i.due = some d ∧ d ≤ s.now) → (∀ x ∈ s.timersOff, x.1 ≠ instSlot i) → (∀ k ∈ i.own.toList ++ i.kids.map (·.2), k.pb ≠ 2) →
      ∃ u, exec .treeTimeout s = .next u ∧ (treeAt u t n).opens = [{ i with closing := true, expired := true }] ∧ Comes u (s.now + 8) .treeForward (.at3 t n.val inst) ∧ SameMemory s u) ∧
    (i.closing = true → ∀ p ps, termsOf t i = p :: ps →
      (∀ x, teParent i.entry < 4 → neighbour t (teParent i.entry) = some x → (∀ k ∈ i.own, stepBooked s k.agent k.step = false) →
        ∃ u d k, exec .treeForward s = .next u ∧ (treeAt u t n).opens = [] ∧ s.now ≤ d ∧
          Comes u d .treePacketArrival (.tree x (portOf ((teParent i.entry + 2) % 4)) k) ∧ k.inst = inst ∧ k.tree = n ∧ SameMemory s u) ∧
      (teParent i.entry = 7 → i.drive = none → missingOf i = 0#64 → areaHold s t i.entry ((p :: ps).any (·.wide)) = none → (bk s t).wait = .none →
        (addrTile i.entry.addr.toNat = t → inData i.entry.addr.toNat 264 = true → tagsOk s p.slot i.entry.addr.toNat 264 = true ∧
          ∀ x ∈ lineUses s.now (areaLines i.entry ((p :: ps).any (·.wide))), useOk s t x.1 x.2 = true) →
        ∃ u, exec .treeForward s = .next u ∧ (treeAt u t n).opens = [] ∧ (treeAt u t n).count = (treeAt s t n).count + 1))

open Sys2Proof Sys2Proof.Machine in
/-- R303 to R305: the events of the Loam unit complete. An event that reaches a tile of its context is discarded where no step owns the unit, and joins the queue of one that owns it and has room; the unit's turn begins a pass that is due
and ends it when the bank has no event for its tick; and a fire's event that has found no room in the tile's own queue for 256 cycles stops the unit with cause 0x92. -/
def Sys2Proof.Claims.LoamEventsComplete : Prop :=
  (∀ (s : State) (p : Pkt) (w : BitVec 64), s.occ = .pkt p → p.kind = .event w → Lands s p [] → eventBehind s p (evTile w) = false → kget 0 s.owners (tileCluster (evTile w)) = p.slot →
    let t := evTile w
    (lmOwned s t = false → ∃ u, exec .siltEventArrival s = .next u ∧ lmOf u t = lmOf s t) ∧
    (lmOwned s t = true → (lmOf s t).queue.length < 4096 → isLate s t w = false → ∃ u, exec .siltEventArrival s = .next u ∧ SameMemory s u ∧
      lmOf u t = { lmOf s t with queue := insertEvent { word := w, src := p.agent, at_ := s.now, late := false } (lmOf s t).queue })) ∧
  ∀ (s : State) (t : Nat), let l := lmOf s t
    s.occ = .at2 t l.chain → l.running = true → lmOwned s t = true →
    (l.fan = none → (chanOf s t 3).refused = [] →
      (l.pass = none → l.stopping = false → (∀ e ∈ l.queue, e.late = false ∧ e.restored = false) → tieReplay s t = false → ∀ b, b < 16 → l.on.getLsbD b = true → passDue l b ≤ gtOf s → (∀ c, c < b → l.on.getLsbD c = true → gtOf s < passDue l c) →
        ∃ u q, exec .deliveryPass s = .next u ∧ (lmOf u t).pass = some q ∧ q.bank = b ∧ q.tick = (lmBank l b).next % 2 ^ 20 ∧ (lmBank (lmOf u t) b).next = (lmBank l b).next + 1 ∧ (lmOf u t).modes = l.nextModes ∧
          Comes u s.now .deliveryPass (.at2 t l.chain) ∧ SameMemory s u) ∧
      ∀ q, l.pass = some q → nextEvent l q = none → q.done = [] → l.stopping = false → tieReplay s t = false →
        ∃ u, exec .deliveryPass s = .next u ∧ (lmOf u t).pass = none ∧ (lmBank (lmOf u t) q.bank).ended = some q.tick ∧ Comes u s.now .deliveryPass (.at2 t l.chain) ∧ SameMemory s u) ∧
    ∀ f c, l.fan = some f → f.since = some c → c + 256 ≤ s.now →
      ∃ u f' d, exec .fanoutQueueTimeout s = .next u ∧ (lmOf u t).running = false ∧ f'.cause = 0x92 ∧ Comes u d .deferredFault (.dfault t f') ∧ SameMemory s u

open Sys2Proof Sys2Proof.Machine in
/-- R232, R233, R235, R303 to R305: what reaches a router's tree, a tile's Silt queue and its Loam unit completes: the arrival, the forwarding and the time-out of a tree, the arrival of an event, the unit's turn and the time-out of a fire. -/
def Obligations.TreeAndLoamEventsComplete : Prop :=
  Sys2Proof.Claims.TreeEventsComplete ∧ Sys2Proof.Claims.LoamEventsComplete

/-! ### Bookings (R55 to R72, R311 to R313) -/

namespace Sys2Proof.Machine

/-- The cue list that `o0` and `o1` name is well formed, may be read, and lies on tiles of the context; its reads are uses inside the booking, if there is one (R62, R311). -/
def GoodList (s : State) (vs : List Nat) (flag : Bool) : Prop :=
  let a := s.cur.a
  let o1 := (oVal s .cq 1).toNat
  let n := o1 % 64
  let addr := (oVal s .cq 0).toNat
  1 ≤ n ∧ n ≤ 32 ∧ (if flag then o1 < 128 else o1 < 64) ∧ addr % 16 = 0 ∧ addrTile addr = a ∧ inData addr (16 * n) = true ∧ tagsOk s (slotOf s a) addr (16 * n) = true ∧
  poisoned s addr (16 * n) = false ∧ vs = (List.range n).map (fun i => loadN s (addr + 16 * i) 16) ∧ cuesOk a vs = true ∧
  (∀ t ∈ cueTiles a (vs.map cueOf), kget 0 s.owners (tileCluster t) = slotOf s a) ∧ NoErrors s ∧
  ∀ i, i < n → useOk s a (ridTile 4 a (addrBank (addr + 16 * i))) (s.now + 1 + i) = true

/-- The results of a `cq` operation: `q0`, and `q1` where there is one, due in one later cycle until which the tile issues nothing (R311). -/
def CueAnswers (s t : State) (after : Nat) (q0 : Nat) (q1 : Option Nat) : Prop :=
  ∃ d, s.now + after < d ∧ ResultDue s t s.cur.a .cq 0x20 d (rowOf (BitVec.ofNat 32 q0)) ∧ (∀ v, q1 = some v → ResultDue s t s.cur.a .cq 0x21 d (rowOf (BitVec.ofNat 32 v))) ∧
    (bk t s.cur.a).wait = .cue d

/-- What an operation that only reads calendars leaves as it was. -/
def OnlyAsks (s t : State) : Prop :=
  { t with agents := s.agents, agenda := s.agenda, free := s.free } = s ∧ SameMemory s t ∧ SameRegs s t s.cur.a ∧ SameValues s t s.cur.a ∧
  seqPlace (bk t s.cur.a).q = seqPlace (bk s s.cur.a).q ∧ (∀ b, b ≠ s.cur.a → ag t b = ag s b) ∧ (ag t s.cur.a).wings = (ag s s.cur.a).wings

end Sys2Proof.Machine

open Sys2Proof Sys2Proof.Machine in
/-- R61, R63, R76, R311, R312: `cq.probe`, `cq.book` and `cq.extend` complete on a good list: the answer is the earliest start, from the lead and from 640 cycles after the list is read on, at which every window and tail of the list is free and the span ends within the horizon, or a status: 1 with no such start, 2 and 3 where `book` or
`extend` has no place, 4 where an accepted gang switch refuses it. A booking that fits is made: it holds every slot of its windows and tails, with the policy of its launch, and an extension adds its own; a probe changes nothing. That both results are due in one cycle is log 44's reading. -/
def Obligations.BookingOperations : Prop :=
  (∀ (s : State) (t : Nat) (cs : List Cue) (lead : Nat),
    let hs := cs.flatMap (cueHolds t)
    (∀ n, probe s t cs lead = some n → fitsAt s none hs n = true ∧ firstStart s lead ≤ n ∧ n + spanOf t cs ≤ slotNow s + 8192 ∧
      ∀ k, firstStart s lead ≤ k → k < n → fitsAt s none hs k = false) ∧
    (probe s t cs lead = none → ∀ k, firstStart s lead ≤ k → k + spanOf t cs ≤ slotNow s + 8192 → 1 ≤ spanOf t cs → fitsAt s none hs k = false) ∧
    (∀ n, fitsAt s none hs n = true ↔ ∀ h ∈ hs, ∀ i, i < h.2.2 → inRefresh h.1 (n + h.2.1 + i) = false ∧ calAt s h.1 (n + h.2.1 + i) = none) ∧
    gtOf s + 640 ≤ 16 * firstStart s lead) ∧
  (∀ (s : State) (t : Nat) (cs : List Cue) (lead k : Nat),
    let hs := cs.flatMap (cueHolds t)
    let first := max (slotNow s + lead) ((gtOf s + k + 656) / 16)
    (∀ n, probeAfter s t cs lead k = some n → fitsAt s none hs n = true ∧ first ≤ n ∧ n + spanOf t cs ≤ slotNow s + 8192 ∧ ∀ j, first ≤ j → j < n → fitsAt s none hs j = false) ∧
    (probeAfter s t cs lead k = none → ∀ j, first ≤ j → j + spanOf t cs ≤ slotNow s + 8192 → 1 ≤ spanOf t cs → fitsAt s none hs j = false)) ∧
  (∀ (s : State) (slot n span : Nat), switchRefuses s slot n span = true ↔
    1 ≤ regF s 0x7118 2 0 ∧ regF s 0x7118 2 0 ≤ 4 ∧ s.switch.out = slot ∧ s.switch.t < 16 * (n + span)) ∧
  ∀ (m : Trig) (s : State) (vs : List Nat), Ready s m → Free s .cq 0x20 1 → inFlight s s.cur.a .cq 0x21 < 32 →
    let a := s.cur.a
    let cs := vs.map cueOf
    let lead := (oVal s .cq 2).toNat
    let found := probeAfter s a cs lead vs.length
    let k := stepOf s a
    let holds : State → List Hold1 → Nat → Prop := fun u hs n => ∀ h ∈ hs, ∀ i, i < h.2.2 → calAt u h.1 (n + h.2.1 + i) = some { key := k, slot := n + h.2.1 + i }
    (GoodList s vs false →
      (∀ n, found = some n → switchRefuses s (slotOf s a) n (spanOf a cs) = false → ∃ u, exec (.cqProbe m) s = .next u ∧ CueAnswers s u (1 + vs.length) n (some (n / 2 ^ 32 % 2 ^ 28)) ∧ OnlyAsks s u) ∧
      (∀ n, found = some n → switchRefuses s (slotOf s a) n (spanOf a cs) = true → ∃ u, exec (.cqProbe m) s = .next u ∧ CueAnswers s u (1 + vs.length) 0 (some (4 * 2 ^ 28)) ∧ OnlyAsks s u) ∧
      (found = none → ∃ u, exec (.cqProbe m) s = .next u ∧ CueAnswers s u (1 + vs.length) 0 (some (2 ^ 28)) ∧ OnlyAsks s u) ∧
      (bookingOf s a = none → ∃ u, exec (.cqExtend m) s = .next u ∧ CueAnswers s u (1 + vs.length) 0 (some (3 * 2 ^ 28)) ∧ OnlyAsks s u) ∧
      ∀ b, bookingOf s a = some b →
        (fitsAt s none (cs.flatMap (cueHolds a)) b.s = true → b.s + spanOf a cs ≤ slotNow s + 8192 → switchRefuses s (slotOf s a) b.s (spanOf a cs) = false → pbEnabled s (slotOf s a) = false →
          ∃ u, exec (.cqExtend m) s = .next u ∧ CueAnswers s u (1 + vs.length) 0 (some 0) ∧ SameMemory s u ∧ holds u (cs.flatMap (cueHolds a)) b.s ∧
            heldBooking u a = some { b with e := max b.e (16 * (b.s + endOf cs)), slack := min b.slack (slackOf cs), span := max b.span (spanOf a cs),
                                            entries := b.entries + cs.length, cues := b.cues ++ cs }) ∧
        (fitsAt s none (cs.flatMap (cueHolds a)) b.s = true → b.s + spanOf a cs ≤ slotNow s + 8192 → switchRefuses s (slotOf s a) b.s (spanOf a cs) = true →
          ∃ u, exec (.cqExtend m) s = .next u ∧ CueAnswers s u (1 + vs.length) 0 (some (4 * 2 ^ 28)) ∧ OnlyAsks s u) ∧
        (fitsAt s none (cs.flatMap (cueHolds a)) b.s = false ∨ slotNow s + 8192 < b.s + spanOf a cs →
          ∃ u, exec (.cqExtend m) s = .next u ∧ CueAnswers s u (1 + vs.length) 0 (some (3 * 2 ^ 28)) ∧ OnlyAsks s u)) ∧
    (GoodList s vs true →
      (heldBooking s a ≠ none → ∃ u, exec (.cqBook m) s = .next u ∧ CueAnswers s u (1 + vs.length) 0 (some (2 * 2 ^ 28)) ∧ OnlyAsks s u) ∧
      (heldBooking s a = none → found = none → ∃ u, exec (.cqBook m) s = .next u ∧ CueAnswers s u (1 + vs.length) 0 (some (2 ^ 28)) ∧ OnlyAsks s u) ∧
      (∀ n, heldBooking s a = none → found = some n → switchRefuses s (slotOf s a) n (spanOf a cs) = true →
        ∃ u, exec (.cqBook m) s = .next u ∧ CueAnswers s u (1 + vs.length) 0 (some (4 * 2 ^ 28)) ∧ OnlyAsks s u) ∧
      ∀ r n, (bk s a).run = some r → r.booking = none → found = some n → switchRefuses s (slotOf s a) n (spanOf a cs) = false → pbEnabled s (slotOf s a) = false →
        ∃ u b, exec (.cqBook m) s = .next u ∧ CueAnswers s u (1 + vs.length) n (some (n / 2 ^ 32 % 2 ^ 28)) ∧ SameMemory s u ∧ SameRegs s u a ∧ heldBooking u a = some b ∧
          b.s = n ∧ b.e = 16 * (n + endOf cs) ∧ b.slack = slackOf cs ∧ b.span = spanOf a cs ∧ b.movable = (oVal s .cq 1).getLsbD 6 ∧ b.cues = cs ∧
          (∀ l, launchAt s r.key.pos = some l → r.key.task = false → (b.demotePolicy = true ↔ fld l.pkt 2 1 % 4 ≠ 1)) ∧
          holds u (cs.flatMap (cueHolds a)) n ∧ Comes u (max s.now (cycleOf s (b.e + b.slack))) .bookingEndPassed (.at2 a (b.e + b.slack)))

namespace Sys2Proof.Machine

/-- R72: the booking `c` of step `k` has been pulled to slot `n`: it holds its windows and tails there, a load comes in time, and so does its new end. -/
def Pulled (s u : State) (k : StepKey) (c : Booking) (n : Nat) : Prop :=
  let e := 16 * (n + endOf c.cues)
  (∃ x, stepRec u k = some x ∧ x.st = .committed ∧ x.booking = some { c with s := n, e := e }) ∧
  (c.span = spanOf k.tile c.cues → ∀ h ∈ c.cues.flatMap (cueHolds k.tile), ∀ i, i < h.2.2 → calAt u h.1 (n + h.2.1 + i) = some { key := k, slot := n + h.2.1 + i }) ∧
  Comes u (max s.now (cycleOf s (16 * n - 320))) .stepLoadStart (.at2 k.tile n) ∧ Comes u (max s.now (cycleOf s (e + c.slack))) .bookingEndPassed (.at2 k.tile (e + c.slack))

/-- R72: the earliest start to which the booking `c` of step `k` moves, behind slot `after`. -/
def pulledTo (s : State) (k : StepKey) (c : Booking) (after : Nat) : Option Nat :=
  let first := max (firstStart s 0) after
  searchFit s (some k) (c.cues.flatMap (cueHolds k.tile)) c.span first (c.s - first)

/-- The demotion record of a step (R69, R70). -/
def demotionRecord (r : Run) (b : Booking) (a cause : Nat) : ErrRec :=
  { cause := cause, demoted := true, slot := r.slot, agent := a, pos := r.key.pos, round := r.key.round, wave := r.key.wave,
    detail := r.delay + 2 ^ 32 * b.slack + 2 ^ 64 * b.e }

end Sys2Proof.Machine

open Sys2Proof Sys2Proof.Machine in
/-- R71, R72, R312, R313: `cq.release` ends the booking, frees its entries from the next slot on and pulls the chain behind it; `cq.chain` joins two movable bookings and pulls the second, or answers why not; `cq.compact` pulls what it can of a context's chains and counts what moved. A pull takes a committed movable booking to the
earliest start behind its predecessor at which its windows find their slots free or its own. `cq.demote` ends the booking, marks the step and writes a demotion record; `cq.slack` and `cq.query` read it. Which step `cq.chain` names where several tiles have it is log 45; results not stated without a booking are free. -/
def Sys2Proof.Claims.BookingsEndAndChain : Prop :=
  (∀ (s : State) (k : StepKey) (c : Booking) (after : Nat), let first := max (firstStart s 0) after
    (∀ n, pulledTo s k c after = some n → first ≤ n ∧ n < c.s ∧ n + c.span ≤ slotNow s + 8192 ∧ fitsAt s (some k) (c.cues.flatMap (cueHolds k.tile)) n = true ∧
      ∀ j, first ≤ j → j < n → fitsAt s (some k) (c.cues.flatMap (cueHolds k.tile)) j = false) ∧
    (pulledTo s k c after = none → ∀ j, first ≤ j → j < c.s → j + c.span ≤ slotNow s + 8192 → 1 ≤ c.span → fitsAt s (some k) (c.cues.flatMap (cueHolds k.tile)) j = false)) ∧
  (∀ (s : State) (k : StepKey) (hs : List (Nat × Nat × Nat)) (n : Nat), fitsAt s (some k) hs n = true ↔ ∀ h ∈ hs, ∀ i, i < h.2.2 → let m := n + h.2.1 + i
    inRefresh h.1 m = false ∧ ∀ x, calAt s h.1 m = some x → x.key = k ∨ ∃ g, x.freeAt = some g ∧ g ≤ 16 * m) ∧
  ∀ (m : Trig) (s : State), Ready s m → Free s .cq 0x20 1 → inFlight s s.cur.a .cq 0x21 < 32 →
    let a := s.cur.a
    let t := (tVal s m).toNat
    let o := fun k => (oVal s .cq k).toNat
    let faults : Instr → Nat → Option Word → Prop := fun i c x => exec i s = .next (syncFault s a c s.cur.slot x)
    let two : Instr → Nat → Nat → Nat → Prop := fun i l v w => ∃ u, exec i s = .next u ∧ ResultDue s u a .cq 0x20 (s.now + l) (rowOf (BitVec.ofNat 32 v)) ∧
      ResultDue s u a .cq 0x21 (s.now + l) (rowOf (BitVec.ofNat 32 w)) ∧ OnlyComputes s u
    let target := chainTarget s a (o 0) (o 1)
    (heldBooking s a = none → ∃ u, exec (.cqRelease m) s = .next u ∧ OnlyComputes s u) ∧ (bookingOf s a = none → ∃ u, exec (.cqDemote m) s = .next u ∧ OnlyComputes s u) ∧
    (∀ r b, (bk s a).run = some r → r.booking = some b →
      let freed : State → Prop := fun u => ∀ e ∈ s.cal, ∀ h, e.2 = some h → h.key = r.key → slotNow s + 1 ≤ h.slot → h.aged = false → h.freeAt = none → (e.1, some { h with freeAt := some (16 * (slotNow s + 1)) }) ∈ u.cal
      (∃ u, exec (.cqRelease m) s = .next u ∧ heldBooking u a = none ∧ SameMemory s u ∧ SameRegs s u a ∧ (b.succ = none → freed u) ∧
        ∀ q c, b.succ = some q.key → b.pred = none → stepRec s q.key = some q → q.booking = some c → q.key ≠ r.key → q.st = .committed → c.movable = true → c.succ = none →
          let v := releaseFrom s r.key (slotNow s + 1)
          (∀ n, pulledTo v q.key c (slotNow s + 1) = some n → Pulled s u q.key { c with pred := none } n) ∧
          (pulledTo v q.key c (slotNow s + 1) = none → (stepRec u q.key).bind (·.booking) = some { c with pred := none } ∧ freed u)) ∧
      (bookingOf s a = some b → ∃ u v, exec (.cqDemote m) s = .next u ∧ u = noteIssued (errorRecord v (demotionRecord r b a 0x56)) a s.cur.hdr ∧ v.regs = s.regs ∧ v.hbm = s.hbm ∧
        heldBooking u a = none ∧ SameRegs s u a ∧ (bk u a).run.map (·.demoted) = some true ∧ (b.succ = none → freed u))) ∧
    (t = 0 → (∀ b, heldBooking s a = some b → chainOutcome b target ≠ 0 → ∃ u, exec (.cqChain m) s = .next u ∧ CueAnswers s u 0 (chainOutcome b target) none ∧ OnlyAsks s u) ∧
      (heldBooking s a = none → ∃ u, exec (.cqChain m) s = .next u ∧ CueAnswers s u 0 1 none ∧ OnlyAsks s u) ∧
      ∀ r b q c, (bk s a).run = some r → r.booking = some b → target = some q → q.booking = some c → chainOutcome b target = 0 → q.key ≠ r.key → stepRec s q.key = some q →
        (∃ w, stepRec s r.key = some w ∧ w.booking = some b) → c.succ = none →
        ∃ u, exec (.cqChain m) s = .next u ∧ CueAnswers s u 0 0 none ∧ SameMemory s u ∧ heldBooking u a = some { b with succ := some q.key } ∧
          (∀ n, pulledTo s q.key c (b.s + b.span) = some n → Pulled s u q.key { c with pred := some r.key } n) ∧
          (pulledTo s q.key c (b.s + b.span) = none → (stepRec u q.key).bind (·.booking) = some { c with pred := some r.key } ∧ u.cal = s.cal)) ∧
    (∀ b q, chainOutcome b q = match q with
      | none => 1
      | some q => match q.booking with
        | none => 1
        | some c => if q.st ≠ .committed then 1 else if ¬ (b.movable = true ∧ c.movable = true) then 2 else if b.succ ≠ none ∨ c.pred ≠ none then 3 else if c.s < b.s + b.span then 4 else 0) ∧
    (t ≠ 0 → faults (.cqChain m) 0x58 none) ∧
    (∃ u v, exec (.cqCompact m) s = .next u ∧ CueAnswers s u 0 v none ∧ SameMemory s u ∧ SameRegs s u a) ∧
    (chainHeads s (slotOf s a) = [] → ∃ u, exec (.cqCompact m) s = .next u ∧ CueAnswers s u 0 0 none ∧ OnlyAsks s u) ∧
    (∀ k b q c, chainHeads s (slotOf s a) = [(k, b)] → b.succ = some q.key → stepRec s q.key = some q → q.booking = some c → c.succ = none →
      (q.st = .committed → c.movable = true → ∀ n, pulledTo s q.key c (b.s + b.span) = some n → ∃ u, exec (.cqCompact m) s = .next u ∧ CueAnswers s u 0 1 none ∧ Pulled s u q.key c n ∧ SameMemory s u) ∧
      (q.st ≠ .committed ∨ c.movable = false ∨ pulledTo s q.key c (b.s + b.span) = none → ∃ u, exec (.cqCompact m) s = .next u ∧ CueAnswers s u 0 0 none ∧ OnlyAsks s u)) ∧
    (∀ k b, (k, b) ∈ chainHeads s (slotOf s a) ↔ ∃ r ∈ s.steps, r.key = k ∧ r.booking = some b ∧ r.slot = slotOf s a ∧ b.succ ≠ none ∧ b.pred = none) ∧
    (∀ r b, (bk s a).run = some r → bookingOf s a = some b → two (.cqSlack m) 1 ((((b.slack : Int) - r.delay) % 2 ^ 32).toNat) r.delay) ∧
    (bookingOf s a = none → two (.cqSlack m) 1 0 0) ∧
    (let d := if (bk s a).run.any (·.demoted) then 2 else 0
     (∀ b, heldBooking s a = some b → (t % 8 = 0 → two (.cqQuery m) 2 b.s (b.s / 2 ^ 32)) ∧ (t % 8 = 1 → two (.cqQuery m) 2 b.e (b.e / 2 ^ 32)) ∧ (t % 8 = 3 → two (.cqQuery m) 2 b.span (b.span / 2 ^ 32)) ∧
       (t % 8 = 2 → two (.cqQuery m) 2 ((if isBooked s a then 1 else 0) + d + (if b.demotePolicy then 4 else 0) + (if b.movable then 8 else 0) + 16 * (b.entries % 64)) 0)) ∧
     (heldBooking s a = none → (t % 8 = 2 → two (.cqQuery m) 2 (d + if (bk s a).run.any (fun r => !r.key.task && (launchAt s r.key.pos).any fun l => fld l.pkt 2 1 % 4 == 2) then 4 else 0) 0) ∧
       (t % 8 < 4 → t % 8 ≠ 2 → ∃ u v w, exec (.cqQuery m) s = .next u ∧ ResultDue s u a .cq 0x20 (s.now + 2) v ∧ ResultDue s u a .cq 0x21 (s.now + 2) w ∧ OnlyAsks s u))) ∧
    (4 ≤ t % 8 → faults (.cqQuery m) 0x58 none) ∧
    (let n := o 1 % 64
     let bad := n = 0 ∨ 32 < n ∨ 128 ≤ o 1 ∨ o 0 % 16 ≠ 0 ∨ addrTile (o 0) ≠ a ∨ inData (o 0) (16 * n) = false
     let vs := (List.range n).map fun i => loadN s (o 0 + 16 * i) 16
     let all : Nat → Prop := fun c => faults (.cqBook m) c (some (oVal s .cq 0)) ∧ (o 1 < 64 → faults (.cqProbe m) c (some (oVal s .cq 0)) ∧ faults (.cqExtend m) c (some (oVal s .cq 0)))
     (bad → all 0x58) ∧ (64 ≤ o 1 → faults (.cqProbe m) 0x58 (some (oVal s .cq 0)) ∧ faults (.cqExtend m) 0x58 (some (oVal s .cq 0))) ∧
     (¬ bad → (tagsOk s (slotOf s a) (o 0) (16 * n) = false → all 0x41) ∧
       (tagsOk s (slotOf s a) (o 0) (16 * n) = true → (poisoned s (o 0) (16 * n) = true → all 0x4E) ∧
         (poisoned s (o 0) (16 * n) = false → (cuesOk a vs = false → all 0x54) ∧
           (cuesOk a vs = true → (∃ x ∈ cueTiles a (vs.map cueOf), kget 0 s.owners (tileCluster x) ≠ slotOf s a) → all 0x41)))))

/-! ### Booked operations (R57, R58, R66, R68, R217, R246) -/

namespace Sys2Proof.Machine

/-- The issuing step holds the resource in the slot of the cycle in which it uses it (R66). -/
def UseInside (s : State) (u : Nat × Nat) : Prop := ∃ h, calAt s u.1 ((gtOf s + (u.2 - s.now)) / 16) = some h ∧ h.key = stepOf s s.cur.a ∧ h.aged = false

/-- The uses of an operation are held against the booking: one that falls outside is an overrun in its cycle, and with all of them inside none comes (R66, R68,
R217). -/
def UsesJudged (s t : State) (us : List (Nat × Nat)) (id : Nat) : Prop :=
  (∀ u ∈ us, ¬ UseInside s u → Comes t u.2 .slackExhausted (.use s.cur.a u.1 (keyNo (stepOf s s.cur.a)) id)) ∧
  ((∀ u ∈ us, UseInside s u) → ∀ e ∈ t.agenda, (∃ o, e.what = .ev .slackExhausted o) → e ∈ s.agenda)

/-- A trigger of a unit of class `cls` with further uses: the trigger's own cycle falls into the booking, or it overruns at once. -/
def UnitJudged (s t : State) (cls : Nat) (us : List (Nat × Nat)) : Prop :=
  let unit_ := (ridTile cls s.cur.a 0, s.now)
  (UseInside s unit_ → UsesJudged s t us 0) ∧ (¬ UseInside s unit_ → Comes t s.now .slackExhausted (.use s.cur.a 0 (keyNo (stepOf s s.cur.a)) 0))

end Sys2Proof.Machine

open Sys2Proof Sys2Proof.Machine in
/-- R57, R58, R66, R68, R214, R217, R246: an operation of a booked step sets out like that of an unbooked one, in its promised time: a load or store for its bank and over the links on its way, a row of `vx` for its banks, a command of `mx` for its queue, an operation of `lm` in its unit. Every bank, link and unit that it takes must be held in the slot of that
cycle; a use outside is an overrun in its cycle. A bank that another operation postpones is judged again when it is taken. -/
def Sys2Proof.Claims.BookedOperationsKeepTheirWindows : Prop :=
  ∀ (m : Trig) (s : State), Ready s m → isTile s.cur.a = true → isBooked s s.cur.a = true →
    let a := s.cur.a
    let way := fun (addr : Nat) => if addrTile addr = a then 4 else if tileCluster (addrTile addr) = tileCluster a then 8 else 8 + transit a (addrTile addr)
    (∀ (cls : Fin 8), Free s .ls 0x20 1 → accessHeld s a cls.val = false →
      let addr := lsTarget s m
      let sends : Instr → AccOp → Row → Nat → Nat → Prop := fun i op data n k =>
        let p := max (s.now + way addr) (orderedFrom s a cls.val [bankKey addr, bankKey (addr + n - 1)])
        ∃ t, exec i s = .next t ∧ Comes t p .homeAccess (sentAccess s addr cls.val op data true) ∧ Awaits t a s.seq p 0 k true ∧ OnlySendsOut s t ∧
          UsesJudged s t (lineUses p [addr] ++ routeUses a (addrTile addr) s.now) s.seq
      (∀ e ∈ lsLoads, allMapped addr e.2.1 = true → addr % e.2.1 = 0 → sends (e.1 cls m) (.load e.2.1 e.2.2) 0 e.2.1 1) ∧
      (∀ e ∈ lsStores, allMapped addr e.2 = true → addr % e.2 = 0 → sends (e.1 cls m) (.store e.2) (rowOf (oVal s .ls 1)) e.2 0)) ∧
    (let t := tVal s m
     let addr := (oVal s .vx 0).toNat
     let cls := t.toNat / 2 ^ 28 % 8
     let lines := [addr, addr + 64, addr + 128, addr + 192]
     let may : VReads → Prop := fun r => (∀ c ∈ specCauses r t, c.1 = false) ∧ vxHeld s a = false ∧ vLocked s a r t = false ∧ inFlight s a .vx 0x20 < 32 ∧ inFlight s a .vx 0x21 < 32 ∧
       useHeld s a (ridTile 2 a 0) = false
     let sends : Instr → (BitVec 64 → AccOp) → Row → (State → Nat → Prop) → Prop := fun i op data also => ∃ u act, exec i s = .next u ∧ (∀ i, i < 64 → act.getLsbD i = vActive s t i) ∧ OnlySendsOut s u ∧
       (let on := activeLines lines act
        let p := max (s.now + way addr) (orderedFrom s a cls (on.map bankKey).eraseDups)
        Comes u p .homeAccess (sentAccess s addr cls (op act) data true) ∧ also u p ∧ UnitJudged s u 2 (lineUses p on ++ routeUses a (addrTile addr) s.now))
     accessHeld s a cls = false → addr % 64 = 0 → addr + 256 ≤ 2 ^ 32 → (∀ i, i < 64 → vActive s t i = true → allMapped (addr + 4 * i) 4 = true) →
       (may { d := .reg, rnd := .cls } → sends (.vxVld m) (fun act => .vload lines act none) 0 fun u p =>
         ∃ w ∈ (bk u a).x.pends, w.id = s.seq ∧ w.due = some (p + 2) ∧ w.w = .vreg (t.toNat % 64) (vReg s a (t.toNat % 64))) ∧
       (may { a := .reg, rnd := .cls } → sends (.vxVst m) (fun act => .vstore lines act none) (vReg s a (t.toNat / 2 ^ 6 % 64)) fun _ _ => True)) ∧
    (sockHeld s a .mx = false → useHeld s a (ridTile 1 a 0) = false →
      (∃ u, exec (.mxCap m) s = .next u ∧ OnlyMatrix s u ∧ UnitJudged s u 1 []) ∧ ((tVal s m).toNat < 8 → ∃ u, exec (.mxPrio m) s = .next u ∧ OnlyMatrix s u ∧ UnitJudged s u 1 []) ∧
      (tVal s m = 0 → ∃ u, exec (.mxSwap m) s = .next u ∧ OnlyMatrix s u ∧ UnitJudged s u 1 []) ∧
      (tVal s m = 0 → (mxOf s a).q.length < 16 → handleCause (hReg s a ((bk s a).c.mxcfg.toNat / 16 % 16)) [0, 2] = none → ∃ u, exec (.mxSclr m) s = .next u ∧ Queued s u .sclr id ∧ OnlyMatrix s u ∧ UnitJudged s u 1 []) ∧
      ∀ i ∈ [Instr.mxWload m, .mxWloadx m, .mxScale m, .mxRun m, .mxRunsp m, .mxDrainc m], ∀ u, exec i s = .next u → (mxOf u a).q.length = (mxOf s a).q.length + 1 → UnitJudged s u 1 []) ∧
    (sockHeld s a .lm = false → useHeld s a (ridTile 3 a 0) = false → inFlight s a .lm 0x20 < 32 →
      let t := (tVal s m).toNat
      let addr := (oVal s .lm 0).toNat
      (t < 16 → ∃ u, exec (.lmTick m) s = .next u ∧ ResultDue s u a .lm 0x20 (s.now + 1) (rowOf (BitVec.ofNat 32 (gtOf s / 2 ^ (lmBank (lmOf s a) t).tlog % 2 ^ 20))) ∧ OnlyComputes s u ∧ UnitJudged s u 3 []) ∧
      ((lmOf s a).running = false → performedAt s a a = true → NoErrors s → t < 16 → LmBlock addr 32 32 → addrTile addr = a → locCause s (slotOf s a) (.sram addr) 32 true = none → usesHeld s a (lmReads s addr 32) = none →
        GoodDescriptor (loadN s addr 32) → ∃ u, exec (.lmBank m) s = .next u ∧ OnlyLoam s u ∧ IsDescriptor (loadN s addr 32) (lmBank (lmOf u a) t) ∧ (bk u a).wait = .usr (s.now + 6) ∧
          UnitJudged s u 3 (spanUses s (ridTile 3 a 0) (s.now + 1) 5 ++ lmReads s addr 32)))

/-! ### System operations (R314 to R321) -/

namespace Sys2Proof.Machine

/-- R206, R320, R321: the control registers of an agent with their numbers; the reserved bits [62:58] of a handle read as zero (R2). -/
def csrTable (s : State) (a : Nat) : List (Nat × Word) :=
  let c := (bk s a).c
  let q := (bk s a).q
  [(0x000, c.fumode.setWidth 32),
   (0x001, q.cdepth.setWidth 32 <<< 24 ||| (if q.intrap then 0x200#32 else 0) ||| (if q.half then 0x100#32 else 0) ||| q.imode.setWidth 32),
   (0x002, c.mxcfg), (0x003, c.ntpkg), (0x004, c.chsw), (0x005, c.chdc), (0x008, c.tvec.setWidth 32), (0x009, c.ien.setWidth 32), (0x00A, c.ipend.setWidth 32),
   (0x00B, c.gtcmplo), (0x00C, c.gtcmphi), (0x00D, c.imsg.setWidth 32), (0x010, c.xcause.setWidth 32), (0x011, c.xpc.setWidth 32), (0x012, c.xmpc.setWidth 32),
   (0x013, c.xslot.setWidth 32), (0x014, c.xgtlo), (0x015, c.xgthi), (0x016, c.xq0), (0x017, c.xq1), (0x018, c.xfpc.setWidth 32), (0x019, c.xaddr), (0x01A, c.xqm0),
   (0x01B, c.xqm1), (0x020, c.act)] ++
  ((List.range 16).map fun i => (0x030 + i, kget 0 s.pairs (16 * a + i))) ++
  (List.range 64).map fun i => (0x040 + i, (hReg s a (i / 4)).extractLsb' (32 * (i % 4)) 32 &&& (if i % 4 = 1 then 0x83FFFFFF#32 else 0xFFFFFFFF#32))

/-- R5, R320, R321: the registers that a write replaces under a mask of their implemented bits. -/
def csrMasks (a : Nat) : List (Nat × Word) :=
  [(0x000, if isDock a then 0x99F#32 else 0xFFF#32), (0x003, 0x83FF#32), (0x004, 0xFFFFFFF0#32), (0x005, 0xFFFF#32), (0x008, 0x1FFFF#32), (0x009, 3#32), (0x00B, 0xFFFFFFFF#32),
   (0x00C, 0xFFFFFFFF#32), (0x00D, 0x1F#32), (0x010, 0xFF#32), (0x011, 0x1FFFF#32), (0x012, 0xFF#32), (0x013, 7#32), (0x014, 0xFFFFFFFF#32), (0x015, 0xFFFFFFFF#32), (0x016, 0x8007FFFF#32),
   (0x017, 0x8007FFFF#32), (0x018, 0x1FFFF#32), (0x019, 0xFFFFFFFF#32), (0x01A, 0x8007FFFF#32), (0x01B, 0x8007FFFF#32)] ++
  (List.range 64).map fun i => (0x040 + i, if i % 4 = 1 then 0x83FFFFFF#32 else 0xFFFFFFFF#32)

/-- What an operation of `sy` on control registers, waits and curtains leaves as it was. -/
def OnlySystem (s t : State) : Prop :=
  let a := s.cur.a
  { t with agents := s.agents, agenda := s.agenda, free := s.free } = s ∧ SameMemory s t ∧ (bk t a).g = (bk s a).g ∧ (bk t a).p = (bk s a).p ∧ (bk t a).v = (bk s a).v ∧
  (bk t a).m = (bk s a).m ∧ SameValues s t a ∧ (∀ b, b ≠ a → ag t b = ag s b) ∧ (ag t a).wings = (ag s a).wings

end Sys2Proof.Machine

open Sys2Proof Sys2Proof.Machine in
/-- R5, R148, R292, R314, R320, R321: `sy.csrr` delivers every register of the table with latency 1, and a reserved number faults with 0x2C; `sy.csrw` writes the implemented bits of the one register that it names, clears the bits of `ipend` written as 1, and leaves read-only registers; `gtcmplo` arms the compare. -/
def Obligations.ControlRegisters : Prop :=
  ∀ (m : Trig) (s : State), Ready s m → sockHeld s s.cur.a .sy = false →
    let a := s.cur.a
    let n := (tVal s m).toNat
    let v := oVal s .sy 0
    let faults : Instr → Prop := fun i => exec i s = .next (syncFault s a 0x2C s.cur.slot none)
    let others : State → Prop := fun u => ∀ e ∈ csrTable s a, e.1 ≠ n → e ∈ csrTable u a
    let reserved := ∀ e ∈ csrTable s a, e.1 ≠ n
    (∀ e ∈ csrTable s a, e.1 = n → inFlight s a .sy 0x20 < 32 → ∃ u, exec (.syCsrr m) s = .next u ∧ ResultDue s u a .sy 0x20 (s.now + 1) (rowOf e.2) ∧ OnlyComputes s u) ∧
    (reserved → faults (.syCsrr m) ∧ faults (.syCsrw m)) ∧
    (∀ e ∈ csrMasks a, e.1 = n → ∃ u, exec (.syCsrw m) s = .next u ∧ (n, v &&& e.2) ∈ csrTable u a ∧ others u ∧ OnlySystem s u) ∧
    ((n = 0x002 ∨ n = 0x020) → ∃ u, exec (.syCsrw m) s = .next u ∧ OnlySystem s u ∧ ∀ e ∈ csrTable s a, e ∈ csrTable u a) ∧
    (n = 0x001 → ∃ u, exec (.syCsrw m) s = .next u ∧ OnlySystem s u ∧ others u ∧ (bk u a).q.cdepth = v.extractLsb' 24 8 ∧ (bk u a).q.intrap = (bk s a).q.intrap ∧ (bk u a).q.half = (bk s a).q.half ∧
      (bk u a).q.imode = (bk s a).q.imode) ∧
    (n = 0x00A → ∃ u, exec (.syCsrw m) s = .next u ∧ OnlySystem s u ∧ others u ∧ (bk u a).c.ipend = (bk s a).c.ipend &&& ~~~ v.extractLsb' 0 4) ∧
    (n = 0x00B → ∃ u, exec (.syCsrw m) s = .next u ∧ (bk u a).c.armed = true ∧
      Comes u (max (s.now + 1) (cycleOf s ((bk s a).c.gtcmphi.toNat * 2 ^ 32 + v.toNat))) .gtComparePend (.at a)) ∧
    (n = 0x00C → ∃ u, exec (.syCsrw m) s = .next u ∧ (bk u a).c.armed = false) ∧
    (∀ i, i < 8 → let w0 := pairWord s a i 0
      let w1 := pairWord s a i 1
      let becomes : Word → Word → Prop := fun x y => ∃ u, exec (.syCsrw m) s = .next u ∧ pairWord u a i 0 = x ∧ pairWord u a i 1 = y ∧ SameRegs s u a ∧ others u ∧ u.sram = s.sram
      (n = 0x030 + 2 * i → (w0.getLsbD 15 = true → v.getLsbD 15 = true → becomes w0 w1) ∧ (v.getLsbD 15 = false → becomes (v &&& 0xFFFF3FFF#32) w1) ∧
        (w0 &&& 0xC000#32 = 0 → v.getLsbD 15 = true → becomes (if pairOk v w1 then v &&& 0xFFFFBFFF#32 else v &&& 0xFFFF3FFF#32) w1)) ∧
      (n = 0x031 + 2 * i → (w0.getLsbD 15 = true → becomes w0 w1) ∧ (w0.getLsbD 15 = false → becomes w0 (v &&& 0x3FFFFFFF#32))))

open Sys2Proof Sys2Proof.Machine in
/-- R22, R148, R314, R316, R318, R319: `gtime` delivers GT; `waitgt`, `idle` hold the tile; `fumode` sets the lock bits; a mark that nothing logs has no effect (what a logged one does is in `PromptBookIsControlled`); `ecall`, `brk` and `yield` act after their bundle; `perf` delivers its counter and may clear it. Operand bits not named fault with 0x2C. -/
def Sys2Proof.Claims.SystemOperations : Prop :=
  ∀ (m : Trig) (s : State), Ready s m → sockHeld s s.cur.a .sy = false →
    let a := s.cur.a
    let t := tVal s m
    let n := t.toNat
    let faults : Instr → Nat → Prop := fun i c => exec i s = .next (syncFault s a c s.cur.slot none)
    let does : Instr → (State → Prop) → Prop := fun i p => ∃ u, exec i s = .next u ∧ p u ∧ OnlySystem s u ∧ SameRegs s u a
    (n = 0 → inFlight s a .sy 0x20 < 32 → inFlight s a .sy 0x21 < 32 → ∃ u, exec (.syGtime m) s = .next u ∧ ResultDue s u a .sy 0x20 (s.now + 1) (rowOf (BitVec.ofNat 32 (gtOf s))) ∧
      ResultDue s u a .sy 0x21 (s.now + 1) (rowOf (BitVec.ofNat 32 (gtOf s / 2 ^ 32))) ∧ OnlyComputes s u) ∧
    does (.syWaitgt m) (fun u => (bk u a).wait = .gt (n * 2 ^ 32 + (oVal s .sy 0).toNat)) ∧
    (n = 0 → does (.syIdle m) fun u => (bk u a).wait = .idle) ∧
    (n < 2 ^ 12 → ∃ u, exec (.syFumode m) s = .next u ∧ (bk u a).c = { (bk s a).c with fumode := t.extractLsb' 0 12 &&& (if isDock a then 0x99F#12 else 0xFFF#12) } ∧ OnlySystem s u) ∧
    ((pbOf s a = 0 ∨ pbOf s a = 3) → does (.syPbmark m) fun u => u.books = s.books ∧ u.hbm = s.hbm) ∧
    ((pbOf s a = 1 ∨ pbOf s a = 2) → pbEnabled s (slotOf s a) = false → does (.syPbmark m) fun u => u.books = s.books ∧ u.hbm = s.hbm) ∧
    does (.syEcall m) (fun u => (bk u a).q.after = .trap 0x14 (some t) s.cur.slot :: (bk s a).q.after) ∧
    (n = 0 → (isTile a = true → (reg s (dbgReg (tileCluster a) 0)).getLsbD 0 = false) → does (.syBrk m) fun u => (bk u a).q.after = .trap 0x15 (some 0) s.cur.slot :: (bk s a).q.after) ∧
    (n = 0 → isTile a = true → (reg s (dbgReg (tileCluster a) 0)).getLsbD 0 = true → does (.syBrk m) fun u => Comes u s.now .dbgHalt (.at2 (tileCluster a) 1)) ∧
    (n = 0 → (bk s a).q.intrap = true → (bk s a).c.xcause = 0x11 →
      (allLanded s a = true → does (.syYield m) fun u => (bk u a).q.after = .yield :: (bk s a).q.after) ∧ (allLanded s a = false → exec (.syYield m) s = .next (holdCycle s a .lock))) ∧
    (n = 0 → ((bk s a).q.intrap = false ∨ (bk s a).c.xcause ≠ 0x11) → faults (.syYield m) 0x36) ∧
    (n < 2 ^ 5 → n % 16 < 9 → inFlight s a .sy 0x20 < 32 → ∃ u, exec (.syPerf m) s = .next u ∧ ResultDue s u a .sy 0x20 (s.now + 1)
        (rowOf (BitVec.ofNat 32 (min 0xFFFFFFFF (kget 0 (bk s a).perf (n % 16) + if n % 16 = 8 ∧ (bk s a).q.intrap = true then s.now - (bk s a).q.trapFrom else 0)))) ∧
      OnlySystem s u ∧ (16 ≤ n → 2 ≤ n % 16 → n % 16 ≠ 8 → kget 0 (bk u a).perf (n % 16) = 0)) ∧
    (n < 2 ^ 5 → 9 ≤ n % 16 → faults (.syPerf m) 0x2C) ∧ (2 ^ 5 ≤ n → faults (.syPerf m) 0x2C) ∧
    (n ≠ 0 → faults (.syGtime m) 0x2C ∧ faults (.syIdle m) 0x2C ∧ faults (.syYield m) 0x2C ∧ faults (.syBrk m) 0x2C ∧ faults (.syCarrive m) 0x2C ∧ faults (.syCwait m) 0x2C) ∧
    (2 ^ 12 ≤ n → faults (.syFumode m) 0x2C ∧ faults (.syCsrr m) 0x2C ∧ faults (.syCsrw m) 0x2C)

namespace Sys2Proof.Machine

/-- Where the values of a socket's `i`th latch begin in its image, each latch `k` before it with `cnt k` entries: after the head, a block of ages for each latch, and the operand ports (R317). Past the last latch, the image's end. -/
def imagePlace (u : Sock) (cnt : Nat → Nat) (i : Nat) : Nat :=
  64 + 64 * (latchCodes u).length + pad64 (4 * (narrowPorts u).length) + 256 * (broadPorts u).length + ((List.range i).map fun k => pad64 (latchBytes u ((latchCodes u).getD k 0) * (cnt k + 1))).sum

/-- How many entries an image's head gives its `i`th latch. -/
def entryCount (v i : Nat) : Nat := fld v (4 + i) 1 % 64

/-- How many entries the understudy of a socket's `i`th latch holds. -/
def entriesHeld (x : Xport) (u : Sock) (i : Nat) : Nat := (underOf x u ((latchCodes u).getD i 0)).entries.length

/-- R317: the bytes of `v` are the image of the socket's understudies. -/
def SocketImage (x : Xport) (u : Sock) (v : Nat) : Prop :=
  let n := (latchCodes u).length
  let po := 64 + 64 * n
  fld v 0 1 = sockPorts u ∧ fld v 1 1 = n ∧ fld v 2 2 = 0 ∧ fld v (4 + n) (60 - n) = 0 ∧
  (∀ (i c : Nat), (latchCodes u)[i]? = some c →
    let y := underOf x u c
    let w := latchBytes u c
    let at_ := imagePlace u (entriesHeld x u) i
    fld v (4 + i) 1 = y.entries.length + (if y.held.full = true then 128 else 0) ∧
    (∀ j, j < 32 → fld v (64 + 64 * i + 2 * j) 2 = (y.entries[j]?.map (·.age)).getD 0) ∧
    fld v at_ w = y.held.val.toNat % 256 ^ w ∧ ∀ j e, y.entries[j]? = some e → fld v (at_ + w * (j + 1)) w = e.val.toNat % 256 ^ w) ∧
  (∀ (i c : Nat), (narrowPorts u)[i]? = some c → fld v (po + 4 * i) 4 = (kget 0 x.kept (pk u c)).toNat % 2 ^ 32) ∧
  ∀ (i c : Nat), (broadPorts u)[i]? = some c → fld v (po + pad64 (4 * (narrowPorts u).length) + 256 * i) 256 = (kget 0 x.kept (pk u c)).toNat

/-- R317: `v` is well formed as an image of the socket: its counts are the socket's, unused bytes of its head and unused ages are zero, no latch has more than 32 entries, and ages stand in landing order. -/
def WellFormedImage (u : Sock) (v : Nat) : Prop :=
  let n := (latchCodes u).length
  fld v 0 1 = sockPorts u ∧ fld v 1 1 = n ∧ fld v 2 2 = 0 ∧ fld v (4 + n) (60 - n) = 0 ∧
  ∀ i, i < n → entryCount v i ≤ 32 ∧ fld v (4 + i) 1 / 64 % 2 = 0 ∧
    (∀ j, j + 1 < entryCount v i → fld v (64 + 64 * i + 2 * j) 2 ≤ fld v (64 + 64 * i + 2 * (j + 1)) 2) ∧
    ∀ j, entryCount v i ≤ j → j < 32 → fld v (64 + 64 * i + 2 * j) 2 = 0

end Sys2Proof.Machine

open Sys2Proof Sys2Proof.Machine in
/-- R154, R317: `sy.usr` completes once no result of the interrupted step is in flight on the socket: it stores the bytes of the socket's image, marks its understudies saved and holds the tile until the stores are performed; `sy.usw` completes once the tile's earlier accesses to the image's tile are performed, and holds the tile until the
image is in reach. Then a well-formed image is taken into the understudies, which it then is the image of, and marks them unsaved, with no other socket's changed (entries take the landing mode that log 17 gives them), and a malformed one restores nothing and gives the deferred cause 0x20. -/
def Sys2Proof.Claims.UnderstudiesSaveAndRestore : Prop :=
  ∀ (m : Trig) (s : State) (u : Sock), Ready s m → sockHeld s s.cur.a .sy = false → isTile s.cur.a = true → isBooked s s.cur.a = false → (tVal s m).toNat = u.id →
    let a := s.cur.a
    let addr := (oVal s .sy 0).toNat
    let x := (bk s a).x
    let k := (latchCodes u).length
    addr % 64 = 0 →
    (let n := imagePlace u (entriesHeld x u) k
     inData addr n = true → (∀ f ∈ x.flights, f.pre = true → f.u ≠ u) → accessHeld s a 0 = false → (∀ c ∈ latchCodes u, (underOf x u c).entries.length ≤ 32 ∧ ∀ e ∈ (underOf x u c).entries, e.age < 2 ^ 16) →
      ∃ t v, exec (.syUsr m) s = .next t ∧ (bk t a).x.saved.getLsbD u.id = true ∧ (bk t a).wait = .stores s.seq t.seq none ∧ SameMemory s t ∧ SameRegs s t a ∧ SocketImage x u v ∧
        ∀ i, 64 * i < n → ∃ p y, s.now + i < p ∧ Comes t p .homeAccess (.access y) ∧ y.op = .store 64 ∧ y.cls = 0 ∧ y.loc = .sram (addr + 64 * i) ∧ y.data = BitVec.ofNat 2048 (fld v (64 * i) 64)) ∧
    (inData addr 64 = true → performedAt s a (addrTile addr) = true → accessHeld s a 0 = false →
      ∃ t at_, exec (.syUsw m) s = .next t ∧ SameMemory s t ∧ SameRegs s t a ∧ (bk t a).wait = .image u addr at_ (orgOf s a s.cur.slot) ∧ s.now + 4 ≤ at_ ∧ (addrTile addr = a → at_ = s.now + 4)) ∧
    (inData addr 64 = true → NoErrors s →
      let n := imagePlace u (entryCount (loadN s addr 64)) k
      let v := loadN s addr n
      let t := readImage s a u addr (orgOf s a s.cur.slot)
      let y := (bk t a).x
      SameMemory s t ∧ SameRegs s t a ∧
      (inData addr n = true → locCause s (slotOf s a) (.sram addr) n true = none → WellFormedImage u v → SocketImage y u v ∧ y.saved = x.saved &&& ~~~ (1#12 <<< u.id) ∧ y.captured = true ∧
        { y with kept := x.kept, under := x.under, saved := x.saved, captured := x.captured } = x ∧ (∀ c ∈ latchCodes u, ∀ e ∈ (underOf y u c).entries, e.locked = lockedMode s a u) ∧
        ∀ (u' : Sock) (c : Nat), u' ≠ u → c < 64 → underOf y u' c = underOf x u' c ∧ kget 0 y.kept (pk u' c) = kget 0 x.kept (pk u' c)) ∧
      ((inData addr n = false ∨ (locCause s (slotOf s a) (.sram addr) n true = none ∧ ¬ WellFormedImage u v)) → y = x ∧ ∃ f, f.cause = 0x20 ∧ Comes t (s.now + 1) .deferredFault (.dfault a f))) ∧
    (inData addr 64 = false → exec (.syUsw m) s = .next (syncFault s a 0x40 s.cur.slot (some (oVal s .sy 0))))

open Sys2Proof Sys2Proof.Machine in
/-- R22, R148, R154, R314, R316 to R319: the operations of `sy` and the understudies. -/
def Obligations.SystemAndUnderstudyOperations : Prop :=
  Sys2Proof.Claims.SystemOperations ∧ Sys2Proof.Claims.UnderstudiesSaveAndRestore

open Sys2Proof Sys2Proof.Machine in
/-- R49 to R51, R315: `curtain` declares, with Tc the GT nearest the present; `carrive` holds until the tile may arrive, and its arrival sets out; `cwait` waits for the release. The last arrival of the participants, agreed on scope and Tc, closes the curtain at the later of Tc and its cycle; Δ later every participant is
released and its act count advances. Misuse faults with 0x35, a reserved scope with 0x48. Transits of arrivals are as log 50 reads the rules. -/
def Obligations.CurtainsCloseAndRelease : Prop :=
  (∀ (m : Trig) (s : State), Ready s m → sockHeld s s.cur.a .sy = false →
    let a := s.cur.a
    let n := (tVal s m).toNat
    let faults : Instr → Nat → Prop := fun i c => exec i s = .next (syncFault s a c s.cur.slot none)
    (1 ≤ n → n ≤ 4 → ∃ u c, exec (.syCurtain m) s = .next u ∧ OnlySystem s u ∧ c.scope = n ∧ c.arrived = false ∧ c.tc % 2 ^ 32 = (oVal s .sy 0).toNat ∧
      (2 ^ 31 ≤ gtOf s → c.tc ≤ gtOf s + 2 ^ 31 ∧ gtOf s ≤ c.tc + 2 ^ 31) ∧ ((bk s a).curtain = none → (bk u a).curtain = some c) ∧
      (∀ d, (bk s a).curtain = some d → d.arrived = true → (bk u a).curtain = some d ∧ (bk u a).curtainNext = some c) ∧
      (∀ d, (bk s a).curtain = some d → d.arrived = false → (bk u a).curtain = some c)) ∧
    (n = 0 → faults (.syCurtain m) 0x35) ∧ (5 ≤ n → n < 8 → faults (.syCurtain m) 0x48) ∧
    (n = 0 → ((bk s a).curtain = none → faults (.syCarrive m) 0x35 ∧ faults (.syCwait m) 0x35) ∧
      ∀ c, (bk s a).curtain = some c →
        (c.arrived = true → faults (.syCarrive m) 0x35) ∧ (c.arrived = false → faults (.syCwait m) 0x35) ∧
        (c.arrived = false → mayArrive s a c = true → ∃ u d, exec (.syCarrive m) s = .next u ∧ SameMemory s u ∧ SameRegs s u a ∧ SameValues s u a ∧ (∀ b, b ≠ a → ag u b = ag s b) ∧
          (∀ l, ownLaunch s a = some l → ∃ l' ∈ u.launches, l'.id = l.id ∧ ∃ y ∈ l'.arrivals, y.tile = a ∧ y.act = kget 0 l.acts a ∧ y.scope = c.scope ∧ y.tc = c.tc ∧ y.atPoint = false) ∧
          (bk u a).curtain = some { c with arrived := true } ∧ s.now < d ∧
          (c.scope = 1 → d = s.now + 1) ∧ Comes u d .curtainArrive (.at a)) ∧
        (c.arrived = false → mayArrive s a c = false → exec (.syCarrive m) s = .next (holdCycle s a .curtain)) ∧
        (c.arrived = true → c.released = false → inFlight s a .sy 0x20 < 32 → ∃ u, exec (.syCwait m) s = .next u ∧ OnlySystem s u ∧ (bk u a).wait = .curtain (lockedMode s a .sy)) ∧
        (c.arrived = true → c.released = true → inFlight s a .sy 0x20 < 32 → ∃ u, exec (.syCwait m) s = .next u ∧ OnlySystem s u ∧ ResultDue s u a .sy 0x20 (s.now + 1) (rowOf (bk s a).c.act) ∧ (bk u a).curtain = (bk s a).curtainNext))) ∧
  (∀ (s : State) (a : Nat) (l : Launch) (c : Arrival), s.occ = .at a → arriving s a = some l → l.arrivals.find? (fun y => y.tile == a) = some c → deadlineCut s l.slot = false →
    let ps := participants l c.scope (scopePart c.scope a)
    let came := fun (t : Nat) => l.arrivals.find? fun y => y.tile == t && y.act == c.act && (y.atPoint || t == a)
    ((∀ t ∈ ps, t ≠ a → ∃ d, came t = some d ∧ d.scope = c.scope ∧ d.tc = c.tc) →
      ∃ u, exec .curtainArrive s = .next u ∧ SameMemory s u ∧ u.agents = s.agents ∧
        Comes u (max s.now (cycleOf s c.tc)) .curtainClose (.curtain ⟨l.id, c.act, c.scope, scopePart c.scope a⟩)) ∧
    ((∃ t ∈ ps, t ≠ a ∧ came t = none) → ∃ u, exec .curtainArrive s = .next u ∧ u.agenda = s.agenda ∧ u.agents = s.agents ∧ SameMemory s u) ∧
    ((∀ t ∈ ps, t ≠ a → came t ≠ none) → (∃ t ∈ ps, t ≠ a ∧ ∃ d, came t = some d ∧ (d.scope ≠ c.scope ∨ d.tc ≠ c.tc)) →
      ∃ u, exec .curtainArrive s = .next u ∧ SameMemory s u ∧ ∀ t ∈ ps, ∃ f, f.cause = 0x35 ∧ Comes u (s.now + 1) .deferredFault (.dfault t f))) ∧
  ∀ (s : State) (k : CurtainKey) (l : Launch), s.occ = .curtain k → launchOf s k.launch = some l →
    (∃ u, exec .curtainClose s = .next u ∧ SameMemory s u ∧ u.agents = s.agents ∧
      Comes u (s.now + (if k.scope = 1 then 4 else if k.scope = 2 then 64 else if k.scope = 3 then 192 else 4096)) .curtainRelease (.curtain k)) ∧
    (s.switch.atCurtain ≠ some k → (bookOf s l.slot).opens = [] → (participants l k.scope k.part).Nodup → ∃ u, exec .curtainRelease s = .next u ∧ SameMemory s u ∧
      ∀ t ∈ participants l k.scope k.part, bankOf l (bk s t) = true → (bk u t).c.act = BitVec.ofNat 32 (kget 0 l.acts t + 1) ∧
        (∀ locked, (bk s t).wait = .curtain locked → (bk u t).wait = .none ∧ (bk u t).curtain = (bk s t).curtainNext ∧
          (∃ f ∈ (bk u t).x.flights, f.u = .sy ∧ f.code = 0x20 ∧ f.due = some s.now ∧ f.val = rowOf (BitVec.ofNat 32 (kget 0 l.acts t + 1)) ∧ f.locked = locked ∧ f.pre = false) ∧
          Comes u s.now .resultLanding (.unit t .sy)) ∧
        ((∀ locked, (bk s t).wait ≠ .curtain locked) → (bk u t).curtain = (bk s t).curtain.map fun c => { c with released := c.released || c.arrived }))


/-! ### Interrupts, deferred faults and overruns (R38, R53, R68 to R70, R208, R216, R316) -/

namespace Sys2Proof.Machine

/-- The state once the head of the agenda has been taken. -/
def headTaken (s : State) (e : Entry) (es : List Entry) : State := { s with now := max s.now e.at_, agenda := es, occ := .none }

/-- The state in which the head of the agenda acts: what it reads first meets the errors that stand there (R390). -/
def headMet (s : State) (e : Entry) (es : List Entry) : State :=
  meetErrors (headTaken s e es) (readBy (headTaken s e es) e).1 (readBy (headTaken s e es) e).2

/-- Nothing but an interrupt keeps the agent from issuing now: its step runs, its last bundle has left no hold, boundary or trap, and no handler is underway (R316). -/
def mayInterrupt (s : State) (a : Nat) (r : Run) : Prop :=
  (bk s a).run = some r ∧ r.going = true ∧ (ag s a).flip = none ∧ (ag s a).halted = none ∧ (bk s a).q.notBefore ≤ s.now ∧ (bk s a).dfaults = [] ∧ (bk s a).q.owed = false ∧
  (bk s a).q.after = [] ∧ (bk s a).q.ended = false ∧ (bk s a).q.intrap = false

/-- R71: from slot `n` on nothing that the step holds stays held after the cycle that begins the slot. -/
def HoldingsReleased (s u : State) (k : StepKey) (n : Nat) : Prop :=
  ∀ e ∈ s.cal, ∀ h, e.2 = some h → h.key = k → n ≤ h.slot → h.aged = false → h.freeAt = none → (e.1, some { h with freeAt := some (16 * n) }) ∈ u.cal

/-- R68 to R70: a running step that overruns with a cause. -/
def Overruns (s u : State) (a : Nat) (r : Run) (b : Booking) (cause : Nat) : Prop :=
  (b.succ = none → HoldingsReleased s u r.key (slotNow s + 1)) ∧
  (b.demotePolicy = true → (∃ v, u = errorRecord v (demotionRecord r b a cause)) ∧ (bk u a).run = some { r with booking := none, demoted := true } ∧ (bk u a).q = (bk s a).q ∧ SameRegs s u a ∧
    (stepRec u r.key).map (·.st) = (stepRec s r.key).map (·.st)) ∧
  (b.demotePolicy = false → unsaved s a = false → (bk u a).run = some { r with booking := none, going := false } ∧ (bk u a).c.xcause = BitVec.ofNat 8 cause ∧
    ((stepRec s r.key).isSome = true → isFaulted s r.key = false → (stepRec u r.key).map (·.st) = some (.faulted cause)))

end Sys2Proof.Machine

open Sys2Proof Sys2Proof.Machine in
/-- R38, R151, R193, R316: an interrupt is taken before the next bundle: t0 is the last cycle of the bundle before, `xpc` names the bundle that would have issued, `xfpc` the last one issued, the handler issues at `tvec`, and the pending bits of debug and
pre-emption clear; a pre-empted step releases its booking and keeps what it still had to hold. Of several pending interrupts debug is taken first, then pre-emption at an iteration boundary outside a scene, then the compare and the message that `ien` lets through. An armed compare pends its interrupt once GT has come. With pre-emption pending, an iteration past its declared maximum faults with 0x33;
that the step then issues on only where `tvec` names a handler is log 13's reading. -/
def Sys2Proof.Claims.InterruptsAreTaken : Prop :=
  (∀ (s : State) (a : Nat) (i : Irq) (r : Run), s.occ = .irq a i → (bk s a).run = some r → unsaved s a = false → (ag s a).queued = false → (i = .preempt → r.booking = none) → 0 < s.now →
    ∃ u, exec .interruptTake s = .next u ∧
      (let c := (bk u a).c
       let c0 := (bk s a).c
       let q := (bk s a).q
       let inScene := q.scene.isSome
       c.xcause = BitVec.ofNat 8 (match i with
         | .debug => 0x10
         | .preempt => 0x11
         | .gtCompare => 0x12
         | .message => 0x13) ∧
       c.xpc = (if q.half then 1#1 else 0#1) ++ q.pc ∧ c.xmpc = (if inScene then BitVec.ofNat 8 q.mpc else 0) ∧ c.xfpc = q.lastPc ∧ c.xslot = 7 ∧ c.xaddr = c0.xaddr ∧
       c.xgtlo = BitVec.ofNat 32 (gtOf s - (s.now - lastCycle s a)) ∧ c.xgthi = BitVec.ofNat 32 ((gtOf s - (s.now - lastCycle s a)) / 2 ^ 32) ∧
       c.xq0 = encBr (if inScene then q.mq[0]? else q.bq[0]?) ∧ c.xq1 = encBr (if inScene then q.mq[1]? else q.bq[1]?) ∧
       c.xqm0 = (if inScene then encBr q.bq[0]? else 0) ∧ c.xqm1 = (if inScene then encBr q.bq[1]? else 0) ∧
       c.ipend = (match i with
         | .debug => c0.ipend &&& 0b1011#4
         | .preempt => c0.ipend &&& 0b0111#4
         | _ => c0.ipend) ∧ c.ien = c0.ien ∧ c.fumode = c0.fumode ∧ c.tvec = c0.tvec) ∧
      (bk u a).q.intrap = true ∧ (bk u a).q.bq = [] ∧ (bk u a).q.mq = [] ∧ (bk u a).q.scene = none ∧ (bk u a).q.pc = (bk s a).c.tvec.extractLsb' 0 16 ∧
      (bk u a).q.loops = (bk s a).q.loops ∧ (bk u a).q.depth = (bk s a).q.depth ∧ (bk u a).q.cdepth = (bk s a).q.cdepth ∧
      (bk u a).g = (bk s a).g ∧ (bk u a).p = (bk s a).p ∧ (bk u a).v = (bk s a).v ∧ (bk u a).m = (bk s a).m ∧ (bk u a).h = (bk s a).h ∧ (bk u a).x.kept = (bk s a).x.ports ∧ (bk u a).x.captured = true ∧
      SameMemory s u ∧ (∀ b, b ≠ a → ag u b = ag s b) ∧ ⟨s.now, priIssue, .issue a⟩ ∈ u.agenda) ∧
  (∀ (s : State) (a : Nat) (r : Run) (b : Booking), s.occ = .irq a .preempt → (bk s a).run = some r → r.booking = some b →
    let n := (gtOf s - (s.now + 1 - r.iterStart)) / 16 + 1
    ∃ u, exec .interruptTake s = .next u ∧ heldBooking u a = none ∧ ((stepRec s r.key).isSome = true → (stepRec u r.key).bind (·.remain) = some (remainingCues b n)) ∧
      (b.succ = none → ∀ e ∈ s.cal, ∀ h, e.2 = some h → h.key = r.key → n ≤ h.slot → h.aged = false → h.freeAt = none → (e.1, some { h with freeAt := some (16 * n) }) ∈ u.cal)) ∧
  (∀ (s : State) (e : Entry) (es : List Entry) (a : Nat) (r : Run), s.agenda = e :: es → e.what = .issue a → frozenAt s e = none → mayInterrupt (headMet s e es) a r →
    let t := headMet s e es
    let p := (bk t a).c.ipend
    let ien := (bk t a).c.ien
    let bound := r.atBoundary = true ∧ (bk t a).q.scene = none
    let late := p.getLsbD 3 = true ∧ r.maxIter < t.now + 1 - r.iterStart
    let takes : Irq → Prop := fun i => step s = exec .interruptTake { modAg t a fun g => { g with queued := false } with occ := .irq a i }
    ((bk t a).wait = .none ∨ (bk t a).wait = .idle ∨ ∃ g, (bk t a).wait = .gt g) →
      (p.getLsbD 2 = true → ¬ late → takes .debug) ∧
      (p.getLsbD 2 = false → p.getLsbD 3 = true → bound → takes .preempt) ∧
      (p.getLsbD 2 = false → ¬ (p.getLsbD 3 = true ∧ bound) → p.getLsbD 0 = true → ien.getLsbD 0 = true → ¬ late → takes .gtCompare) ∧
      (p.getLsbD 2 = false → ¬ (p.getLsbD 3 = true ∧ bound) → (p.getLsbD 0 = false ∨ ien.getLsbD 0 = false) → p.getLsbD 1 = true → ien.getLsbD 1 = true → ¬ late → takes .message)) ∧
  (∀ (s : State) (a : Nat), s.occ = .at a →
    let c := (bk s a).c
    let g := c.gtcmphi.toNat * 2 ^ 32 + c.gtcmplo.toNat
    (c.armed = true → g ≤ gtOf s → ∃ u, exec .gtComparePend s = .next u ∧ (bk u a).c = { c with ipend := c.ipend ||| 1#4 } ∧ { u with agents := s.agents } = s ∧ ∀ b, b ≠ a → ag u b = ag s b) ∧
    (c.armed = true → gtOf s < g → ∃ u, exec .gtComparePend s = .next u ∧ { u with agenda := s.agenda } = s ∧ Comes u (max (s.now + 1) (cycleOf s g)) .gtComparePend (.at a)) ∧
    (c.armed = false → exec .gtComparePend s = .next s)) ∧
  ∀ (s : State) (a : Nat) (r : Run), s.occ = .at a → (bk s a).run = some r → unsaved s a = false →
    ∃ u, exec .iterationOverrun s = .next u ∧ (bk u a).c.xcause = 0x33 ∧ (bk u a).c.xslot = 7 ∧ (bk u a).run = some { r with going := r.going && (bk s a).c.tvec != 0 } ∧
      ((stepRec s r.key).isSome = true → isFaulted s r.key = false → (stepRec u r.key).map (·.st) = some (.faulted 0x33)) ∧ (bk u a).g = (bk s a).g ∧ (bk u a).p = (bk s a).p ∧ (bk u a).v = (bk s a).v ∧ (bk u a).m = (bk s a).m ∧ (bk u a).h = (bk s a).h

open Sys2Proof Sys2Proof.Machine in
/-- R35, R208, R216, R316: a refusal reaches its step, whose wait on the operation ends and whose results from it never land; of a step that is over, an error record is written. A peer's update is taken by a valid handle only if it moves the position
forward, and an advance of `prod` into the handle that `imsg` watches pends the message interrupt. -/
def Sys2Proof.Claims.RefusalsAndUpdatesArrive : Prop :=
  (∀ (s : State) (a : Nat) (f : DFault) (r : Run), s.occ = .dfault a f → (bk s a).run = some r → f.step = some r.key → stepStOf s r.key ≠ .parked →
    ∃ u, exec .deferredFault s = .next u ∧ (bk u a).dfaults = (bk s a).dfaults ++ [f] ∧ ((bk s a).wait = .sync f.id → (bk u a).wait = .none) ∧ ((bk s a).wait ≠ .sync f.id → (bk u a).wait = (bk s a).wait) ∧
      (bk u a).run = some r ∧ (bk u a).q = { (bk s a).q with xscenes := (bk s a).q.xscenes.map fun v => if v.wait = .sync f.id then { v with wait := .none } else v } ∧
      SameRegs s u a ∧ SameMemory s u ∧ SameValues s u a ∧ (f.id ≠ 0 → ∀ x ∈ (bk u a).x.flights, x.id ≠ f.id) ∧
      (∀ x ∈ (bk s a).x.flights, x.id ≠ f.id → x ∈ (bk u a).x.flights) ∧ { u with agents := s.agents } = s) ∧
  (∀ (s : State) (a : Nat) (f : DFault), s.occ = .dfault a f → (bk s a).run = none → (ag s a).wings.run = none → f.id = 0 →
    let k := f.step.getD { pos := 0xFFFFFFFF }
    exec .deferredFault s = .next (errorRecord s { cause := f.cause, slot := slotFor s a f.step, agent := a, addr := f.addr, pos := if k.task then 0xFFFFFFFF else k.pos,
                                                   round := k.round, wave := k.wave })) ∧
  ∀ (s : State) (a : Nat) (n : Fin 16) (prod : Bool) (v : Word), s.occ = .handle a n prod v →
    let h := hReg s a n.val
    let old := if prod then h.extractLsb' 64 32 else h.extractLsb' 96 32
    let forward := 0 < (v - old).toNat ∧ (v - old).toNat < 2 ^ 31
    let taken := h.getLsbD 63 = true ∧ hMalformed h = false ∧ forward
    (¬ taken → exec .handleUpdateArrival s = .next s) ∧
    (taken → ∃ u, exec .handleUpdateArrival s = .next u ∧ (hReg u a n.val).extractLsb' 0 64 = h.extractLsb' 0 64 ∧
      (hReg u a n.val).extractLsb' 64 32 = (if prod then v else h.extractLsb' 64 32) ∧ (hReg u a n.val).extractLsb' 96 32 = (if prod then h.extractLsb' 96 32 else v) ∧ (∀ k, k ≠ n.val → hReg u a k = hReg s a k) ∧
      (bk u a).c.ipend = (if prod = true ∧ (bk s a).c.imsg.getLsbD 4 = true ∧ ((bk s a).c.imsg.extractLsb' 0 4).toNat = n.val then (bk s a).c.ipend ||| 2#4 else (bk s a).c.ipend) ∧
      { u with agents := s.agents } = s ∧ (bk u a).g = (bk s a).g ∧ (bk u a).p = (bk s a).p ∧ (bk u a).x = (bk s a).x ∧ (bk u a).q = (bk s a).q ∧ ∀ b, b ≠ a → ag u b = ag s b)

open Sys2Proof Sys2Proof.Machine in
/-- R38, R208, R216, R316: interrupts are taken, and what reaches a step from outside it arrives. -/
def Obligations.InterruptsAndRefusalsArrive : Prop :=
  Sys2Proof.Claims.InterruptsAreTaken ∧ Sys2Proof.Claims.RefusalsAndUpdatesArrive

open Sys2Proof Sys2Proof.Machine in
/-- R53, R68 to R71: a booked step overruns when its delay passes its slack (0x52), when a use falls outside its booking (0x50), and when GT reaches the booking's end plus slack (0x51): its holdings are released from the next slot, and it goes on
unbooked or is Faulted, by its policy. An unbooked step held by booked windows ages, and at age 4 the next free slot is reserved for it. What counts as the first cycle of a wait is as log 141 reads the rules. -/
def Sys2Proof.Claims.OverrunsAndAging : Prop :=
  (∀ (s : State) (a : Nat) (r : Run) (b : Booking), (bk s a).run = some r → r.booking = some b → 16 * b.s ≤ gtOf s →
    (s.occ = .at a → b.slack < r.delay → ∃ u, exec .slackExhausted s = .next u ∧ Overruns s u a r b 0x52) ∧
    (s.occ = .at a → r.delay ≤ b.slack → exec .slackExhausted s = .next s) ∧
    (∀ rid id, s.occ = .use a rid (keyNo r.key) id →
      let held := ∃ h, calAt s rid (slotNow s) = some h ∧ h.key = r.key ∧ h.aged = false
      (held → exec .slackExhausted s = .next s) ∧
      (¬ held → ∃ u, exec .slackExhausted s = .next u ∧ Overruns s { u with voids := s.voids } a r b 0x50 ∧
        u.voids = if id ≠ 0 ∧ underway s a id = true then id :: s.voids else s.voids)) ∧
    (s.occ = .at2 a (b.e + b.slack) →
      (b.e + b.slack ≤ gtOf s → ∃ u, exec .bookingEndPassed s = .next u ∧ Overruns s u a r b 0x51) ∧
      (gtOf s < b.e + b.slack → ∃ u, exec .bookingEndPassed s = .next u ∧ { u with agenda := s.agenda } = s ∧ Comes u (max (s.now + 1) (cycleOf s (b.e + b.slack))) .bookingEndPassed (.at2 a (b.e + b.slack)))) ∧
    (∀ g, g ≠ b.e + b.slack → s.occ = .at2 a g → exec .bookingEndPassed s = .next s)) ∧
  ∀ (s : State) (a rid : Nat) (r : Run), s.occ = .at2 a rid → (bk s a).run = some r → bookingOf s a = none →
    (∀ x, (ag s a).wings.run = some x → x.key = r.key ∨ (kget (0, 0, 0) x.ages rid).2.1 = 0) →
    let e := kget (0, 0, 0) r.ages rid
    let waits := e.2.1 ≠ 0 ∧ s.now ≤ e.2.2 + 1 ∧ e.2.1 + 131072 * (e.1 + 1) ≤ s.now
    let reserved := ∃ x ∈ s.cal, ∃ h, x.1 / 8192 = rid ∧ x.2 = some h ∧ h.key = r.key ∧ h.aged = true ∧ slotNow s ≤ h.slot
    (waits → e.1 < 4 → ∃ u, exec .ageIncrement s = .next u ∧ (bk u a).run = some { r with ages := kset (0, 0, 0) r.ages rid (e.1 + 1, e.2.1, e.2.2) } ∧
      (e.1 < 3 → Comes u (s.now + 131072) .ageIncrement (.at2 a rid) ∧ u.cal = s.cal) ∧
      (e.1 = 3 → ¬ reserved →
        (∀ n, slotNow s < n → n ≤ slotNow s + 8191 → slotKept s r.key rid n = false → (∀ k, slotNow s < k → k < n → slotKept s r.key rid k = true) →
          kget none u.cal (calKey rid n) = some { key := r.key, slot := n, aged := true } ∧ ∀ k, k ≠ calKey rid n → kget none u.cal k = kget none s.cal k) ∧
        ((∀ n, slotNow s < n → n ≤ slotNow s + 8191 → slotKept s r.key rid n = true) → u.cal = s.cal ∧ Comes u (s.now + 16) .ageIncrement (.at2 a rid)))) ∧
    (¬ waits → e.1 < 4 → exec .ageIncrement s = .next s)


open Sys2Proof Sys2Proof.Machine in
/-- R53, R66, R68 to R72, R312, R313: overruns, aging, releases and chains of bookings, and the windows of booked operations. -/
def Obligations.BookingsEndAndOverrun : Prop :=
  Sys2Proof.Claims.OverrunsAndAging ∧ Sys2Proof.Claims.BookingsEndAndChain ∧ Sys2Proof.Claims.BookedOperationsKeepTheirWindows

/-! ### The life of a step (R30, R33, R35, R41, R42, R46, R63 to R65, R182, R430) -/

namespace Sys2Proof.Machine

/-- R33: position in the launch sequence, then round, then wave. -/
def EarlierStep (x y : StepRec) : Prop :=
  x.key.pos < y.key.pos ∨ (x.key.pos = y.key.pos ∧ (x.key.round < y.key.round ∨ (x.key.round = y.key.round ∧ x.key.wave < y.key.wave)))

/-- A walker step of the tile that waits for its turn (R33, R35, R46). -/
def WaitsOn (s : State) (t : Nat) (r : StepRec) : Prop :=
  r ∈ s.steps ∧ r.key.tile = t ∧ r.key.task = false ∧ (r.st = .assigned ∨ r.st = .booking ∨ r.st = .committed) ∧ kget 0 s.owners (tileCluster t) = r.slot

/-- A tile with both banks empty, no flip and no load under way, in a running cluster of an Active slot (R35, R369, R371, R408). -/
def TileIdle (s : State) (t slot : Nat) : Prop :=
  isTile t = true ∧ (ag s t).flip = none ∧ (ag s t).front.run = none ∧ (ag s t).wings.run = none ∧ (ag s t).ahead = false ∧ tileTaken s t = false ∧
  ctxState s slot = 3 ∧ powerState s (tileCluster t) = 0 ∧ powerMoves s (tileCluster t) = false ∧ kget 0 s.owners (tileCluster t) = slot

/-- The state of a step. -/
def StepIs (u : State) (k : StepKey) (st : StepState) : Prop := ∃ r ∈ u.steps, r.key = k ∧ r.st = st

/-- The registers of a bank (R14, R320). -/
def SameBankRegs (b c : Bank) : Prop := b.g = c.g ∧ b.p = c.p ∧ b.v = c.v ∧ b.m = c.m ∧ b.h = c.h ∧ b.c = c.c

end Sys2Proof.Machine

open Sys2Proof Sys2Proof.Machine in
/-- R33, R35, R41, R42, R45, R46: an idle tile takes the earliest of its waiting steps, to Booking or to Loading; it starts the task at the head of its spawn queue only if none waits, with the packet's arguments in `g0` to `g15`. A flip of 64 cycles, counted from the next one or from the cycle after the boundary, exchanges the banks: a step loaded
ahead starts, a booked one at GT 16s, and a parked one runs again; the tile flips back to a parked step after a boundary, under replay at the recorded count. Turns come in the next cycle after what enables them (the model's choice, log 41). -/
def Sys2Proof.Claims.TilesTakeTheirTurn : Prop :=
  (∀ (s : State) (t : Nat) (r : StepRec) (l : Launch), s.occ = .at t → TileIdle s t r.slot → WaitsOn s t r → r.st = .assigned → (∀ x, WaitsOn s t x → x = r ∨ EarlierStep r x) →
    launchAt s r.key.pos = some l → l.slot = r.slot → (fld l.pkt 57 1 ≠ 0 → l.started = true) →
    let books := fld l.pkt 2 1 % 4 ≠ 0 ∧ l.kern.cues.isSome = true
    (pbEnabled s l.slot = false → ∃ u, exec .stepTurn s = .next u ∧ SameMemory s u ∧ u.agents = s.agents ∧
      (books → StepIs u r.key .booking ∧ Comes u s.now .bookingProbe (.at t)) ∧ (¬ books → StepIs u r.key .loading ∧ Comes u (s.now + 1) .stepLoadStart (.at2 t 0))) ∧
    (∀ w, startChoice s t l.slot l.pbMode 0 2 = .wait w → ∃ u, exec .stepTurn s = .next u ∧ { u with agenda := s.agenda } = s ∧ Comes u (s.now + 1) .stepTurn (.at t))) ∧
  (∀ (s : State) (t : Nat) (r : Run), s.occ = .at t → (ag s t).flip = none → (ag s t).front.run = none → wingsReady s t = true → (ag s t).wings.run = some r →
    (r.begun = false → pbEnabled s r.slot = false) →
    ∃ u, exec .stepTurn s = .next u ∧ (ag u t).flip = some (s.now + 64) ∧ Comes u (s.now + 64) .bankFlipComplete (.at t) ∧ SameMemory s u) ∧
  (∀ (s : State) (t : Nat) (r : Run) (k : State → State), s.occ = .at t → (ag s t).flip = none → (ag s t).front.run = none → wingsReady s t = true → (ag s t).wings.run = some r → r.begun = false →
    startChoice s t r.slot r.pbMode 0 2 = .go k → ∃ u, exec .stepTurn s = .next u ∧ u.books = (k s).books ∧ (ag u t).flip = some ((k s).now + 64)) ∧
  (∀ (s : State) (t : Nat) (r : Run), s.occ = .at t → isTile t = true → (ag s t).flip = none → (bk s t).run = some r → stepStOf s r.key = .parked →
    (r.pbMode ≠ 2 ∨ pbEnabled s r.slot = false ∨ ∀ q, nextOccasion s r.slot 0x18 (objAgent t) = some q → q.payload % 2 ^ 32 = 0) →
    (parkDrained s t r.key = true → (ag s t).ahead = false → (ag s t).wings.run = none → ∃ u, exec .stepTurn s = .next u ∧ (ag u t).flip = some (s.now + 64) ∧ Comes u (s.now + 64) .bankFlipComplete (.at t) ∧ SameMemory s u) ∧
    (parkDrained s t r.key = false ∨ (ag s t).ahead = true → ∃ u, exec .stepTurn s = .next u ∧ { u with agenda := s.agenda } = s ∧ Comes u (s.now + 1) .stepTurn (.at t))) ∧
  (∀ (s : State) (t : Nat) (slot : Nat), s.occ = .at t → TileIdle s t slot → (∀ x, ¬ WaitsOn s t x) → (ag s t).spawnQ ≠ [] →
    ∃ u, exec .stepTurn s = .next u ∧ { u with agenda := s.agenda } = s ∧ Comes u s.now .taskStart (.at t)) ∧
  (∀ (s : State) (t : Nat) (x : Task) (xs : List Task), s.occ = .at t → (ag s t).front.run = none → (ag s t).flip = none → (isTile t = true → powerState s (tileCluster t) = 0 ∧ powerMoves s (tileCluster t) = false ∧ tileTaken s t = false ∧ (ag s t).wings.run = none ∧ ∀ y, ¬ WaitsOn s t y) →
    ctxState s x.slot = 3 → pbEnabled s x.slot = false → (ag s t).spawnQ = x :: xs → let k := x.kern
    k.levels = [] → (ag s t).queued = false →
    ∃ u r, exec .taskStart s = .next u ∧ (ag u t).spawnQ = xs ∧ (bk u t).run = some r ∧ r.key.task = true ∧ r.slot = x.slot ∧ r.booking = none ∧ r.codeVa = k.codeVa ∧ r.window = x.window ∧ StepIs u r.key .running ∧
      (∀ n, n < 16 → gReg u t n = x.args.extractLsb' (32 * n) 32) ∧ (∀ n, 16 ≤ n → n < 128 → gReg u t n = BitVec.ofNat 32 (k.image / 256 ^ (4 * n))) ∧ (bk u t).q.pc = 0 ∧ (bk u t).c.fumode = k.fumode &&& fumodeMask t ∧ (bk u t).c.tvec = k.tvec ∧
      ⟨s.now + 1, priIssue, .issue t⟩ ∈ u.agenda ∧ SameMemory s u) ∧
  (∀ (s : State) (a f : Nat) (r : Run), s.occ = .at a → (ag s a).flip = some f → (ag s a).wings.run = some r → (ag s a).queued = false →
    let wings := (ag s a).wings
    (r.begun = false → (stepRec s r.key).isSome = true → emptyStep wings = false → ∃ u, exec .bankFlipComplete s = .next u ∧ (ag u a).flip = none ∧ (ctxState s r.slot ≠ 4 → SameBankRegs (bk u a) wings) ∧
      (ctxState s r.slot = 4 → (bk u a).c.ipend.getLsbD 3 = true) ∧ SameBankRegs (ag u a).wings (bk s a) ∧ StepIs u r.key .running ∧
      ⟨match r.booking with
        | none => s.now + 1
        | some b => max s.now (cycleOf s (16 * b.s)), priIssue, .issue a⟩ ∈ u.agenda ∧ SameMemory s u) ∧
    (r.begun = true → stepStOf s r.key = .parked → ∃ u, exec .bankFlipComplete s = .next u ∧ (ag u a).flip = none ∧ SameBankRegs (bk u a) wings ∧ SameBankRegs (ag u a).wings (bk s a) ∧ StepIs u r.key .running ∧
      (bk u a).run = some { r with going := true, resumed := false } ∧ (wings.x.captured = true → (bk u a).x.ports = wings.x.kept ∧ (bk u a).x.captured = false) ∧ ⟨s.now + 1, priIssue, .issue a⟩ ∈ u.agenda ∧ SameMemory s u)) ∧
  (∀ (s : State) (a f : Nat), s.occ = .at a → (ag s a).flip = some f → (ag s a).wings.run = none → ∃ u, exec .bankFlipComplete s = .next u ∧ (ag u a).flip = none ∧ SameBankRegs (ag u a).wings (bk s a) ∧ (bk u a).run = none ∧
    Comes u (s.now + 1) .stepTurn (.at a) ∧ SameMemory s u) ∧
  ∀ (s : State) (a : Nat) (r : Run), s.occ = .at a → (ag s a).wings.run = some r → (ag s a).flip = none → (ag s a).flipBack = true → (bk s a).wait ≠ .flip →
    let last := match (bk s a).run with
      | some x => if stepStOf s x.key = .running then max s.now x.iterStart + 63 else s.now + 64
      | none => s.now + 64
    let waits : Prop := ∃ u, exec .wingsFlipBack s = .next u ∧ (ag u a).flip = none ∧ ((bk s a).run ≠ none → (bk u a).wait = .flip) ∧ Comes u (s.now + 1) .wingsFlipBack (.at a) ∧ SameMemory s u
    (isBooked s a = true → exec .wingsFlipBack s = .next s) ∧
    (isBooked s a = false → pbEnabled s r.slot = false → ∃ u, exec .wingsFlipBack s = .next u ∧ (ag u a).flip = some last ∧ (ag u a).flipBack = false ∧ Comes u last .bankFlipComplete (.at a) ∧ SameMemory s u) ∧
    (isBooked s a = false → pbEnabled s r.slot = true → r.pbMode = 1 → pbStalled s r.slot 1 = true → waits) ∧
    (isBooked s a = false → pbEnabled s r.slot = true → r.pbMode = 2 → (bookOf s r.slot).closed.contains ⟨0x18, objAgent a⟩ = false →
      let count := ((bk s a).run.map (·.boundaries)).getD 0
      (∀ q, nextOccasion s r.slot 0x18 (objAgent a) = some q → count ≠ q.payload % 2 ^ 32 → ((bk s a).run ≠ none → exec .wingsFlipBack s = .next s) ∧ ((bk s a).run = none → waits)) ∧
      (∀ q, nextOccasion s r.slot 0x18 (objAgent a) = some q → count = q.payload % 2 ^ 32 → ∃ u, exec .wingsFlipBack s = .next u ∧ (ag u a).flip = some last ∧ Comes u last .bankFlipComplete (.at a) ∧ SameMemory s u) ∧
      (nextOccasion s r.slot 0x18 (objAgent a) = none → ∃ u f, exec .wingsFlipBack s = .next u ∧ (ag u a).flip = none ∧ f.cause = (if (readable s r.slot).2 = true then 0x61 else 0x60) ∧ Comes u (s.now + 1) .deferredFault (.dfault a f)))

open Sys2Proof Sys2Proof.Machine in
/-- R63 to R65, R70: a booking step probes; at the first fit it commits: every entry is marked for it, and its load is begun so that it ends before GT 16s. With no fit it probes again 4,096 cycles later, for eight horizons, and then it is Faulted with cause 0x55, or starts unbooked with a demotion record. While the fill of the tile must wait, no horizon counts (the model's choice, log 185). A load begins in the cycle after its step is taken (the model's choice, log 41). -/
def Sys2Proof.Claims.StepsBookOrGiveUp : Prop :=
  ∀ (s : State) (t : Nat) (r : StepRec) (l : Launch), s.occ = .at t → bookingStep s t = some r → r.key.task = false → launchAt s r.key.pos = some l →
    let cs := r.remain.getD ((l.kern.cues.getD []).map cueOf)
    let again : Prop := ∃ u, exec .bookingProbe s = .next u ∧ { u with agenda := s.agenda } = s ∧
      (s.now < r.bookSince + 1048576 → Comes u (s.now + 4096) .bookingProbe (.at t)) ∧ (r.bookSince + 1048576 ≤ s.now → Comes u s.now .bookingNoFit (.at t))
    (tileHeld s t r.slot = true → again) ∧
    (tileHeld s t r.slot = false → unfilled s r = true → ∃ u, exec .bookingProbe s = .next u ∧ { u with agenda := s.agenda, steps := s.steps } = s ∧ Comes u (s.now + 1) .bookingProbe (.at t) ∧
      ((stepRec s r.key).isSome = true → (stepRec u r.key).map (·.bookSince) = some (s.now + 1))) ∧
    (tileHeld s t r.slot = false → unfilled s r = false →
      (∀ n, probe s t cs 0 = some n → switchRefuses s r.slot n (spanOf t cs) = false → commitOrder s r.slot l.pbMode (walkerNo t) (commitRids (cs.flatMap (cueHolds t))) = .wait →
        ∃ u, exec .bookingProbe s = .next u ∧ { u with agenda := s.agenda } = s ∧ Comes u (s.now + 1) .bookingProbe (.at t)) ∧
      (∀ n, probe s t cs 0 = some n → switchRefuses s r.slot n (spanOf t cs) = false → pbEnabled s r.slot = false →
        ∃ u b d, exec .bookingProbe s = .next u ∧ StepIs u r.key .committed ∧ (stepRec u r.key).bind (·.booking) = some b ∧ b.s = n ∧ b.e = 16 * (n + endOf cs) ∧ b.slack = slackOf cs ∧ b.span = spanOf t cs ∧
          (b.demotePolicy = true ↔ fld l.pkt 2 1 % 4 ≠ 1) ∧ (∀ h ∈ cs.flatMap (cueHolds t), ∀ i, i < h.2.2 → (kget none u.cal (calKey h.1 (n + h.2.1 + i))).map (·.key) = some r.key) ∧
          1 ≤ d ∧ d ≤ 512 ∧ Comes u (max s.now (cycleOf s (16 * n) - d)) .stepLoadStart (.at2 t n) ∧ Comes u (max s.now (cycleOf s (b.e + b.slack))) .bookingEndPassed (.at2 t (b.e + b.slack)) ∧ SameMemory s u ∧ u.agents = s.agents) ∧
      (probe s t cs 0 = none → again) ∧ (∀ n, probe s t cs 0 = some n → switchRefuses s r.slot n (spanOf t cs) = true → again)) ∧
    (fld l.pkt 2 1 % 4 ≠ 1 → ∃ u, exec .bookingNoFit s = .next u ∧ StepIs u r.key .loading ∧ (stepRec u r.key).map (·.demoted) = some true ∧ (∃ x ∈ u.launches, x.id = l.id ∧ x.demoted = true) ∧ Comes u (s.now + 1) .stepLoadStart (.at2 t 0)) ∧
    (fld l.pkt 2 1 % 4 = 1 → ∃ u, exec .bookingNoFit s = .next u ∧ StepIs u r.key (.faulted 0x55) ∧ u.agenda = s.agenda)

open Sys2Proof Sys2Proof.Machine in
/-- R33, R35, R41 to R46, R63 to R65, R70: an idle tile takes its next step or task, and a booking step commits or gives up. -/
def Obligations.TilesBookAndTakeTheirTurn : Prop :=
  Sys2Proof.Claims.TilesTakeTheirTurn ∧ Sys2Proof.Claims.StepsBookOrGiveUp

open Sys2Proof Sys2Proof.Machine in
/-- R18, R30, R35, R65, R182, R320, R430: loading sets the owner tags and fills the tile for its launch once, and gives the step its register image with its spatial indices over it, its temporal levels on the loop stack and its act; a booked load ends in the cycle before GT 16s, a gang's at its common start, and when a load ends the step runs and issues in the next cycle, a booked one at GT 16s, or, with a zero extent, is Done at
once; a step loaded ahead waits in wings. A fetched line stands in the sequencer, and one that does not translate is the step's fault. Loads of unbooked steps take a free time, and the turn after a step comes in the next cycle (the model's choice, log 41, 42). -/
def Obligations.StepsLoadAndStart : Prop :=
  (∀ (s : State) (t n : Nat) (r : StepRec) (l : Launch), s.occ = .at2 t n → isTile t = true → loadFor s t n = some r → r.resume = none → launchAt s r.key.pos = some l → r.key.tile = t → (bk s t).run = none → (ag s t).ahead = false → clusterStill s t = false → l.slot < 16 →
    (isFilled s t l = false → fillWaits s t l = true → ∃ u, exec .stepLoadStart s = .next u ∧ { u with agenda := s.agenda } = s ∧ Comes u (s.now + 1) .stepLoadStart (.at2 t n)) ∧
    ((isFilled s t l = true ∨ fillWaits s t l = false) →
    ∃ u, exec .stepLoadStart s = .next u ∧ (ag u t).filled = l.id + 1 ∧
      (∃ d, s.now < d ∧ (r.booking = none → Comes u d .stepLoaded (.at t)) ∧ (l.started = true → s.now < l.startAt → d = l.startAt)) ∧ (∀ b, r.booking = some b → Comes u (max s.now (cycleOf s (16 * b.s) - 1)) .stepLoaded (.at t)) ∧
      (bk u t).run.map (·.key) = some r.key ∧ StepIs u r.key .loading ∧ (bk u t).q.pc = 0 ∧ (bk u t).q.intrap = false ∧ (bk u t).c.fumode = l.kern.fumode ∧ (bk u t).c.tvec = l.kern.tvec ∧
      (∀ k, k < 16 → (bk u t).p.getLsbD k = (BitVec.ofNat 16 (fld l.image 512 2)).getLsbD k) ∧
      (∀ k, k < 128 → (∀ x ∈ l.kern.levels, x.1 = 0 ∨ x.2.2.1 ≠ k) → gReg u t k = BitVec.ofNat 32 (l.image / 256 ^ (4 * k))) ∧
      (let levels := fun (kind : Nat) => (l.kern.levels.zip l.extents).filter fun x => x.1.1 == kind
       let index : Nat → Nat → Prop := fun kind p => ∀ i (h : i < (levels kind).length), let x := (levels kind)[i]
         x.1.2.2.1 < 128 → gReg u t x.1.2.2.1 = BitVec.ofNat 32 (p / (((levels kind).drop (i + 1)).map (·.2)).foldl (· * ·) 1 % x.2)
       (((l.kern.levels.filter fun x => x.1 ≠ 0).map (·.2.2.1)).Nodup → index 1 r.j ∧ index 2 r.i) ∧
       (bk u t).q.depth = (levels 0).length ∧ ∀ i (h : i < (levels 0).length), let x := (levels 0)[i]
         kget {} (bk u t).q.loops i = { idx := 0, cnt := BitVec.ofNat 32 x.2, start := BitVec.ofNat 32 x.1.2.2.2, stop := 0, fixed := true }) ∧
      (bk u t).c.act = BitVec.ofNat 32 (kget 0 l.acts t) ∧ (fld l.pkt 57 1 = 0 → ∀ k, hReg u t k = 0) ∧
      (isFilled s t l = true → SameMemory s u ∧ u.tags = s.tags) ∧
      (isFilled s t l = false → kwf 0#4 s.tags = true → (∀ i w, i < 8 → w < 2 → pairWord s t i w = 0) → l.kern.dataLen ≤ 0x180000 → l.kern.sceneLen ≤ 256 → l.kern.codeLen ≤ 512 →
        let base := t * 2 ^ 21
        (∀ i, i < 0x1C0000 / 64 → tagOf u (t * 2 ^ 15 + i) = l.slot) ∧
        (∀ i, i < l.kern.dataLen → readByte u (base + i) = BitVec.ofNat 8 (l.kern.data / 256 ^ i)) ∧ (∀ i, l.kern.dataLen ≤ i → i < 0x180000 → readByte u (base + i) = readByte s (base + i)) ∧
        (∀ i, i < 64 * l.kern.sceneLen → readByte u (base + 0x190000 + i) = BitVec.ofNat 8 (l.kern.scenes / 256 ^ i)) ∧
        (l.kern.overlay = true → ∀ i, i < 64 * l.kern.codeLen → readByte u (base + 0x180000 + i) = BitVec.ofNat 8 (l.kern.code / 256 ^ i))))) ∧
  (∀ (s : State) (t : Nat) (r : Run), s.occ = .at t → (bk s t).run = some r → (stepStOf s r.key = .loading ∨ r.begun = false) → (stepRec s r.key).isSome = true → (ag s t).queued = false →
    (emptyStep (bk s t) = false → ∃ u, exec .stepLoaded s = .next u ∧ StepIs u r.key .running ∧ (bk u t).run.map (·.begun) = some true ∧
      ⟨match r.booking with
        | none => s.now + 1
        | some b => max s.now (cycleOf s (16 * b.s)), priIssue, .issue t⟩ ∈ u.agenda ∧ (ctxState s r.slot ≠ 4 → SameRegs s u t) ∧ SameMemory s u) ∧
    (emptyStep (bk s t) = true → (∀ x, stepRec s r.key = some x → x.restartable = false) → ∃ u, exec .stepLoaded s = .next u ∧ StepIs u r.key .done ∧ (bk u t).run = none ∧ Comes u s.now .stepTurn (.at t) ∧ SameMemory s u)) ∧
  (∀ (s : State) (t : Nat) (r : StepRec) (l : Launch), s.occ = .at t → (∀ x, (bk s t).run = some x → stepStOf s x.key ≠ .loading ∧ x.begun = true) → loadFor s t 0 = some r → launchAt s r.key.pos = some l → r.key.tile = t →
    ∃ u, exec .stepLoaded s = .next u ∧ StepIs u r.key .running ∧ (ag u t).wings.run.map (·.key) = some r.key ∧ (ag u t).wings.run.map (·.begun) = some false ∧ (ag u t).ahead = false ∧ (ag u t).front = (ag s t).front ∧
      ((bk s t).run = none → Comes u s.now .stepTurn (.at t)) ∧ SameMemory s u) ∧
  ∀ (s : State) (a n : Nat) (r : Run), s.occ = .at2 a n → (bk s a).run = some r → (isBooked s a = false → keptOf s r.key ((lineUnits s r n).map ridHbm) = none) → NoErrors s → s.hostLines = [] →
    let f := fetchVa s a r.slot (r.codeVa + 256 * n) (min 256 (64 * (r.codeLen - 4 * n)))
    (∀ v, f.2 = .ok v → ∃ u, exec .lineFetchComplete s = .next u ∧ kget none (bk u a).q.lines (320 + n) = some (BitVec.ofNat 2048 v) ∧ ((bk s a).wait = .line n → (bk u a).wait = .none) ∧ (bk u a).dfaults = (bk s a).dfaults ∧ SameMemory s u) ∧
    (∀ c, f.2 = .error c → ∃ u x, exec .lineFetchComplete s = .next u ∧ (bk u a).dfaults = (bk s a).dfaults ++ [x] ∧ x.cause = c ∧ ((bk s a).wait = .line n → (bk u a).wait = .none) ∧ SameMemory s u)


/-! ### Queues, launches and their completion (R31, R32, R43, R97, R98, R123, R357 to R368) -/

namespace Sys2Proof.Machine

/-- A launch as the device holds it. -/
def LaunchIs (u : State) (id : Nat) (p : Launch → Prop) : Prop := ∃ x ∈ u.launches, x.id = id ∧ p x

/-- R358: the descriptor's reserved fields are zero, `lg` lies in 4 to 16, and the ring stands in HBM. -/
def DescriptorOk (d : Nat) : Prop :=
  fld d 0 8 < 2 ^ 48 ∧ fld d 0 8 % 2 ^ 7 = 0 ∧ 4 ≤ fld d 8 1 ∧ fld d 8 1 ≤ 16 ∧ fld d 9 1 < 16 ∧ fld d 10 1 < 4 ∧ fld d 11 1 = 0 ∧ fld d 16 48 = 0 ∧ fld d 68 60 = 0 ∧ paOk (fld d 0 8) = true

/-- R363: how far a queue stands after the queue last taken, wrapping at 8,191. -/
def afterLast (s : State) (q : Nat) : Nat := (q + 8191 - s.lastQueue) % 8192

/-- R362: the cause of the first check that a packet fails. -/
def rejectedFor (s : State) (slot p : Nat) (cause : Nat) : Prop := parsePacket s slot p = .error cause

end Sys2Proof.Machine

open Sys2Proof Sys2Proof.Machine in
/-- R358, R359, R362: a good descriptor is captured as `en` rises and its head is 0, and a bad one stops the queue with 0x30; an overfull ring stops it with 0x39. A packet is read once, captured, and `head` passes it; it waits at its queue's head, or is rejected with status 2 and the cause of the first
check that it fails, in the order of R362. Turns come in the next cycle, and an object without native code is rejected with 0x37 (the model's choices, log 38, 41). -/
def Obligations.PacketsAreParsed : Prop :=
  (∀ (s : State) (q : Nat), s.occ = .at q → q < 8192 → regF s 0x1008 0 0 = 1 →
    let d := hbmN s (queueDesc s q) 128
    (fld d 10 1 % 2 = 1 → (queueOf s q).inUse = false → DescriptorOk d → ∃ u, exec .queueEnable s = .next u ∧
      (let x := queueOf u q
       x.inUse = true ∧ x.ring = fld d 0 8 ∧ x.lg = fld d 8 1 ∧ x.slot = fld d 9 1 ∧ x.head = 0) ∧ hbmN u (queueDesc s q + 12) 4 = 0 ∧ Comes u (s.now + 1) .queueHeadParse (.at q)) ∧
    (fld d 10 1 % 2 = 1 → (queueOf s q).inUse = false → ¬ DescriptorOk d → ∃ v, exec .queueEnable s = .next (errorRecord v { cause := 0x30, slot := fld d 9 1 % 16, addr := queueDesc s q }) ∧
      hbmByte v (queueDesc s q + 10) = 2 ∧ (queueOf v q).inUse = false ∧ v.regs = s.regs) ∧
    (fld d 10 1 % 2 = 0 → exec .queueEnable s = .next s) ∧ (∃ u, exec .queueDisable s = .next u ∧ (queueOf u q).inUse = false ∧ (queueOf u q).parsed = (queueOf s q).parsed ∧ { u with queues := s.queues } = s)) ∧
  ∀ (s : State) (q : Nat), s.occ = .at q → q < 8192 → regF s 0x1008 0 0 = 1 →
    let x := queueOf s q
    let n := (hbmN s (queueDesc s q + 64) 4 + 2 ^ 32 - x.head) % 2 ^ 32
    let p := hbmN s (x.ring + 128 * (x.head % 2 ^ x.lg)) 128
    let t := setQueueHead s q ((x.head + 1) % 2 ^ 32)
    (ctxState s x.slot ≠ 3 ∨ x.inUse = false ∨ x.parsed ≠ none → exec .queueHeadParse s = .next s) ∧
    (x.inUse = true → x.parsed = none → ctxState s x.slot = 3 → x.head < 2 ^ 32 →
      (2 ^ x.lg < n → ∃ v, exec .queueHeadParse s = .next (errorRecord v { cause := 0x39, slot := x.slot, addr := queueDesc s q }) ∧ hbmByte v (queueDesc s q + 10) = 2 ∧ (queueOf v q).inUse = false) ∧
      (n = 0 → exec .queueHeadParse s = .next s) ∧
      (0 < n → n ≤ 2 ^ x.lg →
        hbmN t (queueDesc s q + 12) 4 = (x.head + 1) % 2 ^ 32 ∧ (queueOf t q).head = (x.head + 1) % 2 ^ 32 ∧
        (∀ r, parsePacket t x.slot p = .ok r → fld p 57 1 = 0 → ∃ u, exec .queueHeadParse s = .next u ∧ (queueOf u q).parsed = some s.seq ∧ Comes u (s.now + 1) .arbiterChoice .none ∧ SameMemory t u ∧
          LaunchIs u s.seq fun l => l.pkt = p ∧ l.queue = q ∧ l.slot = x.slot ∧ l.st = .parsed ∧ l.kern = r.kern ∧ l.extents = r.extents ∧ l.image = r.image) ∧
        (∀ c, parsePacket t x.slot p = .error c → fld p 57 1 = 0 → ∃ u, exec .queueHeadParse s = .next u ∧ (queueOf u q).parsed = none ∧ Comes u s.now .launchComplete (.at2 s.seq 1) ∧ Comes u (s.now + 1) .queueHeadParse (.at q) ∧
          LaunchIs u s.seq fun l => l.pkt = p ∧ l.slot = x.slot ∧ l.st = .completing ∧ l.status = 2 ∧ l.cause = c ∧
            l.kern = if c = 0x30 ∨ c = 0x37 then {} else (readKernel t x.slot (fld p 8 8)).getD {}) ∧
        (fld p 0 1 ≠ 1 ∨ fld p 1 1 ≠ 0 ∨ fld p 2 1 % 4 = 3 ∨ 8 ≤ fld p 2 1 ∨ fld p 32 8 % 64 ≠ 0 ∨ fld p 64 4 % 16 ≠ 0 → rejectedFor t x.slot p 0x30) ∧
        (packetOk p = true → memberOk t x.slot p = true →
          (readKernel t x.slot (fld p 8 8) = none → rejectedFor t x.slot p 0x37) ∧
          (∀ k, fld p 24 8 = 0 → readKernel t x.slot (fld p 8 8) = some k →
            (readOpBlock t x.slot (fld p 16 8) = none → rejectedFor t x.slot p 0x32) ∧
            (∀ e, readOpBlock t x.slot (fld p 16 8) = some e →
              (levelsOk k e = false ∨ placementOk p = false → rejectedFor t x.slot p 0x32) ∧
              (levelsOk k e = true → placementOk p = true →
                let ids := pktWaits p ++ pktSigs p
                ((∃ c ∈ ids, dcOwned t x.slot c = false) → rejectedFor t x.slot p 0x47) ∧
                ((∀ c ∈ ids, dcOwned t x.slot c = true) → ((∃ y ∈ pktTiles p, mayOwn t x.slot y = false) ∨ cuesInContext t x.slot p k = false → rejectedFor t x.slot p 0x41) ∧
                  ((∀ y ∈ pktTiles p, mayOwn t x.slot y = true) → fld p 57 1 = 0 → fld p 64 4 = 0 → fld p 74 1 = 0 → (∀ y ∈ pktPipes p, pipeValid y = false) → cuesInContext t x.slot p k = true →
                    (needsOk k = false → rejectedFor t x.slot p 0x31) ∧
                    (needsOk k = true → k.restartable = true → pbEnabled t x.slot = false → rejectedFor t x.slot p 0x34) ∧
                    (needsOk k = true → k.restartable = false → fld p 2 1 % 4 ≠ 0 → ∀ c, k.cues = some c → (∃ y ∈ pktTiles p, cuesOk y c = false) → rejectedFor t x.slot p 0x54) ∧
                    (needsOk k = true → k.restartable = false → fld p 2 1 % 4 = 0 → ∃ r, parsePacket t x.slot p = .ok r ∧ r.kern = k)))))))))

open Sys2Proof Sys2Proof.Machine in
/-- R31, R32, R43, R363, R365, R366, R369: the arbiter takes the first ready queue after the one it last took; the launch enters the sequence at the next position, its mode is latched, its context takes the free clusters of its placement, and its steps are dealt to dies and tiles in turn. A counter that had failed as the launch became ready gives
status 3; no step completes it. A gang's members start together, booked first steps at one common start, once all are in the sequence and can be loaded. The search wraps after queue 8,191, turns come in the next cycle, and clusters are claimed at the arbiter's choice (the model's choices, log 10, 41, 103). -/
def Obligations.LaunchesEnterAndStart : Prop :=
  (∀ (s : State) (q : Nat) (l : Launch), s.occ = .none → kwf {} s.queues = true → (∀ e ∈ s.queues, e.1 < 8192) → s.lastQueue < 8192 → (queueOf s q).parsed = some l.id → launchOf s l.id = some l →
    ctxState s l.slot = 3 → regF s (slotReg l.slot 0x078) 0 0 = 0 → (∀ c ∈ pktWaits l.pkt, dcValue s c = 0) → (∀ x y, (x, y) ∈ readyHeads s → x ≠ q → afterLast s q < afterLast s x) → pbEnabled s l.slot = false → fld l.pkt 57 1 = 0 →
    ∃ u, exec .arbiterChoice s = .next u ∧ u.nextPos = s.nextPos + 1 ∧ u.lastQueue = q ∧ (queueOf u q).parsed = none ∧ Comes u (s.now + 1) .queueHeadParse (.at q) ∧ Comes u (s.now + 1) .arbiterChoice .none ∧ u.sram = s.sram ∧ u.hbm = s.hbm ∧ (s.pairs = [] → SameMemory s u) ∧
      (let fails := l.judged = some true ∨ (l.judged = none ∧ ∃ c ∈ pktWaits l.pkt, dcFailed s c = true)
       let mine := ∀ t ∈ pktTiles l.pkt, mayOwn s l.slot t = true
       let ext := fun k => (((l.kern.levels.zip l.extents).filter fun x => x.1.1 == k).map (·.2)).foldl (· * ·) 1
       let dies := pktDies l.pkt
       let tiles := pktRect l.pkt
       let runs := dies ≠ [] ∧ tiles ≠ [] ∧ 0 < ext 2 ∧ 0 < ext 1
       (fails → LaunchIs u l.id (fun x => x.st = .completing ∧ x.status = 3 ∧ x.pos = s.nextPos) ∧ u.steps = s.steps ∧ Comes u s.now .launchComplete (.at2 l.id 1)) ∧
       (¬ fails → ¬ mine → LaunchIs u l.id (fun x => x.st = .completing ∧ x.status = 2 ∧ x.cause = 0x41) ∧ u.steps = s.steps) ∧
       (¬ fails → mine → LaunchIs u l.id (fun x => x.st = .inSequence ∧ x.pos = s.nextPos ∧ x.pbMode = (if fld l.pkt 2 1 / 4 % 4 = 1 then 3 else pbMode s l.slot)) ∧ (∀ t ∈ pktTiles l.pkt, kget 0 u.owners (tileCluster t) = l.slot) ∧
         (¬ runs → u.steps = s.steps ∧ Comes u (s.now + 1) .launchComplete (.at2 l.id 0)) ∧
         (runs → ∀ i j, i < ext 2 → j < ext 1 → let t := dies.getD (i % dies.length) 0 * 512 + tiles.getD (j % tiles.length) 0
           Comes u (s.now + 1) .stepTurn (.at t) ∧
           ∃ r ∈ u.steps, r.key = { pos := s.nextPos, round := i / dies.length, wave := j / tiles.length, tile := t } ∧ r.i = i ∧ r.j = j ∧ r.slot = l.slot ∧ r.st = .assigned)))) ∧
  ∀ (s : State) (slot gid : Nat), s.occ = .at2 slot gid →
    let ms := gangOf s slot gid
    let first := fun m r => m ∈ ms ∧ r ∈ firstSteps s m
    (∀ m ∈ ms.head?, ms.length < fld m.pkt 57 1 → exec .gangStart s = .next s) ∧
    (∀ m ∈ ms.head?, fld m.pkt 57 1 ≤ ms.length → (∀ x ∈ ms, x.st = .inSequence ∧ x.started = false) → gangPipesOk ms = true → (∀ x r, first x r → canLoad s x r = true) →
      ((∀ x ∈ ms, wantsBooking x = false) → pbEnabled s slot = false → (s.steps.map (·.key)).Nodup → ∃ u c, exec .gangStart s = .next u ∧ s.now < c ∧ (∀ x ∈ ms, LaunchIs u x.id fun y => y.started = true ∧ y.startAt = c) ∧ SameMemory s u ∧
        ∀ x r, first x r → r.st = .assigned → StepIs u r.key .loading ∧ Comes u (s.now + 1) .stepLoadStart (.at2 r.key.tile 0)) ∧
      (∀ n, (∃ x r, first x r ∧ wantsBooking x = true) → gangFit s (gangBooked s ms) = some n → pendingSwitch s = none → pbEnabled s slot = false → ∃ u, exec .gangStart s = .next u ∧ (∀ x ∈ ms, LaunchIs u x.id fun y => y.started = true) ∧ SameMemory s u ∧
        ∀ x r, first x r → wantsBooking x = true → StepIs u r.key .committed ∧ ∃ b, (stepRec u r.key).bind (·.booking) = some b ∧ b.s = n) ∧
      ((∃ x r, first x r ∧ wantsBooking x = true) → (∀ x r, first x r → r.st = .assigned) → gangFit s (gangBooked s ms) = none → ∃ u, exec .gangStart s = .next u ∧ Comes u (s.now + 4096) .gangStart (.at2 slot gid) ∧ u.launches = s.launches))

open Sys2Proof Sys2Proof.Machine in
/-- R97, R98, R364, R365, R367, R123: a launch whose steps are Done and idle completes in parts: the credit, the publish, the record, and the decrements, with the failure bits for a status of 2 or more; each part begins when the one before it has been performed. A decrement of a counter of another slot
gives error 0x47, and of zero 0x46, and comes after the driver's write of its cycle. A restartable Faulted step loads again from its first bundle, or the restart is refused with 0x63. Parts follow one another in the cycle in which the one before is performed (the model's choice, log 41); refused restarts are log 102. -/
def Obligations.LaunchesComplete : Prop :=
  (∀ (s : State) (id ph : Nat) (l : Launch), s.occ = .at2 id ph → launchOf s id = some l →
    let goes : Nat → Nat → Prop := fun k t => ∃ u, exec .launchComplete s = .next u ∧ { u with agenda := s.agenda } = s ∧ Comes u t .launchComplete (.at2 id k)
    (ph = 0 → l.st = .inSequence → ctxState s l.slot = 3 → (∀ r ∈ s.steps, r.key.pos = l.pos → r.key.task = false → r.st = .done) →
      ((∀ r ∈ s.steps, r.key.pos = l.pos → r.key.task = false → stepBusy s r.key = false) → ∃ u, exec .launchComplete s = .next u ∧ LaunchIs u id (fun x => x.st = .completing ∧ x.status = 1 ∧ x.cause = 0) ∧ Comes u s.now .launchComplete (.at2 id 1)) ∧
      ((∃ r ∈ s.steps, r.key.pos = l.pos ∧ r.key.task = false ∧ stepBusy s r.key = true) → goes 0 (s.now + 1))) ∧
    (ph = 0 → (∃ r ∈ s.steps, r.key.pos = l.pos ∧ r.key.task = false ∧ r.st ≠ .done) → exec .launchComplete s = .next s) ∧
    (l.st = .completing →
      let a := fld l.pkt 64 4
      (ph = 1 → a = 0 → goes 2 s.now) ∧
      (ph = 1 → a ≠ 0 → a % 16 = 0 → inData a 16 = true → ∃ u t x, exec .launchComplete s = .next u ∧ SameMemory s u ∧ s.now < t ∧ Comes u t .creditAtHome (.sync x) ∧ x.id = id ∧ x.agent = 4094 ∧ x.loc = .sram a ∧ x.a = wd (fld l.pkt 68 4)) ∧
      (ph = 2 → fld l.pkt 74 1 ≠ 1 → goes 3 s.now) ∧
      (ph = 2 → fld l.pkt 74 1 = 1 → pairExists s l.slot (fld l.pkt 72 2) = true → pbEnabled s l.slot = false → ∃ u, exec .launchComplete s = .next u ∧ { u with agenda := s.agenda } = s ∧
        Comes u (cycleOf s (gtOf s + 256)) .publishExchange (.at3 l.slot (fld l.pkt 72 2) (gtOf s + 256)) ∧ Comes u (cycleOf s (gtOf s + 256)) .launchComplete (.at2 id 4)) ∧
      (ph = 3 ∨ ph = 4 → pktSigs l.pkt = [] → fld l.pkt 57 1 = 0 →
        (fld l.pkt 32 8 = 0 → ∃ u, exec .launchComplete s = .next u ∧ SameMemory s u ∧ LaunchIs u id fun x => x.st = .complete) ∧
        (fld l.pkt 32 8 ≠ 0 → fld l.pkt 32 8 % 64 = 0 → fld l.pkt 32 8 < 2 ^ 52 → recordHeld s l = none → ∀ p, translateIo s l.slot (fld l.pkt 32 8) true = .ok p →
          ∃ u, exec .launchComplete s = .next u ∧ SameMemory (devWritePhys s p 64 (completionRecord s l)) u ∧ LaunchIs u id fun x => x.st = .complete) ∧
        let v := completionRecord s l
        l.status < 2 ^ 16 → l.cause < 256 →
          fld v 0 2 = l.status ∧ fld v 2 1 = l.cause ∧ fld v 4 4 = fld l.pkt 76 4 ∧ fld v 8 4 = (if l.status = 2 then 2 ^ 32 - 1 else l.pos % 2 ^ 32) ∧ fld v 12 4 = l.doneSteps % 2 ^ 32 ∧ fld v 16 8 = gtOf s % 2 ^ 64 ∧ ((fld v 3 1).testBit 0 = true ↔ l.demoted = true ∨ ∃ r ∈ s.steps, r.key.pos = l.pos ∧ r.key.task = false ∧ r.demoted = true) ∧ (fld v 3 1).testBit 1 = l.kern.overstated ∧ (fld v 3 1).testBit 2 = l.zeroWork ∧
            ((fld v 3 1).testBit 3 = true ↔ fld l.pkt 57 1 ≠ 0)) ∧
      (∀ c v, ph = 3 ∨ ph = 4 → pktSigs l.pkt = [c] → c < 2 ^ 16 → fld l.pkt 57 1 = 0 → fld l.pkt 32 8 = 0 → dcOwned s l.slot c = true → dcValue s c = v + 1 → writeToCome s (dcReg c) = none →
        ∃ u, exec .launchComplete s = .next u ∧ dcValue u c = v ∧ dcFailed u c = (decide (2 ≤ l.status) || dcFailed s c) ∧ (v = 0 → Comes u (s.now + 1) .arbiterChoice .none) ∧ LaunchIs u id fun x => x.st = .complete))) ∧
  (∀ (s : State) (slot c agent : Nat), s.occ = .at3 slot c agent → c < 2 ^ 16 →
    (writeToCome s (dcReg c) ≠ none → ∃ u, exec .dcDec s = .next u ∧ { u with agenda := s.agenda } = s ∧ Comes u s.now .dcDec (.at3 slot c agent)) ∧
    (writeToCome s (dcReg c) = none →
    (dcOwned s slot c = false → exec .dcDec s = .next (errorRecord s { cause := 0x47, slot := slot, agent := agent, addr := c })) ∧
    (dcOwned s slot c = true → dcValue s c = 0 → ∃ v, exec .dcDec s = .next (errorRecord v { cause := 0x46, slot := slot, agent := agent, addr := c }) ∧ (reg v (dcReg c)).getLsbD 37 = true ∧ dcValue v c = 0) ∧
    (∀ n, dcOwned s slot c = true → dcValue s c = n + 1 → ∃ u, exec .dcDec s = .next u ∧ dcValue u c = n ∧ (reg u (dcReg c)).extractLsb' 32 32 = (reg s (dcReg c)).extractLsb' 32 32 ∧ (∀ o, o ≠ dcReg c → reg u o = reg s o) ∧ SameMemory s u ∧
      (n = 0 → Comes u (s.now + 1) .arbiterChoice .none)))) ∧
  ∀ (s : State) (a : Nat) (r : StepRec) (l : Launch), s.occ = .at a → faultedStep s a = some r → launchAt s r.key.pos = some l →
    let run := (bk s a).run.filter fun x => decide (x.key = r.key)
    let may := r.key.task = false ∧ l.kern.restartable = true ∧ pbMode s r.slot ≠ 2 ∧ pbEnabled s r.slot = true ∧ ∀ e ∈ r.performed, (journalled s r.slot e r.key).isSome = true
    (may → ringLacks s r.slot 1 = true → ∃ u, exec .stepRestart s = .next u ∧ { u with agenda := s.agenda } = s ∧ Comes u (s.now + 1) .stepRestart (.at a)) ∧
    (may → ringLacks s r.slot 1 = false → ∃ u, exec .stepRestart s = .next u ∧ StepIs u r.key .loading ∧ (stepRec u r.key).map (·.restarted) = some true ∧ (stepRec u r.key).map (·.effects) = some 0 ∧ (run ≠ none → (bk u a).run = none) ∧ Comes u (s.now + 1) .stepLoadStart (.at2 a 0)) ∧
    (¬ may → exec .stepRestart s = .next (setRegF s (slotReg r.slot 0x020) 7 0 0x63))


/-! ### The Prompt Book (R110, R111, R113 to R119) -/

namespace Sys2Proof.Machine

/-- R115: a record's head and its CRC. -/
def IsRecord (v type slot k agent seq : Nat) (object : BitVec 64) (gt : Nat) : Prop :=
  fld v 0 1 = type ∧ fld v 1 1 = 0 ∧ fld v 2 1 = slot ∧ fld v 3 1 = k ∧ fld v 4 4 = agent ∧ fld v 8 8 = seq ∧ fld v 16 8 = object.toNat ∧ fld v 24 8 = gt % 2 ^ 64 ∧
  fld v 60 4 = crc32c (v % 2 ^ 480) 60

/-- R116, R117: the record of an order stream, with its repeats and its entries. -/
def IsOrderRecord (v slot seq : Nat) (r : OpenRec) : Prop :=
  IsRecord v r.key.type slot r.entries.length 0 seq r.key.object r.gt ∧ fld v 32 4 = r.n ∧ (∀ i (h : i < r.entries.length), fld v (36 + 4 * i) 4 = (r.entries[i]).1 + 2 ^ 16 * (r.entries[i]).2) ∧
  ∀ i, r.entries.length ≤ i → i < 6 → fld v (36 + 4 * i) 4 = 0

/-- An open record within the widths of R116. -/
def OrderFits (r : OpenRec) : Prop := r.key.type < 2 ^ 8 ∧ r.n < 2 ^ 32 ∧ r.entries.length ≤ 6 ∧ ∀ e ∈ r.entries, e.1 < 2 ^ 16 ∧ e.2 < 2 ^ 16

/-- The ring has room for a record, and no gap is open (R113). -/
def RingRoom (s : State) (slot : Nat) : Prop := pbEnabled s slot = true ∧ (bookOf s slot).gap = none ∧ pbFull s slot = false

/-- Where the `i`-th next record goes. -/
def recordPlace (s : State) (slot i : Nat) : Phys := ringAt s slot ((pbHead s slot + 64 * i) % pbSize s slot)

/-- A place of the ring in HBM that is neither encrypted nor mapped by a shadow pair. -/
def PlainPlace (s : State) (p : Phys) : Prop := p.host = false ∧ p.key = none ∧ s.hpairs = []

/-- R113, R114: one record has been put at `head`, which has advanced, with the next sequence number. -/
def Recorded (s u : State) (slot : Nat) (p : Nat → Prop) : Prop :=
  reg u (slotReg slot 0x110) = reg s (slotReg slot 0x110) + 64#64 ∧ (bookOf u slot).seq = (bookOf s slot).seq + 1 ∧
  (PlainPlace s (recordPlace s slot 0) → (bookOf s slot).seq < 2 ^ 64 → p (hbmN u (recordPlace s slot 0).pa 64))

/-- The open record has been written out. -/
def WrittenOut (s u : State) (slot : Nat) (r : OpenRec) : Prop := Recorded s u slot fun v => OrderFits r → slot < 16 → IsOrderRecord v slot (bookOf s slot).seq r

/-- R117: decision `d` of stream `k` has joined the stream's record: it opens one with its flush timer, or joins the open one as a repeat or an entry, and a record that is full or that a repeat follows is written out. -/
def Joined (s u : State) (slot : Nat) (k : StreamKey) (d : Nat × Nat) : Prop :=
  let rep := (bookOf s slot).last.find? (·.1 = k) = some (k, d)
  let isOpen : Option OpenRec → Prop := fun r => (bookOf u slot).opens.find? (·.key = k) = r
  let opened : Prop := ∃ f, isOpen (some f) ∧ f.key = k ∧ f.gt = gtOf s ∧ f.due = false ∧ (rep → f.n = 1 ∧ f.entries = []) ∧ (¬ rep → f.n = 0 ∧ f.entries = [d]) ∧
    Comes u (s.now + 131072) .recordFlushTimer (.stream slot k)
  (bookOf u slot).last.find? (·.1 = k) = some (k, d) ∧
  ((bookOf s slot).opens.find? (·.key = k) = none → opened) ∧
  ∀ r, (bookOf s slot).opens.find? (·.key = k) = some r →
    (¬ rep → r.entries.length < 5 → isOpen (some { r with entries := r.entries ++ [d] }) ∧ u.regs = s.regs) ∧
    (rep → r.entries = [] → r.n + 1 ≠ 2 ^ 32 - 1 → isOpen (some { r with n := r.n + 1 }) ∧ u.regs = s.regs) ∧
    (RingRoom s slot → (rep → r.entries ≠ [] → opened ∧ WrittenOut s u slot r) ∧ (¬ rep → r.entries.length = 5 → isOpen none ∧ WrittenOut s u slot { r with entries := r.entries ++ [d] }) ∧
      (rep → r.entries = [] → r.n + 1 = 2 ^ 32 - 1 → isOpen none ∧ WrittenOut s u slot { r with n := r.n + 1 }))

/-- R116, R117: the choice and kind that the next decision of record `r` names: a repeat the stream's last, else an entry. -/
def Names (s : State) (slot : Nat) (k : StreamKey) (r : Rec) (d : Nat × Nat) : Prop :=
  let m := kget 0 (bookOf s slot).made r.seq
  let n := r.payload % 2 ^ 32
  (m < n → ∃ x, (bookOf s slot).last.find? (·.1 = k) = some x ∧ x.2 = d) ∧
  (n ≤ m → let e := r.payload / 2 ^ (32 + 32 * (m - n)) % 2 ^ 32; d = (e % 2 ^ 16, e / 2 ^ 16 % 16))

/-- R118: a replayed decision of record `r` has been made: it counts, and with its last one the record at `tail` is passed. -/
def Consumed (s u : State) (slot : Nat) (r : Rec) : Prop :=
  let m := kget 0 (bookOf s slot).made r.seq
  (((readable s slot).1.map (·.seq)).Nodup → m + 1 < covers r → kget 0 (bookOf u slot).made r.seq = m + 1) ∧
  (m + 1 = covers r → r.pos = pbTail s slot → pbTail s slot + 64 ≤ pbTail u slot)

/-- R118, R120: the cause of an event whose stream has no further record, or is closed. -/
def Unrecorded (s : State) (slot : Nat) (k : StreamKey) (c : Nat) : Prop :=
  ((bookOf s slot).closed.contains k = true ∧ c = 0x60) ∨
  ((bookOf s slot).closed.contains k = false ∧ nextOccasion s slot k.type k.object = none ∧ c = if (readable s slot).2 then 0x61 else 0x60)

end Sys2Proof.Machine

open Sys2Proof Sys2Proof.Machine in
/-- R113 to R116, R118, R314: a mark under record writes its value record, waits while the ring is full, or, by the gap choice, opens or lengthens a gap; under replay the agent's record of that ordinal must be a mark of the same object and value, comes in the order of its stream, and anything else is a divergence. -/
def Sys2Proof.Claims.ValueEventsAreLogged : Prop :=
  ∀ (m : Trig) (s : State), Ready s m → sockHeld s s.cur.a .sy = false →
    let a := s.cur.a
    let slot := slotOf s a
    let b := bookOf s slot
    let k : StreamKey := ⟨0x03, objAgent a⟩
    let ord := kget 0 (ag s a).ordinals slot
    let counted : State → Prop := fun u => kget 0 (ag u a).ordinals slot = ord + 1 ∧ SameRegs s u a ∧ u.sram = s.sram ∧ ∀ b, b ≠ a → ag u b = ag s b
    slot < 16 → pbEnabled s slot = true →
    (pbOf s a = 1 →
      (RingRoom s slot → ∃ u, exec (.syPbmark m) s = .next u ∧ counted u ∧ Recorded s u slot fun v =>
        ord < 2 ^ 32 → IsRecord v 0x03 slot 0 a b.seq (objAgent a) (gtOf s) ∧ fld v 32 4 = 0 ∧ fld v 36 4 = ord ∧ fld v 40 8 = (tVal s m).toNat ∧ fld v 48 12 = 0) ∧
      (b.gap = none → pbFull s slot = true → pbGapMode s slot = false → exec (.syPbmark m) s = .next (holdCycle s a .log)) ∧
      (b.gap = none → pbFull s slot = true → pbGapMode s slot = true → ∃ u, exec (.syPbmark m) s = .next u ∧ counted u ∧ (readReg u (slotReg slot 0x128)).getLsbD 1 = true ∧
        (pbHead s slot + 64 < 2 ^ 64 → (bookOf u slot).gap = some (pbHead s slot, 1)) ∧ Recorded s u slot fun v => IsRecord v 0x20 slot 0 0 b.seq 0 (gtOf s)) ∧
      (∀ pos n, b.gap = some (pos, n) → ∃ u, exec (.syPbmark m) s = .next u ∧ counted u ∧ (bookOf u slot).gap = some (pos, n + 1) ∧ u.regs = s.regs ∧ u.hbm = s.hbm)) ∧
    (pbOf s a = 2 →
      let mine := (readable s slot).1.find? fun r => decide (r.type ≤ 3) && r.agent == a && r.payload / 2 ^ 32 % 2 ^ 32 == ord
      let diverges : Nat → Prop := fun c => ∃ u f, exec (.syPbmark m) s = .next u ∧ f.cause = c ∧ Comes u (s.now + 1) .deferredFault (.dfault a f) ∧ k ∈ (bookOf u slot).closed
      (b.closed.contains k = true → diverges 0x60) ∧
      (b.closed.contains k = false →
        (mine = none → diverges (if (readable s slot).2 then 0x61 else 0x60)) ∧
        ∀ r, mine = some r →
          (r.type ≠ 3 ∨ r.object ≠ objAgent a ∨ r.payload % 2 ^ 12 ≠ 0 → diverges 0x60) ∧
          (r.type = 3 → r.object = objAgent a → r.payload % 2 ^ 12 = 0 →
            (nextOccasion s slot 0x03 (objAgent a) = none → diverges 0x60) ∧
            ∀ q, nextOccasion s slot 0x03 (objAgent a) = some q →
              (q.seq ≠ r.seq → exec (.syPbmark m) s = .next (holdCycle s a .log)) ∧
              (q.seq = r.seq → r.payload / 2 ^ 64 % 2 ^ 64 ≠ (tVal s m).toNat → diverges 0x60) ∧
              (q.seq = r.seq → r.payload / 2 ^ 64 % 2 ^ 64 = (tVal s m).toNat → ∃ u, exec (.syPbmark m) s = .next u ∧ kget 0 (ag u a).ordinals slot = ord + 1 ∧ Consumed s u slot r ∧
                ∀ e ∈ u.agenda, (∃ o, e.what = .ev .deferredFault o) → e ∈ s.agenda))))

open Sys2Proof Sys2Proof.Machine in
/-- R108, R116 to R119: an order event joins its stream's record, and waits where that must be written out into a full ring; under replay the party that the stream's next choice names goes on, another waits, and an event without a further record diverges. So for the start of a tile's step, and for a grant of a lock. -/
def Sys2Proof.Claims.OrderEventsAreLogged : Prop :=
  (∀ (s : State) (t : Nat) (r : StepRec) (l : Launch), s.occ = .at t → TileIdle s t r.slot → WaitsOn s t r → r.st = .assigned → (∀ x, WaitsOn s t x → x = r ∨ EarlierStep r x) →
    launchAt s r.key.pos = some l → l.slot = r.slot → (fld l.pkt 57 1 ≠ 0 → l.started = true) → pbEnabled s l.slot = true →
    let k : StreamKey := ⟨0x0C, objAgent t⟩
    let goes : (State → Prop) → Prop := fun p => ∃ u, exec .stepTurn s = .next u ∧ p u ∧ (if fld l.pkt 2 1 % 4 ≠ 0 ∧ l.kern.cues.isSome = true then StepIs u r.key .booking else StepIs u r.key .loading)
    let waits : Prop := ∃ u, exec .stepTurn s = .next u ∧ { u with agenda := s.agenda } = s ∧ Comes u (s.now + 1) .stepTurn (.at t)
    (l.pbMode = 1 → (orderStalled s l.slot k (0, 2) 1 = false → goes fun u => Joined s u l.slot k (0, 2)) ∧ (orderStalled s l.slot k (0, 2) 1 = true → waits)) ∧
    (l.pbMode = 2 → (∀ c, Unrecorded s l.slot k c → ∃ u, exec .stepTurn s = .next u ∧ StepIs u r.key (.faulted c) ∧ k ∈ (bookOf u l.slot).closed) ∧
      ∀ q d, (bookOf s l.slot).closed.contains k = false → nextOccasion s l.slot 0x0C (objAgent t) = some q → Names s l.slot k q d → (d = (0, 2) → goes fun u => Consumed s u l.slot q) ∧ (d ≠ (0, 2) → waits))) ∧
  (∀ (s : State) (slot : Nat) (k : StreamKey) (d : Nat × Nat) (n : Nat), orderStalled s slot k d n = true ↔ ringLacks s slot n = true ∧ ∃ r, (bookOf s slot).opens.find? (·.key = k) = some r ∧
    (r.due = true ∨ if (bookOf s slot).last.find? (·.1 = k) = some (k, d) then r.entries ≠ [] ∨ r.n + 1 = 2 ^ 32 - 1 else r.entries.length = 5)) ∧
  ∀ (s : State) (x : SyncOp) (addr : Nat), s.occ = .sync x → x.loc = .sram addr → x.issuer = x.agent → AtHome s x.agent x.id x.step x.slot x.loc 8 true x.fixed → Plain s addr 8 → isTile x.agent = true →
    let v := loadN s addr 8
    let k : StreamKey := ⟨0x08, objSram addr⟩
    let granted : (State → Prop) → Prop := fun p => ∃ t d, exec .lockAcquireAtHome s = .next t ∧ Stored s t addr 8 (v + 1 + x.agent) ∧ s.now < d ∧ Comes t d .lockGrantArrival (.at2 x.agent x.id) ∧ p t
    let waits : Prop := ∃ t d, exec .lockAcquireAtHome s = .next t ∧ SameMemory s t ∧ bookOf t x.slot = bookOf s x.slot ∧ s.now < d ∧ Comes t d .lockAcquireAtHome (.sync x)
    v < 2 ^ 48 → v % 2 ^ 32 = 0 → pbEnabled s x.slot = true →
    (x.pb = 1 → (orderStalled s x.slot k (x.agent, 0) 1 = false → granted fun t => Joined s t x.slot k (x.agent, 0)) ∧ (orderStalled s x.slot k (x.agent, 0) 1 = true → waits)) ∧
    (x.pb = 2 → (∀ c, Unrecorded s x.slot k c → ∃ t f d, exec .lockAcquireAtHome s = .next t ∧ loadN t addr 8 = v ∧ f.cause = c ∧ Comes t d .deferredFault (.dfault x.agent f) ∧ k ∈ (bookOf t x.slot).closed) ∧
      ∀ q d, (bookOf s x.slot).closed.contains k = false → nextOccasion s x.slot 0x08 (objSram addr) = some q → Names s x.slot k q d →
        (d = (x.agent, 0) → granted fun t => Consumed s t x.slot q) ∧ (d.1 ≠ x.agent → waits))

open Sys2Proof Sys2Proof.Machine in
/-- R110, R111, R113, R117: `enable` rises only if the whole ring translates, with its counts at 0; otherwise it reads 0, with 0x62. Mode 3, and an enable with a size outside 20 to 32, are ignored. A change of mode writes out every open record, in their order. A gap ends when 4,096 bytes are free: its record gets the count and the GT.
An open record is written out when its first decision is 131,072 cycles old. -/
def Sys2Proof.Claims.PromptBookControl : Prop :=
  (∀ (s : State) (slot : Nat) (v : BitVec 64), s.occ = .reg slot v → slot < 16 →
    let lg := regF s (slotReg slot 0x108) 5 0
    let va := regF s (slotReg slot 0x100) 51 16 * 65536
    let legal := v.toNat % 4 ≠ 3 ∧ (v.getLsbD 3 = true → 20 ≤ lg ∧ lg ≤ 32)
    (¬ legal → exec .pbEnable s = .next s ∧ exec .pbDisable s = .next s ∧ exec .pbModeWrite s = .next s) ∧
    (legal → v.getLsbD 3 = true → pbEnabled s slot = false →
      (∀ fs, ringFrames s slot va (2 ^ lg / 65536) = some fs → ∃ u, exec .pbEnable s = .next u ∧ reg u (slotReg slot 0x110) = 0 ∧ reg u (slotReg slot 0x118) = 0 ∧ reg u (slotReg slot 0x120) = v &&& 0xF#64 ∧
        (readReg u (slotReg slot 0x128)).getLsbD 0 = false ∧ bookOf u slot = { frames := fs } ∧ (∀ a, kget 0 (ag u a).ordinals slot = 0) ∧ SameMemory s u) ∧
      (ringFrames s slot va (2 ^ lg / 65536) = none → ∃ w, exec .pbEnable s = .next (errorRecord w { cause := 0x62, slot := slot, addr := va }) ∧ reg w (slotReg slot 0x120) = v &&& 7#64 ∧ (reg w (slotReg slot 0x128)).getLsbD 4 = true ∧ SameMemory s w)) ∧
    (legal → ∃ u, exec .pbDisable s = .next u ∧ reg u (slotReg slot 0x120) = v &&& 7#64 ∧ bookOf u slot = {} ∧ (∀ o, o ≠ slotReg slot 0x120 → reg u o = reg s o) ∧ SameMemory s u) ∧
    (legal → v.toNat % 4 = pbMode s slot → (∀ o ∈ (bookOf s slot).opens, o.due = false) → (pbMode s slot ≠ 2 ∨ pbEnabled s slot = false) → ∃ u, exec .pbModeWrite s = .next u ∧ (reg u (slotReg slot 0x120)).extractLsb' 0 3 = v.extractLsb' 0 3 ∧ (reg u (slotReg slot 0x120)).extractLsb' 3 61 = (reg s (slotReg slot 0x120)).extractLsb' 3 61 ∧
      { u with regs := s.regs } = s) ∧
    (legal → v.toNat % 4 ≠ pbMode s slot → ∃ u, exec .pbModeWrite s = .next u ∧ (reg u (slotReg slot 0x120)).extractLsb' 0 3 = v.extractLsb' 0 3 ∧ (∀ o ∈ (bookOf u slot).opens, o.due = true) ∧ (pbGapMode s slot = true → (bookOf u slot).opens = []) ∧
      (let rs := (bookOf s slot).opens
       (rs.map (·.key)).Nodup → (bookOf s slot).gap = none → (∀ i, i < rs.length → pbShort s slot i = false) → (bookOf u slot).opens = [] ∧ (bookOf u slot).seq = (bookOf s slot).seq + rs.length ∧
         reg u (slotReg slot 0x110) = reg s (slotReg slot 0x110) + BitVec.ofNat 64 (64 * rs.length) ∧
         (pbHead s slot + 64 * rs.length < 2 ^ 64 → (bookOf s slot).seq + rs.length < 2 ^ 64 → (∀ i, i < rs.length → PlainPlace s (recordPlace s slot i)) →
           (∀ i j, i < j → j < rs.length → (recordPlace s slot i).pa + 64 ≤ (recordPlace s slot j).pa ∨ (recordPlace s slot j).pa + 64 ≤ (recordPlace s slot i).pa) →
           ∀ i (h : i < rs.length), OrderFits rs[i] → IsOrderRecord (hbmN u (recordPlace s slot i).pa 64) slot ((bookOf s slot).seq + i) rs[i])))) ∧
  (∀ (s : State) (slot pos n : Nat), s.occ = .at slot → slot < 16 → (bookOf s slot).gap = some (pos, n) →
    let room := pbSize s slot - (pbHead s slot - pbTail s slot)
    let at_ := ringAt s slot (pos % pbSize s slot)
    (room < 4096 → exec .gapResume s = .next s) ∧
    (4096 ≤ room → ∃ u, exec .gapResume s = .next u ∧ (bookOf u slot).gap = none ∧ u.regs = s.regs ∧ (∀ k, k ≠ slot → bookOf u k = bookOf s k) ∧
      (at_.host = false → at_.key = none → s.hpairs = [] → n < 2 ^ 64 →
        fld (hbmN u at_.pa 64) 0 32 = fld (hbmN s at_.pa 64) 0 32 ∧ fld (hbmN u at_.pa 64) 32 8 = n ∧ fld (hbmN u at_.pa 64) 40 8 = gtOf s % 2 ^ 64 ∧ fld (hbmN u at_.pa 64) 60 4 = crc32c (hbmN u at_.pa 64 % 2 ^ 480) 60))) ∧
  ∀ (s : State) (slot : Nat) (k : StreamKey), s.occ = .stream slot k → slot < 16 →
    ((∀ r ∈ (bookOf s slot).opens, r.key ≠ k) → exec .recordFlushTimer s = .next s) ∧
    ∀ r, (bookOf s slot).opens.find? (fun x => x.key = k) = some r →
      (gtOf s < r.gt + 131072 → ∃ u, exec .recordFlushTimer s = .next u ∧ { u with agenda := s.agenda } = s ∧ Comes u (max (s.now + 1) (cycleOf s (r.gt + 131072))) .recordFlushTimer (.stream slot k)) ∧
      (r.gt + 131072 ≤ gtOf s → ringLacks s slot 1 = true → ∃ u, exec .recordFlushTimer s = .next u ∧ u.regs = s.regs ∧ SameMemory s u ∧ (∀ o ∈ (bookOf u slot).opens, o.key = k → o.due = true) ∧ (bookOf u slot).opens.length = (bookOf s slot).opens.length) ∧
      (r.gt + 131072 ≤ gtOf s → ringLacks s slot 1 = false → ∃ u, exec .recordFlushTimer s = .next u ∧ (bookOf u slot).opens = (bookOf s slot).opens.filter (fun x => x.key ≠ k) ∧
        ((bookOf s slot).gap = none → pbFull s slot = false → WrittenOut s u slot r))

open Sys2Proof Sys2Proof.Machine in
/-- R108, R110, R111, R113 to R119: the Prompt Book's control, and its records of value and order events under record and replay. -/
def Obligations.PromptBookIsControlled : Prop :=
  Sys2Proof.Claims.PromptBookControl ∧ Sys2Proof.Claims.ValueEventsAreLogged ∧ Sys2Proof.Claims.OrderEventsAreLogged

/-! ### Contexts (R370 to R386) -/

namespace Sys2Proof.Machine

/-- R370 to R372: a command is over: the slot's state, and its result. -/
def CommandEnds (u : State) (slot st res : Nat) : Prop := ctxState u slot = st ∧ regF u (slotReg slot 0x020) 7 0 = res ∧ regF u (slotReg slot 0x020) 63 63 = 0

/-- A command goes on: the slot's state, and `busy`. -/
def CommandRuns (u : State) (slot st : Nat) : Prop := ctxState u slot = st ∧ regF u (slotReg slot 0x020) 63 63 = 1

/-- R370, R372: the commands that stand in `CTX_CMD`, the states that they may be given in, and those in which they are taken while another is performed. -/
def slotCommands : List (Instr × List Nat × List Nat) :=
  [(.ctxBind, [0], []), (.ctxRestore, [1], []), (.ctxPreempt, [2, 3], [2]), (.ctxEnd, [2, 3, 4], [2, 4]), (.ctxUnbind, [1], []), (.ctxInvalidate, [1, 2, 3, 4, 5], []), (.ctxResume, [3], []), (.ctxRemap, [1, 3], []),
   (.ctxPair, [1, 3], [])]

end Sys2Proof.Machine

open Sys2Proof Sys2Proof.Machine in
/-- R370 to R373, R381, R382, R384 to R386: a command while another is performed gives result 2, and in a wrong state 1. Bind checks the image's header; Unbind and Invalidate remove TLB entries; Resume ends a parked fault; Remap's effect comes 256 cycles later, and not on a pinned page; Pair sets up a shadow pair or gives
0x45. A key is loaded from the data registers, which are cleared, or erased; what holds an erased key's translation goes on. The image outside HBM, and commands while another is performed, are as log 104, 107, 116 and 117 read the rules. -/
def Obligations.ContextCommands : Prop :=
  (∀ (s : State) (slot : Nat) (v : BitVec 64), s.occ = .reg slot v → slot < 16 →
    let st := ctxState s slot
    let free := regF s (slotReg slot 0x020) 63 63 = 0
    let img := regF s (slotReg slot 0x010) 47 16 * 65536
    let a1 := (reg s (slotReg slot 0x028)).toNat
    let a2 := (reg s (slotReg slot 0x030)).toNat
    let page := a1 / 65536 % 2 ^ 36 * 65536
    let ends : Instr → Nat → Nat → Prop := fun i k r => ∃ u, exec i s = .next u ∧ CommandEnds u slot k r ∧ SameMemory s u
    (∀ e ∈ slotCommands, (¬ free → st ∉ e.2.2 → exec e.1 s = .next (setRegF s (slotReg slot 0x020) 7 0 2)) ∧ ((free ∨ st ∈ e.2.2) → st ∉ e.2.1 → exec e.1 s = .next (setRegF s (slotReg slot 0x020) 7 0 1))) ∧
    (free →
      (st = 0 → (paOk img = false → ends .ctxBind 0 0x42) ∧ (paOk img = true → imageHeaderOk s img = false → ends .ctxBind 0 0xB1) ∧ (paOk img = true → imageHeaderOk s img = true → ends .ctxBind 1 0)) ∧
      (st = 1 → ∃ u, exec .ctxUnbind s = .next u ∧ CommandEnds u slot 0 0 ∧ (∀ e ∈ u.tlbs, ∀ t ∈ e.2, t.slot ≠ slot) ∧ (∀ p ∈ u.hpairs, p.slot ≠ slot) ∧ (∀ p ∈ s.hpairs, p.slot ≠ slot → p ∈ u.hpairs) ∧ SameMemory s u) ∧
      (1 ≤ st → st ≤ 5 → ∃ u n, exec .ctxInvalidate s = .next u ∧ CommandRuns u slot st ∧ cmdIs u slot n = true ∧ Comes u (s.now + 1) .invalidateComplete (.at2 slot n) ∧ SameMemory s u ∧
        (∀ e ∈ u.tlbs, ∀ t ∈ e.2, ¬ (t.slot = slot ∧ (v.getLsbD 32 = true ∨ tlbHits t slot page = true))) ∧ (∀ e ∈ s.tlbs, ∀ t ∈ e.2, t.slot ≠ slot → ∃ f ∈ u.tlbs, f.1 = e.1 ∧ t ∈ f.2)) ∧
      (st = 3 → let a := v.toNat / 2 ^ 32 % 4096
        (parkedRun s a slot = none → ends .ctxResume 3 1) ∧
        (∀ r, parkedRun s a slot = some r → (∀ q ∈ (cceOf s (engineOf a)).kept, q.agent ≠ a) → (ag s a).kept = [] → (ag s a).queued = false → ∃ u, exec .ctxResume s = .next u ∧ CommandEnds u slot 3 0 ∧ SameMemory s u ∧ (∀ x, parkedRun u a slot = some x → x.key ≠ r.key) ∧
          (isDock a = false → (ag u a).flipBack = true ∧ Comes u (s.now + 1) .stepTurn (.at a)) ∧ (isDock a = true → ⟨s.now + 1, priIssue, .issue a⟩ ∈ u.agenda ∧ (stepRec u r.key).map (·.st) = some .running))) ∧
      (st = 1 ∨ st = 3 →
        (∀ c, walk s slot page = .error c → ends .ctxRemap st c) ∧
        (∀ e big p, walk s slot page = .ok (e, big, p) →
          (pinnedPage s slot page = true → ends .ctxRemap st 3) ∧
          (pinnedPage s slot page = false → writesPage s slot page big = false → ∃ u, exec .ctxRemap s = .next u ∧ CommandRuns u slot st ∧ Comes u (cycleOf s (gtOf s + 256)) .remapEffect (.at3 slot a1 a2) ∧ SameMemory s u) ∧
          (pinnedPage s slot page = false → writesPage s slot page big = true → ∃ u, exec .ctxRemap s = .next u ∧ CommandRuns u slot st ∧ Comes u (s.now + 1) .ctxRemap (.at3 slot a1 a2) ∧ SameMemory s u)) ∧
        let p : HPair := { slot := slot, pid := a1 % 2 ^ 16, frames := a1 / 2 ^ 16 % 2 ^ 16, front := a2 % 2 ^ 32 * 65536, shadow := a2 / 2 ^ 32 % 2 ^ 32 * 65536 }
        (a1 / 2 ^ 32 % 2 = 1 → pairBad s p = true → ends .ctxPair st 0x45) ∧
        (a1 / 2 ^ 32 % 2 = 1 → pairBad s p = false → ∃ u, exec .ctxPair s = .next u ∧ CommandEnds u slot st 0 ∧ (∀ q ∈ u.hpairs, q.slot = slot → q.pid = p.pid → q = p) ∧ p ∈ u.hpairs ∧ SameMemory s u) ∧
        (a1 / 2 ^ 32 % 2 = 0 → ∃ u, exec .ctxPair s = .next u ∧ CommandEnds u slot st 0 ∧ (∀ q ∈ u.hpairs, ¬ (q.slot = slot ∧ q.pid = p.pid)) ∧ SameMemory s u)))) ∧
  (∀ (s : State) (slot n : Nat), s.occ = .at2 slot n → slot < 16 → cmdIs s slot n = true →
    let waits := ∃ i ∈ kget [] s.ctxInv slot, ∃ e ∈ s.cces, ∃ c ∈ copiesOf e.2, c.req.id = i
    (waits → ∃ u, exec .invalidateComplete s = .next u ∧ { u with agenda := s.agenda } = s ∧ Comes u (s.now + 1) .invalidateComplete (.at2 slot n)) ∧
    (¬ waits → ∃ u, exec .invalidateComplete s = .next u ∧ CommandEnds u slot (ctxState s slot) 0 ∧ SameMemory s u)) ∧
  (∀ (s : State) (slot a1 a2 : Nat), s.occ = .at3 slot a1 a2 → slot < 16 → ∀ e big p, walk s slot (a1 / 65536 % 2 ^ 36 * 65536) = .ok (e, big, p) →
    ∃ u, exec .remapEffect s = .next u ∧ CommandEnds u slot (ctxState s slot) 0 ∧ hbmN u p 8 = a2 % 2 ^ 64 ∧ (∀ x, x < p ∨ p + 8 ≤ x → hbmByte u x = hbmByte s x) ∧ u.sram = s.sram ∧
      ∀ f ∈ u.tlbs, ∀ t ∈ f.2, tlbHits t slot (a1 / 65536 % 2 ^ 36 * 65536) = false) ∧
  ∀ (s : State) (b : Nat) (v : BitVec 64), s.occ = .reg b v →
    let i := regF s 0x3000 8 0
    (∃ u, exec .keyLoad s = .next u ∧ (kget {} u.keys i).slot = v.toNat % 16 ∧ (kget {} u.keys i).valid = true ∧ (∀ k, k < 8 → (kget 0 u.keyData (kget {} u.keys i).no).extractLsb' (64 * k) 64 = reg s (0x3010 + 8 * k) ∧ reg u (0x3010 + 8 * k) = 0) ∧
      (∀ n, n ≠ (kget {} u.keys i).no → kget 0 u.keyData n = kget 0 s.keyData n) ∧ (∀ k, k ≠ i → kget {} u.keys k = kget {} s.keys k) ∧ SameMemory s u) ∧
    (∃ u, exec .keyErase s = .next u ∧ (kget {} u.keys i).valid = false ∧ (∀ k, k ≠ i → kget {} u.keys k = kget {} s.keys k) ∧ { u with keys := s.keys } = s)

open Sys2Proof Sys2Proof.Machine in
/-- R35, R71, R365, R371 to R373, R375 to R378: Pre-empt asks every running tile to yield and unstarts the steps that wait; when a cluster's tiles have acknowledged, its banks go into the image and its tags become 0; with every cluster saved the header is written and the slot is Bound. Restore fills every free cluster of the
image's map; then the slot is Active and its steps go on. End stops every step, completes its launches with status 4, and zeroes its clusters. A parked step whose fault is resolved flips back after a restore; with a switch the markers come first. What the bytes of an image's blocks are, and that turns come in the next cycle, are the model's choices (log 41, 105, 179). -/
def Obligations.ContextsSaveAndRestore : Prop :=
  (∀ (s : State) (slot : Nat), slot < 16 → 1 ≤ slot →
    let given := (∃ v, s.occ = .reg slot v ∧ regF s (slotReg slot 0x020) 63 63 = 0) ∨ s.occ = .at slot
    (given → ctxState s slot = 3 → ∃ u, exec .ctxPreempt s = .next u ∧ CommandRuns u slot 4 ∧
      (∀ t ∈ slotTiles s slot, bankRuns s (bk s t) = true → (bk u t).c.ipend = (bk s t).c.ipend ||| 8#4 ∧ (bk u t).g = (bk s t).g ∧ (bk u t).q = (bk s t).q) ∧
      (∀ r ∈ s.steps, r.slot = slot → r.key.task = false → (s.steps.map (·.key)).Nodup → ((r.st = .booking ∨ r.st = .committed) → StepIs u r.key .assigned) ∧ (r.st = .loading → StepIs u r.key .loading)) ∧
      (∀ c ∈ clustersOf s slot, Comes u (s.now + 1) .copyOut (.at c))) ∧
    ((∃ v, s.occ = .reg slot v) → ctxState s slot = 2 → ∃ u, exec .ctxPreempt s = .next u ∧ kget false u.ctxHeld slot = true ∧ { u with ctxHeld := s.ctxHeld } = s)) ∧
  (∀ (s : State) (c slot : Nat), s.occ = .at c → c < 512 → savingSlot s c = some slot → slot < 16 →
    let acked := ∀ t ∈ clusterTiles c, tileAcked s t slot = true
    let idle := ∀ l ∈ s.launches, l.slot = slot → l.st ≠ .completing
    (¬ (acked ∧ idle) → ∃ u, exec .copyOut s = .next u ∧ { u with agenda := s.agenda } = s ∧ Comes u (s.now + 1) .copyOut (.at c)) ∧
    (acked → idle → switchingOut s slot = false →
      let k := ((kget [] s.ctxMap slot).filter fun g => decide (g < c)).length
      let rec_ := imagePa s slot + 0x10000 + 0x810000 * k
      ∃ u, exec .copyOut s = .next u ∧ kget 0 u.owners c = 0 ∧ c ∉ kget [] u.ctxLeft slot ∧ u.sram = s.sram ∧
        (∀ t ∈ clusterTiles c, (∀ i, tagOf u (t * 2 ^ 15 + i % 2 ^ 15) = 0) ∧ (ag u t).front = {} ∧ (ag u t).wings = {} ∧ ((∀ x ∈ clusterTiles c, kslice s.poison (x * 2 ^ 15) (2 ^ 15) = []) → paOk rec_ = true → paOk (rec_ + 0x810000) = true →
          (∀ i, i < 0x180000 → hbmByte u (rec_ + 0x180000 * tilePos t + i) = kget 0 s.sram (t * 2 ^ 21 + i)) ∧ ∀ i, i < 0xC000 → hbmByte u (rec_ + 0x700000 + 0x40000 * tilePos t + 0x34000 + i) = 0)) ∧
        ((∀ g ∈ kget [] s.ctxLeft slot, g = c) → ∃ d, s.now < d ∧ Comes u d .copyOutComplete (.at2 slot (kget 0 s.ctxWork slot))))) ∧
  (∀ (s : State) (slot n : Nat), s.occ = .at2 slot n → slot < 16 → cmdIs s slot n = true → ctxState s slot = 4 →
    let img := imagePa s slot
    let map := kget [] s.ctxMap slot
    (switchingOut s slot = true → regF s 0x7118 2 0 = 4 → s.switch.marks ≠ [] → ∃ u, exec .copyOutComplete s = .next u ∧ { u with agenda := s.agenda } = s ∧ Comes u (s.now + 1) .copyOutComplete (.at2 slot n)) ∧
    ((switchingOut s slot = true → regF s 0x7118 2 0 = 4 ∧ s.switch.marks = []) → ∃ u, exec .copyOutComplete s = .next u ∧ CommandEnds u slot 1 0 ∧ u.sram = s.sram ∧
      (collOk s slot = false → map.length < 2 ^ 32 → hbmN u img 4 = 0x43545831 ∧ hbmN u (img + 24) 8 = gtOf s % 2 ^ 64 ∧ hbmN u (img + 32) 4 = map.length) ∧ (switchingOut s slot = true → regF u 0x7118 2 0 = 5 ∧ Comes u s.now .ctxRestore (.at s.switch.in_)))) ∧
  (∀ (s : State) (slot : Nat), s.occ = .at slot → slot < 16 → 1 ≤ slot →
    let busy := regF s (slotReg slot 0x020) 63 63 = 1
    let ends : Prop := ∃ u, exec .ctxRestore s = .next u ∧ regF u 0x7118 2 0 = 6 ∧ ctxState u slot = ctxState s slot ∧ SameMemory s u ∧ u.agents = s.agents
    (s.switch.in_ ≠ slot ∨ regF s 0x7118 2 0 ≠ 5 → exec .ctxRestore s = .next s) ∧
    (s.switch.in_ = slot → regF s 0x7118 2 0 = 5 →
      (busy → ∃ u, exec .ctxRestore s = .next u ∧ { u with agenda := s.agenda } = s ∧ Comes u (s.now + 1) .ctxRestore (.at slot)) ∧
      (¬ busy → ctxState s slot = 1 → imageHeaderOk s (imagePa s slot) = false → ∃ u, exec .ctxRestore s = .next u ∧ CommandEnds u slot 1 0xB1 ∧ regF u 0x7118 2 0 = 6 ∧ regF u 0x7118 31 24 = 1 ∧ SameMemory s u) ∧
      (¬ busy → ctxState s slot = 3 → ends) ∧ (¬ busy → ctxState s slot ≠ 1 → ctxState s slot ≠ 3 → ends))) ∧
  (∀ (s : State) (slot : Nat) (v : BitVec 64), s.occ = .reg slot v → slot < 16 → 1 ≤ slot → ctxState s slot = 1 → regF s (slotReg slot 0x020) 63 63 = 0 → regF s 0x7118 2 0 ≠ 5 →
    let img := imagePa s slot
    let map := hdrMap s img
    (imageHeaderOk s img = false → ∃ u, exec .ctxRestore s = .next u ∧ CommandEnds u slot 1 0xB1 ∧ SameMemory s u) ∧
    (imageHeaderOk s img = true → (∃ c ∈ map, clusterFree s c = false) → ∃ u, exec .ctxRestore s = .next u ∧ CommandEnds u slot 1 0x41 ∧ SameMemory s u) ∧
    (imageHeaderOk s img = true → (∀ c ∈ map, clusterFree s c = true) → (∀ k, k < map.length → (clusterBlock s (recordPa img k)).pins = []) →
      ∃ u d n, exec .ctxRestore s = .next u ∧ CommandRuns u slot 2 ∧ s.now < d ∧ cmdIs u slot n = true ∧ Comes u d .restoreComplete (.at2 slot n) ∧ (∀ x, hbmByte u x = hbmByte s x) ∧
        ∀ k c, map[k]? = some c → kget 0 u.owners c = slot ∧ ∀ t ∈ clusterTiles c, (∀ i, i < 0x1C0000 / 64 → tagOf u (t * 2 ^ 15 + i) = slot) ∧
          (paOk (recordPa img k) = true → paOk (recordPa img k + 0x810000) = true → ∀ i, i < 0x180000 → readRaw u (t * 2 ^ 21 + i) = hbmByte s (recordPa img k + 0x180000 * tilePos t + i)))) ∧
  (∀ (s : State) (slot n : Nat), s.occ = .at2 slot n → slot < 16 → 1 ≤ slot → cmdIs s slot n = true → ctxState s slot = 2 →
    ∃ u, exec .restoreComplete s = .next u ∧ CommandEnds u slot 3 0 ∧ (∀ t ∈ slotTiles s slot, Comes u (s.now + 1) .stepTurn (.at t) ∧ (((ag s t).wings.run.any fun x => x.resumed) = true → (ag u t).flipBack = true)) ∧ Comes u (s.now + 1) .arbiterChoice .none ∧
      ((s.steps.map (·.key)).Nodup → (∀ e, (cceOf s e).timed = []) → ∀ r ∈ s.steps, r.slot = slot → r.st = .yielded → r.remain = none → StepIs u r.key .loading ∧ Comes u (s.now + 1) .stepLoadStart (.at2 r.key.tile 0)) ∧
      (kget false s.ctxHeld slot = true → Comes u (s.now + 1) .ctxPreempt (.at slot))) ∧
  (∀ (s : State) (slot : Nat) (v : BitVec 64), s.occ = .reg slot v → slot < 16 → (ctxState s slot = 3 ∧ regF s (slotReg slot 0x020) 63 63 = 0 ∨ ctxState s slot = 2 ∨ ctxState s slot = 4) → (s.launches.map (·.id)).Nodup →
    ∃ u d n, exec .ctxEnd s = .next u ∧ CommandRuns u slot 5 ∧ s.now < d ∧ cmdIs u slot n = true ∧ Comes u d .contextClearComplete (.at2 slot n) ∧
      (∀ r ∈ s.steps, r.slot = slot → r.st ≠ .done → r.st ≠ .ended → StepIs u r.key .ended) ∧
      (∀ l ∈ s.launches, l.slot = slot → (l.st = .parsed ∨ l.st = .inSequence) → LaunchIs u l.id (fun x => x.st = .completing ∧ x.status = 4 ∧ x.cause = l.firstFault) ∧ Comes u s.now .launchComplete (.at2 l.id 1))) ∧
  ∀ (s : State) (slot n : Nat), s.occ = .at2 slot n → slot < 16 → 1 ≤ slot → cmdIs s slot n = true → ctxState s slot = 5 →
    ∃ u, exec .contextClearComplete s = .next u ∧ CommandEnds u slot 1 0 ∧ (∀ x, hbmByte u x = hbmByte s x) ∧
      ∀ c ∈ clustersOf s slot, kget 0 u.owners c = 0 ∧ ∀ t ∈ clusterTiles c, (ag u t).front = {} ∧ (ag u t).wings = {} ∧ (∀ i, i < 0x1C0000 → readRaw u (t * 2 ^ 21 + i) = 0) ∧ ∀ i, i < 0x1C0000 / 64 → tagOf u (t * 2 ^ 15 + i) = 0 ∧ kget false u.poison (t * 2 ^ 15 + i) = false ∧ kget .clean u.flaws (t * 2 ^ 15 + i) = .clean


/-! ### Errors, halts, code writes and samples (R388 to R401) -/

open Sys2Proof Sys2Proof.Machine in
/-- R388 to R393: an error record of 64 bytes goes into the ring of its slot, or of the device where the slot is Free; a full ring drops and counts it. An uncorrectable error that the scrubber finds poisons the line, writes 0xB9 or 0xBB with the line's owner, and holds the owner's slot; corrected ones give one record an array in
65,536 cycles. A round of scrubbing comes every 256 cycles, of HBM in every refresh band; a reader of a line that an uncorrectable error stands in finds it poisoned. When errors arise is free, and ring sizes are read, as log 124 and 173 say. -/
def Obligations.ErrorsAreRecorded : Prop :=
  (∀ (s : State) (e : ErrRec), e.cause < 256 → e.slot < 16 → e.agent < 2 ^ 16 → e.addr < 2 ^ 64 → e.pos < 2 ^ 32 → e.round < 2 ^ 16 → e.wave < 2 ^ 16 → e.detail < 2 ^ 256 →
    let device := ctxState s e.slot = 0
    let base := if device then 0x2000 else slotReg e.slot 0x068
    let ring := if device then 16 else e.slot
    let lg := regF s base 4 0
    let pa := regF s base 47 12 * 2 ^ 12
    let head := regF s (base + 8) 31 0
    let used := (head + 2 ^ 32 - regF s (base + 8) 63 32) % 2 ^ 32
    let u := errorRecord s e
    let at_ := pa + 64 * (head % 2 ^ lg)
    let v := hbmN u at_ 64
    u.sram = s.sram ∧ u.agents = s.agents ∧ u.steps = s.steps ∧ u.agenda = s.agenda ∧
    (4 ≤ lg → lg ≤ 16 → used < 2 ^ lg → regF u (base + 8) 31 0 = (head + 1) % 2 ^ 32 ∧ regF u (base + 8) 63 32 = regF s (base + 8) 63 32 ∧ (∀ x, x < at_ ∨ at_ + 64 ≤ x → hbmByte u x = hbmByte s x) ∧ kget false u.errLost ring = false ∧
      fld v 0 1 = e.cause ∧ ((fld v 1 1).testBit 0 = kget false s.errLost ring) ∧ ((fld v 1 1).testBit 1 = e.faulted) ∧ ((fld v 1 1).testBit 2 = e.demoted) ∧ fld v 2 1 = e.slot ∧ fld v 4 2 = e.agent ∧ fld v 8 8 = gtOf s % 2 ^ 64 ∧ fld v 16 8 = e.addr ∧
      fld v 24 4 = e.pos ∧ fld v 28 2 = e.round ∧ fld v 30 2 = e.wave ∧ fld v 32 32 = e.detail) ∧
    (lg < 4 ∨ 16 < lg ∨ 2 ^ lg ≤ used → u.hbm = s.hbm ∧ kget false u.errLost ring = true ∧ regF u (base + 16) 63 32 = min 0xFFFFFFFF (regF s (base + 16) 63 32 + 1) ∧ regF u (base + 8) 31 0 = head)) ∧
  (∀ (s : State) (t b : Nat) (o : EccOutcome), s.occ = .scrub t (.dataBank b) o → t < 2048 → b < 24 →
    let key := arrayKey t (.dataBank b)
    let at_ := (kget 0 s.scrubAt key + s.scrubRounds) % 1024
    let line := t * 2 ^ 15 + 1024 * b + at_
    let last := kget (0, 0) s.eccLast key
    let moved : State → Prop := fun u => kget 0 u.scrubAt key = (kget 0 s.scrubAt key + 1) % 1024 ∧ kget .clean u.flaws line = .clean ∧ u.sram = s.sram ∧ u.agents = s.agents
    (o = .clean → kget false s.poison line = false → ∃ u, exec .scrubStep s = .next u ∧ moved u ∧ SameMemory s u ∧ u.poison = s.poison) ∧
    (o = .clean → kget false s.poison line = true → ∃ u v, exec .scrubStep s = .next u ∧ moved u ∧ u = holdSlot (errorRecord v { cause := 0xB9, slot := tagOf s line, addr := 64 * line, detail := eccDetail 0 b 0xFFFF last.2 }) (tagOf s line) ∧
      u.poison = s.poison) ∧
    (o = .uncorrectable → ∃ u v, exec .scrubStep s = .next u ∧ moved u ∧ kget false u.poison line = true ∧ u = holdSlot (errorRecord v { cause := 0xB9, slot := tagOf s line, addr := 64 * line, detail := eccDetail 0 b 0xFFFF last.2 }) (tagOf s line) ∧
      (∀ k, k ≠ line → kget false u.poison k = kget false s.poison k)) ∧
    (∀ bit, o = .corrected bit →
      (last.1 ≠ 0 → s.now + 1 < last.1 + 65536 → ∃ u, exec .scrubStep s = .next u ∧ moved u ∧ SameMemory s u ∧ kget (0, 0) u.eccLast key = (last.1, last.2 + 1) ∧ u.poison = s.poison) ∧
      (last.1 = 0 ∨ last.1 + 65536 ≤ s.now + 1 → ∃ u v, exec .scrubStep s = .next u ∧ moved u ∧ kget (0, 0) u.eccLast key = (s.now + 1, 0) ∧
        u = errorRecord v { cause := 0xB8, slot := tagOf s line, addr := 64 * line, detail := eccDetail 0 b bit last.2 } ∧ u.poison = s.poison))) ∧
  (∀ (s : State), s.occ = .none →
    (∃ u, exec .scrubStep s = .next u ∧ Comes u (s.now + 256) .scrubStep .none ∧ u.scrubRounds = s.scrubRounds + 1 ∧ SameMemory s u ∧ u.poison = s.poison ∧ u.regs = s.regs) ∧
    ∃ u, exec .hbmScrub s = .next u ∧ Comes u (max (s.now + 1) (cycleOf s ((gtOf s / 8192 + 1) * 8192))) .hbmScrub .none ∧ u.hscrubRounds = s.hscrubRounds + 1 ∧ SameMemory s u ∧ u.hpoison = s.hpoison ∧ u.regs = s.regs) ∧
  (∀ (s : State) (line : Nat), s.occ = .at line → line % 2 ^ 15 < 0x6000 →
    (bankTaken s (bankKey (64 * line)) = true ∨ calAt s (ridTile 4 (line / 2 ^ 15) (line % 2 ^ 15 / 1024)) (slotNow s) ≠ none →
      ∃ u, exec .scrubStep s = .next u ∧ { u with agenda := s.agenda } = s ∧ Comes u (s.now + 1) .scrubStep (.at line))) ∧
  (∀ (s : State) (line : Nat),
    let u := meetErrors s [line] []
    (kget .clean s.flaws line = .clean → u = s ∨ u = { s with flaws := kset .clean s.flaws line .clean }) ∧
    (kget .clean s.flaws line = .uncorrectable → kget false u.poison line = true ∧ kget .clean u.flaws line = .clean ∧ u.sram = s.sram ∧ ∀ k, k ≠ line → kget false u.poison k = kget false s.poison k) ∧
    (∀ bit, kget .clean s.flaws line = .corrected bit → u.poison = s.poison ∧ kget .clean u.flaws line = .clean ∧ u.sram = s.sram)) ∧
  ∀ (s : State) (st ch pc : Nat), s.occ = .hbmScrub st ch pc → st < 12 → ch < 32 → pc < 2 →
    let key := hbmKey st ch pc
    let at_ := (kget 0 s.scrubAt key + s.hscrubRounds) % 2 ^ 21
    let unit_ := fun (i : Nat) => pcAddr st ch pc (512 * at_ + 32 * i) / 32
    let quiet := fun (i : Nat) => kget .clean s.hflaws (unit_ i) = .clean ∧ kget false s.hpoison (unit_ i) = false
    let moved : State → Prop := fun u => kget 0 u.scrubAt key = (kget 0 s.scrubAt key + 1) % 2 ^ 21 ∧ u.sram = s.sram ∧ u.agents = s.agents
    let last := kget (0, 0) s.eccLast key
    ((∀ i, i < 16 → quiet i) → ∃ u, exec .hbmScrub s = .next u ∧ moved u ∧ SameMemory s u ∧ u.hpoison = s.hpoison) ∧
    ∀ j, j < 16 → (∀ i, i < 16 → i ≠ j → quiet i) →
      let pa := 32 * unit_ j
      let hard : (State → Prop) → Prop := fun p => ∃ u v, exec .hbmScrub s = .next u ∧ moved u ∧ v.hbm = s.hbm ∧ p v ∧
        u = holdSlot (errorRecord v { cause := 0xBB, slot := pageSlot s pa, addr := pa, detail := eccDetail 5 (pc + 2 * ch) 0xFFFF last.2 }) (pageSlot s pa)
      (kget .clean s.hflaws (unit_ j) = .uncorrectable → hard fun v => v.hpoison = kset false s.hpoison (unit_ j) true ∧ kget .clean v.hflaws (unit_ j) = .clean) ∧
      (kget .clean s.hflaws (unit_ j) = .clean → kget false s.hpoison (unit_ j) = true → hard fun v => v.hpoison = s.hpoison) ∧
      ∀ bit, kget .clean s.hflaws (unit_ j) = .corrected bit →
        (last.1 ≠ 0 → s.now + 1 < last.1 + 65536 → ∃ u, exec .hbmScrub s = .next u ∧ moved u ∧ SameMemory s u ∧ kget (0, 0) u.eccLast key = (last.1, last.2 + 1) ∧ u.hpoison = s.hpoison) ∧
        (last.1 = 0 ∨ last.1 + 65536 ≤ s.now + 1 → ∃ u v, exec .hbmScrub s = .next u ∧ moved u ∧ v.hbm = s.hbm ∧ v.hpoison = s.hpoison ∧ kget (0, 0) u.eccLast key = (s.now + 1, 0) ∧
          u = errorRecord v { cause := 0xBA, slot := pageSlot s pa, addr := pa, detail := eccDetail 5 (pc + 2 * ch) bit last.2 })

open Sys2Proof Sys2Proof.Machine in
/-- R394 to R397: a halt stops the four tiles and the engine of a cluster, and what would reach them waits; with `xout` it triggers its group, within 64 cycles on its die and 192 elsewhere. On resume everything goes on as much later as the halt lasted, but for what came from elsewhere, which waited at the ports, and what stands at a GT; a booked step is demoted, and `vec` raises the debug interrupt. A halted tile's registers
and memory can be written. What a halt demotes is as log 122 and 123 read the rules. -/
def Obligations.ClustersHaltAndResume : Prop :=
  (∀ (s : State) (g why : Nat), s.occ = .at2 g why → g < 512 → why < 4 →
    (isHalted s g = true → exec .dbgHalt s = .next s) ∧
    (isHalted s g = false → ∃ u, exec .dbgHalt s = .next u ∧ SameMemory s u ∧ (∀ t ∈ clusterTiles g, ag u t = { ag s t with halted := some s.now }) ∧ (∀ a, a ∉ clusterTiles g → ag u a = ag s a) ∧
      (let mine : Entry → Prop := fun e => (entryAgent e).bind clusterOfAgent = some g ∧ s.now < e.at_
       (∀ e ∈ s.agenda, mine e → (g, e) ∈ u.frozen) ∧ (∀ e ∈ s.agenda, ¬ mine e → e ∈ u.agenda) ∧ ∀ e ∈ u.agenda, ¬ mine e) ∧
      regF u (dbgReg g 8) 5 0 = 0x3F ∧ regF u (dbgReg g 8) 7 6 = why ∧ regF u (dbgReg g 8) 40 32 = g ∧
      (regF s (dbgReg g 0) 4 4 = 1 → ∀ die, die < 4 → ∃ d, s.now < d ∧ d ≤ s.now + (if die = g / 128 then 64 else 192) ∧ Comes u d .crossTrigger (.at3 g die g)))) ∧
  (∀ (s : State) (g die src : Nat), s.occ = .at3 g die src → g < 512 → die < 4 → ∃ u, exec .crossTrigger s = .next u ∧ SameMemory s u ∧
    ∀ c, 128 * die ≤ c → c < 128 * die + 128 →
      let joins := c ≠ g ∧ regF s (dbgReg c 0) 5 5 = 1 ∧ regF s (dbgReg c 0) 23 16 = regF s (dbgReg g 0) 23 16
      (joins → isHalted u c = true) ∧ (¬ joins → ∀ t ∈ clusterTiles c, ag u t = ag s t)) ∧
  (∀ (s : State) (g h : Nat), s.occ = .at g → g < 512 → (ag s (clusterTile g 0)).halted = some h → h ≤ s.now →
    let d := s.now - h
    ∃ u, exec .dbgResume s = .next u ∧ isHalted u g = false ∧ regF u (dbgReg g 8) 5 0 = 0 ∧ (∀ f ∈ s.frozen, f.1 = g → { f.2 with at_ := if portEntry s f.2 then max f.2.at_ s.now else f.2.at_ + d } ∈ u.agenda) ∧
      ∀ t ∈ clusterTiles g, (ag u t).halted = none ∧ (bk u t).run.map (·.key) = (bk s t).run.map (·.key) ∧
        ((∀ x ∈ clusterTiles g, ∀ r, (bk s x).run = some r → r.key.tile = x ∧ stepStOf s r.key ≠ .committed) → (bookingOf s t).isSome = true → (bk u t).run.bind (·.booking) = none ∧ (bk u t).run.map (·.demoted) = some true) ∧
        ((bk u t).x.flights = (bk s t).x.flights.map fun f => { f with due := f.due.map fun x => if h < x then x + d else x }) ∧
        (bk u t).g = (bk s t).g ∧ (bk u t).p = (bk s t).p ∧ (bk u t).h = (bk s t).h ∧
        (bk u t).c.ipend = (if regF s (dbgReg g 0) 3 3 = 1 ∧ (bk s t).run.isSome = true then (bk s t).c.ipend ||| 4#4 else (bk s t).c.ipend)) ∧
  ∀ (s : State) (g : Nat) (v : BitVec 64), s.occ = .reg g v → g < 512 →
    let t := clusterTile g (regF s (dbgReg g 0x10) 1 0)
    let space := regF s (dbgReg g 0x10) 3 2
    let i := regF s (dbgReg g 0x10) 31 8
    (isHalted s g = false → exec .dbgValWrite s = .next s) ∧
    (isHalted s g = true →
      (space = 0 → i < 128 → ∃ u, exec .dbgValWrite s = .next u ∧ gReg u t i = v.setWidth 32 ∧ (∀ k, k ≠ i → gReg u t k = gReg s t k) ∧ { u with agents := s.agents } = s) ∧
      (space = 0 → i = 128 → ∃ u, exec .dbgValWrite s = .next u ∧ (bk u t).p = v.setWidth 16 ∧ (bk u t).g = (bk s t).g ∧ { u with agents := s.agents } = s) ∧
      (space = 1 → exec .dbgValWrite s = .next ((csrWrite s t i (v.setWidth 32)).getD s)) ∧
      (space = 2 → 8 * i < 0x1B4000 → (∀ k w, k < 8 → w < 2 → pairWord s t k w = 0) → ∃ u, exec .dbgValWrite s = .next u ∧ loadN u (t * 2 ^ 21 + 8 * i) 8 = v.toNat ∧
        (∀ x, x < 0x1C0000 → x < 8 * i ∨ 8 * i + 8 ≤ x → readByte u (t * 2 ^ 21 + x) = readByte s (t * 2 ^ 21 + x)) ∧ u.agents = s.agents ∧ u.hbm = s.hbm))

open Sys2Proof Sys2Proof.Machine in
/-- R399, R400: the word that a tick samples of an agent: its run state, the first that applies, and where in its code it stands; of an idle one the state alone. The cycle's last hold tells a handle wait from a lock stall (log 125). -/
def Sys2Proof.Claims.SampleWordsTellRunStates : Prop :=
  (∀ (s : State) (a : Nat),
    let g := ag s a
    let b := bk s a
    let w := sampleWord s a
    let state := w / 2 ^ 28
    let faulted := ∃ r c, b.run = some r ∧ stepStOf s r.key = .faulted c
    let idle := b.run = none ∨ b.wait = .idle
    let here := g.halted = none ∧ ¬ faulted ∧ g.flip = none
    (g.halted ≠ none → state = 7) ∧ (g.halted = none → faulted → state = 9) ∧ (g.halted = none → ¬ faulted → g.flip ≠ none → state = 6) ∧ (here → idle → w = 8 * 2 ^ 28) ∧
    (here → ¬ idle → g.lastIssue = s.now + 1 → state = 0) ∧
    (here → ¬ idle → g.lastIssue ≠ s.now + 1 →
      (∀ l, b.wait = .curtain l → state = 5) ∧ (∀ id, b.wait = .sync id → state = 4) ∧ (∀ n l x, b.wait = .tree n l x → state = 4) ∧
      (b.wait = .none →
        (g.lastHold.1 = s.now + 1 → state = g.lastHold.2) ∧
        (g.lastHold.1 ≠ s.now + 1 → (b.q.started = true ∧ s.now ≤ b.q.bundleEnd → state = 1) ∧ (¬ (b.q.started = true ∧ s.now ≤ b.q.bundleEnd) → state = 2)))) ∧
    (g.halted ≠ none ∨ faulted ∨ g.flip ≠ none ∨ ¬ idle → g.lastHold.2 ≠ 8 →
      w % 2 ^ 16 = b.q.pc.toNat ∧ w / 2 ^ 16 % 2 = (if b.q.imode = 1 ∧ b.q.half = true then 1 else 0) ∧ w / 2 ^ 17 % 8 = 0 ∧ w / 2 ^ 20 % 256 = (if b.q.scene.isSome = true then b.q.mpc % 256 else 0))) ∧
  ∀ (s : State) (a : Nat) (k : Hold) (n : Nat), (k, n) ∈ [(Hold.curtain, 5), (.sync, 4), (.handle, 3), (.lock, 2), (.log, 2), (.spawn, 2)] → (ag (holdCycle s a k) a).lastHold = (s.now + 1, n)

open Sys2Proof Sys2Proof.Machine in
/-- R398 to R401: a code write with a bad mode or address gives code 1, a slot that is neither Bound nor Active 2, a page that does not translate its cause; otherwise the bundle is written and every holder of the line drops it at a bundle boundary, when `done` rises. A sampling tick writes one snapshot a die, the runs of its agents' words in mesh order, each
with the agent's run state and place in its code (R400), and the next comes a period later. Discards take a free time (the model's choice, log 126), and what
tells waits apart is as log 125 reads R400. -/
def Obligations.CodeWritesAndSamples : Prop :=
  (∀ (s : State) (g : Nat), s.occ = .at g → g < 512 →
    let slot := regF s (dbgReg g 0x20) 55 52
    let a := regF s (dbgReg g 0x20) 51 0
    let mode := regF s (dbgReg g 0x20) 63 62
    let bad := 2 ≤ mode ∨ a % 64 ≠ 0 ∨ (mode = 1 ∧ (a < 0x180000 ∨ 0x194000 ≤ a))
    let away := ctxState s slot ≠ 1 ∧ ctxState s slot ≠ 3
    let ctl := dbgReg g 0x28
    let fails : Nat → Prop := fun c => ∃ u, exec .codeWriteGo s = .next u ∧ regF u ctl 2 1 = 2 ∧ regF u ctl 15 8 = c ∧ SameMemory s u
    let drops : State → List (Nat × Nat) → Prop := fun u cs => (cs = [] → regF u ctl 1 1 = 1) ∧ ∀ c ∈ cs, ∃ d, s.now < d ∧ d ≤ s.now + 1024 ∧ Comes u d .lineDiscard (.at3 g c.1 c.2)
    (kget 0 s.codeLeft g ≠ 0 → exec .codeWriteGo s = .next s) ∧
    (kget 0 s.codeLeft g = 0 →
      (bad → fails 1) ∧ (¬ bad → away → fails 2) ∧
      (¬ bad → ¬ away → mode = 0 → NoErrors s → ∀ c, (translate s (2112 + g) slot a true).2 = .error c → c < 256 → fails c) ∧
      (¬ bad → ¬ away → mode = 0 → NoErrors s → ∀ p n, (translate s (2112 + g) slot a true).2 = .ok (p, n) → p.host = false → p.key = none → paOk p.pa = true → s.hpairs = [] →
        ∃ u, exec .codeWriteGo s = .next u ∧ hbmN u p.pa 64 = cwData s g ∧ (∀ x, x < p.pa ∨ p.pa + 64 ≤ x → hbmByte u x = hbmByte s x) ∧ u.sram = s.sram ∧ drops u (codeCopies s slot a) ∧
          ∀ e ∈ u.savedTiles, ∀ r, e.2.wings.run = some r → r.slot = slot → ∀ l ∈ e.2.wings.q.lines, 320 ≤ l.1 → r.codeVa + 256 * (l.1 - 320) + 256 ≤ a ∨ a + 64 ≤ r.codeVa + 256 * (l.1 - 320)) ∧
      (¬ bad → ¬ away → mode = 1 → s.pairs = [] → let tiles := ((List.range 512).filter fun c => kget 0 s.owners c == slot).flatMap clusterTiles
        ∃ u, exec .codeWriteGo s = .next u ∧ (∀ t ∈ tiles, ∀ i, i < 64 → readByte u (t * 2 ^ 21 + a + i) = BitVec.ofNat 8 (cwData s g / 256 ^ i)) ∧ u.hbm = s.hbm ∧
          drops u (imageCopies s tiles (if a < 0x190000 then (a - 0x180000) / 256 else 256 + (a - 0x190000) / 256))))) ∧
  (∀ (s : State) (g a k : Nat), s.occ = .at3 g a k →
    let q := (bk s a).q
    let within := (bk s a).run.isSome = true ∧ q.started = true ∧ s.now ≤ q.bundleEnd ∧ (ag s a).halted = none
    let left := kget 0 s.codeLeft g
    (within → ∃ u, exec .lineDiscard s = .next u ∧ { u with agenda := s.agenda } = s ∧ Comes u (q.bundleEnd + 1) .lineDiscard (.at3 g a k)) ∧
    (¬ within → ∃ u, exec .lineDiscard s = .next u ∧ kget none (bk u a).q.lines k = none ∧ kget none (ag u a).wings.q.lines k = none ∧ (∀ j, j ≠ k → kget none (bk u a).q.lines j = kget none q.lines j) ∧ SameMemory s u ∧ SameRegs s u a ∧
      (left = 2 → regF u (dbgReg g 0x28) 1 1 = 1 ∧ kget 0 u.codeLeft g = 0) ∧ (2 < left → kget 0 u.codeLeft g = left - 1 ∧ u.regs = s.regs))) ∧
  (∀ (s : State) (c : Nat), s.occ = .at c →
    let g := gtOf s
    let phase := (reg s 0x2110).toNat
    let period := regF s 0x2108 31 0
    (s.smpChain ≠ c ∨ regF s 0x2100 0 0 = 0 → exec .sampleTick s = .next s) ∧
    (s.smpChain = c → regF s 0x2100 0 0 = 1 → 0 < period → phase ≤ g → (g - phase) % period = 0 →
      let w := [0, 1, 2, 3].foldl snapshot s
      ∃ u, exec .sampleTick s = .next u ∧ SameMemory w u ∧ u.regs = w.regs ∧ u.agents = s.agents ∧ Comes u (max (s.now + 1) (cycleOf s (g + period))) .sampleTick (.at c))) ∧
  (∀ (s : State) (d : Nat), d < 4 →
    let words := (dieAgents d).map (sampleWord s)
    let runs := runsOf words
    let units := (32 + 8 * runs.length + 63) / 64
    let base := 0x2140 + 0x20 * d
    let lg := regF s base 4 0
    let at_ := regF s base 47 12 * 2 ^ 12 + 64 * (regF s (base + 8) 31 0 % 2 ^ lg)
    let used := (regF s (base + 8) 31 0 + 2 ^ 32 - regF s (base + 8) 63 32) % 2 ^ 32
    let u := snapshot s d
    (runs.flatMap fun r => List.replicate r.2 r.1) = words ∧ words.length = 524 ∧
    (4 ≤ lg → lg ≤ 16 → used + units ≤ 2 ^ lg → regF u (base + 8) 31 0 = (regF s (base + 8) 31 0 + units) % 2 ^ 32 ∧
      fld (hbmN u at_ 32) 0 2 = 64 * units ∧ fld (hbmN u at_ 32) 2 1 = d ∧ fld (hbmN u at_ 32) 3 1 = (if kget false s.smpLost d = true then 1 else 0) ∧ fld (hbmN u at_ 32) 4 4 = kget 0 s.smpSeq d % 2 ^ 32 ∧
      fld (hbmN u at_ 32) 8 8 = gtOf s % 2 ^ 64 ∧ fld (hbmN u at_ 32) 16 2 = runs.length ∧ fld (hbmN u at_ 32) 18 14 = 0 ∧ kget false u.smpLost d = false ∧
      ((∀ w ∈ words, w < 2 ^ 32) → ∀ (i w n : Nat), runs[i]? = some (w, n) →
        let e := hbmN u (regF s base 47 12 * 2 ^ 12 + 64 * ((regF s (base + 8) 31 0 + (32 + 8 * i) / 64) % 2 ^ lg) + (32 + 8 * i) % 64) 8
        fld e 0 4 = w ∧ fld e 4 4 = n)) ∧
    (lg < 4 ∨ 16 < lg ∨ 2 ^ lg < used + units → u.hbm = s.hbm ∧ regF u (base + 16) 31 0 = min 0xFFFFFFFF (regF s (base + 16) 31 0 + 1) ∧ kget false u.smpLost d = true)) ∧
  Sys2Proof.Claims.SampleWordsTellRunStates


/-! ### Bring-up, power and the pod (R402 to R411, R415 to R421, R427, R428) -/

open Sys2Proof Sys2Proof.Machine in
/-- R404, R405, R407 to R411: power good begins bring-up, whose stages follow one another; GT is 0 at the end of stage 3, every byte is zero after stage 7, and stage 9 sets `ready`; a failure or 2 s without stage 9 leaves the stage and its code. A cluster leaves Run only without steps and tags, is back after its time, passes through Run between other states, and keeps nothing
when Off. Supplies ramp by 1 mV, temperatures are read, and 115 °C asserts the trip pin. Supplies step and sensors read by free values of Config, and a stage fails by a free choice (the model's choices, log 9, 129, 130). -/
def Obligations.PowerAndBringUp : Prop :=
  (∀ (s : State), s.occ = .none →
    (∃ u, exec .powerRemoved s = .next u ∧ u.powered = false ∧ u.sram = [] ∧ u.hbm = [] ∧ u.tags = [] ∧ u.agents = [] ∧ (∀ e ∈ u.agenda, isPowerWork e = true ∨ isOutside e = true) ∧ u.steps = [] ∧ u.host = s.host ∧ regF u 0x0000 0 0 = 0 ∧ regF u 0x0000 19 16 = 0) ∧
    (s.powered = true → exec .powerGood s = .next s) ∧
    (s.powered = false → ∃ u d, exec .powerGood s = .next u ∧ u.powered = true ∧ regF u 0x0000 19 16 = 1 ∧ s.now < d ∧ Comes u d .bringupStageComplete (.at2 s.powerCycle 1) ∧ Comes u (s.now + 4800000000) .bringupTimeout (.at s.powerCycle)) ∧
    ∃ u, exec .thermtrip s = .next u ∧ u.thermtrip = true ∧ { u with thermtrip := s.thermtrip } = s) ∧
  (∀ (s : State) (c n : Nat), s.occ = .at2 c n → s.powered = true → s.powerCycle = c → regF s 0x0000 19 16 = n → regF s 0x0000 31 24 = 0 → 1 ≤ n → n ≤ 8 →
    ∃ u, exec .bringupStageComplete s = .next u ∧
      (stageCode s n = 0 → n < 8 → regF u 0x0000 19 16 = n + 1 ∧ ∃ d, s.now < d ∧ Comes u d .bringupStageComplete (.at2 c (n + 1))) ∧
      (stageCode s n ≠ 0 → regF u 0x0000 19 16 = n ∧ regF u 0x0000 31 24 = stageCode s n ∧ (∀ e ∈ u.agenda, isPowerWork e = true ∨ isOutside e = true) ∧ regF u 0x0000 0 0 = regF s 0x0000 0 0) ∧
      (n ∈ [1, 2, 3, 7] → stageCode s n = 0) ∧ (n = 8 → let keyFits := sha512 (ecKeyBytes Config.bootKey) = beBytes Config.keyHash.toNat 64
        let signed := sha512 bootImage = beBytes Config.bootDigest.toNat 64 ∧ ecdsaOk Config.bootKey.1.toNat Config.bootKey.2.toNat Config.bootDigest.toNat Config.bootSignature.1.toNat Config.bootSignature.2.toNat = true
        (¬ keyFits → stageCode s n = 4) ∧ (keyFits → ¬ signed → stageCode s n = 3) ∧ (keyFits → signed → stageCode s n = 0)) ∧
      (stageCode s n = 0 → n = 3 → gtOf u = 0) ∧ (stageCode s n = 0 → n = 7 → (∀ x, readRaw u x = 0) ∧ (∀ x, hbmByte u x = 0) ∧ (∀ l, tagOf u l = 0)) ∧
      (stageCode s n = 0 → n = 8 → regF u 0x0000 0 0 = 1 ∧ regF u 0x0000 19 16 = 9 ∧ regF u 0x0000 31 24 = 0 ∧ ∀ k, k < 16 → ctxState u k = 0)) ∧
  (∀ (s : State), s.occ = .at s.powerCycle → s.powered = true → regF s 0x0000 31 24 = 0 →
    (regF s 0x0000 19 16 = 9 → exec .bringupTimeout s = .next s) ∧ (regF s 0x0000 19 16 ≠ 9 → ∃ u, exec .bringupTimeout s = .next u ∧ regF u 0x0000 31 24 = 1 ∧ regF u 0x0000 19 16 = regF s 0x0000 19 16 ∧ ∀ e ∈ u.agenda, isPowerWork e = true ∨ isOutside e = true)) ∧
  (∀ (s : State) (n : Nat), s.occ = .at n → n < 256 → ∃ u, exec .apronLinkTrained s = .next u ∧ regF u 0x0200 0 0 = 1 ∧ regF u 0x0200 15 8 = n ∧ ∀ o, o ≠ 0x0200 → reg u o = reg s o) ∧
  (∀ (s : State) (c : Nat), s.occ = .at c → c < 512 →
    let commands : List (Instr × Nat) := [(.pwrRun, 0), (.pwrClockStop, 1), (.pwrRetain, 2), (.pwrOff, 3)]
    let old := powerState s c
    let empty := ∀ t ∈ clusterTiles c, (ag s t).front.run = none ∧ (ag s t).wings.run = none ∧ (∀ r ∈ s.steps, r.key.tile = t → r.st ≠ .loading) ∧ ∀ i, i < 2 ^ 15 → tagOf s (t * 2 ^ 15 + i) = 0
    let runs := s.powered = true ∧ regF s 0x0000 31 24 = 0
    ∀ e ∈ commands,
      (regF s 0x0108 63 63 = 1 ∨ ¬ runs → exec e.1 s = .next s) ∧
      (regF s 0x0108 63 63 = 0 → runs → e.2 ≠ 0 → ¬ empty → exec e.1 s = .next (setReg s 0x0108 1)) ∧
      (regF s 0x0108 63 63 = 0 → runs → e.2 = 0 ∨ (empty ∧ ∀ x ∈ s.tags, x.2 ≠ 0) → ∃ u d, exec e.1 s = .next u ∧ regF u 0x0108 63 63 = 1 ∧ powerState u c = old ∧ s.now < d ∧ Comes u d .pwrTransitionComplete (.at2 c e.2) ∧
        (e.2 = 0 → d = s.now + (if old = 1 then 64 else if old = 2 then 4096 else if old = 3 then 2000000 else 1)) ∧
        (e.2 ≠ 0 → old ≠ 0 → old ≠ e.2 → s.now + returnTime old < d ∧ Comes u (s.now + returnTime old) .pwrTransitionComplete (.at3 c 0 0)))) ∧
  (∀ (s : State) (c st : Nat), s.occ = .at2 c st → c < 512 → st < 4 → ∃ u, exec .pwrTransitionComplete s = .next u ∧ powerState u c = st ∧ reg u 0x0108 = 0 ∧ (∀ k, k < 512 → k ≠ c → powerState u k = powerState s k) ∧
    (st = 3 ∨ powerState s c = 3 → cceOf u (2112 + c) = {} ∧ tlbOf u (2112 + c) = [] ∧ ∀ t ∈ clusterTiles c, (∀ i, i < 0x1C0000 → readRaw u (t * 2 ^ 21 + i) = 0) ∧ (ag u t).front = {} ∧ ∀ i, i < 0x1C0000 / 64 → tagOf u (t * 2 ^ 15 + i) = 0) ∧ (st ≠ 3 → powerState s c ≠ 3 → SameMemory s u ∧ u.agents = s.agents) ∧
    (st = 0 → ∀ t ∈ clusterTiles c, Comes u (s.now + 1) .stepTurn (.at t))) ∧
  (∀ (s : State) (d : Nat) (v : BitVec 64), s.occ = .reg d v → d < 4 →
    let n := v.toNat % 1024
    let legal := dieRuns s = true ∧ n % 5 = 0 ∧ (Config.vmin d).toNat % 1024 ≤ n ∧ n ≤ 650
    let now := regF s (0x0140 + 8 * d) 25 16
    (¬ legal → exec .vddSet s = .next s) ∧
    (legal → ∃ u, exec .vddSet s = .next u ∧ regF u (0x0140 + 8 * d) 9 0 = n ∧ regF u (0x0140 + 8 * d) 25 16 = now ∧ (ramping s d = false → n ≠ now → Comes u (s.now + 2400) .vddRampStep (.at d)) ∧ (ramping s d = true ∨ n = now → u.agenda = s.agenda))) ∧
  (∀ (s : State) (d : Nat), s.occ = .at d → d < 4 →
    let set := regF s (0x0140 + 8 * d) 9 0
    let now := regF s (0x0140 + 8 * d) 25 16
    (now = set → exec .vddRampStep s = .next s) ∧
    (now ≠ set → ∃ u, exec .vddRampStep s = .next u ∧ regF u (0x0140 + 8 * d) 25 16 = (if now < set then now + 1 else now - 1) ∧ regF u (0x0140 + 8 * d) 9 0 = set ∧
      (regF u (0x0140 + 8 * d) 25 16 ≠ set → Comes u (s.now + 2400) .vddRampStep (.at d)))) ∧
  ∀ (s : State) (d : Nat), s.occ = .at d → d < 5 →
    let r := 0x0180 + 8 * d
    (∃ u, exec .thermRead s = .next u ∧ regF u r 31 16 = regF s r 15 0 ∧ regF u r 15 0 = regF s r 15 0 ∧ { u with regs := s.regs } = s) ∧
    ∃ u, exec .thermUpdate s = .next u ∧ Comes u (s.now + 2400000) .thermUpdate (.at d) ∧
      (BitVec.ofNat 16 (regF u r 31 16)).toInt = max (BitVec.ofNat 16 (regF s r 31 16)).toInt (BitVec.ofNat 16 (regF u r 15 0)).toInt ∧
      (460 ≤ (BitVec.ofNat 16 (regF u r 15 0)).toInt → s.thermtrip = false → ∃ t, t ≤ s.now + 24000 ∧ Comes u t .thermtrip .none) ∧ SameMemory s u

open Sys2Proof Sys2Proof.Machine in
/-- R23, R413, R415 to R421: a package joins the pod only with no slot Bound or Active and sampling off; its GT moves forward to the pod's, and each exchange adjusts it by at most one increment. A switch order is accepted only with its slots, areas and times in order, waits for T, and pre-empts the outgoing slot at D if no curtain has
switched it before; markers divide the links' traffic. The sign of an offset, and what refuses a join, are as log 132, 135 and 136 read the rules. -/
def Obligations.PodAndSwitch : Prop :=
  (∀ (s : State) (b : Nat) (v : BitVec 64), s.occ = .reg b v →
    let may := regF s 0x7008 1 1 = 0 ∧ regF s 0x2100 0 0 = 0 ∧ ∀ k, k < 16 → ctxState s k ≠ 1 ∧ ctxState s k ≠ 3
    (¬ may → exec .podJoin s = .next s) ∧
    (may → podNumberOk s = false → ∃ u, exec .podJoin s = .next u ∧ regF u 0x7008 1 1 = 0 ∧ regF u 0x7008 31 24 = 1 ∧ gtOf u = gtOf s) ∧
    (may → podNumberOk s = true →
      (regF s 0x7000 9 0 = 0 → ∃ u, exec .podJoin s = .next u ∧ regF u 0x7008 1 1 = 1 ∧ gtOf u = gtOf s) ∧
      (regF s 0x7000 9 0 ≠ 0 → v.toNat < gtOf s → ∃ u, exec .podJoin s = .next u ∧ regF u 0x7008 1 1 = 0 ∧ regF u 0x7008 31 24 = 2 ∧ gtOf u = gtOf s) ∧
      (regF s 0x7000 9 0 ≠ 0 → gtOf s ≤ v.toNat → 0 ≤ (s.now : Int) + s.gtAdj → ∃ u o, exec .podJoin s = .next u ∧ regF u 0x7008 1 1 = 1 ∧ gtOf u = v.toNat ∧ SameMemory s u ∧ Comes u (s.now + 65536) .timeBeatExchange (.beat o)))) ∧
  (∀ (s : State) (b : Beat), s.occ = .beat b →
    (regF s 0x7008 1 1 = 0 ∨ s.parentDown = true → exec .timeBeatExchange s = .next s) ∧
    (regF s 0x7008 1 1 = 1 → s.parentDown = false → ∃ u o, exec .timeBeatExchange s = .next u ∧ Comes u (s.now + 65536) .timeBeatExchange (.beat o) ∧ SameMemory s u ∧
      u.gtAdj = s.gtAdj + (if b.offset = 0 then 0 else if 0 < b.offset then -1 else 1) ∧ u.beats = (if -1 ≤ b.offset ∧ b.offset ≤ 1 then s.beats + 1 else 0) ∧
      (b.refOk = true → 15 ≤ s.beats → -1 ≤ b.offset → b.offset ≤ 1 → regF u 0x7008 2 2 = 1) ∧ (b.refOk = false → regF u 0x7008 31 24 = 3 ∧ regF u 0x7008 2 2 = regF s 0x7008 2 2))) ∧
  (∀ (s : State), s.occ = .none →
    (∃ u, exec .parentLinkFail s = .next u ∧ u.parentDown = true ∧ u.beats = 0 ∧ regF u 0x7008 2 2 = 0 ∧ u.gtAdj = s.gtAdj) ∧
    (let st := regF s 0x7118 2 0
     let open_ := st = 1 ∨ st = 2
     (open_ → ∃ u, exec .swCancel s = .next u ∧ regF u 0x7118 2 0 = 0 ∧ regF u 0x7118 31 24 = 4 ∧ u.switch.atCurtain = none ∧ { u with regs := s.regs, switch := s.switch } = s) ∧ (¬ open_ → exec .swCancel s = .next s))) ∧
  (∀ (s : State) (b : Nat) (v : BitVec 64), s.occ = .reg b v →
    let out := v.toNat / 2 ^ 4 % 16
    let into := v.toNat / 2 ^ 8 % 16
    let t := (reg s 0x7100).toNat
    let d := (reg s 0x7108).toNat
    let pending := 1 ≤ regF s 0x7118 2 0 ∧ regF s 0x7118 2 0 ≤ 5
    let slots := ctxState s out = 3 ∧ ctxState s into = 1 ∧ into ≠ out ∧ collOk s out = true ∧ collOk s into = true
    let times := gtOf s + 4096 ≤ t ∧ t < d
    (pending → exec .swGo s = .next (setRegF s 0x7118 31 24 2)) ∧ (¬ pending → ¬ slots → exec .swGo s = .next (setRegF s 0x7118 31 24 1)) ∧ (¬ pending → slots → ¬ times → exec .swGo s = .next (setRegF s 0x7118 31 24 5)) ∧
    (¬ pending → slots → times → ∃ u, exec .swGo s = .next u ∧ regF u 0x7118 2 0 = 1 ∧ regF u 0x7118 63 32 = v.toNat / 2 ^ 32 ∧ u.switch.out = out ∧ u.switch.in_ = into ∧ Comes u (cycleOf s t) .swTReached (.at u.switch.no) ∧ Comes u (cycleOf s d) .swDeadline (.at u.switch.no))) ∧
  (∀ (s : State), s.occ = .at s.switch.no →
    (regF s 0x7118 2 0 = 1 → ∃ u, exec .swTReached s = .next u ∧ regF u 0x7118 2 0 = 2 ∧ { u with regs := s.regs } = s) ∧
    (regF s 0x7118 2 0 = 2 → s.switch.atCurtain = none → s.switch.d < 2 ^ 64 → ∃ u, exec .swDeadline s = .next u ∧ regF u 0x7118 2 0 = 3 ∧ regF u 0x7118 17 16 = 2 ∧ (reg u 0x7120).toNat = s.switch.d ∧ Comes u s.now .ctxPreempt (.at s.switch.out) ∧
      SameMemory s u ∧ u.agents = s.agents ∧ ∀ l ∈ u.launches, l.slot = s.switch.out → ∀ x ∈ l.arrivals, x.atPoint = true → x.tile ∈ closedTiles s)) ∧
  (∀ (s : State) (p : Nat), s.occ = .at p → ∃ u, exec .markerArrival s = .next u ∧ { u with switch := s.switch } = s ∧
    u.switch.marks = s.switch.marks.filter (· ≠ p) ∧ p ∈ u.switch.came ∧ p ∉ u.switch.lost) ∧
  ∀ (s : State) (p : Nat), s.occ = .at2 s.switch.no p → (p ∉ s.switch.marks → exec .markerTimeout s = .next s) ∧ (p ∈ s.switch.marks → ∃ u, exec .markerTimeout s = .next u ∧ p ∉ u.switch.marks ∧ p ∈ u.switch.lost ∧ regF u 0x7118 31 24 = 3)

open Sys2Proof Sys2Proof.Machine in
/-- R5, R402, R427, R428: a register is written by its access codes: RW fields take the value, W1C bits written as 1 clear, RO and reserved fields stay; nothing but a report is taken before `ready`; the host reads and writes the block by aligned accesses of 8 bytes alone, another reads zero and writes nothing. A report is refused with `err` at an address outside HBM or before stage 9, and is otherwise written within 2,400,000 cycles, when the nonce
clears. What happens to a write before `ready` is as log 131 reads R402. -/
def Obligations.RegistersAndReports : Prop :=
  (∀ (s : State) (o : Nat) (v : BitVec 64), s.occ = .reg o v →
    let becomes : BitVec 64 → Prop := fun w => ∃ u, exec .registerWrite s = .next u ∧ reg u o = w ∧ (∀ p, p ≠ o → reg u p = reg s p) ∧ { u with regs := s.regs } = s
    let old := reg s o
    let rw : BitVec 64 → BitVec 64 := fun m => (old &&& ~~~m) ||| (v &&& m)
    (regF s 0x0000 0 0 = 0 → o ≠ 0x7200 → exec .registerWrite s = .next s) ∧
    (regF s 0x0000 0 0 = 1 →
      (o % 8 ≠ 0 → exec .registerWrite s = .next s) ∧
      (o = 0x2000 → becomes (rw 0x0000FFFFFFFFF01F#64)) ∧ (o = 0x2008 → becomes (rw 0xFFFFFFFF00000000#64)) ∧ (o = 0x7100 ∨ o = 0x7108 → becomes v) ∧ (o = 0x3000 → becomes (rw 0x1FF#64)) ∧
      (o = 0x1000 → (regF s 0x1008 0 0 = 1 → exec .registerWrite s = .next s) ∧ (regF s 0x1008 0 0 = 0 → becomes (rw 0x0000FFFFFFF00000#64))) ∧
      (o = 0x7000 → (regF s 0x7008 1 1 = 1 → exec .registerWrite s = .next s) ∧ (regF s 0x7008 1 1 = 0 → becomes (rw 0x00FFC3FF#64))) ∧
      (∀ k, k < 16 →
        (o = slotReg k 0x028 ∨ o = slotReg k 0x030 → becomes v) ∧
        (o = slotReg k 0x008 ∨ o = slotReg k 0x010 → (ctxState s k = 0 → becomes (rw 0x0000FFFFFFFF0000#64)) ∧ (ctxState s k ≠ 0 → exec .registerWrite s = .next s)) ∧
        (o = slotReg k 0x068 → (ctxState s k = 0 → becomes (rw 0x0000FFFFFFFFF01F#64)) ∧ (ctxState s k ≠ 0 → exec .registerWrite s = .next s)) ∧
        (o = slotReg k 0x070 → becomes (rw 0xFFFFFFFF00000000#64)) ∧ (o = slotReg k 0x058 → becomes (rw 0xFFFF#64)) ∧
        (o = slotReg k 0x100 → (pbEnabled s k = true → exec .registerWrite s = .next s) ∧ (pbEnabled s k = false → becomes (rw 0x000FFFFFFFFF0000#64))) ∧
        (o = slotReg k 0x128 → becomes (old &&& ~~~(v &&& 0x1E#64)))) ∧
      (∀ f, f < 1024 → o = 0x180000 + 0x800 * (f / 256) + 8 * (f % 256) → becomes (old &&& ~~~v)) ∧
      (∀ c, c < 2 ^ 16 → o = dcReg c → ∃ u, exec .registerWrite s = .next u ∧ dcValue u c = v.toNat % 2 ^ 32 ∧ (reg u o).extractLsb' 32 5 = v.extractLsb' 32 5 ∧ (reg u o).getLsbD 37 = (old.getLsbD 37 && !v.getLsbD 37) ∧
        Comes u (s.now + 1) .arbiterChoice .none))) ∧
  (∀ (s : State) (addr size : Nat) (w : Bool) (v : Row), s.occ = .host addr size w v →
    (regF s 0x0200 0 0 = 0 → exec .registerWrite s = .next s) ∧
    (regF s 0x0200 0 0 = 1 → ∀ o, addr = 0xFF00000000 + o → o < 2 ^ 24 →
      (size ≠ 8 ∨ o % 8 ≠ 0 → exec .registerWrite s = .next (if w then s else { s with readData := 0 })) ∧
      (size = 8 → o % 8 = 0 → w = true → exec .registerWrite s = .next (if s.powered = true ∧ regF s 0x0000 31 24 = 0 then blockWrite s o (v.setWidth 64) else s)) ∧
      (size = 8 → o % 8 = 0 → w = false → ∃ u, exec .registerWrite s = .next u ∧ u.readData = (readReg s o).setWidth 2048 ∧ SameMemory s u ∧ ∀ p, p < 0x0180 ∨ 0x01A8 ≤ p → reg u p = reg s p))) ∧
  (∀ (s : State), s.occ = .none → s.attBusy = false →
    let pa := regF s 0x7200 47 10 * 1024
    let ready := paOk pa = true ∧ regF s 0x0000 19 16 = 9
    (¬ ready → ∃ u, exec .attGo s = .next u ∧ regF u 0x7208 1 0 = 2 ∧ u.agenda = s.agenda) ∧
    (ready → ∃ u t, exec .attGo s = .next u ∧ u.attBusy = true ∧ regF u 0x7208 1 0 = 0 ∧ s.now < t ∧ t ≤ s.now + 2400000 ∧ Comes u t .attReportDone (.at pa))) ∧
  (∀ (s : State), s.occ = .none → s.attBusy = true → exec .attGo s = .next s) ∧
  ∀ (s : State) (pa : Nat), s.occ = .at pa →
    ∃ u, exec .attReportDone s = .next u ∧ u.attBusy = false ∧ regF u 0x7208 0 0 = 1 ∧ (∀ k, k < 8 → reg u (0x7240 + 8 * k) = 0) ∧ (∀ x, x < pa ∨ pa + 640 ≤ x → hbmByte u x = hbmByte s x) ∧
      hbmN u pa 4 = 0x41545431 ∧ hbmN u (pa + 8) 8 = gtOf s % 2 ^ 64 ∧ (∀ k, k < 8 → hbmN u (pa + 32 + 8 * k) 8 = (reg s (0x7240 + 8 * k)).toNat) ∧ hbmN u (pa + 16) 2 = regF s 0x7000 9 0 + 2 ^ 15 * regF s 0x7008 1 1
/-! ### Bundles, words, the step, memory and reset -/

namespace Sys2Proof.Machine

/-- The state in which a bundle issues: its agent, header and constant stand in the issue register. -/
def inIssue (s : State) (a : Nat) (w : BundleBits) : State :=
  { s with cur := { a := a, hdr := w.extractLsb' 0 64, long := slotBits w 6, slot := 0 } }

/-- The moves of a bundle whose guards hold, of those that trigger nothing. -/
def movesOn (s : State) (a : Nat) (w : BundleBits) (b : Bundle) : List Mv := (mvsOf b).filter fun v => guardOn (inIssue s a w) a v.m

/-- The agent may fetch a bundle: its step runs, and no flip, halt, refusal, wait, boundary, trap, overrun or interrupt comes first. -/
def mayFetch (s : State) (a : Nat) : Prop :=
  ∃ r, (bk s a).run = some r ∧ r.going = true ∧ (ag s a).flip = none ∧ (ag s a).halted = none ∧ (bk s a).q.notBefore ≤ s.now ∧
    (bk s a).dfaults = [] ∧ (bk s a).wait = .none ∧ (bk s a).c.ipend = 0 ∧ (bk s a).q.owed = false ∧ (bk s a).q.after = [] ∧ spawnHeld s a = false

/-- A bundle of four words in slots 0 to 3, for the examples of the spec. -/
def bundleWords (ws : List (BitVec 64)) : BundleBits := bundleOfWords (ws ++ List.replicate (8 - ws.length) 0#64)

end Sys2Proof.Machine

open Sys2Proof Sys2Proof.Machine in
/-- R162 to R175: the decoder reads every encoded operation and loop nest back, and each slot that it accepts is the one slot that
encodes the operation read, which is well-formed. -/
def Obligations.DecodeEncodeAgree : Prop :=
  (∀ i, instrWf i = true → ((encOp i).isSome = true ∨ ∃ n, i = .vxVnest n) → decode (encode i) = some i) ∧
  (∀ w i, decodeInstr w = .ok i → encodeSlot i = some w ∧ instrWf i = true)

open Sys2Proof Sys2Proof.Machine in
/-- Words written out from R162 to R171, the worked examples of R165, R178 and R183 among them, decode to the operations that they stand
for, and a bundle that breaks two rules takes the lower cause with its slot. -/
def Obligations.WordsDecodeAsWritten : Prop :=
  -- `(p2) #40 -> sq.br`: guard 0x12, opcode 0x001, dst 0x3000, srcf 0x3000, imm16 0x0028 (R183)
  decodeInstr (0b10010#5 ++ 0x001#12 ++ 0x3000#15 ++ 0x3000#16 ++ 0x0028#16) = .ok (.sqBr ⟨some 2, .imm 0x28#16⟩) ∧
  (0b10010#5 ++ 0x001#12 ++ 0x3000#15 ++ 0x3000#16 ++ 0x0028#16) = 0x9000B00030000028#64 ∧
  -- `rd0 -> ls.st.w.a2`, slot 2 of the example of R178
  decodeInstr 0x0104310010000000#64 = .ok (.lsStW 2 ⟨none, .reg 0⟩) ∧
  -- `xb.q0 -> xa.cmp.ltu` on predicate pair 5: opcode 0x200 + 8 × 4 + 5, dst class 3 of unit 1, source class 2 of unit 2, code 0x20
  decodeInstr (0b00000#5 ++ 0x225#12 ++ (3#3 ++ 1#6 ++ 0#6) ++ (2#4 ++ 2#6 ++ 0x20#6) ++ 0#16) = .ok (.xaCmpLtu .xa 5 ⟨none, .latch .xb 0x20⟩) ∧
  -- `#5 -> ch.copy` with completion action 2: opcode 0x201
  decodeInstr (0b00000#5 ++ 0x201#12 ++ (3#3 ++ 7#6 ++ 0#6) ++ 0x3000#16 ++ 5#16) = .ok (.chCopy 2 ⟨none, .imm 5⟩) ∧
  -- a no-op names no operation; a reserved guard and a reserved opcode are cause 0x0B
  decodeInstr 0#64 = .error .opcode ∧
  decodeInstr (0b00001#5 ++ 0x001#12 ++ 0x3000#15 ++ 0x3000#16 ++ 0x0028#16) = .error .opcode ∧
  decodeInstr (0b00000#5 ++ 0x00F#12 ++ 0x3000#15 ++ 0#16 ++ 0#16) = .error .opcode ∧
  -- the example bundle of R178: slots 0, 1, 2 and 5
  (∃ b, decodeBundle ⟨false, false⟩ (bundleWords [0x0020087000000890#64, 0x9800100020600000#64, 0x000021013000FFFE#64, 0x0104310010000000#64,
      0#64, 0#64, 0x0000220221610000#64]) = .ok b ∧ b.hdr.hold = 2 ∧ b.hdr.wr 0 = some 7 ∧ b.hdr.rd 0 = some 9 ∧
    b.items = [(0, .mv ⟨some 3, .latch .xa 0x20⟩ (.wr 0)), (1, .mv ⟨none, .imm 0xFFFE#16⟩ (.port .ls 1)), (2, .op (.lsStW 2 ⟨none, .reg 0⟩)),
      (3, .mv ⟨none, .zero⟩ .none), (4, .mv ⟨none, .zero⟩ .none), (5, .mv ⟨none, .latch .vx 0x21⟩ (.port .nt 2)), (6, .mv ⟨none, .zero⟩ .none)]) ∧
  -- rd0 and rd1 allotted; slot 1 reads rd2, slot 4 moves rd0 to vx.o3: cause 0x03 in slot 1 (R178)
  (∃ e, decodeBundle ⟨false, false⟩ (bundleWords [0x0000000000081810#64, 0#64, 0x0000000010020000#64, 0#64, 0#64, 0x0000214310000000#64]) = .error e ∧
    illegalCode e.1 = 0x03 ∧ e.2 = 1)

open Sys2Proof Sys2Proof.Machine in
/-- R145, R164, R176: a bundle of moves that passes its checks issues whole: each move whose guard holds delivers its source, as it stood at the
start of the cycle, to its operand port, register or predicate; every other port, register and predicate, the other registers, memory and the
other agents stay as they were; its last cycle ends its hold cycles later. A bundle that fails a check takes a synchronous fault with the lowest
cause. -/
def Obligations.BundleOfMovesIssues : Prop :=
  ∀ (a : Nat) (w : BundleBits) (s : State), isIssuer a = true →
    (∀ e, decodeBundle (placeOf s a) w = .error e → exec (.bundleIssue a w) s = .next (syncFault (inIssue s a w) a (illegalCode e.1) e.2 none)) ∧
    (∀ b, decodeBundle (placeOf s a) w = .ok b → trsOf b = [] → (∀ v ∈ movesOn s a w b, latchHeld s a v.m.src = false) →
      markOf (bk s a).q b.hdr.lend ≠ .bad → ((bk s a).q.scene = none ∨ b.hdr.send = false ∨ (bk s a).q.mq = []) →
      ∃ t, exec (.bundleIssue a w) s = .next t ∧ Comes t (s.now + b.hdr.hold) .bundleComplete (.at a) ∧
        (∀ v ∈ movesOn s a w b, match v.d with
          | .none => True
          | .port u c => portR t a u c.val = portVal u c.val v.m (srcVal (inIssue s a w) a v.m.src)
          | .wr p => ∀ r, b.hdr.wr p = some r → gReg t a r.val = lowW (srcVal (inIssue s a w) a v.m.src)
          | .pred n => (bk t a).p.getLsbD n.val = decide (lowW (srcVal (inIssue s a w) a v.m.src) ≠ 0#32)) ∧
        (∀ u (c : Fin 16), (∀ v ∈ movesOn s a w b, v.d ≠ .port u c) → portR t a u c.val = portR s a u c.val) ∧
        (∀ n, (∀ v ∈ movesOn s a w b, ∀ p r, v.d = .wr p → b.hdr.wr p = some r → r.val ≠ n) → gReg t a n = gReg s a n) ∧
        (∀ n : Fin 16, (∀ v ∈ movesOn s a w b, v.d ≠ .pred n) → (bk t a).p.getLsbD n.val = (bk s a).p.getLsbD n.val) ∧
        (bk t a).v = (bk s a).v ∧ (bk t a).m = (bk s a).m ∧ (bk t a).h = (bk s a).h ∧ (bk t a).c = (bk s a).c ∧
        (∀ u c, (latchOf t a u c).val = (latchOf s a u c).val) ∧ SameMemory s t ∧ ∀ b, b ≠ a → ag t b = ag s b)

open Sys2Proof Sys2Proof.Machine in
/-- R145, R150, R176: what the statements say of an operation alone in the issue register is what its slot does in a bundle: a bundle whose slot 0
triggers it and whose other slots are no-ops is the operation. An operation whose guard does not hold issues without effect; one that reads a
latch not full, whose data-locked result is on its way, holds for a lock stall; and a scene end with a micro branch queued is cause 0x21, a mark that its bundle may not carry cause 0x23, in the header. -/
def Obligations.LoneOperationIsItsSlot : Prop :=
  ∀ (i : Instr) (m : Trig) (f : OpFn), runOp i = some (m, f) →
    (∀ s, isIssuer s.cur.a = true → exec i s = .next (issue s s.cur.a [] [⟨s.cur.slot, m, f⟩])) ∧
    (∀ (a : Nat) (w : BundleBits) (s : State) (b : Bundle), isIssuer a = true → decodeBundle (placeOf s a) w = .ok b →
      (∃ l, b.items = (0, .op i) :: l ∧ ∀ e ∈ l, e.2 = .mv ⟨none, .zero⟩ .none) → exec (.bundleIssue a w) s = exec i (inIssue s a w)) ∧
    (∀ s, isIssuer s.cur.a = true → guardOn s s.cur.a m = false → markLegal s = true →
      exec i s = .next (noteIssued s s.cur.a s.cur.hdr)) ∧
    (∀ s, isIssuer s.cur.a = true → guardOn s s.cur.a m = true → latchHeld s s.cur.a m.src = true →
      exec i s = .next (holdCycle s s.cur.a .lock)) ∧
    (∀ s, isIssuer s.cur.a = true → guardOn s s.cur.a m = false → markLegal s = false →
      exec i s = .next (syncFault s s.cur.a (if sceneEndBad (bk s s.cur.a).q s.cur.hdr then 0x21 else 0x23) 7 none))

open Sys2Proof Sys2Proof.Machine in
/-- A step runs what comes due (R145, R181): an event at the head of the agenda is executed in its cycle; an agent's issue cycle fetches the bundle
at its program counter and executes it, and in overlay mode the 64 bytes of that bundle stand in the tile's instruction memory; with nothing to
come, one cycle passes. Errors that stand in what is read are met first. The agenda, and that one cycle passes with nothing to come, are the model's own (log 1, 11, 173). -/
def Obligations.StepRunsWhatComesDue : Prop :=
  (∀ s : State, s.agenda = [] → step s = .next { s with now := s.now + 1 }) ∧
  (∀ (s : State) (e : Entry) (es : List Entry) (i : Instr) (o : Occ), s.agenda = e :: es → e.what = .ev i o → frozenAt s e = none →
    step s = exec i { headMet s e es with occ := o }) ∧
  (∀ (s : State) (e : Entry) (es : List Entry), s.flaws = [] → s.hflaws = [] → headMet s e es = headTaken s e es) ∧
  (∀ (s : State) (e : Entry) (es : List Entry) (a : Nat) (x : BundleBits) (u t : State), s.agenda = e :: es → e.what = .issue a → frozenAt s e = none →
    u = modBk (modAg (headMet s e es) a fun g => { g with queued := false }) a (fun b => { b with wait := .none }) →
    mayFetch (headMet s e es) a → fetch u a = .bits x t → step s = exec (.bundleIssue a x) t) ∧
  (∀ (s : State) (a j : Nat), (bk s a).q.scene = none → isOverlay (bk s a).q = true →
    j = (if (bk s a).q.half then 512 else 0) + (bk s a).q.pc.toNat → kget none (bk s a).q.lines (j / 4) = none →
    kget false s.poison (a * 2 ^ 15 + 0x6000 + j) = false →
    ∃ x t, fetch s a = .bits x t ∧ ActsWithin s t a ∧
      ∀ i, i < 64 → x.extractLsb' (8 * i) 8 = readRaw s (a * 2 ^ 21 + 0x180000 + 64 * j + i))

open Sys2Proof Sys2Proof.Machine in
/-- R146, R149, R150, R153: results that fall due land. Free-running results land in their latches in their due cycle, the later trigger's last;
a data-locked result lands in a latch that is not full and sets its full bit, and before a full latch it waits and the socket stops; register
writes that are due land, whatever their unit, but for those behind a socket that has stopped; what is not yet due stays. -/
def Obligations.ResultsLand : Prop :=
  ∀ (a : Nat) (u : Sock) (s : State), s.occ = .unit a u →
    ∃ t, exec .resultLanding s = .next t ∧ { t with agents := s.agents } = s ∧ (∀ b, b ≠ a → ag t b = ag s b) ∧
      ((bk s a).x.flights.filter (fun f => f.u == u && dueBy s.now f.due) = [] → (bk t a).x.flights = (bk s a).x.flights ∧
        (bk t a).x.latches = (bk s a).x.latches ∧ (bk t a).x.stopped = (bk s a).x.stopped) ∧
      (∀ l, (bk s a).x.flights.filter (fun f => f.u == u && dueBy s.now f.due) = l → kget none (bk s a).x.stopped u.id = none →
        (∀ f ∈ l, f.due = some s.now ∧ f.locked = false ∧ f.pre = false) →
        (∀ c, latchOf t a u c = { latchOf s a u c with val := (((l.filter fun f => f.code == c).getLast?).map (·.val)).getD (latchOf s a u c).val }) ∧
        (bk t a).x.flights = (bk s a).x.flights.filter fun f => !(f.u == u && dueBy s.now f.due)) ∧
      (∀ f, (bk s a).x.flights.filter (fun f => f.u == u && dueBy s.now f.due) = [f] → kget none (bk s a).x.stopped u.id = none →
        f.locked = true → f.pre = false →
        if (latchOf s a u f.code).full then
          latchOf t a u f.code = latchOf s a u f.code ∧ f ∈ (bk t a).x.flights ∧ sockHeld t a u = true
        else latchOf t a u f.code = { val := f.val, full := true } ∧ f ∉ (bk t a).x.flights) ∧
      (∀ p ∈ (bk s a).x.pends, ∀ c d, kget none (bk s a).x.stopped p.u.id = some (c, d) → dueBy d p.due = false → p ∈ (bk t a).x.pends) ∧
      (∀ w, (bk s a).x.pends.filter (fun p => dueBy s.now p.due) = w → (bk s a).x.stopped = [] → (∀ f ∈ (bk s a).x.flights, f.u = u → f.locked = false) →
        (bk t a).p = (w.foldl (fun b p => applyWrite b p.w) (bk s a)).p ∧ (bk t a).v = (w.foldl (fun b p => applyWrite b p.w) (bk s a)).v ∧
        (bk t a).m = (w.foldl (fun b p => applyWrite b p.w) (bk s a)).m ∧ (bk t a).x.pends = (bk s a).x.pends.filter fun p => !dueBy s.now p.due) ∧
      (bk t a).g = (bk s a).g ∧ (bk t a).h = (bk s a).h ∧ (bk t a).c = (bk s a).c ∧ (bk t a).q = (bk s a).q ∧
      ((∀ f ∈ (bk s a).x.flights, f.code < 64) → ∀ v c, v ≠ u → c < 64 → latchOf t a v c = latchOf s a v c)

open Sys2Proof Sys2Proof.Machine in
/-- Every step keeps the canonical form of SRAM, HBM and host memory, from any state that has it (the form is the model's own way of holding them). -/
def Obligations.MemoryFormKept : Prop := ∀ s t : State, s.memWf = true → step s = .next t → t.memWf = true

open Sys2Proof Sys2Proof.Machine in
/-- R404, R18, R110, R403, R409: after reset bring-up is complete with no failure; every SRAM and HBM byte is zero, every owner tag 0; the supplies
stand at 550 mV and every ring size at 2^20; no agent runs a step. Memory has its canonical form. -/
def Obligations.ResetStateIsAsStated : Prop :=
  regF State.reset 0x0000 0 0 = 1 ∧ regF State.reset 0x0000 19 16 = 9 ∧ regF State.reset 0x0000 31 24 = 0 ∧
  regF State.reset 0x0008 23 0 = 0x800 ∧
  (∀ d, d < 4 → regF State.reset (0x0140 + 8 * d) 25 16 = 550 ∧ regF State.reset (0x0140 + 8 * d) 9 0 = 550) ∧
  (∀ k, k < 16 → regF State.reset (0x4000 + 0x200 * k + 0x108) 5 0 = 20) ∧
  (∀ x, readByte State.reset x = 0) ∧ (∀ x, hbmByte State.reset x = 0) ∧ (∀ l, kget 0 State.reset.tags l = 0) ∧
  (∀ a, (bk State.reset a).run = none) ∧ State.reset.memWf = true
end

