-- ==== Sys2Proof/Laws/KMap.lean ====
section
/-! SUPPORT. The laws of sparse tables: a read after a write, and the canonical form that every table operation keeps. -/

namespace Sys2Proof.Laws

open Sys2Proof.Machine

variable {α : Type}

/-! ### Reads -/

theorem kget_kerase_same (d : α) (m : KMap α) (k : Nat) : kget d (kerase m k) k = d := by
  induction m with
  | nil => rfl
  | cons e m ih =>
    simp only [kerase]
    split
    · exact ih
    · next h => simp [kget, h, ih]

theorem kget_kerase_ne (d : α) (m : KMap α) {j k : Nat} (h : j ≠ k) : kget d (kerase m k) j = kget d m j := by
  induction m with
  | nil => rfl
  | cons e m ih =>
    simp only [kerase, kget]
    split
    · next hk => rw [ih, if_neg (by omega)]
    · simp only [kget, ih]

theorem kget_kput_same (d : α) (m : KMap α) (k : Nat) (v : α) (h : ∀ e ∈ m, e.1 ≠ k) : kget d (kput m k v) k = v := by
  induction m with
  | nil => simp [kput, kget]
  | cons e m ih =>
    have he : e.1 ≠ k := h e (by simp)
    simp only [kput]
    split
    · simp [kget]
    · simp only [kget]
      rw [if_neg (by omega), ih fun x hx => h x (by simp [hx])]

theorem kget_kput_ne (d : α) (m : KMap α) {j k : Nat} (v : α) (h : j ≠ k) : kget d (kput m k v) j = kget d m j := by
  induction m with
  | nil => simp [kput, kget, h]
  | cons e m ih =>
    simp only [kput]
    split
    · simp [kget, h]
    · simp only [kget, ih]

theorem kerase_keys (m : KMap α) (k : Nat) : ∀ e ∈ kerase m k, e.1 ≠ k ∧ e ∈ m := by
  induction m with
  | nil => simp [kerase]
  | cons x m ih =>
    intro e he
    simp only [kerase] at he
    split at he
    · have := ih e he
      exact ⟨this.1, by simp [this.2]⟩
    · rcases List.mem_cons.1 he with rfl | he
      · exact ⟨by omega, by simp⟩
      · have := ih e he
        exact ⟨this.1, by simp [this.2]⟩

/-- A read of the key just written gives the value. -/
@[simp] theorem kget_kset_same [DecidableEq α] (d : α) (m : KMap α) (k : Nat) (v : α) : kget d (kset d m k v) k = v := by
  simp only [kset]
  split
  · next h => rw [kget_kerase_same, h]
  · exact kget_kput_same d _ k v fun e he => (kerase_keys m k e he).1

/-- A read of another key is unchanged. -/
theorem kget_kset_ne [DecidableEq α] (d : α) (m : KMap α) {j k : Nat} (v : α) (h : j ≠ k) : kget d (kset d m k v) j = kget d m j := by
  simp only [kset]
  split
  · exact kget_kerase_ne d m h
  · rw [kget_kput_ne d _ v h, kget_kerase_ne d m h]

/-- A read after a write. -/
theorem kget_kset [DecidableEq α] (d : α) (m : KMap α) (j k : Nat) (v : α) :
    kget d (kset d m k v) j = if j = k then v else kget d m j := by
  split
  · next h => rw [h, kget_kset_same]
  · next h => exact kget_kset_ne d m v h

@[simp] theorem kget_kmod_same [DecidableEq α] (d : α) (m : KMap α) (k : Nat) (f : α → α) :
    kget d (kmod d m k f) k = f (kget d m k) := kget_kset_same d m k _

theorem kget_kmod_ne [DecidableEq α] (d : α) (m : KMap α) {j k : Nat} (f : α → α) (h : j ≠ k) :
    kget d (kmod d m k f) j = kget d m j := kget_kset_ne d m _ h

/-! ### The canonical form -/

/-- Keys at least `lo`, strictly rising, and no default value listed. -/
theorem kwfFrom_iff [DecidableEq α] (d : α) (lo : Nat) (m : KMap α) :
    kwfFrom d lo m = true ↔ m.Pairwise (fun a b => a.1 < b.1) ∧ (∀ e ∈ m, lo ≤ e.1) ∧ ∀ e ∈ m, e.2 ≠ d := by
  induction m generalizing lo with
  | nil => simp [kwfFrom]
  | cons e m ih =>
    simp only [kwfFrom, Bool.and_eq_true, decide_eq_true_eq, ih, List.pairwise_cons, List.mem_cons, forall_eq_or_imp]
    constructor
    · rintro ⟨⟨h1, h2⟩, h3, h4, h5⟩
      exact ⟨⟨fun x hx => h4 x hx, h3⟩, ⟨h1, fun x hx => by have := h4 x hx; omega⟩, h2, h5⟩
    · rintro ⟨⟨h1, h2⟩, ⟨h3, _⟩, h5, h6⟩
      exact ⟨⟨h3, h5⟩, h2, fun x hx => h1 x hx, h6⟩

theorem kwf_iff [DecidableEq α] (d : α) (m : KMap α) :
    kwf d m = true ↔ m.Pairwise (fun a b => a.1 < b.1) ∧ ∀ e ∈ m, e.2 ≠ d := by
  simp [kwf, kwfFrom_iff]

@[simp] theorem kwf_nil [DecidableEq α] (d : α) : kwf d ([] : KMap α) = true := rfl

theorem kerase_sublist (m : KMap α) (k : Nat) : (kerase m k).Sublist m := by
  induction m with
  | nil => exact .slnil
  | cons e m ih =>
    simp only [kerase]
    split
    · exact ih.cons e
    · exact ih.cons_cons e

theorem kput_mem (m : KMap α) (k : Nat) (v : α) : ∀ e ∈ kput m k v, e = (k, v) ∨ e ∈ m := by
  induction m with
  | nil => simp [kput]
  | cons x m ih =>
    intro e he
    simp only [kput] at he
    split at he
    · simpa using he
    · rcases List.mem_cons.1 he with rfl | he
      · simp
      · rcases ih e he with h | h <;> simp [h]

theorem kput_pairwise (m : KMap α) (k : Nat) (v : α) (h : m.Pairwise (fun a b => a.1 < b.1)) (hk : ∀ e ∈ m, e.1 ≠ k) :
    (kput m k v).Pairwise (fun a b => a.1 < b.1) := by
  induction m with
  | nil => simp [kput]
  | cons x m ih =>
    rw [List.pairwise_cons] at h
    simp only [kput]
    split
    · next hlt =>
      refine List.pairwise_cons.2 ⟨fun e he => ?_, List.pairwise_cons.2 h⟩
      rcases List.mem_cons.1 he with rfl | he
      · exact hlt
      · have h1 : x.1 < e.1 := h.1 e he
        have h2 : k < x.1 := hlt
        exact Nat.lt_trans h2 h1
    · next hlt =>
      have hx : x.1 ≠ k := hk x (by simp)
      refine List.pairwise_cons.2 ⟨fun e he => ?_, ih h.2 fun e he => hk e (by simp [he])⟩
      rcases kput_mem m k v e he with rfl | he
      · have h2 : ¬ k < x.1 := hlt
        show x.1 < k
        omega
      · exact h.1 e he

/-- Writing a key keeps the canonical form. -/
theorem kwf_kset [DecidableEq α] (d : α) (m : KMap α) (k : Nat) (v : α) (h : kwf d m = true) : kwf d (kset d m k v) = true := by
  rw [kwf_iff] at h ⊢
  have he : (kerase m k).Pairwise (fun a b => a.1 < b.1) := h.1.sublist (kerase_sublist m k)
  have hd : ∀ e ∈ kerase m k, e.2 ≠ d := fun e x => h.2 e (kerase_keys m k e x).2
  simp only [kset]
  split
  · exact ⟨he, hd⟩
  · next hv =>
    refine ⟨kput_pairwise _ k v he fun e x => (kerase_keys m k e x).1, fun e x => ?_⟩
    rcases kput_mem _ k v e x with rfl | x
    · exact hv
    · exact hd e x

theorem kwf_kmod [DecidableEq α] (d : α) (m : KMap α) (k : Nat) (f : α → α) (h : kwf d m = true) : kwf d (kmod d m k f) = true :=
  kwf_kset d m k _ h

/-- A filtered table keeps the canonical form. -/
theorem kwf_filter [DecidableEq α] (d : α) (m : KMap α) (p : Nat × α → Bool) (h : kwf d m = true) : kwf d (m.filter p) = true := by
  rw [kwf_iff] at h ⊢
  exact ⟨h.1.sublist List.filter_sublist, fun e he => h.2 e (List.mem_filter.1 he).1⟩

/-- A slice keeps the canonical form. -/
theorem kwf_kslice [DecidableEq α] (d : α) (m : KMap α) (lo n : Nat) (h : kwf d m = true) : kwf d (kslice m lo n) = true := by
  have hf := kwf_filter d m (fun e => decide (lo ≤ e.1) && decide (e.1 < lo + n)) h
  rw [kwf_iff] at hf ⊢
  refine ⟨?_, ?_⟩
  · simp only [kslice, List.pairwise_map]
    refine hf.1.imp_of_mem fun {a b} ha _ hab => ?_
    have := (List.mem_filter.1 ha).2
    simp only [Bool.and_eq_true, decide_eq_true_eq] at this
    show a.1 - lo < b.1 - lo
    omega
  · simp only [kslice, List.mem_map]
    rintro e ⟨x, hx, rfl⟩
    exact hf.2 x hx

/-- A paste of a canonical slice keeps the canonical form. -/
theorem kwf_kpaste [DecidableEq α] (d : α) (m : KMap α) (lo n : Nat) (sl : KMap α) (h : kwf d m = true) (hs : kwf d sl = true) :
    kwf d (kpaste m lo n sl) = true := by
  have h1 := kwf_filter d m (fun e => decide (e.1 < lo)) h
  have h2 := kwf_filter d sl (fun e => decide (e.1 < n)) hs
  have h3 := kwf_filter d m (fun e => decide (lo + n ≤ e.1)) h
  rw [kwf_iff] at h1 h2 h3 ⊢
  refine ⟨?_, ?_⟩
  · simp only [kpaste, List.pairwise_append, List.pairwise_map]
    refine ⟨⟨h1.1, h2.1.imp fun hab => by simpa using hab, fun a ha b hb => ?_⟩, h3.1, fun a ha b hb => ?_⟩
    · rcases List.mem_map.1 hb with ⟨x, _, rfl⟩
      have := (List.mem_filter.1 ha).2
      simp only [decide_eq_true_eq] at this
      show a.1 < x.1 + lo
      omega
    · have hb' := (List.mem_filter.1 hb).2
      simp only [decide_eq_true_eq] at hb'
      rcases List.mem_append.1 ha with ha | ha
      · have := (List.mem_filter.1 ha).2
        simp only [decide_eq_true_eq] at this
        omega
      · rcases List.mem_map.1 ha with ⟨x, hx, rfl⟩
        have := (List.mem_filter.1 hx).2
        simp only [decide_eq_true_eq] at this
        show x.1 + lo < b.1
        omega
  · simp only [kpaste, List.mem_append, List.mem_map]
    rintro e ((he | ⟨x, hx, rfl⟩) | he)
    · exact h1.2 e he
    · exact h2.2 x hx
    · exact h3.2 e he

end Sys2Proof.Laws
end

