-- ==== Sys2Proof/Laws/State.lean ====
section
/-! SUPPORT. The fields of the state after each basic update, and the agents and banks after an agent's update. -/

namespace Sys2Proof.Laws

open Sys2Proof.Machine

/-! ### Derived updates -/

theorem sched_eq (s : State) (t p : Nat) (i : Instr) (o : Occ) : sched s t p i o = addEntry s ⟨t, p, .ev i o⟩ := rfl
theorem modAg_eq (s : State) (a : Nat) (f : Agent → Agent) : modAg s a f = setAg s a (f (ag s a)) := rfl
theorem modBk_eq (s : State) (a : Nat) (f : Bank → Bank) : modBk s a f = modAg s a fun x => { x with front := f x.front } := rfl

/-! ### `addEntry` -/

@[simp] theorem addEntry_now (s : State) (e : Entry) : (addEntry s e).now = s.now := rfl
@[simp] theorem addEntry_gtAdj (s : State) (e : Entry) : (addEntry s e).gtAdj = s.gtAdj := rfl
@[simp] theorem addEntry_occ (s : State) (e : Entry) : (addEntry s e).occ = s.occ := rfl
@[simp] theorem addEntry_cur (s : State) (e : Entry) : (addEntry s e).cur = s.cur := rfl
@[simp] theorem addEntry_free (s : State) (e : Entry) : (addEntry s e).free = s.free := rfl
@[simp] theorem addEntry_seq (s : State) (e : Entry) : (addEntry s e).seq = s.seq := rfl
@[simp] theorem addEntry_sram (s : State) (e : Entry) : (addEntry s e).sram = s.sram := rfl
@[simp] theorem addEntry_hbm (s : State) (e : Entry) : (addEntry s e).hbm = s.hbm := rfl
@[simp] theorem addEntry_host (s : State) (e : Entry) : (addEntry s e).host = s.host := rfl
@[simp] theorem addEntry_tags (s : State) (e : Entry) : (addEntry s e).tags = s.tags := rfl
@[simp] theorem addEntry_poison (s : State) (e : Entry) : (addEntry s e).poison = s.poison := rfl
@[simp] theorem addEntry_hpoison (s : State) (e : Entry) : (addEntry s e).hpoison = s.hpoison := rfl
@[simp] theorem addEntry_agents (s : State) (e : Entry) : (addEntry s e).agents = s.agents := rfl
@[simp] theorem addEntry_homes (s : State) (e : Entry) : (addEntry s e).homes = s.homes := rfl
@[simp] theorem addEntry_cal (s : State) (e : Entry) : (addEntry s e).cal = s.cal := rfl
@[simp] theorem addEntry_pairs (s : State) (e : Entry) : (addEntry s e).pairs = s.pairs := rfl
@[simp] theorem addEntry_steps (s : State) (e : Entry) : (addEntry s e).steps = s.steps := rfl
@[simp] theorem addEntry_queues (s : State) (e : Entry) : (addEntry s e).queues = s.queues := rfl
@[simp] theorem addEntry_launches (s : State) (e : Entry) : (addEntry s e).launches = s.launches := rfl
@[simp] theorem addEntry_owners (s : State) (e : Entry) : (addEntry s e).owners = s.owners := rfl
@[simp] theorem addEntry_nextPos (s : State) (e : Entry) : (addEntry s e).nextPos = s.nextPos := rfl
@[simp] theorem addEntry_lastQueue (s : State) (e : Entry) : (addEntry s e).lastQueue = s.lastQueue := rfl
@[simp] theorem addEntry_regs (s : State) (e : Entry) : (addEntry s e).regs = s.regs := rfl
@[simp] theorem addEntry_errLost (s : State) (e : Entry) : (addEntry s e).errLost = s.errLost := rfl
@[simp] theorem addEntry_books (s : State) (e : Entry) : (addEntry s e).books = s.books := rfl
@[simp] theorem addEntry_tlbs (s : State) (e : Entry) : (addEntry s e).tlbs = s.tlbs := rfl
@[simp] theorem addEntry_keys (s : State) (e : Entry) : (addEntry s e).keys = s.keys := rfl
@[simp] theorem addEntry_keyData (s : State) (e : Entry) : (addEntry s e).keyData = s.keyData := rfl
@[simp] theorem addEntry_hpairs (s : State) (e : Entry) : (addEntry s e).hpairs = s.hpairs := rfl
@[simp] theorem addEntry_hbmUses (s : State) (e : Entry) : (addEntry s e).hbmUses = s.hbmUses := rfl
@[simp] theorem addEntry_cces (s : State) (e : Entry) : (addEntry s e).cces = s.cces := rfl
@[simp] theorem addEntry_upcalls (s : State) (e : Entry) : (addEntry s e).upcalls = s.upcalls := rfl
@[simp] theorem addEntry_switch (s : State) (e : Entry) : (addEntry s e).switch = s.switch := rfl
@[simp] theorem addEntry_mx (s : State) (e : Entry) : (addEntry s e).mx = s.mx := rfl
@[simp] theorem addEntry_routers (s : State) (e : Entry) : (addEntry s e).routers = s.routers := rfl
@[simp] theorem addEntry_deadCredits (s : State) (e : Entry) : (addEntry s e).deadCredits = s.deadCredits := rfl
@[simp] theorem addEntry_banks (s : State) (e : Entry) : (addEntry s e).banks = s.banks := rfl
@[simp] theorem addEntry_voids (s : State) (e : Entry) : (addEntry s e).voids = s.voids := rfl
@[simp] theorem addEntry_savedTiles (s : State) (e : Entry) : (addEntry s e).savedTiles = s.savedTiles := rfl
@[simp] theorem addEntry_savedClusters (s : State) (e : Entry) : (addEntry s e).savedClusters = s.savedClusters := rfl
@[simp] theorem addEntry_savedDocks (s : State) (e : Entry) : (addEntry s e).savedDocks = s.savedDocks := rfl
@[simp] theorem addEntry_ctxWork (s : State) (e : Entry) : (addEntry s e).ctxWork = s.ctxWork := rfl
@[simp] theorem addEntry_ctxLeft (s : State) (e : Entry) : (addEntry s e).ctxLeft = s.ctxLeft := rfl
@[simp] theorem addEntry_ctxMap (s : State) (e : Entry) : (addEntry s e).ctxMap = s.ctxMap := rfl
@[simp] theorem addEntry_ctxHeld (s : State) (e : Entry) : (addEntry s e).ctxHeld = s.ctxHeld := rfl
@[simp] theorem addEntry_ctxInv (s : State) (e : Entry) : (addEntry s e).ctxInv = s.ctxInv := rfl
@[simp] theorem addEntry_routersOff (s : State) (e : Entry) : (addEntry s e).routersOff = s.routersOff := rfl
@[simp] theorem addEntry_timersOff (s : State) (e : Entry) : (addEntry s e).timersOff = s.timersOff := rfl
@[simp] theorem addEntry_heldTrees (s : State) (e : Entry) : (addEntry s e).heldTrees = s.heldTrees := rfl
@[simp] theorem addEntry_frozen (s : State) (e : Entry) : (addEntry s e).frozen = s.frozen := rfl
@[simp] theorem addEntry_codeLeft (s : State) (e : Entry) : (addEntry s e).codeLeft = s.codeLeft := rfl
@[simp] theorem addEntry_smpChain (s : State) (e : Entry) : (addEntry s e).smpChain = s.smpChain := rfl
@[simp] theorem addEntry_smpSeq (s : State) (e : Entry) : (addEntry s e).smpSeq = s.smpSeq := rfl
@[simp] theorem addEntry_smpLost (s : State) (e : Entry) : (addEntry s e).smpLost = s.smpLost := rfl
@[simp] theorem addEntry_eccLast (s : State) (e : Entry) : (addEntry s e).eccLast = s.eccLast := rfl
@[simp] theorem addEntry_scrubAt (s : State) (e : Entry) : (addEntry s e).scrubAt = s.scrubAt := rfl
@[simp] theorem addEntry_flaws (s : State) (e : Entry) : (addEntry s e).flaws = s.flaws := rfl
@[simp] theorem addEntry_hflaws (s : State) (e : Entry) : (addEntry s e).hflaws = s.hflaws := rfl
@[simp] theorem addEntry_scrubRounds (s : State) (e : Entry) : (addEntry s e).scrubRounds = s.scrubRounds := rfl
@[simp] theorem addEntry_hscrubRounds (s : State) (e : Entry) : (addEntry s e).hscrubRounds = s.hscrubRounds := rfl
@[simp] theorem addEntry_powered (s : State) (e : Entry) : (addEntry s e).powered = s.powered := rfl
@[simp] theorem addEntry_powerCycle (s : State) (e : Entry) : (addEntry s e).powerCycle = s.powerCycle := rfl
@[simp] theorem addEntry_thermtrip (s : State) (e : Entry) : (addEntry s e).thermtrip = s.thermtrip := rfl
@[simp] theorem addEntry_hostLines (s : State) (e : Entry) : (addEntry s e).hostLines = s.hostLines := rfl
@[simp] theorem addEntry_readData (s : State) (e : Entry) : (addEntry s e).readData = s.readData := rfl
@[simp] theorem addEntry_beats (s : State) (e : Entry) : (addEntry s e).beats = s.beats := rfl
@[simp] theorem addEntry_parentDown (s : State) (e : Entry) : (addEntry s e).parentDown = s.parentDown := rfl
@[simp] theorem addEntry_attBusy (s : State) (e : Entry) : (addEntry s e).attBusy = s.attBusy := rfl
@[simp] theorem addEntry_paths (s : State) (e : Entry) : (addEntry s e).paths = s.paths := rfl

/-! ### `draw` -/

@[simp] theorem draw_now (s : State) : ((draw s).2).now = s.now := rfl
@[simp] theorem draw_gtAdj (s : State) : ((draw s).2).gtAdj = s.gtAdj := rfl
@[simp] theorem draw_agenda (s : State) : ((draw s).2).agenda = s.agenda := rfl
@[simp] theorem draw_occ (s : State) : ((draw s).2).occ = s.occ := rfl
@[simp] theorem draw_cur (s : State) : ((draw s).2).cur = s.cur := rfl
@[simp] theorem draw_seq (s : State) : ((draw s).2).seq = s.seq := rfl
@[simp] theorem draw_sram (s : State) : ((draw s).2).sram = s.sram := rfl
@[simp] theorem draw_hbm (s : State) : ((draw s).2).hbm = s.hbm := rfl
@[simp] theorem draw_host (s : State) : ((draw s).2).host = s.host := rfl
@[simp] theorem draw_tags (s : State) : ((draw s).2).tags = s.tags := rfl
@[simp] theorem draw_poison (s : State) : ((draw s).2).poison = s.poison := rfl
@[simp] theorem draw_hpoison (s : State) : ((draw s).2).hpoison = s.hpoison := rfl
@[simp] theorem draw_agents (s : State) : ((draw s).2).agents = s.agents := rfl
@[simp] theorem draw_homes (s : State) : ((draw s).2).homes = s.homes := rfl
@[simp] theorem draw_cal (s : State) : ((draw s).2).cal = s.cal := rfl
@[simp] theorem draw_pairs (s : State) : ((draw s).2).pairs = s.pairs := rfl
@[simp] theorem draw_steps (s : State) : ((draw s).2).steps = s.steps := rfl
@[simp] theorem draw_queues (s : State) : ((draw s).2).queues = s.queues := rfl
@[simp] theorem draw_launches (s : State) : ((draw s).2).launches = s.launches := rfl
@[simp] theorem draw_owners (s : State) : ((draw s).2).owners = s.owners := rfl
@[simp] theorem draw_nextPos (s : State) : ((draw s).2).nextPos = s.nextPos := rfl
@[simp] theorem draw_lastQueue (s : State) : ((draw s).2).lastQueue = s.lastQueue := rfl
@[simp] theorem draw_regs (s : State) : ((draw s).2).regs = s.regs := rfl
@[simp] theorem draw_errLost (s : State) : ((draw s).2).errLost = s.errLost := rfl
@[simp] theorem draw_books (s : State) : ((draw s).2).books = s.books := rfl
@[simp] theorem draw_tlbs (s : State) : ((draw s).2).tlbs = s.tlbs := rfl
@[simp] theorem draw_keys (s : State) : ((draw s).2).keys = s.keys := rfl
@[simp] theorem draw_keyData (s : State) : ((draw s).2).keyData = s.keyData := rfl
@[simp] theorem draw_hpairs (s : State) : ((draw s).2).hpairs = s.hpairs := rfl
@[simp] theorem draw_hbmUses (s : State) : ((draw s).2).hbmUses = s.hbmUses := rfl
@[simp] theorem draw_cces (s : State) : ((draw s).2).cces = s.cces := rfl
@[simp] theorem draw_upcalls (s : State) : ((draw s).2).upcalls = s.upcalls := rfl
@[simp] theorem draw_switch (s : State) : ((draw s).2).switch = s.switch := rfl
@[simp] theorem draw_mx (s : State) : ((draw s).2).mx = s.mx := rfl
@[simp] theorem draw_routers (s : State) : ((draw s).2).routers = s.routers := rfl
@[simp] theorem draw_deadCredits (s : State) : ((draw s).2).deadCredits = s.deadCredits := rfl
@[simp] theorem draw_banks (s : State) : ((draw s).2).banks = s.banks := rfl
@[simp] theorem draw_voids (s : State) : ((draw s).2).voids = s.voids := rfl
@[simp] theorem draw_savedTiles (s : State) : ((draw s).2).savedTiles = s.savedTiles := rfl
@[simp] theorem draw_savedClusters (s : State) : ((draw s).2).savedClusters = s.savedClusters := rfl
@[simp] theorem draw_savedDocks (s : State) : ((draw s).2).savedDocks = s.savedDocks := rfl
@[simp] theorem draw_ctxWork (s : State) : ((draw s).2).ctxWork = s.ctxWork := rfl
@[simp] theorem draw_ctxLeft (s : State) : ((draw s).2).ctxLeft = s.ctxLeft := rfl
@[simp] theorem draw_ctxMap (s : State) : ((draw s).2).ctxMap = s.ctxMap := rfl
@[simp] theorem draw_ctxHeld (s : State) : ((draw s).2).ctxHeld = s.ctxHeld := rfl
@[simp] theorem draw_ctxInv (s : State) : ((draw s).2).ctxInv = s.ctxInv := rfl
@[simp] theorem draw_routersOff (s : State) : ((draw s).2).routersOff = s.routersOff := rfl
@[simp] theorem draw_timersOff (s : State) : ((draw s).2).timersOff = s.timersOff := rfl
@[simp] theorem draw_heldTrees (s : State) : ((draw s).2).heldTrees = s.heldTrees := rfl
@[simp] theorem draw_frozen (s : State) : ((draw s).2).frozen = s.frozen := rfl
@[simp] theorem draw_codeLeft (s : State) : ((draw s).2).codeLeft = s.codeLeft := rfl
@[simp] theorem draw_smpChain (s : State) : ((draw s).2).smpChain = s.smpChain := rfl
@[simp] theorem draw_smpSeq (s : State) : ((draw s).2).smpSeq = s.smpSeq := rfl
@[simp] theorem draw_smpLost (s : State) : ((draw s).2).smpLost = s.smpLost := rfl
@[simp] theorem draw_eccLast (s : State) : ((draw s).2).eccLast = s.eccLast := rfl
@[simp] theorem draw_scrubAt (s : State) : ((draw s).2).scrubAt = s.scrubAt := rfl
@[simp] theorem draw_flaws (s : State) : ((draw s).2).flaws = s.flaws := rfl
@[simp] theorem draw_hflaws (s : State) : ((draw s).2).hflaws = s.hflaws := rfl
@[simp] theorem draw_scrubRounds (s : State) : ((draw s).2).scrubRounds = s.scrubRounds := rfl
@[simp] theorem draw_hscrubRounds (s : State) : ((draw s).2).hscrubRounds = s.hscrubRounds := rfl
@[simp] theorem draw_powered (s : State) : ((draw s).2).powered = s.powered := rfl
@[simp] theorem draw_powerCycle (s : State) : ((draw s).2).powerCycle = s.powerCycle := rfl
@[simp] theorem draw_thermtrip (s : State) : ((draw s).2).thermtrip = s.thermtrip := rfl
@[simp] theorem draw_hostLines (s : State) : ((draw s).2).hostLines = s.hostLines := rfl
@[simp] theorem draw_readData (s : State) : ((draw s).2).readData = s.readData := rfl
@[simp] theorem draw_beats (s : State) : ((draw s).2).beats = s.beats := rfl
@[simp] theorem draw_parentDown (s : State) : ((draw s).2).parentDown = s.parentDown := rfl
@[simp] theorem draw_attBusy (s : State) : ((draw s).2).attBusy = s.attBusy := rfl
@[simp] theorem draw_paths (s : State) : ((draw s).2).paths = s.paths := rfl

/-! ### `newId` -/

@[simp] theorem newId_now (s : State) : ((newId s).2).now = s.now := rfl
@[simp] theorem newId_gtAdj (s : State) : ((newId s).2).gtAdj = s.gtAdj := rfl
@[simp] theorem newId_agenda (s : State) : ((newId s).2).agenda = s.agenda := rfl
@[simp] theorem newId_occ (s : State) : ((newId s).2).occ = s.occ := rfl
@[simp] theorem newId_cur (s : State) : ((newId s).2).cur = s.cur := rfl
@[simp] theorem newId_free (s : State) : ((newId s).2).free = s.free := rfl
@[simp] theorem newId_sram (s : State) : ((newId s).2).sram = s.sram := rfl
@[simp] theorem newId_hbm (s : State) : ((newId s).2).hbm = s.hbm := rfl
@[simp] theorem newId_host (s : State) : ((newId s).2).host = s.host := rfl
@[simp] theorem newId_tags (s : State) : ((newId s).2).tags = s.tags := rfl
@[simp] theorem newId_poison (s : State) : ((newId s).2).poison = s.poison := rfl
@[simp] theorem newId_hpoison (s : State) : ((newId s).2).hpoison = s.hpoison := rfl
@[simp] theorem newId_agents (s : State) : ((newId s).2).agents = s.agents := rfl
@[simp] theorem newId_homes (s : State) : ((newId s).2).homes = s.homes := rfl
@[simp] theorem newId_cal (s : State) : ((newId s).2).cal = s.cal := rfl
@[simp] theorem newId_pairs (s : State) : ((newId s).2).pairs = s.pairs := rfl
@[simp] theorem newId_steps (s : State) : ((newId s).2).steps = s.steps := rfl
@[simp] theorem newId_queues (s : State) : ((newId s).2).queues = s.queues := rfl
@[simp] theorem newId_launches (s : State) : ((newId s).2).launches = s.launches := rfl
@[simp] theorem newId_owners (s : State) : ((newId s).2).owners = s.owners := rfl
@[simp] theorem newId_nextPos (s : State) : ((newId s).2).nextPos = s.nextPos := rfl
@[simp] theorem newId_lastQueue (s : State) : ((newId s).2).lastQueue = s.lastQueue := rfl
@[simp] theorem newId_regs (s : State) : ((newId s).2).regs = s.regs := rfl
@[simp] theorem newId_errLost (s : State) : ((newId s).2).errLost = s.errLost := rfl
@[simp] theorem newId_books (s : State) : ((newId s).2).books = s.books := rfl
@[simp] theorem newId_tlbs (s : State) : ((newId s).2).tlbs = s.tlbs := rfl
@[simp] theorem newId_keys (s : State) : ((newId s).2).keys = s.keys := rfl
@[simp] theorem newId_keyData (s : State) : ((newId s).2).keyData = s.keyData := rfl
@[simp] theorem newId_hpairs (s : State) : ((newId s).2).hpairs = s.hpairs := rfl
@[simp] theorem newId_hbmUses (s : State) : ((newId s).2).hbmUses = s.hbmUses := rfl
@[simp] theorem newId_cces (s : State) : ((newId s).2).cces = s.cces := rfl
@[simp] theorem newId_upcalls (s : State) : ((newId s).2).upcalls = s.upcalls := rfl
@[simp] theorem newId_switch (s : State) : ((newId s).2).switch = s.switch := rfl
@[simp] theorem newId_mx (s : State) : ((newId s).2).mx = s.mx := rfl
@[simp] theorem newId_routers (s : State) : ((newId s).2).routers = s.routers := rfl
@[simp] theorem newId_deadCredits (s : State) : ((newId s).2).deadCredits = s.deadCredits := rfl
@[simp] theorem newId_banks (s : State) : ((newId s).2).banks = s.banks := rfl
@[simp] theorem newId_voids (s : State) : ((newId s).2).voids = s.voids := rfl
@[simp] theorem newId_savedTiles (s : State) : ((newId s).2).savedTiles = s.savedTiles := rfl
@[simp] theorem newId_savedClusters (s : State) : ((newId s).2).savedClusters = s.savedClusters := rfl
@[simp] theorem newId_savedDocks (s : State) : ((newId s).2).savedDocks = s.savedDocks := rfl
@[simp] theorem newId_ctxWork (s : State) : ((newId s).2).ctxWork = s.ctxWork := rfl
@[simp] theorem newId_ctxLeft (s : State) : ((newId s).2).ctxLeft = s.ctxLeft := rfl
@[simp] theorem newId_ctxMap (s : State) : ((newId s).2).ctxMap = s.ctxMap := rfl
@[simp] theorem newId_ctxHeld (s : State) : ((newId s).2).ctxHeld = s.ctxHeld := rfl
@[simp] theorem newId_ctxInv (s : State) : ((newId s).2).ctxInv = s.ctxInv := rfl
@[simp] theorem newId_routersOff (s : State) : ((newId s).2).routersOff = s.routersOff := rfl
@[simp] theorem newId_timersOff (s : State) : ((newId s).2).timersOff = s.timersOff := rfl
@[simp] theorem newId_heldTrees (s : State) : ((newId s).2).heldTrees = s.heldTrees := rfl
@[simp] theorem newId_frozen (s : State) : ((newId s).2).frozen = s.frozen := rfl
@[simp] theorem newId_codeLeft (s : State) : ((newId s).2).codeLeft = s.codeLeft := rfl
@[simp] theorem newId_smpChain (s : State) : ((newId s).2).smpChain = s.smpChain := rfl
@[simp] theorem newId_smpSeq (s : State) : ((newId s).2).smpSeq = s.smpSeq := rfl
@[simp] theorem newId_smpLost (s : State) : ((newId s).2).smpLost = s.smpLost := rfl
@[simp] theorem newId_eccLast (s : State) : ((newId s).2).eccLast = s.eccLast := rfl
@[simp] theorem newId_scrubAt (s : State) : ((newId s).2).scrubAt = s.scrubAt := rfl
@[simp] theorem newId_flaws (s : State) : ((newId s).2).flaws = s.flaws := rfl
@[simp] theorem newId_hflaws (s : State) : ((newId s).2).hflaws = s.hflaws := rfl
@[simp] theorem newId_scrubRounds (s : State) : ((newId s).2).scrubRounds = s.scrubRounds := rfl
@[simp] theorem newId_hscrubRounds (s : State) : ((newId s).2).hscrubRounds = s.hscrubRounds := rfl
@[simp] theorem newId_powered (s : State) : ((newId s).2).powered = s.powered := rfl
@[simp] theorem newId_powerCycle (s : State) : ((newId s).2).powerCycle = s.powerCycle := rfl
@[simp] theorem newId_thermtrip (s : State) : ((newId s).2).thermtrip = s.thermtrip := rfl
@[simp] theorem newId_hostLines (s : State) : ((newId s).2).hostLines = s.hostLines := rfl
@[simp] theorem newId_readData (s : State) : ((newId s).2).readData = s.readData := rfl
@[simp] theorem newId_beats (s : State) : ((newId s).2).beats = s.beats := rfl
@[simp] theorem newId_parentDown (s : State) : ((newId s).2).parentDown = s.parentDown := rfl
@[simp] theorem newId_attBusy (s : State) : ((newId s).2).attBusy = s.attBusy := rfl
@[simp] theorem newId_paths (s : State) : ((newId s).2).paths = s.paths := rfl

/-! ### `freeDelay` -/

@[simp] theorem freeDelay_now (s : State) : ((freeDelay s).2).now = s.now := rfl
@[simp] theorem freeDelay_gtAdj (s : State) : ((freeDelay s).2).gtAdj = s.gtAdj := rfl
@[simp] theorem freeDelay_agenda (s : State) : ((freeDelay s).2).agenda = s.agenda := rfl
@[simp] theorem freeDelay_occ (s : State) : ((freeDelay s).2).occ = s.occ := rfl
@[simp] theorem freeDelay_cur (s : State) : ((freeDelay s).2).cur = s.cur := rfl
@[simp] theorem freeDelay_seq (s : State) : ((freeDelay s).2).seq = s.seq := rfl
@[simp] theorem freeDelay_sram (s : State) : ((freeDelay s).2).sram = s.sram := rfl
@[simp] theorem freeDelay_hbm (s : State) : ((freeDelay s).2).hbm = s.hbm := rfl
@[simp] theorem freeDelay_host (s : State) : ((freeDelay s).2).host = s.host := rfl
@[simp] theorem freeDelay_tags (s : State) : ((freeDelay s).2).tags = s.tags := rfl
@[simp] theorem freeDelay_poison (s : State) : ((freeDelay s).2).poison = s.poison := rfl
@[simp] theorem freeDelay_hpoison (s : State) : ((freeDelay s).2).hpoison = s.hpoison := rfl
@[simp] theorem freeDelay_agents (s : State) : ((freeDelay s).2).agents = s.agents := rfl
@[simp] theorem freeDelay_homes (s : State) : ((freeDelay s).2).homes = s.homes := rfl
@[simp] theorem freeDelay_cal (s : State) : ((freeDelay s).2).cal = s.cal := rfl
@[simp] theorem freeDelay_pairs (s : State) : ((freeDelay s).2).pairs = s.pairs := rfl
@[simp] theorem freeDelay_steps (s : State) : ((freeDelay s).2).steps = s.steps := rfl
@[simp] theorem freeDelay_queues (s : State) : ((freeDelay s).2).queues = s.queues := rfl
@[simp] theorem freeDelay_launches (s : State) : ((freeDelay s).2).launches = s.launches := rfl
@[simp] theorem freeDelay_owners (s : State) : ((freeDelay s).2).owners = s.owners := rfl
@[simp] theorem freeDelay_nextPos (s : State) : ((freeDelay s).2).nextPos = s.nextPos := rfl
@[simp] theorem freeDelay_lastQueue (s : State) : ((freeDelay s).2).lastQueue = s.lastQueue := rfl
@[simp] theorem freeDelay_regs (s : State) : ((freeDelay s).2).regs = s.regs := rfl
@[simp] theorem freeDelay_errLost (s : State) : ((freeDelay s).2).errLost = s.errLost := rfl
@[simp] theorem freeDelay_books (s : State) : ((freeDelay s).2).books = s.books := rfl
@[simp] theorem freeDelay_tlbs (s : State) : ((freeDelay s).2).tlbs = s.tlbs := rfl
@[simp] theorem freeDelay_keys (s : State) : ((freeDelay s).2).keys = s.keys := rfl
@[simp] theorem freeDelay_keyData (s : State) : ((freeDelay s).2).keyData = s.keyData := rfl
@[simp] theorem freeDelay_hpairs (s : State) : ((freeDelay s).2).hpairs = s.hpairs := rfl
@[simp] theorem freeDelay_hbmUses (s : State) : ((freeDelay s).2).hbmUses = s.hbmUses := rfl
@[simp] theorem freeDelay_cces (s : State) : ((freeDelay s).2).cces = s.cces := rfl
@[simp] theorem freeDelay_upcalls (s : State) : ((freeDelay s).2).upcalls = s.upcalls := rfl
@[simp] theorem freeDelay_switch (s : State) : ((freeDelay s).2).switch = s.switch := rfl
@[simp] theorem freeDelay_mx (s : State) : ((freeDelay s).2).mx = s.mx := rfl
@[simp] theorem freeDelay_routers (s : State) : ((freeDelay s).2).routers = s.routers := rfl
@[simp] theorem freeDelay_deadCredits (s : State) : ((freeDelay s).2).deadCredits = s.deadCredits := rfl
@[simp] theorem freeDelay_banks (s : State) : ((freeDelay s).2).banks = s.banks := rfl
@[simp] theorem freeDelay_voids (s : State) : ((freeDelay s).2).voids = s.voids := rfl
@[simp] theorem freeDelay_savedTiles (s : State) : ((freeDelay s).2).savedTiles = s.savedTiles := rfl
@[simp] theorem freeDelay_savedClusters (s : State) : ((freeDelay s).2).savedClusters = s.savedClusters := rfl
@[simp] theorem freeDelay_savedDocks (s : State) : ((freeDelay s).2).savedDocks = s.savedDocks := rfl
@[simp] theorem freeDelay_ctxWork (s : State) : ((freeDelay s).2).ctxWork = s.ctxWork := rfl
@[simp] theorem freeDelay_ctxLeft (s : State) : ((freeDelay s).2).ctxLeft = s.ctxLeft := rfl
@[simp] theorem freeDelay_ctxMap (s : State) : ((freeDelay s).2).ctxMap = s.ctxMap := rfl
@[simp] theorem freeDelay_ctxHeld (s : State) : ((freeDelay s).2).ctxHeld = s.ctxHeld := rfl
@[simp] theorem freeDelay_ctxInv (s : State) : ((freeDelay s).2).ctxInv = s.ctxInv := rfl
@[simp] theorem freeDelay_routersOff (s : State) : ((freeDelay s).2).routersOff = s.routersOff := rfl
@[simp] theorem freeDelay_timersOff (s : State) : ((freeDelay s).2).timersOff = s.timersOff := rfl
@[simp] theorem freeDelay_heldTrees (s : State) : ((freeDelay s).2).heldTrees = s.heldTrees := rfl
@[simp] theorem freeDelay_frozen (s : State) : ((freeDelay s).2).frozen = s.frozen := rfl
@[simp] theorem freeDelay_codeLeft (s : State) : ((freeDelay s).2).codeLeft = s.codeLeft := rfl
@[simp] theorem freeDelay_smpChain (s : State) : ((freeDelay s).2).smpChain = s.smpChain := rfl
@[simp] theorem freeDelay_smpSeq (s : State) : ((freeDelay s).2).smpSeq = s.smpSeq := rfl
@[simp] theorem freeDelay_smpLost (s : State) : ((freeDelay s).2).smpLost = s.smpLost := rfl
@[simp] theorem freeDelay_eccLast (s : State) : ((freeDelay s).2).eccLast = s.eccLast := rfl
@[simp] theorem freeDelay_scrubAt (s : State) : ((freeDelay s).2).scrubAt = s.scrubAt := rfl
@[simp] theorem freeDelay_flaws (s : State) : ((freeDelay s).2).flaws = s.flaws := rfl
@[simp] theorem freeDelay_hflaws (s : State) : ((freeDelay s).2).hflaws = s.hflaws := rfl
@[simp] theorem freeDelay_scrubRounds (s : State) : ((freeDelay s).2).scrubRounds = s.scrubRounds := rfl
@[simp] theorem freeDelay_hscrubRounds (s : State) : ((freeDelay s).2).hscrubRounds = s.hscrubRounds := rfl
@[simp] theorem freeDelay_powered (s : State) : ((freeDelay s).2).powered = s.powered := rfl
@[simp] theorem freeDelay_powerCycle (s : State) : ((freeDelay s).2).powerCycle = s.powerCycle := rfl
@[simp] theorem freeDelay_thermtrip (s : State) : ((freeDelay s).2).thermtrip = s.thermtrip := rfl
@[simp] theorem freeDelay_hostLines (s : State) : ((freeDelay s).2).hostLines = s.hostLines := rfl
@[simp] theorem freeDelay_readData (s : State) : ((freeDelay s).2).readData = s.readData := rfl
@[simp] theorem freeDelay_beats (s : State) : ((freeDelay s).2).beats = s.beats := rfl
@[simp] theorem freeDelay_parentDown (s : State) : ((freeDelay s).2).parentDown = s.parentDown := rfl
@[simp] theorem freeDelay_attBusy (s : State) : ((freeDelay s).2).attBusy = s.attBusy := rfl
@[simp] theorem freeDelay_paths (s : State) : ((freeDelay s).2).paths = s.paths := rfl

/-! ### `setAg` -/

@[simp] theorem setAg_now (s : State) (a : Nat) (x : Agent) : (setAg s a x).now = s.now := rfl
@[simp] theorem setAg_gtAdj (s : State) (a : Nat) (x : Agent) : (setAg s a x).gtAdj = s.gtAdj := rfl
@[simp] theorem setAg_agenda (s : State) (a : Nat) (x : Agent) : (setAg s a x).agenda = s.agenda := rfl
@[simp] theorem setAg_occ (s : State) (a : Nat) (x : Agent) : (setAg s a x).occ = s.occ := rfl
@[simp] theorem setAg_cur (s : State) (a : Nat) (x : Agent) : (setAg s a x).cur = s.cur := rfl
@[simp] theorem setAg_free (s : State) (a : Nat) (x : Agent) : (setAg s a x).free = s.free := rfl
@[simp] theorem setAg_seq (s : State) (a : Nat) (x : Agent) : (setAg s a x).seq = s.seq := rfl
@[simp] theorem setAg_sram (s : State) (a : Nat) (x : Agent) : (setAg s a x).sram = s.sram := rfl
@[simp] theorem setAg_hbm (s : State) (a : Nat) (x : Agent) : (setAg s a x).hbm = s.hbm := rfl
@[simp] theorem setAg_host (s : State) (a : Nat) (x : Agent) : (setAg s a x).host = s.host := rfl
@[simp] theorem setAg_tags (s : State) (a : Nat) (x : Agent) : (setAg s a x).tags = s.tags := rfl
@[simp] theorem setAg_poison (s : State) (a : Nat) (x : Agent) : (setAg s a x).poison = s.poison := rfl
@[simp] theorem setAg_hpoison (s : State) (a : Nat) (x : Agent) : (setAg s a x).hpoison = s.hpoison := rfl
@[simp] theorem setAg_homes (s : State) (a : Nat) (x : Agent) : (setAg s a x).homes = s.homes := rfl
@[simp] theorem setAg_cal (s : State) (a : Nat) (x : Agent) : (setAg s a x).cal = s.cal := rfl
@[simp] theorem setAg_pairs (s : State) (a : Nat) (x : Agent) : (setAg s a x).pairs = s.pairs := rfl
@[simp] theorem setAg_steps (s : State) (a : Nat) (x : Agent) : (setAg s a x).steps = s.steps := rfl
@[simp] theorem setAg_queues (s : State) (a : Nat) (x : Agent) : (setAg s a x).queues = s.queues := rfl
@[simp] theorem setAg_launches (s : State) (a : Nat) (x : Agent) : (setAg s a x).launches = s.launches := rfl
@[simp] theorem setAg_owners (s : State) (a : Nat) (x : Agent) : (setAg s a x).owners = s.owners := rfl
@[simp] theorem setAg_nextPos (s : State) (a : Nat) (x : Agent) : (setAg s a x).nextPos = s.nextPos := rfl
@[simp] theorem setAg_lastQueue (s : State) (a : Nat) (x : Agent) : (setAg s a x).lastQueue = s.lastQueue := rfl
@[simp] theorem setAg_regs (s : State) (a : Nat) (x : Agent) : (setAg s a x).regs = s.regs := rfl
@[simp] theorem setAg_errLost (s : State) (a : Nat) (x : Agent) : (setAg s a x).errLost = s.errLost := rfl
@[simp] theorem setAg_books (s : State) (a : Nat) (x : Agent) : (setAg s a x).books = s.books := rfl
@[simp] theorem setAg_tlbs (s : State) (a : Nat) (x : Agent) : (setAg s a x).tlbs = s.tlbs := rfl
@[simp] theorem setAg_keys (s : State) (a : Nat) (x : Agent) : (setAg s a x).keys = s.keys := rfl
@[simp] theorem setAg_keyData (s : State) (a : Nat) (x : Agent) : (setAg s a x).keyData = s.keyData := rfl
@[simp] theorem setAg_hpairs (s : State) (a : Nat) (x : Agent) : (setAg s a x).hpairs = s.hpairs := rfl
@[simp] theorem setAg_hbmUses (s : State) (a : Nat) (x : Agent) : (setAg s a x).hbmUses = s.hbmUses := rfl
@[simp] theorem setAg_cces (s : State) (a : Nat) (x : Agent) : (setAg s a x).cces = s.cces := rfl
@[simp] theorem setAg_upcalls (s : State) (a : Nat) (x : Agent) : (setAg s a x).upcalls = s.upcalls := rfl
@[simp] theorem setAg_switch (s : State) (a : Nat) (x : Agent) : (setAg s a x).switch = s.switch := rfl
@[simp] theorem setAg_mx (s : State) (a : Nat) (x : Agent) : (setAg s a x).mx = s.mx := rfl
@[simp] theorem setAg_routers (s : State) (a : Nat) (x : Agent) : (setAg s a x).routers = s.routers := rfl
@[simp] theorem setAg_deadCredits (s : State) (a : Nat) (x : Agent) : (setAg s a x).deadCredits = s.deadCredits := rfl
@[simp] theorem setAg_banks (s : State) (a : Nat) (x : Agent) : (setAg s a x).banks = s.banks := rfl
@[simp] theorem setAg_voids (s : State) (a : Nat) (x : Agent) : (setAg s a x).voids = s.voids := rfl
@[simp] theorem setAg_savedTiles (s : State) (a : Nat) (x : Agent) : (setAg s a x).savedTiles = s.savedTiles := rfl
@[simp] theorem setAg_savedClusters (s : State) (a : Nat) (x : Agent) : (setAg s a x).savedClusters = s.savedClusters := rfl
@[simp] theorem setAg_savedDocks (s : State) (a : Nat) (x : Agent) : (setAg s a x).savedDocks = s.savedDocks := rfl
@[simp] theorem setAg_ctxWork (s : State) (a : Nat) (x : Agent) : (setAg s a x).ctxWork = s.ctxWork := rfl
@[simp] theorem setAg_ctxLeft (s : State) (a : Nat) (x : Agent) : (setAg s a x).ctxLeft = s.ctxLeft := rfl
@[simp] theorem setAg_ctxMap (s : State) (a : Nat) (x : Agent) : (setAg s a x).ctxMap = s.ctxMap := rfl
@[simp] theorem setAg_ctxHeld (s : State) (a : Nat) (x : Agent) : (setAg s a x).ctxHeld = s.ctxHeld := rfl
@[simp] theorem setAg_ctxInv (s : State) (a : Nat) (x : Agent) : (setAg s a x).ctxInv = s.ctxInv := rfl
@[simp] theorem setAg_routersOff (s : State) (a : Nat) (x : Agent) : (setAg s a x).routersOff = s.routersOff := rfl
@[simp] theorem setAg_timersOff (s : State) (a : Nat) (x : Agent) : (setAg s a x).timersOff = s.timersOff := rfl
@[simp] theorem setAg_heldTrees (s : State) (a : Nat) (x : Agent) : (setAg s a x).heldTrees = s.heldTrees := rfl
@[simp] theorem setAg_frozen (s : State) (a : Nat) (x : Agent) : (setAg s a x).frozen = s.frozen := rfl
@[simp] theorem setAg_codeLeft (s : State) (a : Nat) (x : Agent) : (setAg s a x).codeLeft = s.codeLeft := rfl
@[simp] theorem setAg_smpChain (s : State) (a : Nat) (x : Agent) : (setAg s a x).smpChain = s.smpChain := rfl
@[simp] theorem setAg_smpSeq (s : State) (a : Nat) (x : Agent) : (setAg s a x).smpSeq = s.smpSeq := rfl
@[simp] theorem setAg_smpLost (s : State) (a : Nat) (x : Agent) : (setAg s a x).smpLost = s.smpLost := rfl
@[simp] theorem setAg_eccLast (s : State) (a : Nat) (x : Agent) : (setAg s a x).eccLast = s.eccLast := rfl
@[simp] theorem setAg_scrubAt (s : State) (a : Nat) (x : Agent) : (setAg s a x).scrubAt = s.scrubAt := rfl
@[simp] theorem setAg_flaws (s : State) (a : Nat) (x : Agent) : (setAg s a x).flaws = s.flaws := rfl
@[simp] theorem setAg_hflaws (s : State) (a : Nat) (x : Agent) : (setAg s a x).hflaws = s.hflaws := rfl
@[simp] theorem setAg_scrubRounds (s : State) (a : Nat) (x : Agent) : (setAg s a x).scrubRounds = s.scrubRounds := rfl
@[simp] theorem setAg_hscrubRounds (s : State) (a : Nat) (x : Agent) : (setAg s a x).hscrubRounds = s.hscrubRounds := rfl
@[simp] theorem setAg_powered (s : State) (a : Nat) (x : Agent) : (setAg s a x).powered = s.powered := rfl
@[simp] theorem setAg_powerCycle (s : State) (a : Nat) (x : Agent) : (setAg s a x).powerCycle = s.powerCycle := rfl
@[simp] theorem setAg_thermtrip (s : State) (a : Nat) (x : Agent) : (setAg s a x).thermtrip = s.thermtrip := rfl
@[simp] theorem setAg_hostLines (s : State) (a : Nat) (x : Agent) : (setAg s a x).hostLines = s.hostLines := rfl
@[simp] theorem setAg_readData (s : State) (a : Nat) (x : Agent) : (setAg s a x).readData = s.readData := rfl
@[simp] theorem setAg_beats (s : State) (a : Nat) (x : Agent) : (setAg s a x).beats = s.beats := rfl
@[simp] theorem setAg_parentDown (s : State) (a : Nat) (x : Agent) : (setAg s a x).parentDown = s.parentDown := rfl
@[simp] theorem setAg_attBusy (s : State) (a : Nat) (x : Agent) : (setAg s a x).attBusy = s.attBusy := rfl
@[simp] theorem setAg_paths (s : State) (a : Nat) (x : Agent) : (setAg s a x).paths = s.paths := rfl

/-! ### `setReg` -/

@[simp] theorem setReg_now (s : State) (o : Nat) (v : BitVec 64) : (setReg s o v).now = s.now := rfl
@[simp] theorem setReg_gtAdj (s : State) (o : Nat) (v : BitVec 64) : (setReg s o v).gtAdj = s.gtAdj := rfl
@[simp] theorem setReg_agenda (s : State) (o : Nat) (v : BitVec 64) : (setReg s o v).agenda = s.agenda := rfl
@[simp] theorem setReg_occ (s : State) (o : Nat) (v : BitVec 64) : (setReg s o v).occ = s.occ := rfl
@[simp] theorem setReg_cur (s : State) (o : Nat) (v : BitVec 64) : (setReg s o v).cur = s.cur := rfl
@[simp] theorem setReg_free (s : State) (o : Nat) (v : BitVec 64) : (setReg s o v).free = s.free := rfl
@[simp] theorem setReg_seq (s : State) (o : Nat) (v : BitVec 64) : (setReg s o v).seq = s.seq := rfl
@[simp] theorem setReg_sram (s : State) (o : Nat) (v : BitVec 64) : (setReg s o v).sram = s.sram := rfl
@[simp] theorem setReg_hbm (s : State) (o : Nat) (v : BitVec 64) : (setReg s o v).hbm = s.hbm := rfl
@[simp] theorem setReg_host (s : State) (o : Nat) (v : BitVec 64) : (setReg s o v).host = s.host := rfl
@[simp] theorem setReg_tags (s : State) (o : Nat) (v : BitVec 64) : (setReg s o v).tags = s.tags := rfl
@[simp] theorem setReg_poison (s : State) (o : Nat) (v : BitVec 64) : (setReg s o v).poison = s.poison := rfl
@[simp] theorem setReg_hpoison (s : State) (o : Nat) (v : BitVec 64) : (setReg s o v).hpoison = s.hpoison := rfl
@[simp] theorem setReg_agents (s : State) (o : Nat) (v : BitVec 64) : (setReg s o v).agents = s.agents := rfl
@[simp] theorem setReg_homes (s : State) (o : Nat) (v : BitVec 64) : (setReg s o v).homes = s.homes := rfl
@[simp] theorem setReg_cal (s : State) (o : Nat) (v : BitVec 64) : (setReg s o v).cal = s.cal := rfl
@[simp] theorem setReg_pairs (s : State) (o : Nat) (v : BitVec 64) : (setReg s o v).pairs = s.pairs := rfl
@[simp] theorem setReg_steps (s : State) (o : Nat) (v : BitVec 64) : (setReg s o v).steps = s.steps := rfl
@[simp] theorem setReg_queues (s : State) (o : Nat) (v : BitVec 64) : (setReg s o v).queues = s.queues := rfl
@[simp] theorem setReg_launches (s : State) (o : Nat) (v : BitVec 64) : (setReg s o v).launches = s.launches := rfl
@[simp] theorem setReg_owners (s : State) (o : Nat) (v : BitVec 64) : (setReg s o v).owners = s.owners := rfl
@[simp] theorem setReg_nextPos (s : State) (o : Nat) (v : BitVec 64) : (setReg s o v).nextPos = s.nextPos := rfl
@[simp] theorem setReg_lastQueue (s : State) (o : Nat) (v : BitVec 64) : (setReg s o v).lastQueue = s.lastQueue := rfl
@[simp] theorem setReg_errLost (s : State) (o : Nat) (v : BitVec 64) : (setReg s o v).errLost = s.errLost := rfl
@[simp] theorem setReg_books (s : State) (o : Nat) (v : BitVec 64) : (setReg s o v).books = s.books := rfl
@[simp] theorem setReg_tlbs (s : State) (o : Nat) (v : BitVec 64) : (setReg s o v).tlbs = s.tlbs := rfl
@[simp] theorem setReg_keys (s : State) (o : Nat) (v : BitVec 64) : (setReg s o v).keys = s.keys := rfl
@[simp] theorem setReg_keyData (s : State) (o : Nat) (v : BitVec 64) : (setReg s o v).keyData = s.keyData := rfl
@[simp] theorem setReg_hpairs (s : State) (o : Nat) (v : BitVec 64) : (setReg s o v).hpairs = s.hpairs := rfl
@[simp] theorem setReg_hbmUses (s : State) (o : Nat) (v : BitVec 64) : (setReg s o v).hbmUses = s.hbmUses := rfl
@[simp] theorem setReg_cces (s : State) (o : Nat) (v : BitVec 64) : (setReg s o v).cces = s.cces := rfl
@[simp] theorem setReg_upcalls (s : State) (o : Nat) (v : BitVec 64) : (setReg s o v).upcalls = s.upcalls := rfl
@[simp] theorem setReg_switch (s : State) (o : Nat) (v : BitVec 64) : (setReg s o v).switch = s.switch := rfl
@[simp] theorem setReg_mx (s : State) (o : Nat) (v : BitVec 64) : (setReg s o v).mx = s.mx := rfl
@[simp] theorem setReg_routers (s : State) (o : Nat) (v : BitVec 64) : (setReg s o v).routers = s.routers := rfl
@[simp] theorem setReg_deadCredits (s : State) (o : Nat) (v : BitVec 64) : (setReg s o v).deadCredits = s.deadCredits := rfl
@[simp] theorem setReg_banks (s : State) (o : Nat) (v : BitVec 64) : (setReg s o v).banks = s.banks := rfl
@[simp] theorem setReg_voids (s : State) (o : Nat) (v : BitVec 64) : (setReg s o v).voids = s.voids := rfl
@[simp] theorem setReg_savedTiles (s : State) (o : Nat) (v : BitVec 64) : (setReg s o v).savedTiles = s.savedTiles := rfl
@[simp] theorem setReg_savedClusters (s : State) (o : Nat) (v : BitVec 64) : (setReg s o v).savedClusters = s.savedClusters := rfl
@[simp] theorem setReg_savedDocks (s : State) (o : Nat) (v : BitVec 64) : (setReg s o v).savedDocks = s.savedDocks := rfl
@[simp] theorem setReg_ctxWork (s : State) (o : Nat) (v : BitVec 64) : (setReg s o v).ctxWork = s.ctxWork := rfl
@[simp] theorem setReg_ctxLeft (s : State) (o : Nat) (v : BitVec 64) : (setReg s o v).ctxLeft = s.ctxLeft := rfl
@[simp] theorem setReg_ctxMap (s : State) (o : Nat) (v : BitVec 64) : (setReg s o v).ctxMap = s.ctxMap := rfl
@[simp] theorem setReg_ctxHeld (s : State) (o : Nat) (v : BitVec 64) : (setReg s o v).ctxHeld = s.ctxHeld := rfl
@[simp] theorem setReg_ctxInv (s : State) (o : Nat) (v : BitVec 64) : (setReg s o v).ctxInv = s.ctxInv := rfl
@[simp] theorem setReg_routersOff (s : State) (o : Nat) (v : BitVec 64) : (setReg s o v).routersOff = s.routersOff := rfl
@[simp] theorem setReg_timersOff (s : State) (o : Nat) (v : BitVec 64) : (setReg s o v).timersOff = s.timersOff := rfl
@[simp] theorem setReg_heldTrees (s : State) (o : Nat) (v : BitVec 64) : (setReg s o v).heldTrees = s.heldTrees := rfl
@[simp] theorem setReg_frozen (s : State) (o : Nat) (v : BitVec 64) : (setReg s o v).frozen = s.frozen := rfl
@[simp] theorem setReg_codeLeft (s : State) (o : Nat) (v : BitVec 64) : (setReg s o v).codeLeft = s.codeLeft := rfl
@[simp] theorem setReg_smpChain (s : State) (o : Nat) (v : BitVec 64) : (setReg s o v).smpChain = s.smpChain := rfl
@[simp] theorem setReg_smpSeq (s : State) (o : Nat) (v : BitVec 64) : (setReg s o v).smpSeq = s.smpSeq := rfl
@[simp] theorem setReg_smpLost (s : State) (o : Nat) (v : BitVec 64) : (setReg s o v).smpLost = s.smpLost := rfl
@[simp] theorem setReg_eccLast (s : State) (o : Nat) (v : BitVec 64) : (setReg s o v).eccLast = s.eccLast := rfl
@[simp] theorem setReg_scrubAt (s : State) (o : Nat) (v : BitVec 64) : (setReg s o v).scrubAt = s.scrubAt := rfl
@[simp] theorem setReg_flaws (s : State) (o : Nat) (v : BitVec 64) : (setReg s o v).flaws = s.flaws := rfl
@[simp] theorem setReg_hflaws (s : State) (o : Nat) (v : BitVec 64) : (setReg s o v).hflaws = s.hflaws := rfl
@[simp] theorem setReg_scrubRounds (s : State) (o : Nat) (v : BitVec 64) : (setReg s o v).scrubRounds = s.scrubRounds := rfl
@[simp] theorem setReg_hscrubRounds (s : State) (o : Nat) (v : BitVec 64) : (setReg s o v).hscrubRounds = s.hscrubRounds := rfl
@[simp] theorem setReg_powered (s : State) (o : Nat) (v : BitVec 64) : (setReg s o v).powered = s.powered := rfl
@[simp] theorem setReg_powerCycle (s : State) (o : Nat) (v : BitVec 64) : (setReg s o v).powerCycle = s.powerCycle := rfl
@[simp] theorem setReg_thermtrip (s : State) (o : Nat) (v : BitVec 64) : (setReg s o v).thermtrip = s.thermtrip := rfl
@[simp] theorem setReg_hostLines (s : State) (o : Nat) (v : BitVec 64) : (setReg s o v).hostLines = s.hostLines := rfl
@[simp] theorem setReg_readData (s : State) (o : Nat) (v : BitVec 64) : (setReg s o v).readData = s.readData := rfl
@[simp] theorem setReg_beats (s : State) (o : Nat) (v : BitVec 64) : (setReg s o v).beats = s.beats := rfl
@[simp] theorem setReg_parentDown (s : State) (o : Nat) (v : BitVec 64) : (setReg s o v).parentDown = s.parentDown := rfl
@[simp] theorem setReg_attBusy (s : State) (o : Nat) (v : BitVec 64) : (setReg s o v).attBusy = s.attBusy := rfl
@[simp] theorem setReg_paths (s : State) (o : Nat) (v : BitVec 64) : (setReg s o v).paths = s.paths := rfl

/-! ### `setHbmByte` -/

@[simp] theorem setHbmByte_now (s : State) (p : Nat) (v : Byte) : (setHbmByte s p v).now = s.now := rfl
@[simp] theorem setHbmByte_gtAdj (s : State) (p : Nat) (v : Byte) : (setHbmByte s p v).gtAdj = s.gtAdj := rfl
@[simp] theorem setHbmByte_agenda (s : State) (p : Nat) (v : Byte) : (setHbmByte s p v).agenda = s.agenda := rfl
@[simp] theorem setHbmByte_occ (s : State) (p : Nat) (v : Byte) : (setHbmByte s p v).occ = s.occ := rfl
@[simp] theorem setHbmByte_cur (s : State) (p : Nat) (v : Byte) : (setHbmByte s p v).cur = s.cur := rfl
@[simp] theorem setHbmByte_free (s : State) (p : Nat) (v : Byte) : (setHbmByte s p v).free = s.free := rfl
@[simp] theorem setHbmByte_seq (s : State) (p : Nat) (v : Byte) : (setHbmByte s p v).seq = s.seq := rfl
@[simp] theorem setHbmByte_sram (s : State) (p : Nat) (v : Byte) : (setHbmByte s p v).sram = s.sram := rfl
@[simp] theorem setHbmByte_host (s : State) (p : Nat) (v : Byte) : (setHbmByte s p v).host = s.host := rfl
@[simp] theorem setHbmByte_tags (s : State) (p : Nat) (v : Byte) : (setHbmByte s p v).tags = s.tags := rfl
@[simp] theorem setHbmByte_poison (s : State) (p : Nat) (v : Byte) : (setHbmByte s p v).poison = s.poison := rfl
@[simp] theorem setHbmByte_hpoison (s : State) (p : Nat) (v : Byte) : (setHbmByte s p v).hpoison = s.hpoison := rfl
@[simp] theorem setHbmByte_agents (s : State) (p : Nat) (v : Byte) : (setHbmByte s p v).agents = s.agents := rfl
@[simp] theorem setHbmByte_homes (s : State) (p : Nat) (v : Byte) : (setHbmByte s p v).homes = s.homes := rfl
@[simp] theorem setHbmByte_cal (s : State) (p : Nat) (v : Byte) : (setHbmByte s p v).cal = s.cal := rfl
@[simp] theorem setHbmByte_pairs (s : State) (p : Nat) (v : Byte) : (setHbmByte s p v).pairs = s.pairs := rfl
@[simp] theorem setHbmByte_steps (s : State) (p : Nat) (v : Byte) : (setHbmByte s p v).steps = s.steps := rfl
@[simp] theorem setHbmByte_queues (s : State) (p : Nat) (v : Byte) : (setHbmByte s p v).queues = s.queues := rfl
@[simp] theorem setHbmByte_launches (s : State) (p : Nat) (v : Byte) : (setHbmByte s p v).launches = s.launches := rfl
@[simp] theorem setHbmByte_owners (s : State) (p : Nat) (v : Byte) : (setHbmByte s p v).owners = s.owners := rfl
@[simp] theorem setHbmByte_nextPos (s : State) (p : Nat) (v : Byte) : (setHbmByte s p v).nextPos = s.nextPos := rfl
@[simp] theorem setHbmByte_lastQueue (s : State) (p : Nat) (v : Byte) : (setHbmByte s p v).lastQueue = s.lastQueue := rfl
@[simp] theorem setHbmByte_regs (s : State) (p : Nat) (v : Byte) : (setHbmByte s p v).regs = s.regs := rfl
@[simp] theorem setHbmByte_errLost (s : State) (p : Nat) (v : Byte) : (setHbmByte s p v).errLost = s.errLost := rfl
@[simp] theorem setHbmByte_books (s : State) (p : Nat) (v : Byte) : (setHbmByte s p v).books = s.books := rfl
@[simp] theorem setHbmByte_tlbs (s : State) (p : Nat) (v : Byte) : (setHbmByte s p v).tlbs = s.tlbs := rfl
@[simp] theorem setHbmByte_keys (s : State) (p : Nat) (v : Byte) : (setHbmByte s p v).keys = s.keys := rfl
@[simp] theorem setHbmByte_keyData (s : State) (p : Nat) (v : Byte) : (setHbmByte s p v).keyData = s.keyData := rfl
@[simp] theorem setHbmByte_hpairs (s : State) (p : Nat) (v : Byte) : (setHbmByte s p v).hpairs = s.hpairs := rfl
@[simp] theorem setHbmByte_hbmUses (s : State) (p : Nat) (v : Byte) : (setHbmByte s p v).hbmUses = s.hbmUses := rfl
@[simp] theorem setHbmByte_cces (s : State) (p : Nat) (v : Byte) : (setHbmByte s p v).cces = s.cces := rfl
@[simp] theorem setHbmByte_upcalls (s : State) (p : Nat) (v : Byte) : (setHbmByte s p v).upcalls = s.upcalls := rfl
@[simp] theorem setHbmByte_switch (s : State) (p : Nat) (v : Byte) : (setHbmByte s p v).switch = s.switch := rfl
@[simp] theorem setHbmByte_mx (s : State) (p : Nat) (v : Byte) : (setHbmByte s p v).mx = s.mx := rfl
@[simp] theorem setHbmByte_routers (s : State) (p : Nat) (v : Byte) : (setHbmByte s p v).routers = s.routers := rfl
@[simp] theorem setHbmByte_deadCredits (s : State) (p : Nat) (v : Byte) : (setHbmByte s p v).deadCredits = s.deadCredits := rfl
@[simp] theorem setHbmByte_banks (s : State) (p : Nat) (v : Byte) : (setHbmByte s p v).banks = s.banks := rfl
@[simp] theorem setHbmByte_voids (s : State) (p : Nat) (v : Byte) : (setHbmByte s p v).voids = s.voids := rfl
@[simp] theorem setHbmByte_savedTiles (s : State) (p : Nat) (v : Byte) : (setHbmByte s p v).savedTiles = s.savedTiles := rfl
@[simp] theorem setHbmByte_savedClusters (s : State) (p : Nat) (v : Byte) : (setHbmByte s p v).savedClusters = s.savedClusters := rfl
@[simp] theorem setHbmByte_savedDocks (s : State) (p : Nat) (v : Byte) : (setHbmByte s p v).savedDocks = s.savedDocks := rfl
@[simp] theorem setHbmByte_ctxWork (s : State) (p : Nat) (v : Byte) : (setHbmByte s p v).ctxWork = s.ctxWork := rfl
@[simp] theorem setHbmByte_ctxLeft (s : State) (p : Nat) (v : Byte) : (setHbmByte s p v).ctxLeft = s.ctxLeft := rfl
@[simp] theorem setHbmByte_ctxMap (s : State) (p : Nat) (v : Byte) : (setHbmByte s p v).ctxMap = s.ctxMap := rfl
@[simp] theorem setHbmByte_ctxHeld (s : State) (p : Nat) (v : Byte) : (setHbmByte s p v).ctxHeld = s.ctxHeld := rfl
@[simp] theorem setHbmByte_ctxInv (s : State) (p : Nat) (v : Byte) : (setHbmByte s p v).ctxInv = s.ctxInv := rfl
@[simp] theorem setHbmByte_routersOff (s : State) (p : Nat) (v : Byte) : (setHbmByte s p v).routersOff = s.routersOff := rfl
@[simp] theorem setHbmByte_timersOff (s : State) (p : Nat) (v : Byte) : (setHbmByte s p v).timersOff = s.timersOff := rfl
@[simp] theorem setHbmByte_heldTrees (s : State) (p : Nat) (v : Byte) : (setHbmByte s p v).heldTrees = s.heldTrees := rfl
@[simp] theorem setHbmByte_frozen (s : State) (p : Nat) (v : Byte) : (setHbmByte s p v).frozen = s.frozen := rfl
@[simp] theorem setHbmByte_codeLeft (s : State) (p : Nat) (v : Byte) : (setHbmByte s p v).codeLeft = s.codeLeft := rfl
@[simp] theorem setHbmByte_smpChain (s : State) (p : Nat) (v : Byte) : (setHbmByte s p v).smpChain = s.smpChain := rfl
@[simp] theorem setHbmByte_smpSeq (s : State) (p : Nat) (v : Byte) : (setHbmByte s p v).smpSeq = s.smpSeq := rfl
@[simp] theorem setHbmByte_smpLost (s : State) (p : Nat) (v : Byte) : (setHbmByte s p v).smpLost = s.smpLost := rfl
@[simp] theorem setHbmByte_eccLast (s : State) (p : Nat) (v : Byte) : (setHbmByte s p v).eccLast = s.eccLast := rfl
@[simp] theorem setHbmByte_scrubAt (s : State) (p : Nat) (v : Byte) : (setHbmByte s p v).scrubAt = s.scrubAt := rfl
@[simp] theorem setHbmByte_flaws (s : State) (p : Nat) (v : Byte) : (setHbmByte s p v).flaws = s.flaws := rfl
@[simp] theorem setHbmByte_hflaws (s : State) (p : Nat) (v : Byte) : (setHbmByte s p v).hflaws = s.hflaws := rfl
@[simp] theorem setHbmByte_scrubRounds (s : State) (p : Nat) (v : Byte) : (setHbmByte s p v).scrubRounds = s.scrubRounds := rfl
@[simp] theorem setHbmByte_hscrubRounds (s : State) (p : Nat) (v : Byte) : (setHbmByte s p v).hscrubRounds = s.hscrubRounds := rfl
@[simp] theorem setHbmByte_powered (s : State) (p : Nat) (v : Byte) : (setHbmByte s p v).powered = s.powered := rfl
@[simp] theorem setHbmByte_powerCycle (s : State) (p : Nat) (v : Byte) : (setHbmByte s p v).powerCycle = s.powerCycle := rfl
@[simp] theorem setHbmByte_thermtrip (s : State) (p : Nat) (v : Byte) : (setHbmByte s p v).thermtrip = s.thermtrip := rfl
@[simp] theorem setHbmByte_hostLines (s : State) (p : Nat) (v : Byte) : (setHbmByte s p v).hostLines = s.hostLines := rfl
@[simp] theorem setHbmByte_readData (s : State) (p : Nat) (v : Byte) : (setHbmByte s p v).readData = s.readData := rfl
@[simp] theorem setHbmByte_beats (s : State) (p : Nat) (v : Byte) : (setHbmByte s p v).beats = s.beats := rfl
@[simp] theorem setHbmByte_parentDown (s : State) (p : Nat) (v : Byte) : (setHbmByte s p v).parentDown = s.parentDown := rfl
@[simp] theorem setHbmByte_attBusy (s : State) (p : Nat) (v : Byte) : (setHbmByte s p v).attBusy = s.attBusy := rfl
@[simp] theorem setHbmByte_paths (s : State) (p : Nat) (v : Byte) : (setHbmByte s p v).paths = s.paths := rfl

/-! ### `modStep` -/

@[simp] theorem modStep_now (s : State) (k : StepKey) (f : StepRec → StepRec) : (modStep s k f).now = s.now := rfl
@[simp] theorem modStep_gtAdj (s : State) (k : StepKey) (f : StepRec → StepRec) : (modStep s k f).gtAdj = s.gtAdj := rfl
@[simp] theorem modStep_agenda (s : State) (k : StepKey) (f : StepRec → StepRec) : (modStep s k f).agenda = s.agenda := rfl
@[simp] theorem modStep_occ (s : State) (k : StepKey) (f : StepRec → StepRec) : (modStep s k f).occ = s.occ := rfl
@[simp] theorem modStep_cur (s : State) (k : StepKey) (f : StepRec → StepRec) : (modStep s k f).cur = s.cur := rfl
@[simp] theorem modStep_free (s : State) (k : StepKey) (f : StepRec → StepRec) : (modStep s k f).free = s.free := rfl
@[simp] theorem modStep_seq (s : State) (k : StepKey) (f : StepRec → StepRec) : (modStep s k f).seq = s.seq := rfl
@[simp] theorem modStep_sram (s : State) (k : StepKey) (f : StepRec → StepRec) : (modStep s k f).sram = s.sram := rfl
@[simp] theorem modStep_hbm (s : State) (k : StepKey) (f : StepRec → StepRec) : (modStep s k f).hbm = s.hbm := rfl
@[simp] theorem modStep_host (s : State) (k : StepKey) (f : StepRec → StepRec) : (modStep s k f).host = s.host := rfl
@[simp] theorem modStep_tags (s : State) (k : StepKey) (f : StepRec → StepRec) : (modStep s k f).tags = s.tags := rfl
@[simp] theorem modStep_poison (s : State) (k : StepKey) (f : StepRec → StepRec) : (modStep s k f).poison = s.poison := rfl
@[simp] theorem modStep_hpoison (s : State) (k : StepKey) (f : StepRec → StepRec) : (modStep s k f).hpoison = s.hpoison := rfl
@[simp] theorem modStep_agents (s : State) (k : StepKey) (f : StepRec → StepRec) : (modStep s k f).agents = s.agents := rfl
@[simp] theorem modStep_homes (s : State) (k : StepKey) (f : StepRec → StepRec) : (modStep s k f).homes = s.homes := rfl
@[simp] theorem modStep_cal (s : State) (k : StepKey) (f : StepRec → StepRec) : (modStep s k f).cal = s.cal := rfl
@[simp] theorem modStep_pairs (s : State) (k : StepKey) (f : StepRec → StepRec) : (modStep s k f).pairs = s.pairs := rfl
@[simp] theorem modStep_queues (s : State) (k : StepKey) (f : StepRec → StepRec) : (modStep s k f).queues = s.queues := rfl
@[simp] theorem modStep_launches (s : State) (k : StepKey) (f : StepRec → StepRec) : (modStep s k f).launches = s.launches := rfl
@[simp] theorem modStep_owners (s : State) (k : StepKey) (f : StepRec → StepRec) : (modStep s k f).owners = s.owners := rfl
@[simp] theorem modStep_nextPos (s : State) (k : StepKey) (f : StepRec → StepRec) : (modStep s k f).nextPos = s.nextPos := rfl
@[simp] theorem modStep_lastQueue (s : State) (k : StepKey) (f : StepRec → StepRec) : (modStep s k f).lastQueue = s.lastQueue := rfl
@[simp] theorem modStep_regs (s : State) (k : StepKey) (f : StepRec → StepRec) : (modStep s k f).regs = s.regs := rfl
@[simp] theorem modStep_errLost (s : State) (k : StepKey) (f : StepRec → StepRec) : (modStep s k f).errLost = s.errLost := rfl
@[simp] theorem modStep_books (s : State) (k : StepKey) (f : StepRec → StepRec) : (modStep s k f).books = s.books := rfl
@[simp] theorem modStep_tlbs (s : State) (k : StepKey) (f : StepRec → StepRec) : (modStep s k f).tlbs = s.tlbs := rfl
@[simp] theorem modStep_keys (s : State) (k : StepKey) (f : StepRec → StepRec) : (modStep s k f).keys = s.keys := rfl
@[simp] theorem modStep_keyData (s : State) (k : StepKey) (f : StepRec → StepRec) : (modStep s k f).keyData = s.keyData := rfl
@[simp] theorem modStep_hpairs (s : State) (k : StepKey) (f : StepRec → StepRec) : (modStep s k f).hpairs = s.hpairs := rfl
@[simp] theorem modStep_hbmUses (s : State) (k : StepKey) (f : StepRec → StepRec) : (modStep s k f).hbmUses = s.hbmUses := rfl
@[simp] theorem modStep_cces (s : State) (k : StepKey) (f : StepRec → StepRec) : (modStep s k f).cces = s.cces := rfl
@[simp] theorem modStep_upcalls (s : State) (k : StepKey) (f : StepRec → StepRec) : (modStep s k f).upcalls = s.upcalls := rfl
@[simp] theorem modStep_switch (s : State) (k : StepKey) (f : StepRec → StepRec) : (modStep s k f).switch = s.switch := rfl
@[simp] theorem modStep_mx (s : State) (k : StepKey) (f : StepRec → StepRec) : (modStep s k f).mx = s.mx := rfl
@[simp] theorem modStep_routers (s : State) (k : StepKey) (f : StepRec → StepRec) : (modStep s k f).routers = s.routers := rfl
@[simp] theorem modStep_deadCredits (s : State) (k : StepKey) (f : StepRec → StepRec) : (modStep s k f).deadCredits = s.deadCredits := rfl
@[simp] theorem modStep_banks (s : State) (k : StepKey) (f : StepRec → StepRec) : (modStep s k f).banks = s.banks := rfl
@[simp] theorem modStep_voids (s : State) (k : StepKey) (f : StepRec → StepRec) : (modStep s k f).voids = s.voids := rfl
@[simp] theorem modStep_savedTiles (s : State) (k : StepKey) (f : StepRec → StepRec) : (modStep s k f).savedTiles = s.savedTiles := rfl
@[simp] theorem modStep_savedClusters (s : State) (k : StepKey) (f : StepRec → StepRec) : (modStep s k f).savedClusters = s.savedClusters := rfl
@[simp] theorem modStep_savedDocks (s : State) (k : StepKey) (f : StepRec → StepRec) : (modStep s k f).savedDocks = s.savedDocks := rfl
@[simp] theorem modStep_ctxWork (s : State) (k : StepKey) (f : StepRec → StepRec) : (modStep s k f).ctxWork = s.ctxWork := rfl
@[simp] theorem modStep_ctxLeft (s : State) (k : StepKey) (f : StepRec → StepRec) : (modStep s k f).ctxLeft = s.ctxLeft := rfl
@[simp] theorem modStep_ctxMap (s : State) (k : StepKey) (f : StepRec → StepRec) : (modStep s k f).ctxMap = s.ctxMap := rfl
@[simp] theorem modStep_ctxHeld (s : State) (k : StepKey) (f : StepRec → StepRec) : (modStep s k f).ctxHeld = s.ctxHeld := rfl
@[simp] theorem modStep_ctxInv (s : State) (k : StepKey) (f : StepRec → StepRec) : (modStep s k f).ctxInv = s.ctxInv := rfl
@[simp] theorem modStep_routersOff (s : State) (k : StepKey) (f : StepRec → StepRec) : (modStep s k f).routersOff = s.routersOff := rfl
@[simp] theorem modStep_timersOff (s : State) (k : StepKey) (f : StepRec → StepRec) : (modStep s k f).timersOff = s.timersOff := rfl
@[simp] theorem modStep_heldTrees (s : State) (k : StepKey) (f : StepRec → StepRec) : (modStep s k f).heldTrees = s.heldTrees := rfl
@[simp] theorem modStep_frozen (s : State) (k : StepKey) (f : StepRec → StepRec) : (modStep s k f).frozen = s.frozen := rfl
@[simp] theorem modStep_codeLeft (s : State) (k : StepKey) (f : StepRec → StepRec) : (modStep s k f).codeLeft = s.codeLeft := rfl
@[simp] theorem modStep_smpChain (s : State) (k : StepKey) (f : StepRec → StepRec) : (modStep s k f).smpChain = s.smpChain := rfl
@[simp] theorem modStep_smpSeq (s : State) (k : StepKey) (f : StepRec → StepRec) : (modStep s k f).smpSeq = s.smpSeq := rfl
@[simp] theorem modStep_smpLost (s : State) (k : StepKey) (f : StepRec → StepRec) : (modStep s k f).smpLost = s.smpLost := rfl
@[simp] theorem modStep_eccLast (s : State) (k : StepKey) (f : StepRec → StepRec) : (modStep s k f).eccLast = s.eccLast := rfl
@[simp] theorem modStep_scrubAt (s : State) (k : StepKey) (f : StepRec → StepRec) : (modStep s k f).scrubAt = s.scrubAt := rfl
@[simp] theorem modStep_flaws (s : State) (k : StepKey) (f : StepRec → StepRec) : (modStep s k f).flaws = s.flaws := rfl
@[simp] theorem modStep_hflaws (s : State) (k : StepKey) (f : StepRec → StepRec) : (modStep s k f).hflaws = s.hflaws := rfl
@[simp] theorem modStep_scrubRounds (s : State) (k : StepKey) (f : StepRec → StepRec) : (modStep s k f).scrubRounds = s.scrubRounds := rfl
@[simp] theorem modStep_hscrubRounds (s : State) (k : StepKey) (f : StepRec → StepRec) : (modStep s k f).hscrubRounds = s.hscrubRounds := rfl
@[simp] theorem modStep_powered (s : State) (k : StepKey) (f : StepRec → StepRec) : (modStep s k f).powered = s.powered := rfl
@[simp] theorem modStep_powerCycle (s : State) (k : StepKey) (f : StepRec → StepRec) : (modStep s k f).powerCycle = s.powerCycle := rfl
@[simp] theorem modStep_thermtrip (s : State) (k : StepKey) (f : StepRec → StepRec) : (modStep s k f).thermtrip = s.thermtrip := rfl
@[simp] theorem modStep_hostLines (s : State) (k : StepKey) (f : StepRec → StepRec) : (modStep s k f).hostLines = s.hostLines := rfl
@[simp] theorem modStep_readData (s : State) (k : StepKey) (f : StepRec → StepRec) : (modStep s k f).readData = s.readData := rfl
@[simp] theorem modStep_beats (s : State) (k : StepKey) (f : StepRec → StepRec) : (modStep s k f).beats = s.beats := rfl
@[simp] theorem modStep_parentDown (s : State) (k : StepKey) (f : StepRec → StepRec) : (modStep s k f).parentDown = s.parentDown := rfl
@[simp] theorem modStep_attBusy (s : State) (k : StepKey) (f : StepRec → StepRec) : (modStep s k f).attBusy = s.attBusy := rfl
@[simp] theorem modStep_paths (s : State) (k : StepKey) (f : StepRec → StepRec) : (modStep s k f).paths = s.paths := rfl

/-! ### `modMx` -/

@[simp] theorem modMx_now (s : State) (t : Nat) (f : Mx → Mx) : (modMx s t f).now = s.now := rfl
@[simp] theorem modMx_gtAdj (s : State) (t : Nat) (f : Mx → Mx) : (modMx s t f).gtAdj = s.gtAdj := rfl
@[simp] theorem modMx_agenda (s : State) (t : Nat) (f : Mx → Mx) : (modMx s t f).agenda = s.agenda := rfl
@[simp] theorem modMx_occ (s : State) (t : Nat) (f : Mx → Mx) : (modMx s t f).occ = s.occ := rfl
@[simp] theorem modMx_cur (s : State) (t : Nat) (f : Mx → Mx) : (modMx s t f).cur = s.cur := rfl
@[simp] theorem modMx_free (s : State) (t : Nat) (f : Mx → Mx) : (modMx s t f).free = s.free := rfl
@[simp] theorem modMx_seq (s : State) (t : Nat) (f : Mx → Mx) : (modMx s t f).seq = s.seq := rfl
@[simp] theorem modMx_sram (s : State) (t : Nat) (f : Mx → Mx) : (modMx s t f).sram = s.sram := rfl
@[simp] theorem modMx_hbm (s : State) (t : Nat) (f : Mx → Mx) : (modMx s t f).hbm = s.hbm := rfl
@[simp] theorem modMx_host (s : State) (t : Nat) (f : Mx → Mx) : (modMx s t f).host = s.host := rfl
@[simp] theorem modMx_tags (s : State) (t : Nat) (f : Mx → Mx) : (modMx s t f).tags = s.tags := rfl
@[simp] theorem modMx_poison (s : State) (t : Nat) (f : Mx → Mx) : (modMx s t f).poison = s.poison := rfl
@[simp] theorem modMx_hpoison (s : State) (t : Nat) (f : Mx → Mx) : (modMx s t f).hpoison = s.hpoison := rfl
@[simp] theorem modMx_agents (s : State) (t : Nat) (f : Mx → Mx) : (modMx s t f).agents = s.agents := rfl
@[simp] theorem modMx_homes (s : State) (t : Nat) (f : Mx → Mx) : (modMx s t f).homes = s.homes := rfl
@[simp] theorem modMx_cal (s : State) (t : Nat) (f : Mx → Mx) : (modMx s t f).cal = s.cal := rfl
@[simp] theorem modMx_pairs (s : State) (t : Nat) (f : Mx → Mx) : (modMx s t f).pairs = s.pairs := rfl
@[simp] theorem modMx_steps (s : State) (t : Nat) (f : Mx → Mx) : (modMx s t f).steps = s.steps := rfl
@[simp] theorem modMx_queues (s : State) (t : Nat) (f : Mx → Mx) : (modMx s t f).queues = s.queues := rfl
@[simp] theorem modMx_launches (s : State) (t : Nat) (f : Mx → Mx) : (modMx s t f).launches = s.launches := rfl
@[simp] theorem modMx_owners (s : State) (t : Nat) (f : Mx → Mx) : (modMx s t f).owners = s.owners := rfl
@[simp] theorem modMx_nextPos (s : State) (t : Nat) (f : Mx → Mx) : (modMx s t f).nextPos = s.nextPos := rfl
@[simp] theorem modMx_lastQueue (s : State) (t : Nat) (f : Mx → Mx) : (modMx s t f).lastQueue = s.lastQueue := rfl
@[simp] theorem modMx_regs (s : State) (t : Nat) (f : Mx → Mx) : (modMx s t f).regs = s.regs := rfl
@[simp] theorem modMx_errLost (s : State) (t : Nat) (f : Mx → Mx) : (modMx s t f).errLost = s.errLost := rfl
@[simp] theorem modMx_books (s : State) (t : Nat) (f : Mx → Mx) : (modMx s t f).books = s.books := rfl
@[simp] theorem modMx_tlbs (s : State) (t : Nat) (f : Mx → Mx) : (modMx s t f).tlbs = s.tlbs := rfl
@[simp] theorem modMx_keys (s : State) (t : Nat) (f : Mx → Mx) : (modMx s t f).keys = s.keys := rfl
@[simp] theorem modMx_keyData (s : State) (t : Nat) (f : Mx → Mx) : (modMx s t f).keyData = s.keyData := rfl
@[simp] theorem modMx_hpairs (s : State) (t : Nat) (f : Mx → Mx) : (modMx s t f).hpairs = s.hpairs := rfl
@[simp] theorem modMx_hbmUses (s : State) (t : Nat) (f : Mx → Mx) : (modMx s t f).hbmUses = s.hbmUses := rfl
@[simp] theorem modMx_cces (s : State) (t : Nat) (f : Mx → Mx) : (modMx s t f).cces = s.cces := rfl
@[simp] theorem modMx_upcalls (s : State) (t : Nat) (f : Mx → Mx) : (modMx s t f).upcalls = s.upcalls := rfl
@[simp] theorem modMx_switch (s : State) (t : Nat) (f : Mx → Mx) : (modMx s t f).switch = s.switch := rfl
@[simp] theorem modMx_routers (s : State) (t : Nat) (f : Mx → Mx) : (modMx s t f).routers = s.routers := rfl
@[simp] theorem modMx_deadCredits (s : State) (t : Nat) (f : Mx → Mx) : (modMx s t f).deadCredits = s.deadCredits := rfl
@[simp] theorem modMx_banks (s : State) (t : Nat) (f : Mx → Mx) : (modMx s t f).banks = s.banks := rfl
@[simp] theorem modMx_voids (s : State) (t : Nat) (f : Mx → Mx) : (modMx s t f).voids = s.voids := rfl
@[simp] theorem modMx_savedTiles (s : State) (t : Nat) (f : Mx → Mx) : (modMx s t f).savedTiles = s.savedTiles := rfl
@[simp] theorem modMx_savedClusters (s : State) (t : Nat) (f : Mx → Mx) : (modMx s t f).savedClusters = s.savedClusters := rfl
@[simp] theorem modMx_savedDocks (s : State) (t : Nat) (f : Mx → Mx) : (modMx s t f).savedDocks = s.savedDocks := rfl
@[simp] theorem modMx_ctxWork (s : State) (t : Nat) (f : Mx → Mx) : (modMx s t f).ctxWork = s.ctxWork := rfl
@[simp] theorem modMx_ctxLeft (s : State) (t : Nat) (f : Mx → Mx) : (modMx s t f).ctxLeft = s.ctxLeft := rfl
@[simp] theorem modMx_ctxMap (s : State) (t : Nat) (f : Mx → Mx) : (modMx s t f).ctxMap = s.ctxMap := rfl
@[simp] theorem modMx_ctxHeld (s : State) (t : Nat) (f : Mx → Mx) : (modMx s t f).ctxHeld = s.ctxHeld := rfl
@[simp] theorem modMx_ctxInv (s : State) (t : Nat) (f : Mx → Mx) : (modMx s t f).ctxInv = s.ctxInv := rfl
@[simp] theorem modMx_routersOff (s : State) (t : Nat) (f : Mx → Mx) : (modMx s t f).routersOff = s.routersOff := rfl
@[simp] theorem modMx_timersOff (s : State) (t : Nat) (f : Mx → Mx) : (modMx s t f).timersOff = s.timersOff := rfl
@[simp] theorem modMx_heldTrees (s : State) (t : Nat) (f : Mx → Mx) : (modMx s t f).heldTrees = s.heldTrees := rfl
@[simp] theorem modMx_frozen (s : State) (t : Nat) (f : Mx → Mx) : (modMx s t f).frozen = s.frozen := rfl
@[simp] theorem modMx_codeLeft (s : State) (t : Nat) (f : Mx → Mx) : (modMx s t f).codeLeft = s.codeLeft := rfl
@[simp] theorem modMx_smpChain (s : State) (t : Nat) (f : Mx → Mx) : (modMx s t f).smpChain = s.smpChain := rfl
@[simp] theorem modMx_smpSeq (s : State) (t : Nat) (f : Mx → Mx) : (modMx s t f).smpSeq = s.smpSeq := rfl
@[simp] theorem modMx_smpLost (s : State) (t : Nat) (f : Mx → Mx) : (modMx s t f).smpLost = s.smpLost := rfl
@[simp] theorem modMx_eccLast (s : State) (t : Nat) (f : Mx → Mx) : (modMx s t f).eccLast = s.eccLast := rfl
@[simp] theorem modMx_scrubAt (s : State) (t : Nat) (f : Mx → Mx) : (modMx s t f).scrubAt = s.scrubAt := rfl
@[simp] theorem modMx_flaws (s : State) (t : Nat) (f : Mx → Mx) : (modMx s t f).flaws = s.flaws := rfl
@[simp] theorem modMx_hflaws (s : State) (t : Nat) (f : Mx → Mx) : (modMx s t f).hflaws = s.hflaws := rfl
@[simp] theorem modMx_scrubRounds (s : State) (t : Nat) (f : Mx → Mx) : (modMx s t f).scrubRounds = s.scrubRounds := rfl
@[simp] theorem modMx_hscrubRounds (s : State) (t : Nat) (f : Mx → Mx) : (modMx s t f).hscrubRounds = s.hscrubRounds := rfl
@[simp] theorem modMx_powered (s : State) (t : Nat) (f : Mx → Mx) : (modMx s t f).powered = s.powered := rfl
@[simp] theorem modMx_powerCycle (s : State) (t : Nat) (f : Mx → Mx) : (modMx s t f).powerCycle = s.powerCycle := rfl
@[simp] theorem modMx_thermtrip (s : State) (t : Nat) (f : Mx → Mx) : (modMx s t f).thermtrip = s.thermtrip := rfl
@[simp] theorem modMx_hostLines (s : State) (t : Nat) (f : Mx → Mx) : (modMx s t f).hostLines = s.hostLines := rfl
@[simp] theorem modMx_readData (s : State) (t : Nat) (f : Mx → Mx) : (modMx s t f).readData = s.readData := rfl
@[simp] theorem modMx_beats (s : State) (t : Nat) (f : Mx → Mx) : (modMx s t f).beats = s.beats := rfl
@[simp] theorem modMx_parentDown (s : State) (t : Nat) (f : Mx → Mx) : (modMx s t f).parentDown = s.parentDown := rfl
@[simp] theorem modMx_attBusy (s : State) (t : Nat) (f : Mx → Mx) : (modMx s t f).attBusy = s.attBusy := rfl
@[simp] theorem modMx_paths (s : State) (t : Nat) (f : Mx → Mx) : (modMx s t f).paths = s.paths := rfl

/-! ### `modRouter` -/

@[simp] theorem modRouter_now (s : State) (t : Nat) (f : Router → Router) : (modRouter s t f).now = s.now := rfl
@[simp] theorem modRouter_gtAdj (s : State) (t : Nat) (f : Router → Router) : (modRouter s t f).gtAdj = s.gtAdj := rfl
@[simp] theorem modRouter_agenda (s : State) (t : Nat) (f : Router → Router) : (modRouter s t f).agenda = s.agenda := rfl
@[simp] theorem modRouter_occ (s : State) (t : Nat) (f : Router → Router) : (modRouter s t f).occ = s.occ := rfl
@[simp] theorem modRouter_cur (s : State) (t : Nat) (f : Router → Router) : (modRouter s t f).cur = s.cur := rfl
@[simp] theorem modRouter_free (s : State) (t : Nat) (f : Router → Router) : (modRouter s t f).free = s.free := rfl
@[simp] theorem modRouter_seq (s : State) (t : Nat) (f : Router → Router) : (modRouter s t f).seq = s.seq := rfl
@[simp] theorem modRouter_sram (s : State) (t : Nat) (f : Router → Router) : (modRouter s t f).sram = s.sram := rfl
@[simp] theorem modRouter_hbm (s : State) (t : Nat) (f : Router → Router) : (modRouter s t f).hbm = s.hbm := rfl
@[simp] theorem modRouter_host (s : State) (t : Nat) (f : Router → Router) : (modRouter s t f).host = s.host := rfl
@[simp] theorem modRouter_tags (s : State) (t : Nat) (f : Router → Router) : (modRouter s t f).tags = s.tags := rfl
@[simp] theorem modRouter_poison (s : State) (t : Nat) (f : Router → Router) : (modRouter s t f).poison = s.poison := rfl
@[simp] theorem modRouter_hpoison (s : State) (t : Nat) (f : Router → Router) : (modRouter s t f).hpoison = s.hpoison := rfl
@[simp] theorem modRouter_agents (s : State) (t : Nat) (f : Router → Router) : (modRouter s t f).agents = s.agents := rfl
@[simp] theorem modRouter_homes (s : State) (t : Nat) (f : Router → Router) : (modRouter s t f).homes = s.homes := rfl
@[simp] theorem modRouter_cal (s : State) (t : Nat) (f : Router → Router) : (modRouter s t f).cal = s.cal := rfl
@[simp] theorem modRouter_pairs (s : State) (t : Nat) (f : Router → Router) : (modRouter s t f).pairs = s.pairs := rfl
@[simp] theorem modRouter_steps (s : State) (t : Nat) (f : Router → Router) : (modRouter s t f).steps = s.steps := rfl
@[simp] theorem modRouter_queues (s : State) (t : Nat) (f : Router → Router) : (modRouter s t f).queues = s.queues := rfl
@[simp] theorem modRouter_launches (s : State) (t : Nat) (f : Router → Router) : (modRouter s t f).launches = s.launches := rfl
@[simp] theorem modRouter_owners (s : State) (t : Nat) (f : Router → Router) : (modRouter s t f).owners = s.owners := rfl
@[simp] theorem modRouter_nextPos (s : State) (t : Nat) (f : Router → Router) : (modRouter s t f).nextPos = s.nextPos := rfl
@[simp] theorem modRouter_lastQueue (s : State) (t : Nat) (f : Router → Router) : (modRouter s t f).lastQueue = s.lastQueue := rfl
@[simp] theorem modRouter_regs (s : State) (t : Nat) (f : Router → Router) : (modRouter s t f).regs = s.regs := rfl
@[simp] theorem modRouter_errLost (s : State) (t : Nat) (f : Router → Router) : (modRouter s t f).errLost = s.errLost := rfl
@[simp] theorem modRouter_books (s : State) (t : Nat) (f : Router → Router) : (modRouter s t f).books = s.books := rfl
@[simp] theorem modRouter_tlbs (s : State) (t : Nat) (f : Router → Router) : (modRouter s t f).tlbs = s.tlbs := rfl
@[simp] theorem modRouter_keys (s : State) (t : Nat) (f : Router → Router) : (modRouter s t f).keys = s.keys := rfl
@[simp] theorem modRouter_keyData (s : State) (t : Nat) (f : Router → Router) : (modRouter s t f).keyData = s.keyData := rfl
@[simp] theorem modRouter_hpairs (s : State) (t : Nat) (f : Router → Router) : (modRouter s t f).hpairs = s.hpairs := rfl
@[simp] theorem modRouter_hbmUses (s : State) (t : Nat) (f : Router → Router) : (modRouter s t f).hbmUses = s.hbmUses := rfl
@[simp] theorem modRouter_cces (s : State) (t : Nat) (f : Router → Router) : (modRouter s t f).cces = s.cces := rfl
@[simp] theorem modRouter_upcalls (s : State) (t : Nat) (f : Router → Router) : (modRouter s t f).upcalls = s.upcalls := rfl
@[simp] theorem modRouter_switch (s : State) (t : Nat) (f : Router → Router) : (modRouter s t f).switch = s.switch := rfl
@[simp] theorem modRouter_mx (s : State) (t : Nat) (f : Router → Router) : (modRouter s t f).mx = s.mx := rfl
@[simp] theorem modRouter_deadCredits (s : State) (t : Nat) (f : Router → Router) : (modRouter s t f).deadCredits = s.deadCredits := rfl
@[simp] theorem modRouter_banks (s : State) (t : Nat) (f : Router → Router) : (modRouter s t f).banks = s.banks := rfl
@[simp] theorem modRouter_voids (s : State) (t : Nat) (f : Router → Router) : (modRouter s t f).voids = s.voids := rfl
@[simp] theorem modRouter_savedTiles (s : State) (t : Nat) (f : Router → Router) : (modRouter s t f).savedTiles = s.savedTiles := rfl
@[simp] theorem modRouter_savedClusters (s : State) (t : Nat) (f : Router → Router) : (modRouter s t f).savedClusters = s.savedClusters := rfl
@[simp] theorem modRouter_savedDocks (s : State) (t : Nat) (f : Router → Router) : (modRouter s t f).savedDocks = s.savedDocks := rfl
@[simp] theorem modRouter_ctxWork (s : State) (t : Nat) (f : Router → Router) : (modRouter s t f).ctxWork = s.ctxWork := rfl
@[simp] theorem modRouter_ctxLeft (s : State) (t : Nat) (f : Router → Router) : (modRouter s t f).ctxLeft = s.ctxLeft := rfl
@[simp] theorem modRouter_ctxMap (s : State) (t : Nat) (f : Router → Router) : (modRouter s t f).ctxMap = s.ctxMap := rfl
@[simp] theorem modRouter_ctxHeld (s : State) (t : Nat) (f : Router → Router) : (modRouter s t f).ctxHeld = s.ctxHeld := rfl
@[simp] theorem modRouter_ctxInv (s : State) (t : Nat) (f : Router → Router) : (modRouter s t f).ctxInv = s.ctxInv := rfl
@[simp] theorem modRouter_routersOff (s : State) (t : Nat) (f : Router → Router) : (modRouter s t f).routersOff = s.routersOff := rfl
@[simp] theorem modRouter_timersOff (s : State) (t : Nat) (f : Router → Router) : (modRouter s t f).timersOff = s.timersOff := rfl
@[simp] theorem modRouter_heldTrees (s : State) (t : Nat) (f : Router → Router) : (modRouter s t f).heldTrees = s.heldTrees := rfl
@[simp] theorem modRouter_frozen (s : State) (t : Nat) (f : Router → Router) : (modRouter s t f).frozen = s.frozen := rfl
@[simp] theorem modRouter_codeLeft (s : State) (t : Nat) (f : Router → Router) : (modRouter s t f).codeLeft = s.codeLeft := rfl
@[simp] theorem modRouter_smpChain (s : State) (t : Nat) (f : Router → Router) : (modRouter s t f).smpChain = s.smpChain := rfl
@[simp] theorem modRouter_smpSeq (s : State) (t : Nat) (f : Router → Router) : (modRouter s t f).smpSeq = s.smpSeq := rfl
@[simp] theorem modRouter_smpLost (s : State) (t : Nat) (f : Router → Router) : (modRouter s t f).smpLost = s.smpLost := rfl
@[simp] theorem modRouter_eccLast (s : State) (t : Nat) (f : Router → Router) : (modRouter s t f).eccLast = s.eccLast := rfl
@[simp] theorem modRouter_scrubAt (s : State) (t : Nat) (f : Router → Router) : (modRouter s t f).scrubAt = s.scrubAt := rfl
@[simp] theorem modRouter_flaws (s : State) (t : Nat) (f : Router → Router) : (modRouter s t f).flaws = s.flaws := rfl
@[simp] theorem modRouter_hflaws (s : State) (t : Nat) (f : Router → Router) : (modRouter s t f).hflaws = s.hflaws := rfl
@[simp] theorem modRouter_scrubRounds (s : State) (t : Nat) (f : Router → Router) : (modRouter s t f).scrubRounds = s.scrubRounds := rfl
@[simp] theorem modRouter_hscrubRounds (s : State) (t : Nat) (f : Router → Router) : (modRouter s t f).hscrubRounds = s.hscrubRounds := rfl
@[simp] theorem modRouter_powered (s : State) (t : Nat) (f : Router → Router) : (modRouter s t f).powered = s.powered := rfl
@[simp] theorem modRouter_powerCycle (s : State) (t : Nat) (f : Router → Router) : (modRouter s t f).powerCycle = s.powerCycle := rfl
@[simp] theorem modRouter_thermtrip (s : State) (t : Nat) (f : Router → Router) : (modRouter s t f).thermtrip = s.thermtrip := rfl
@[simp] theorem modRouter_hostLines (s : State) (t : Nat) (f : Router → Router) : (modRouter s t f).hostLines = s.hostLines := rfl
@[simp] theorem modRouter_readData (s : State) (t : Nat) (f : Router → Router) : (modRouter s t f).readData = s.readData := rfl
@[simp] theorem modRouter_beats (s : State) (t : Nat) (f : Router → Router) : (modRouter s t f).beats = s.beats := rfl
@[simp] theorem modRouter_parentDown (s : State) (t : Nat) (f : Router → Router) : (modRouter s t f).parentDown = s.parentDown := rfl
@[simp] theorem modRouter_attBusy (s : State) (t : Nat) (f : Router → Router) : (modRouter s t f).attBusy = s.attBusy := rfl
@[simp] theorem modRouter_paths (s : State) (t : Nat) (f : Router → Router) : (modRouter s t f).paths = s.paths := rfl

/-! ### `modCce` -/

@[simp] theorem modCce_now (s : State) (e : Nat) (f : Cce → Cce) : (modCce s e f).now = s.now := rfl
@[simp] theorem modCce_gtAdj (s : State) (e : Nat) (f : Cce → Cce) : (modCce s e f).gtAdj = s.gtAdj := rfl
@[simp] theorem modCce_agenda (s : State) (e : Nat) (f : Cce → Cce) : (modCce s e f).agenda = s.agenda := rfl
@[simp] theorem modCce_occ (s : State) (e : Nat) (f : Cce → Cce) : (modCce s e f).occ = s.occ := rfl
@[simp] theorem modCce_cur (s : State) (e : Nat) (f : Cce → Cce) : (modCce s e f).cur = s.cur := rfl
@[simp] theorem modCce_free (s : State) (e : Nat) (f : Cce → Cce) : (modCce s e f).free = s.free := rfl
@[simp] theorem modCce_seq (s : State) (e : Nat) (f : Cce → Cce) : (modCce s e f).seq = s.seq := rfl
@[simp] theorem modCce_sram (s : State) (e : Nat) (f : Cce → Cce) : (modCce s e f).sram = s.sram := rfl
@[simp] theorem modCce_hbm (s : State) (e : Nat) (f : Cce → Cce) : (modCce s e f).hbm = s.hbm := rfl
@[simp] theorem modCce_host (s : State) (e : Nat) (f : Cce → Cce) : (modCce s e f).host = s.host := rfl
@[simp] theorem modCce_tags (s : State) (e : Nat) (f : Cce → Cce) : (modCce s e f).tags = s.tags := rfl
@[simp] theorem modCce_poison (s : State) (e : Nat) (f : Cce → Cce) : (modCce s e f).poison = s.poison := rfl
@[simp] theorem modCce_hpoison (s : State) (e : Nat) (f : Cce → Cce) : (modCce s e f).hpoison = s.hpoison := rfl
@[simp] theorem modCce_agents (s : State) (e : Nat) (f : Cce → Cce) : (modCce s e f).agents = s.agents := rfl
@[simp] theorem modCce_homes (s : State) (e : Nat) (f : Cce → Cce) : (modCce s e f).homes = s.homes := rfl
@[simp] theorem modCce_cal (s : State) (e : Nat) (f : Cce → Cce) : (modCce s e f).cal = s.cal := rfl
@[simp] theorem modCce_pairs (s : State) (e : Nat) (f : Cce → Cce) : (modCce s e f).pairs = s.pairs := rfl
@[simp] theorem modCce_steps (s : State) (e : Nat) (f : Cce → Cce) : (modCce s e f).steps = s.steps := rfl
@[simp] theorem modCce_queues (s : State) (e : Nat) (f : Cce → Cce) : (modCce s e f).queues = s.queues := rfl
@[simp] theorem modCce_launches (s : State) (e : Nat) (f : Cce → Cce) : (modCce s e f).launches = s.launches := rfl
@[simp] theorem modCce_owners (s : State) (e : Nat) (f : Cce → Cce) : (modCce s e f).owners = s.owners := rfl
@[simp] theorem modCce_nextPos (s : State) (e : Nat) (f : Cce → Cce) : (modCce s e f).nextPos = s.nextPos := rfl
@[simp] theorem modCce_lastQueue (s : State) (e : Nat) (f : Cce → Cce) : (modCce s e f).lastQueue = s.lastQueue := rfl
@[simp] theorem modCce_regs (s : State) (e : Nat) (f : Cce → Cce) : (modCce s e f).regs = s.regs := rfl
@[simp] theorem modCce_errLost (s : State) (e : Nat) (f : Cce → Cce) : (modCce s e f).errLost = s.errLost := rfl
@[simp] theorem modCce_books (s : State) (e : Nat) (f : Cce → Cce) : (modCce s e f).books = s.books := rfl
@[simp] theorem modCce_tlbs (s : State) (e : Nat) (f : Cce → Cce) : (modCce s e f).tlbs = s.tlbs := rfl
@[simp] theorem modCce_keys (s : State) (e : Nat) (f : Cce → Cce) : (modCce s e f).keys = s.keys := rfl
@[simp] theorem modCce_keyData (s : State) (e : Nat) (f : Cce → Cce) : (modCce s e f).keyData = s.keyData := rfl
@[simp] theorem modCce_hpairs (s : State) (e : Nat) (f : Cce → Cce) : (modCce s e f).hpairs = s.hpairs := rfl
@[simp] theorem modCce_hbmUses (s : State) (e : Nat) (f : Cce → Cce) : (modCce s e f).hbmUses = s.hbmUses := rfl
@[simp] theorem modCce_upcalls (s : State) (e : Nat) (f : Cce → Cce) : (modCce s e f).upcalls = s.upcalls := rfl
@[simp] theorem modCce_switch (s : State) (e : Nat) (f : Cce → Cce) : (modCce s e f).switch = s.switch := rfl
@[simp] theorem modCce_mx (s : State) (e : Nat) (f : Cce → Cce) : (modCce s e f).mx = s.mx := rfl
@[simp] theorem modCce_routers (s : State) (e : Nat) (f : Cce → Cce) : (modCce s e f).routers = s.routers := rfl
@[simp] theorem modCce_deadCredits (s : State) (e : Nat) (f : Cce → Cce) : (modCce s e f).deadCredits = s.deadCredits := rfl
@[simp] theorem modCce_banks (s : State) (e : Nat) (f : Cce → Cce) : (modCce s e f).banks = s.banks := rfl
@[simp] theorem modCce_voids (s : State) (e : Nat) (f : Cce → Cce) : (modCce s e f).voids = s.voids := rfl
@[simp] theorem modCce_savedTiles (s : State) (e : Nat) (f : Cce → Cce) : (modCce s e f).savedTiles = s.savedTiles := rfl
@[simp] theorem modCce_savedClusters (s : State) (e : Nat) (f : Cce → Cce) : (modCce s e f).savedClusters = s.savedClusters := rfl
@[simp] theorem modCce_savedDocks (s : State) (e : Nat) (f : Cce → Cce) : (modCce s e f).savedDocks = s.savedDocks := rfl
@[simp] theorem modCce_ctxWork (s : State) (e : Nat) (f : Cce → Cce) : (modCce s e f).ctxWork = s.ctxWork := rfl
@[simp] theorem modCce_ctxLeft (s : State) (e : Nat) (f : Cce → Cce) : (modCce s e f).ctxLeft = s.ctxLeft := rfl
@[simp] theorem modCce_ctxMap (s : State) (e : Nat) (f : Cce → Cce) : (modCce s e f).ctxMap = s.ctxMap := rfl
@[simp] theorem modCce_ctxHeld (s : State) (e : Nat) (f : Cce → Cce) : (modCce s e f).ctxHeld = s.ctxHeld := rfl
@[simp] theorem modCce_ctxInv (s : State) (e : Nat) (f : Cce → Cce) : (modCce s e f).ctxInv = s.ctxInv := rfl
@[simp] theorem modCce_routersOff (s : State) (e : Nat) (f : Cce → Cce) : (modCce s e f).routersOff = s.routersOff := rfl
@[simp] theorem modCce_timersOff (s : State) (e : Nat) (f : Cce → Cce) : (modCce s e f).timersOff = s.timersOff := rfl
@[simp] theorem modCce_heldTrees (s : State) (e : Nat) (f : Cce → Cce) : (modCce s e f).heldTrees = s.heldTrees := rfl
@[simp] theorem modCce_frozen (s : State) (e : Nat) (f : Cce → Cce) : (modCce s e f).frozen = s.frozen := rfl
@[simp] theorem modCce_codeLeft (s : State) (e : Nat) (f : Cce → Cce) : (modCce s e f).codeLeft = s.codeLeft := rfl
@[simp] theorem modCce_smpChain (s : State) (e : Nat) (f : Cce → Cce) : (modCce s e f).smpChain = s.smpChain := rfl
@[simp] theorem modCce_smpSeq (s : State) (e : Nat) (f : Cce → Cce) : (modCce s e f).smpSeq = s.smpSeq := rfl
@[simp] theorem modCce_smpLost (s : State) (e : Nat) (f : Cce → Cce) : (modCce s e f).smpLost = s.smpLost := rfl
@[simp] theorem modCce_eccLast (s : State) (e : Nat) (f : Cce → Cce) : (modCce s e f).eccLast = s.eccLast := rfl
@[simp] theorem modCce_scrubAt (s : State) (e : Nat) (f : Cce → Cce) : (modCce s e f).scrubAt = s.scrubAt := rfl
@[simp] theorem modCce_flaws (s : State) (e : Nat) (f : Cce → Cce) : (modCce s e f).flaws = s.flaws := rfl
@[simp] theorem modCce_hflaws (s : State) (e : Nat) (f : Cce → Cce) : (modCce s e f).hflaws = s.hflaws := rfl
@[simp] theorem modCce_scrubRounds (s : State) (e : Nat) (f : Cce → Cce) : (modCce s e f).scrubRounds = s.scrubRounds := rfl
@[simp] theorem modCce_hscrubRounds (s : State) (e : Nat) (f : Cce → Cce) : (modCce s e f).hscrubRounds = s.hscrubRounds := rfl
@[simp] theorem modCce_powered (s : State) (e : Nat) (f : Cce → Cce) : (modCce s e f).powered = s.powered := rfl
@[simp] theorem modCce_powerCycle (s : State) (e : Nat) (f : Cce → Cce) : (modCce s e f).powerCycle = s.powerCycle := rfl
@[simp] theorem modCce_thermtrip (s : State) (e : Nat) (f : Cce → Cce) : (modCce s e f).thermtrip = s.thermtrip := rfl
@[simp] theorem modCce_hostLines (s : State) (e : Nat) (f : Cce → Cce) : (modCce s e f).hostLines = s.hostLines := rfl
@[simp] theorem modCce_readData (s : State) (e : Nat) (f : Cce → Cce) : (modCce s e f).readData = s.readData := rfl
@[simp] theorem modCce_beats (s : State) (e : Nat) (f : Cce → Cce) : (modCce s e f).beats = s.beats := rfl
@[simp] theorem modCce_parentDown (s : State) (e : Nat) (f : Cce → Cce) : (modCce s e f).parentDown = s.parentDown := rfl
@[simp] theorem modCce_attBusy (s : State) (e : Nat) (f : Cce → Cce) : (modCce s e f).attBusy = s.attBusy := rfl
@[simp] theorem modCce_paths (s : State) (e : Nat) (f : Cce → Cce) : (modCce s e f).paths = s.paths := rfl

/-! ### `sched` -/

@[simp] theorem sched_now (s : State) (t p : Nat) (i : Instr) (o : Occ) : (sched s t p i o).now = s.now := rfl
@[simp] theorem sched_gtAdj (s : State) (t p : Nat) (i : Instr) (o : Occ) : (sched s t p i o).gtAdj = s.gtAdj := rfl
@[simp] theorem sched_occ (s : State) (t p : Nat) (i : Instr) (o : Occ) : (sched s t p i o).occ = s.occ := rfl
@[simp] theorem sched_cur (s : State) (t p : Nat) (i : Instr) (o : Occ) : (sched s t p i o).cur = s.cur := rfl
@[simp] theorem sched_free (s : State) (t p : Nat) (i : Instr) (o : Occ) : (sched s t p i o).free = s.free := rfl
@[simp] theorem sched_seq (s : State) (t p : Nat) (i : Instr) (o : Occ) : (sched s t p i o).seq = s.seq := rfl
@[simp] theorem sched_sram (s : State) (t p : Nat) (i : Instr) (o : Occ) : (sched s t p i o).sram = s.sram := rfl
@[simp] theorem sched_hbm (s : State) (t p : Nat) (i : Instr) (o : Occ) : (sched s t p i o).hbm = s.hbm := rfl
@[simp] theorem sched_host (s : State) (t p : Nat) (i : Instr) (o : Occ) : (sched s t p i o).host = s.host := rfl
@[simp] theorem sched_tags (s : State) (t p : Nat) (i : Instr) (o : Occ) : (sched s t p i o).tags = s.tags := rfl
@[simp] theorem sched_poison (s : State) (t p : Nat) (i : Instr) (o : Occ) : (sched s t p i o).poison = s.poison := rfl
@[simp] theorem sched_hpoison (s : State) (t p : Nat) (i : Instr) (o : Occ) : (sched s t p i o).hpoison = s.hpoison := rfl
@[simp] theorem sched_agents (s : State) (t p : Nat) (i : Instr) (o : Occ) : (sched s t p i o).agents = s.agents := rfl
@[simp] theorem sched_homes (s : State) (t p : Nat) (i : Instr) (o : Occ) : (sched s t p i o).homes = s.homes := rfl
@[simp] theorem sched_cal (s : State) (t p : Nat) (i : Instr) (o : Occ) : (sched s t p i o).cal = s.cal := rfl
@[simp] theorem sched_pairs (s : State) (t p : Nat) (i : Instr) (o : Occ) : (sched s t p i o).pairs = s.pairs := rfl
@[simp] theorem sched_steps (s : State) (t p : Nat) (i : Instr) (o : Occ) : (sched s t p i o).steps = s.steps := rfl
@[simp] theorem sched_queues (s : State) (t p : Nat) (i : Instr) (o : Occ) : (sched s t p i o).queues = s.queues := rfl
@[simp] theorem sched_launches (s : State) (t p : Nat) (i : Instr) (o : Occ) : (sched s t p i o).launches = s.launches := rfl
@[simp] theorem sched_owners (s : State) (t p : Nat) (i : Instr) (o : Occ) : (sched s t p i o).owners = s.owners := rfl
@[simp] theorem sched_nextPos (s : State) (t p : Nat) (i : Instr) (o : Occ) : (sched s t p i o).nextPos = s.nextPos := rfl
@[simp] theorem sched_lastQueue (s : State) (t p : Nat) (i : Instr) (o : Occ) : (sched s t p i o).lastQueue = s.lastQueue := rfl
@[simp] theorem sched_regs (s : State) (t p : Nat) (i : Instr) (o : Occ) : (sched s t p i o).regs = s.regs := rfl
@[simp] theorem sched_errLost (s : State) (t p : Nat) (i : Instr) (o : Occ) : (sched s t p i o).errLost = s.errLost := rfl
@[simp] theorem sched_books (s : State) (t p : Nat) (i : Instr) (o : Occ) : (sched s t p i o).books = s.books := rfl
@[simp] theorem sched_tlbs (s : State) (t p : Nat) (i : Instr) (o : Occ) : (sched s t p i o).tlbs = s.tlbs := rfl
@[simp] theorem sched_keys (s : State) (t p : Nat) (i : Instr) (o : Occ) : (sched s t p i o).keys = s.keys := rfl
@[simp] theorem sched_keyData (s : State) (t p : Nat) (i : Instr) (o : Occ) : (sched s t p i o).keyData = s.keyData := rfl
@[simp] theorem sched_hpairs (s : State) (t p : Nat) (i : Instr) (o : Occ) : (sched s t p i o).hpairs = s.hpairs := rfl
@[simp] theorem sched_hbmUses (s : State) (t p : Nat) (i : Instr) (o : Occ) : (sched s t p i o).hbmUses = s.hbmUses := rfl
@[simp] theorem sched_cces (s : State) (t p : Nat) (i : Instr) (o : Occ) : (sched s t p i o).cces = s.cces := rfl
@[simp] theorem sched_upcalls (s : State) (t p : Nat) (i : Instr) (o : Occ) : (sched s t p i o).upcalls = s.upcalls := rfl
@[simp] theorem sched_switch (s : State) (t p : Nat) (i : Instr) (o : Occ) : (sched s t p i o).switch = s.switch := rfl
@[simp] theorem sched_mx (s : State) (t p : Nat) (i : Instr) (o : Occ) : (sched s t p i o).mx = s.mx := rfl
@[simp] theorem sched_routers (s : State) (t p : Nat) (i : Instr) (o : Occ) : (sched s t p i o).routers = s.routers := rfl
@[simp] theorem sched_deadCredits (s : State) (t p : Nat) (i : Instr) (o : Occ) : (sched s t p i o).deadCredits = s.deadCredits := rfl
@[simp] theorem sched_banks (s : State) (t p : Nat) (i : Instr) (o : Occ) : (sched s t p i o).banks = s.banks := rfl
@[simp] theorem sched_voids (s : State) (t p : Nat) (i : Instr) (o : Occ) : (sched s t p i o).voids = s.voids := rfl
@[simp] theorem sched_savedTiles (s : State) (t p : Nat) (i : Instr) (o : Occ) : (sched s t p i o).savedTiles = s.savedTiles := rfl
@[simp] theorem sched_savedClusters (s : State) (t p : Nat) (i : Instr) (o : Occ) : (sched s t p i o).savedClusters = s.savedClusters := rfl
@[simp] theorem sched_savedDocks (s : State) (t p : Nat) (i : Instr) (o : Occ) : (sched s t p i o).savedDocks = s.savedDocks := rfl
@[simp] theorem sched_ctxWork (s : State) (t p : Nat) (i : Instr) (o : Occ) : (sched s t p i o).ctxWork = s.ctxWork := rfl
@[simp] theorem sched_ctxLeft (s : State) (t p : Nat) (i : Instr) (o : Occ) : (sched s t p i o).ctxLeft = s.ctxLeft := rfl
@[simp] theorem sched_ctxMap (s : State) (t p : Nat) (i : Instr) (o : Occ) : (sched s t p i o).ctxMap = s.ctxMap := rfl
@[simp] theorem sched_ctxHeld (s : State) (t p : Nat) (i : Instr) (o : Occ) : (sched s t p i o).ctxHeld = s.ctxHeld := rfl
@[simp] theorem sched_ctxInv (s : State) (t p : Nat) (i : Instr) (o : Occ) : (sched s t p i o).ctxInv = s.ctxInv := rfl
@[simp] theorem sched_routersOff (s : State) (t p : Nat) (i : Instr) (o : Occ) : (sched s t p i o).routersOff = s.routersOff := rfl
@[simp] theorem sched_timersOff (s : State) (t p : Nat) (i : Instr) (o : Occ) : (sched s t p i o).timersOff = s.timersOff := rfl
@[simp] theorem sched_heldTrees (s : State) (t p : Nat) (i : Instr) (o : Occ) : (sched s t p i o).heldTrees = s.heldTrees := rfl
@[simp] theorem sched_frozen (s : State) (t p : Nat) (i : Instr) (o : Occ) : (sched s t p i o).frozen = s.frozen := rfl
@[simp] theorem sched_codeLeft (s : State) (t p : Nat) (i : Instr) (o : Occ) : (sched s t p i o).codeLeft = s.codeLeft := rfl
@[simp] theorem sched_smpChain (s : State) (t p : Nat) (i : Instr) (o : Occ) : (sched s t p i o).smpChain = s.smpChain := rfl
@[simp] theorem sched_smpSeq (s : State) (t p : Nat) (i : Instr) (o : Occ) : (sched s t p i o).smpSeq = s.smpSeq := rfl
@[simp] theorem sched_smpLost (s : State) (t p : Nat) (i : Instr) (o : Occ) : (sched s t p i o).smpLost = s.smpLost := rfl
@[simp] theorem sched_eccLast (s : State) (t p : Nat) (i : Instr) (o : Occ) : (sched s t p i o).eccLast = s.eccLast := rfl
@[simp] theorem sched_scrubAt (s : State) (t p : Nat) (i : Instr) (o : Occ) : (sched s t p i o).scrubAt = s.scrubAt := rfl
@[simp] theorem sched_flaws (s : State) (t p : Nat) (i : Instr) (o : Occ) : (sched s t p i o).flaws = s.flaws := rfl
@[simp] theorem sched_hflaws (s : State) (t p : Nat) (i : Instr) (o : Occ) : (sched s t p i o).hflaws = s.hflaws := rfl
@[simp] theorem sched_scrubRounds (s : State) (t p : Nat) (i : Instr) (o : Occ) : (sched s t p i o).scrubRounds = s.scrubRounds := rfl
@[simp] theorem sched_hscrubRounds (s : State) (t p : Nat) (i : Instr) (o : Occ) : (sched s t p i o).hscrubRounds = s.hscrubRounds := rfl
@[simp] theorem sched_powered (s : State) (t p : Nat) (i : Instr) (o : Occ) : (sched s t p i o).powered = s.powered := rfl
@[simp] theorem sched_powerCycle (s : State) (t p : Nat) (i : Instr) (o : Occ) : (sched s t p i o).powerCycle = s.powerCycle := rfl
@[simp] theorem sched_thermtrip (s : State) (t p : Nat) (i : Instr) (o : Occ) : (sched s t p i o).thermtrip = s.thermtrip := rfl
@[simp] theorem sched_hostLines (s : State) (t p : Nat) (i : Instr) (o : Occ) : (sched s t p i o).hostLines = s.hostLines := rfl
@[simp] theorem sched_readData (s : State) (t p : Nat) (i : Instr) (o : Occ) : (sched s t p i o).readData = s.readData := rfl
@[simp] theorem sched_beats (s : State) (t p : Nat) (i : Instr) (o : Occ) : (sched s t p i o).beats = s.beats := rfl
@[simp] theorem sched_parentDown (s : State) (t p : Nat) (i : Instr) (o : Occ) : (sched s t p i o).parentDown = s.parentDown := rfl
@[simp] theorem sched_attBusy (s : State) (t p : Nat) (i : Instr) (o : Occ) : (sched s t p i o).attBusy = s.attBusy := rfl
@[simp] theorem sched_paths (s : State) (t p : Nat) (i : Instr) (o : Occ) : (sched s t p i o).paths = s.paths := rfl

/-! ### `modAg` -/

@[simp] theorem modAg_now (s : State) (a : Nat) (f : Agent → Agent) : (modAg s a f).now = s.now := rfl
@[simp] theorem modAg_gtAdj (s : State) (a : Nat) (f : Agent → Agent) : (modAg s a f).gtAdj = s.gtAdj := rfl
@[simp] theorem modAg_agenda (s : State) (a : Nat) (f : Agent → Agent) : (modAg s a f).agenda = s.agenda := rfl
@[simp] theorem modAg_occ (s : State) (a : Nat) (f : Agent → Agent) : (modAg s a f).occ = s.occ := rfl
@[simp] theorem modAg_cur (s : State) (a : Nat) (f : Agent → Agent) : (modAg s a f).cur = s.cur := rfl
@[simp] theorem modAg_free (s : State) (a : Nat) (f : Agent → Agent) : (modAg s a f).free = s.free := rfl
@[simp] theorem modAg_seq (s : State) (a : Nat) (f : Agent → Agent) : (modAg s a f).seq = s.seq := rfl
@[simp] theorem modAg_sram (s : State) (a : Nat) (f : Agent → Agent) : (modAg s a f).sram = s.sram := rfl
@[simp] theorem modAg_hbm (s : State) (a : Nat) (f : Agent → Agent) : (modAg s a f).hbm = s.hbm := rfl
@[simp] theorem modAg_host (s : State) (a : Nat) (f : Agent → Agent) : (modAg s a f).host = s.host := rfl
@[simp] theorem modAg_tags (s : State) (a : Nat) (f : Agent → Agent) : (modAg s a f).tags = s.tags := rfl
@[simp] theorem modAg_poison (s : State) (a : Nat) (f : Agent → Agent) : (modAg s a f).poison = s.poison := rfl
@[simp] theorem modAg_hpoison (s : State) (a : Nat) (f : Agent → Agent) : (modAg s a f).hpoison = s.hpoison := rfl
@[simp] theorem modAg_homes (s : State) (a : Nat) (f : Agent → Agent) : (modAg s a f).homes = s.homes := rfl
@[simp] theorem modAg_cal (s : State) (a : Nat) (f : Agent → Agent) : (modAg s a f).cal = s.cal := rfl
@[simp] theorem modAg_pairs (s : State) (a : Nat) (f : Agent → Agent) : (modAg s a f).pairs = s.pairs := rfl
@[simp] theorem modAg_steps (s : State) (a : Nat) (f : Agent → Agent) : (modAg s a f).steps = s.steps := rfl
@[simp] theorem modAg_queues (s : State) (a : Nat) (f : Agent → Agent) : (modAg s a f).queues = s.queues := rfl
@[simp] theorem modAg_launches (s : State) (a : Nat) (f : Agent → Agent) : (modAg s a f).launches = s.launches := rfl
@[simp] theorem modAg_owners (s : State) (a : Nat) (f : Agent → Agent) : (modAg s a f).owners = s.owners := rfl
@[simp] theorem modAg_nextPos (s : State) (a : Nat) (f : Agent → Agent) : (modAg s a f).nextPos = s.nextPos := rfl
@[simp] theorem modAg_lastQueue (s : State) (a : Nat) (f : Agent → Agent) : (modAg s a f).lastQueue = s.lastQueue := rfl
@[simp] theorem modAg_regs (s : State) (a : Nat) (f : Agent → Agent) : (modAg s a f).regs = s.regs := rfl
@[simp] theorem modAg_errLost (s : State) (a : Nat) (f : Agent → Agent) : (modAg s a f).errLost = s.errLost := rfl
@[simp] theorem modAg_books (s : State) (a : Nat) (f : Agent → Agent) : (modAg s a f).books = s.books := rfl
@[simp] theorem modAg_tlbs (s : State) (a : Nat) (f : Agent → Agent) : (modAg s a f).tlbs = s.tlbs := rfl
@[simp] theorem modAg_keys (s : State) (a : Nat) (f : Agent → Agent) : (modAg s a f).keys = s.keys := rfl
@[simp] theorem modAg_keyData (s : State) (a : Nat) (f : Agent → Agent) : (modAg s a f).keyData = s.keyData := rfl
@[simp] theorem modAg_hpairs (s : State) (a : Nat) (f : Agent → Agent) : (modAg s a f).hpairs = s.hpairs := rfl
@[simp] theorem modAg_hbmUses (s : State) (a : Nat) (f : Agent → Agent) : (modAg s a f).hbmUses = s.hbmUses := rfl
@[simp] theorem modAg_cces (s : State) (a : Nat) (f : Agent → Agent) : (modAg s a f).cces = s.cces := rfl
@[simp] theorem modAg_upcalls (s : State) (a : Nat) (f : Agent → Agent) : (modAg s a f).upcalls = s.upcalls := rfl
@[simp] theorem modAg_switch (s : State) (a : Nat) (f : Agent → Agent) : (modAg s a f).switch = s.switch := rfl
@[simp] theorem modAg_mx (s : State) (a : Nat) (f : Agent → Agent) : (modAg s a f).mx = s.mx := rfl
@[simp] theorem modAg_routers (s : State) (a : Nat) (f : Agent → Agent) : (modAg s a f).routers = s.routers := rfl
@[simp] theorem modAg_deadCredits (s : State) (a : Nat) (f : Agent → Agent) : (modAg s a f).deadCredits = s.deadCredits := rfl
@[simp] theorem modAg_banks (s : State) (a : Nat) (f : Agent → Agent) : (modAg s a f).banks = s.banks := rfl
@[simp] theorem modAg_voids (s : State) (a : Nat) (f : Agent → Agent) : (modAg s a f).voids = s.voids := rfl
@[simp] theorem modAg_savedTiles (s : State) (a : Nat) (f : Agent → Agent) : (modAg s a f).savedTiles = s.savedTiles := rfl
@[simp] theorem modAg_savedClusters (s : State) (a : Nat) (f : Agent → Agent) : (modAg s a f).savedClusters = s.savedClusters := rfl
@[simp] theorem modAg_savedDocks (s : State) (a : Nat) (f : Agent → Agent) : (modAg s a f).savedDocks = s.savedDocks := rfl
@[simp] theorem modAg_ctxWork (s : State) (a : Nat) (f : Agent → Agent) : (modAg s a f).ctxWork = s.ctxWork := rfl
@[simp] theorem modAg_ctxLeft (s : State) (a : Nat) (f : Agent → Agent) : (modAg s a f).ctxLeft = s.ctxLeft := rfl
@[simp] theorem modAg_ctxMap (s : State) (a : Nat) (f : Agent → Agent) : (modAg s a f).ctxMap = s.ctxMap := rfl
@[simp] theorem modAg_ctxHeld (s : State) (a : Nat) (f : Agent → Agent) : (modAg s a f).ctxHeld = s.ctxHeld := rfl
@[simp] theorem modAg_ctxInv (s : State) (a : Nat) (f : Agent → Agent) : (modAg s a f).ctxInv = s.ctxInv := rfl
@[simp] theorem modAg_routersOff (s : State) (a : Nat) (f : Agent → Agent) : (modAg s a f).routersOff = s.routersOff := rfl
@[simp] theorem modAg_timersOff (s : State) (a : Nat) (f : Agent → Agent) : (modAg s a f).timersOff = s.timersOff := rfl
@[simp] theorem modAg_heldTrees (s : State) (a : Nat) (f : Agent → Agent) : (modAg s a f).heldTrees = s.heldTrees := rfl
@[simp] theorem modAg_frozen (s : State) (a : Nat) (f : Agent → Agent) : (modAg s a f).frozen = s.frozen := rfl
@[simp] theorem modAg_codeLeft (s : State) (a : Nat) (f : Agent → Agent) : (modAg s a f).codeLeft = s.codeLeft := rfl
@[simp] theorem modAg_smpChain (s : State) (a : Nat) (f : Agent → Agent) : (modAg s a f).smpChain = s.smpChain := rfl
@[simp] theorem modAg_smpSeq (s : State) (a : Nat) (f : Agent → Agent) : (modAg s a f).smpSeq = s.smpSeq := rfl
@[simp] theorem modAg_smpLost (s : State) (a : Nat) (f : Agent → Agent) : (modAg s a f).smpLost = s.smpLost := rfl
@[simp] theorem modAg_eccLast (s : State) (a : Nat) (f : Agent → Agent) : (modAg s a f).eccLast = s.eccLast := rfl
@[simp] theorem modAg_scrubAt (s : State) (a : Nat) (f : Agent → Agent) : (modAg s a f).scrubAt = s.scrubAt := rfl
@[simp] theorem modAg_flaws (s : State) (a : Nat) (f : Agent → Agent) : (modAg s a f).flaws = s.flaws := rfl
@[simp] theorem modAg_hflaws (s : State) (a : Nat) (f : Agent → Agent) : (modAg s a f).hflaws = s.hflaws := rfl
@[simp] theorem modAg_scrubRounds (s : State) (a : Nat) (f : Agent → Agent) : (modAg s a f).scrubRounds = s.scrubRounds := rfl
@[simp] theorem modAg_hscrubRounds (s : State) (a : Nat) (f : Agent → Agent) : (modAg s a f).hscrubRounds = s.hscrubRounds := rfl
@[simp] theorem modAg_powered (s : State) (a : Nat) (f : Agent → Agent) : (modAg s a f).powered = s.powered := rfl
@[simp] theorem modAg_powerCycle (s : State) (a : Nat) (f : Agent → Agent) : (modAg s a f).powerCycle = s.powerCycle := rfl
@[simp] theorem modAg_thermtrip (s : State) (a : Nat) (f : Agent → Agent) : (modAg s a f).thermtrip = s.thermtrip := rfl
@[simp] theorem modAg_hostLines (s : State) (a : Nat) (f : Agent → Agent) : (modAg s a f).hostLines = s.hostLines := rfl
@[simp] theorem modAg_readData (s : State) (a : Nat) (f : Agent → Agent) : (modAg s a f).readData = s.readData := rfl
@[simp] theorem modAg_beats (s : State) (a : Nat) (f : Agent → Agent) : (modAg s a f).beats = s.beats := rfl
@[simp] theorem modAg_parentDown (s : State) (a : Nat) (f : Agent → Agent) : (modAg s a f).parentDown = s.parentDown := rfl
@[simp] theorem modAg_attBusy (s : State) (a : Nat) (f : Agent → Agent) : (modAg s a f).attBusy = s.attBusy := rfl
@[simp] theorem modAg_paths (s : State) (a : Nat) (f : Agent → Agent) : (modAg s a f).paths = s.paths := rfl

/-! ### `modBk` -/

@[simp] theorem modBk_now (s : State) (a : Nat) (f : Bank → Bank) : (modBk s a f).now = s.now := rfl
@[simp] theorem modBk_gtAdj (s : State) (a : Nat) (f : Bank → Bank) : (modBk s a f).gtAdj = s.gtAdj := rfl
@[simp] theorem modBk_agenda (s : State) (a : Nat) (f : Bank → Bank) : (modBk s a f).agenda = s.agenda := rfl
@[simp] theorem modBk_occ (s : State) (a : Nat) (f : Bank → Bank) : (modBk s a f).occ = s.occ := rfl
@[simp] theorem modBk_cur (s : State) (a : Nat) (f : Bank → Bank) : (modBk s a f).cur = s.cur := rfl
@[simp] theorem modBk_free (s : State) (a : Nat) (f : Bank → Bank) : (modBk s a f).free = s.free := rfl
@[simp] theorem modBk_seq (s : State) (a : Nat) (f : Bank → Bank) : (modBk s a f).seq = s.seq := rfl
@[simp] theorem modBk_sram (s : State) (a : Nat) (f : Bank → Bank) : (modBk s a f).sram = s.sram := rfl
@[simp] theorem modBk_hbm (s : State) (a : Nat) (f : Bank → Bank) : (modBk s a f).hbm = s.hbm := rfl
@[simp] theorem modBk_host (s : State) (a : Nat) (f : Bank → Bank) : (modBk s a f).host = s.host := rfl
@[simp] theorem modBk_tags (s : State) (a : Nat) (f : Bank → Bank) : (modBk s a f).tags = s.tags := rfl
@[simp] theorem modBk_poison (s : State) (a : Nat) (f : Bank → Bank) : (modBk s a f).poison = s.poison := rfl
@[simp] theorem modBk_hpoison (s : State) (a : Nat) (f : Bank → Bank) : (modBk s a f).hpoison = s.hpoison := rfl
@[simp] theorem modBk_homes (s : State) (a : Nat) (f : Bank → Bank) : (modBk s a f).homes = s.homes := rfl
@[simp] theorem modBk_cal (s : State) (a : Nat) (f : Bank → Bank) : (modBk s a f).cal = s.cal := rfl
@[simp] theorem modBk_pairs (s : State) (a : Nat) (f : Bank → Bank) : (modBk s a f).pairs = s.pairs := rfl
@[simp] theorem modBk_steps (s : State) (a : Nat) (f : Bank → Bank) : (modBk s a f).steps = s.steps := rfl
@[simp] theorem modBk_queues (s : State) (a : Nat) (f : Bank → Bank) : (modBk s a f).queues = s.queues := rfl
@[simp] theorem modBk_launches (s : State) (a : Nat) (f : Bank → Bank) : (modBk s a f).launches = s.launches := rfl
@[simp] theorem modBk_owners (s : State) (a : Nat) (f : Bank → Bank) : (modBk s a f).owners = s.owners := rfl
@[simp] theorem modBk_nextPos (s : State) (a : Nat) (f : Bank → Bank) : (modBk s a f).nextPos = s.nextPos := rfl
@[simp] theorem modBk_lastQueue (s : State) (a : Nat) (f : Bank → Bank) : (modBk s a f).lastQueue = s.lastQueue := rfl
@[simp] theorem modBk_regs (s : State) (a : Nat) (f : Bank → Bank) : (modBk s a f).regs = s.regs := rfl
@[simp] theorem modBk_errLost (s : State) (a : Nat) (f : Bank → Bank) : (modBk s a f).errLost = s.errLost := rfl
@[simp] theorem modBk_books (s : State) (a : Nat) (f : Bank → Bank) : (modBk s a f).books = s.books := rfl
@[simp] theorem modBk_tlbs (s : State) (a : Nat) (f : Bank → Bank) : (modBk s a f).tlbs = s.tlbs := rfl
@[simp] theorem modBk_keys (s : State) (a : Nat) (f : Bank → Bank) : (modBk s a f).keys = s.keys := rfl
@[simp] theorem modBk_keyData (s : State) (a : Nat) (f : Bank → Bank) : (modBk s a f).keyData = s.keyData := rfl
@[simp] theorem modBk_hpairs (s : State) (a : Nat) (f : Bank → Bank) : (modBk s a f).hpairs = s.hpairs := rfl
@[simp] theorem modBk_hbmUses (s : State) (a : Nat) (f : Bank → Bank) : (modBk s a f).hbmUses = s.hbmUses := rfl
@[simp] theorem modBk_cces (s : State) (a : Nat) (f : Bank → Bank) : (modBk s a f).cces = s.cces := rfl
@[simp] theorem modBk_upcalls (s : State) (a : Nat) (f : Bank → Bank) : (modBk s a f).upcalls = s.upcalls := rfl
@[simp] theorem modBk_switch (s : State) (a : Nat) (f : Bank → Bank) : (modBk s a f).switch = s.switch := rfl
@[simp] theorem modBk_mx (s : State) (a : Nat) (f : Bank → Bank) : (modBk s a f).mx = s.mx := rfl
@[simp] theorem modBk_routers (s : State) (a : Nat) (f : Bank → Bank) : (modBk s a f).routers = s.routers := rfl
@[simp] theorem modBk_deadCredits (s : State) (a : Nat) (f : Bank → Bank) : (modBk s a f).deadCredits = s.deadCredits := rfl
@[simp] theorem modBk_banks (s : State) (a : Nat) (f : Bank → Bank) : (modBk s a f).banks = s.banks := rfl
@[simp] theorem modBk_voids (s : State) (a : Nat) (f : Bank → Bank) : (modBk s a f).voids = s.voids := rfl
@[simp] theorem modBk_savedTiles (s : State) (a : Nat) (f : Bank → Bank) : (modBk s a f).savedTiles = s.savedTiles := rfl
@[simp] theorem modBk_savedClusters (s : State) (a : Nat) (f : Bank → Bank) : (modBk s a f).savedClusters = s.savedClusters := rfl
@[simp] theorem modBk_savedDocks (s : State) (a : Nat) (f : Bank → Bank) : (modBk s a f).savedDocks = s.savedDocks := rfl
@[simp] theorem modBk_ctxWork (s : State) (a : Nat) (f : Bank → Bank) : (modBk s a f).ctxWork = s.ctxWork := rfl
@[simp] theorem modBk_ctxLeft (s : State) (a : Nat) (f : Bank → Bank) : (modBk s a f).ctxLeft = s.ctxLeft := rfl
@[simp] theorem modBk_ctxMap (s : State) (a : Nat) (f : Bank → Bank) : (modBk s a f).ctxMap = s.ctxMap := rfl
@[simp] theorem modBk_ctxHeld (s : State) (a : Nat) (f : Bank → Bank) : (modBk s a f).ctxHeld = s.ctxHeld := rfl
@[simp] theorem modBk_ctxInv (s : State) (a : Nat) (f : Bank → Bank) : (modBk s a f).ctxInv = s.ctxInv := rfl
@[simp] theorem modBk_routersOff (s : State) (a : Nat) (f : Bank → Bank) : (modBk s a f).routersOff = s.routersOff := rfl
@[simp] theorem modBk_timersOff (s : State) (a : Nat) (f : Bank → Bank) : (modBk s a f).timersOff = s.timersOff := rfl
@[simp] theorem modBk_heldTrees (s : State) (a : Nat) (f : Bank → Bank) : (modBk s a f).heldTrees = s.heldTrees := rfl
@[simp] theorem modBk_frozen (s : State) (a : Nat) (f : Bank → Bank) : (modBk s a f).frozen = s.frozen := rfl
@[simp] theorem modBk_codeLeft (s : State) (a : Nat) (f : Bank → Bank) : (modBk s a f).codeLeft = s.codeLeft := rfl
@[simp] theorem modBk_smpChain (s : State) (a : Nat) (f : Bank → Bank) : (modBk s a f).smpChain = s.smpChain := rfl
@[simp] theorem modBk_smpSeq (s : State) (a : Nat) (f : Bank → Bank) : (modBk s a f).smpSeq = s.smpSeq := rfl
@[simp] theorem modBk_smpLost (s : State) (a : Nat) (f : Bank → Bank) : (modBk s a f).smpLost = s.smpLost := rfl
@[simp] theorem modBk_eccLast (s : State) (a : Nat) (f : Bank → Bank) : (modBk s a f).eccLast = s.eccLast := rfl
@[simp] theorem modBk_scrubAt (s : State) (a : Nat) (f : Bank → Bank) : (modBk s a f).scrubAt = s.scrubAt := rfl
@[simp] theorem modBk_flaws (s : State) (a : Nat) (f : Bank → Bank) : (modBk s a f).flaws = s.flaws := rfl
@[simp] theorem modBk_hflaws (s : State) (a : Nat) (f : Bank → Bank) : (modBk s a f).hflaws = s.hflaws := rfl
@[simp] theorem modBk_scrubRounds (s : State) (a : Nat) (f : Bank → Bank) : (modBk s a f).scrubRounds = s.scrubRounds := rfl
@[simp] theorem modBk_hscrubRounds (s : State) (a : Nat) (f : Bank → Bank) : (modBk s a f).hscrubRounds = s.hscrubRounds := rfl
@[simp] theorem modBk_powered (s : State) (a : Nat) (f : Bank → Bank) : (modBk s a f).powered = s.powered := rfl
@[simp] theorem modBk_powerCycle (s : State) (a : Nat) (f : Bank → Bank) : (modBk s a f).powerCycle = s.powerCycle := rfl
@[simp] theorem modBk_thermtrip (s : State) (a : Nat) (f : Bank → Bank) : (modBk s a f).thermtrip = s.thermtrip := rfl
@[simp] theorem modBk_hostLines (s : State) (a : Nat) (f : Bank → Bank) : (modBk s a f).hostLines = s.hostLines := rfl
@[simp] theorem modBk_readData (s : State) (a : Nat) (f : Bank → Bank) : (modBk s a f).readData = s.readData := rfl
@[simp] theorem modBk_beats (s : State) (a : Nat) (f : Bank → Bank) : (modBk s a f).beats = s.beats := rfl
@[simp] theorem modBk_parentDown (s : State) (a : Nat) (f : Bank → Bank) : (modBk s a f).parentDown = s.parentDown := rfl
@[simp] theorem modBk_attBusy (s : State) (a : Nat) (f : Bank → Bank) : (modBk s a f).attBusy = s.attBusy := rfl
@[simp] theorem modBk_paths (s : State) (a : Nat) (f : Bank → Bank) : (modBk s a f).paths = s.paths := rfl

/-! ### What changes -/

@[simp] theorem addEntry_agenda (s : State) (e : Entry) : (addEntry s e).agenda = insertEntry e s.agenda := rfl
@[simp] theorem setAg_agents (s : State) (a : Nat) (x : Agent) : (setAg s a x).agents = kset {} s.agents a x := rfl
@[simp] theorem setReg_regs (s : State) (o : Nat) (v : BitVec 64) : (setReg s o v).regs = kset 0 s.regs o v := rfl
@[simp] theorem draw_free (s : State) : (draw s).2.free = s.free + 1 := rfl
@[simp] theorem newId_seq (s : State) : (newId s).2.seq = s.seq + 1 := rfl
@[simp] theorem freeDelay_free (s : State) : (freeDelay s).2.free = s.free + 1 := rfl

/-! ### Agents and banks -/

@[simp] theorem ag_setAg_same (s : State) (a : Nat) (x : Agent) : ag (setAg s a x) a = x := kget_kset_same _ _ _ _

theorem ag_setAg_ne (s : State) {a b : Nat} (x : Agent) (h : b ≠ a) : ag (setAg s a x) b = ag s b := kget_kset_ne _ _ _ h

@[simp] theorem ag_modAg_same (s : State) (a : Nat) (f : Agent → Agent) : ag (modAg s a f) a = f (ag s a) := ag_setAg_same _ _ _

theorem ag_modAg_ne (s : State) {a b : Nat} (f : Agent → Agent) (h : b ≠ a) : ag (modAg s a f) b = ag s b := ag_setAg_ne _ _ h

@[simp] theorem ag_modBk_same (s : State) (a : Nat) (f : Bank → Bank) :
    ag (modBk s a f) a = { ag s a with front := f (bk s a) } := ag_modAg_same _ _ _

theorem ag_modBk_ne (s : State) {a b : Nat} (f : Bank → Bank) (h : b ≠ a) : ag (modBk s a f) b = ag s b := ag_modAg_ne _ _ h

@[simp] theorem bk_modBk_same (s : State) (a : Nat) (f : Bank → Bank) : bk (modBk s a f) a = f (bk s a) := by
  simp [bk]

theorem bk_modBk_ne (s : State) {a b : Nat} (f : Bank → Bank) (h : b ≠ a) : bk (modBk s a f) b = bk s b := by
  simp [bk, ag_modBk_ne s f h]

@[simp] theorem ag_addEntry (s : State) (e : Entry) (a : Nat) : ag (addEntry s e) a = ag s a := rfl
@[simp] theorem bk_addEntry (s : State) (e : Entry) (a : Nat) : bk (addEntry s e) a = bk s a := rfl
@[simp] theorem ag_sched (s : State) (t p : Nat) (i : Instr) (o : Occ) (a : Nat) : ag (sched s t p i o) a = ag s a := rfl
@[simp] theorem bk_sched (s : State) (t p : Nat) (i : Instr) (o : Occ) (a : Nat) : bk (sched s t p i o) a = bk s a := rfl

/-- An entry put on the agenda stands there, and what stood there still does. -/
theorem mem_insertEntry (e x : Entry) (l : List Entry) : x ∈ insertEntry e l ↔ x = e ∨ x ∈ l := by
  induction l with
  | nil => simp [insertEntry]
  | cons y l ih =>
    simp only [insertEntry]
    split
    · simp only [List.mem_cons, ih]
      constructor
      · rintro (h | h | h) <;> simp [h]
      · rintro (h | h | h) <;> simp [h]
    · simp

@[simp] theorem mem_addEntry (s : State) (e x : Entry) : x ∈ (addEntry s e).agenda ↔ x = e ∨ x ∈ s.agenda := mem_insertEntry e x _

@[simp] theorem mem_sched (s : State) (t p : Nat) (i : Instr) (o : Occ) (x : Entry) :
    x ∈ (sched s t p i o).agenda ↔ x = ⟨t, p, .ev i o⟩ ∨ x ∈ s.agenda := mem_insertEntry _ x _

/-! ### Registers of a bank -/

@[simp] theorem gReg_setG_same (s : State) (a n : Nat) (v : Word) : gReg (setG s a n v) a n = v := by simp [gReg, setG]

theorem gReg_setG_ne (s : State) (a : Nat) {n k : Nat} (v : Word) (h : k ≠ n) : gReg (setG s a n v) a k = gReg s a k := by
  simp [gReg, setG, kget_kset_ne _ _ _ h]

@[simp] theorem hReg_setH_same (s : State) (a n : Nat) (v : BitVec 128) : hReg (setH s a n v) a n = v := by simp [hReg, setH]

theorem hReg_setH_ne (s : State) (a : Nat) {n k : Nat} (v : BitVec 128) (h : k ≠ n) : hReg (setH s a n v) a k = hReg s a k := by
  simp [hReg, setH, kget_kset_ne _ _ _ h]

end Sys2Proof.Laws
end

