-- ==== Sys2Proof/Laws/Issue.lean ====
section
/-! SUPPORT. What the issue of a lone operation comes to (R145, R150, R176): it goes, it is held, or it faults. -/

namespace Sys2Proof.Laws

open Sys2Proof.Machine

theorem filterMap_toList {α β : Type} (f : α → Option β) (x : α) : [x].filterMap f = (f x).toList := by
  cases h : f x <;> simp [h]

/-- The reads of a lone operation's source. -/
theorem sourced_eq (s : State) (m : Trig) :
    (latchReads [m]).foldl (fun t l => readLatch t s.cur.a l.1 l.2) s = sourced s m := by
  simp only [latchReads, filterMap_toList, sourced]
  cases m.src <;> simp [List.eraseDups, List.eraseDupsBy, List.eraseDupsBy.loop]

/-- An operation executed by itself is the issue of its one slot. -/
theorem exec_runOp {i : Instr} {m : Trig} {f : OpFn} (h : runOp i = some (m, f)) (s : State) : exec i s = execOne m f s := by
  cases i <;> cases h <;> rfl

variable {m : Trig} {f : OpFn} {s : State}

/-- A lone operation that goes issues. -/
theorem execOne_go (hr : Ready s m) {e : State → State} (hf : f (ctxOf s m) s = .go e) : execOne m f s = .next (issued s m e) := by
  obtain ⟨h1, h2, h3, h4⟩ := hr
  have h4' : headerCause (bk s s.cur.a).q s.cur.hdr = none := by simpa [markLegal] using h4
  simp only [ctxOf, tVal] at hf
  simp [execOne, h1, issue, h2, h3, h4', writePorts, writeRegs, faultsOf, holdsOf, applyGo, hf, issued, sourced_eq]

/-- A lone operation whose effect comes at the end of the cycle issues. -/
theorem execOne_late (hr : Ready s m) {e : State → State} (hf : f (ctxOf s m) s = .late e) : execOne m f s = .next (issued s m e) := by
  obtain ⟨h1, h2, h3, h4⟩ := hr
  have h4' : headerCause (bk s s.cur.a).q s.cur.hdr = none := by simpa [markLegal] using h4
  simp only [ctxOf, tVal] at hf
  simp [execOne, h1, issue, h2, h3, h4', writePorts, writeRegs, faultsOf, holdsOf, applyGo, hf, issued, sourced_eq]

/-- A lone operation that holds is tried again in the next cycle. -/
theorem execOne_hold (hr : Ready s m) {k : Hold} (hf : f (ctxOf s m) s = .hold k) : execOne m f s = .next (holdCycle s s.cur.a k) := by
  obtain ⟨h1, h2, h3, -⟩ := hr
  simp only [ctxOf, tVal] at hf
  simp [execOne, h1, issue, h2, h3, writePorts, holdsOf, hf]

/-- A lone operation that faults does not issue. -/
theorem execOne_fault (hr : Ready s m) {c : Nat} {ad : Option Word} (hf : f (ctxOf s m) s = .fault c ad) :
    execOne m f s = .next (syncFault s s.cur.a c s.cur.slot ad) := by
  obtain ⟨h1, h2, h3, h4⟩ := hr
  have h4' : headerCause (bk s s.cur.a).q s.cur.hdr = none := by simpa [markLegal] using h4
  simp only [ctxOf, tVal] at hf
  simp [execOne, h1, issue, h2, h3, h4', writePorts, faultsOf, holdsOf, hf]

/-- An operation whose guard does not hold issues without any effect (R145, R165). -/
theorem execOne_off (h1 : isIssuer s.cur.a = true) (h2 : guardOn s s.cur.a m = false) (h4 : markLegal s = true) :
    execOne m f s = .next (noteIssued s s.cur.a s.cur.hdr) := by
  have h4' : headerCause (bk s s.cur.a).q s.cur.hdr = none := by simpa [markLegal] using h4
  simp [execOne, h1, issue, h2, h4', writePorts, writeRegs, faultsOf, holdsOf, applyGo, latchReads]

/-! ### What issue leaves as it was -/

/-- The bookkeeping of a bundle that has issued changes only this of its agent. -/
structure Kept (s t : State) (a : Nat) : Prop where
  rest : { t with agents := s.agents, agenda := s.agenda } = s
  others : ∀ b, b ≠ a → ag t b = ag s b
  wings : (ag t a).wings = (ag s a).wings
  regs : SameRegs s t a
  values : SameValues s t a
  seq : seqPlace (bk t a).q = seqPlace (bk s a).q
  agenda : ∀ e ∈ s.agenda, e ∈ t.agenda

theorem Kept.refl (s : State) (a : Nat) : Kept s s a :=
  ⟨rfl, fun _ _ => rfl, rfl, ⟨rfl, rfl, rfl, rfl, rfl, rfl⟩, ⟨fun _ _ => rfl, fun _ _ => rfl⟩, rfl, fun _ h => h⟩

theorem Kept.trans {s t u : State} {a : Nat} (h : Kept s t a) (k : Kept t u a) : Kept s u a where
  rest := by
    have h1 := h.rest
    have h2 := k.rest
    rw [← h2] at h1
    simpa using h1
  others := fun b hb => (k.others b hb).trans (h.others b hb)
  wings := k.wings.trans h.wings
  regs := by
    obtain ⟨a1, a2, a3, a4, a5, a6⟩ := h.regs
    obtain ⟨b1, b2, b3, b4, b5, b6⟩ := k.regs
    exact ⟨b1.trans a1, b2.trans a2, b3.trans a3, b4.trans a4, b5.trans a5, b6.trans a6⟩
  values := ⟨fun u c => (k.values.1 u c).trans (h.values.1 u c), fun u c => (k.values.2 u c).trans (h.values.2 u c)⟩
  seq := k.seq.trans h.seq
  agenda := fun e he => k.agenda e (h.agenda e he)

theorem Kept.mem {s t : State} {a : Nat} (h : Kept s t a) : SameMemory s t := by
  have e : t = { s with agents := t.agents, agenda := t.agenda } := by rw [← h.rest]
  rw [e]
  exact ⟨fun _ => rfl, fun _ => rfl, fun _ => rfl⟩

theorem Kept.now {s t : State} {a : Nat} (h : Kept s t a) : t.now = s.now := by rw [← h.rest]

theorem Kept.cur {s t : State} {a : Nat} (h : Kept s t a) : t.cur = s.cur := by rw [← h.rest]

theorem Kept.onlyComputes {s t : State} (h : Kept s t s.cur.a) : OnlyComputes s t :=
  ⟨⟨h.rest, h.mem, h.regs, h.others, h.wings⟩, h.values, h.seq⟩

theorem kept_addEntry (s : State) (e : Entry) (a : Nat) : Kept s (addEntry s e) a :=
  ⟨rfl, fun _ _ => rfl, rfl, ⟨rfl, rfl, rfl, rfl, rfl, rfl⟩, ⟨fun _ _ => rfl, fun _ _ => rfl⟩, rfl,
    fun x hx => (mem_addEntry s e x).2 (.inr hx)⟩

theorem kept_sched (s : State) (t p : Nat) (i : Instr) (o : Occ) (a : Nat) : Kept s (sched s t p i o) a := kept_addEntry s _ a

/-- An update of the front bank that keeps its registers, values and place. -/
theorem kept_modBk (s : State) (a : Nat) (f : Bank → Bank)
    (hr : (f (bk s a)).g = (bk s a).g ∧ (f (bk s a)).p = (bk s a).p ∧ (f (bk s a)).v = (bk s a).v ∧ (f (bk s a)).m = (bk s a).m ∧
      (f (bk s a)).h = (bk s a).h ∧ (f (bk s a)).c = (bk s a).c)
    (hp : ∀ k, kget 0 (f (bk s a)).x.ports k = kget 0 (bk s a).x.ports k)
    (hl : ∀ k, (kget {} (f (bk s a)).x.latches k).val = (kget {} (bk s a).x.latches k).val)
    (hq : seqPlace (f (bk s a)).q = seqPlace (bk s a).q) :
    Kept s (modBk s a f) a where
  rest := rfl
  others := fun b hb => ag_modBk_ne s f hb
  wings := by simp
  regs := by simpa [SameRegs] using hr
  values := by
    refine ⟨fun u c => ?_, fun u c => ?_⟩
    · simpa [portR] using hp (pk u c)
    · simpa [latchOf] using hl (pk u c)
  seq := by simpa using hq
  agenda := fun e he => he

/-- An update of the transport state that keeps ports and latch values. -/
theorem kept_modX (s : State) (a : Nat) (f : Xport → Xport) (hp : ∀ k, kget 0 (f (bk s a).x).ports k = kget 0 (bk s a).x.ports k)
    (hl : ∀ k, (kget {} (f (bk s a).x).latches k).val = (kget {} (bk s a).x.latches k).val) : Kept s (modX s a f) a :=
  kept_modBk s a _ ⟨rfl, rfl, rfl, rfl, rfl, rfl⟩ hp hl rfl

/-- An update of an agent that keeps its banks. -/
theorem kept_modAg (s : State) (a : Nat) (f : Agent → Agent) (hf : (f (ag s a)).front = (ag s a).front) (hw : (f (ag s a)).wings = (ag s a).wings) :
    Kept s (modAg s a f) a where
  rest := rfl
  others := fun b hb => ag_modAg_ne s f hb
  wings := by simpa using hw
  regs := by simp [SameRegs, bk, hf]
  values := by simp [SameValues, portR, latchOf, bk, hf]
  seq := by simp [bk, hf]
  agenda := fun e he => he

theorem kept_perfAdd (s : State) (a c n : Nat) : Kept s (perfAdd s a c n) a :=
  kept_modBk s a _ ⟨rfl, rfl, rfl, rfl, rfl, rfl⟩ (fun _ => rfl) (fun _ => rfl) rfl

theorem kept_modRun (s : State) (a : Nat) (f : Run → Run) : Kept s (modRun s a f) a :=
  kept_modBk s a _ ⟨rfl, rfl, rfl, rfl, rfl, rfl⟩ (fun _ => rfl) (fun _ => rfl) rfl

theorem kept_foldl {α : Type} (g : State → α → State) (a : Nat) (hg : ∀ s x, Kept s (g s x) a) (l : List α) (s : State) :
    Kept s (l.foldl g s) a := by
  induction l generalizing s with
  | nil => exact Kept.refl s a
  | cons x l ih => exact (hg s x).trans (ih _)

theorem kept_schedLandings (s : State) (a b : Nat) (u : Sock) : Kept s (schedLandings s a u) b :=
  kept_foldl _ b (fun s _ => kept_sched s _ _ _ _ b) _ s

theorem kept_fly (s : State) (a : Nat) (u : Sock) (c n : Nat) (v : Row) : Kept s (fly s a u c n v) a :=
  (kept_modX s a _ (fun _ => rfl) (fun _ => rfl)).trans (kept_sched _ _ _ _ _ a)

theorem kept_pend (s : State) (a : Nat) (u : Sock) (i n : Nat) (w : RegWrite) : Kept s (pend s a u i (some n) w) a :=
  (kept_modX s a _ (fun _ => rfl) (fun _ => rfl)).trans (kept_sched _ _ _ _ _ a)

theorem kept_occupy (s : State) (a : Nat) (u : Sock) (n : Nat) : Kept s (occupy s a u n) a :=
  kept_modX s a _ (fun _ => rfl) (fun _ => rfl)

theorem unstop_ports (x : Xport) (u : Sock) (t : Nat) : (unstop x u t).ports = x.ports := by
  unfold unstop; split <;> rfl

theorem unstop_latches (x : Xport) (u : Sock) (t : Nat) : (unstop x u t).latches = x.latches := by
  unfold unstop; split <;> rfl

theorem kept_readLatch (s : State) (a : Nat) (u : Sock) (c : Nat) : Kept s (readLatch s a u c) a := by
  have h1 : Kept s (modX s a fun x => { x with latches := kmod {} x.latches (pk u c) fun l => { l with full := false } }) a := by
    refine kept_modX s a _ (fun _ => rfl) fun k => ?_
    by_cases h : k = pk u c
    · subst h; simp
    · simp [kget_kmod_ne _ _ _ h]
  unfold readLatch
  simp only
  split
  · split
    · refine h1.trans (Kept.trans ?_ (kept_schedLandings _ a a u))
      exact kept_modX _ a _ (fun _ => by rw [unstop_ports]) fun _ => by rw [unstop_latches]
    · exact h1
  · exact h1

theorem kept_sourced (s : State) (m : Trig) : Kept s (sourced s m) s.cur.a := by
  unfold sourced
  split
  · exact kept_readLatch s _ _ _
  · exact Kept.refl s _

theorem bk_modAg_front (s : State) (a : Nat) (f : Agent → Agent) : bk (modAg s a f) a = (f (ag s a)).front := by simp [bk]

@[simp] theorem perfAdd_x (s : State) (a c n : Nat) : (bk (perfAdd s a c n) a).x = (bk s a).x := by simp [perfAdd]
@[simp] theorem modRun_x (s : State) (a : Nat) (f : Run → Run) : (bk (modRun s a f) a).x = (bk s a).x := by simp [modRun]
@[simp] theorem modQ_x (s : State) (a : Nat) (f : Seq → Seq) : (bk (modQ s a f) a).x = (bk s a).x := by simp [modQ]

/-- What `noteIssued` does but for the end of the bundle, which it schedules. -/
theorem noteIssued_split (s : State) (a : Nat) (hdr : BitVec 64) :
    ∃ x, noteIssued s a hdr = sched x (x.now + (header hdr).hold) priEnd .bundleComplete (.at a) ∧ Kept s x a ∧ (bk x a).x = (bk s a).x := by
  refine ⟨_, rfl, ?_, ?_⟩
  · refine Kept.trans ?_ (kept_modAg _ a _ rfl rfl)
    refine Kept.trans ?_ (kept_perfAdd _ a _ _)
    refine Kept.trans ?_ (kept_perfAdd _ a _ _)
    refine Kept.trans ?_ (kept_modRun _ a _)
    exact kept_modBk s a _ ⟨rfl, rfl, rfl, rfl, rfl, rfl⟩ (fun _ => rfl) (fun _ => rfl) rfl
  · rw [bk_modAg_front]
    exact (perfAdd_x _ _ _ _).trans ((perfAdd_x _ _ _ _).trans ((modRun_x _ _ _).trans (modQ_x _ _ _)))

theorem kept_noteIssued (s : State) (a : Nat) (hdr : BitVec 64) : Kept s (noteIssued s a hdr) a := by
  obtain ⟨x, hx, hk, -⟩ := noteIssued_split s a hdr
  rw [hx]
  exact hk.trans (kept_sched _ _ _ _ _ a)

theorem noteIssued_x (s : State) (a : Nat) (hdr : BitVec 64) : (bk (noteIssued s a hdr) a).x = (bk s a).x := by
  obtain ⟨x, hx, -, hk⟩ := noteIssued_split s a hdr
  rw [hx, bk_sched, hk]

/-- A bundle that has issued completes its last cycle later (R146, R183). -/
theorem noteIssued_comes (s : State) (a : Nat) (hdr : BitVec 64) :
    ⟨s.now + (header hdr).hold, priEnd, .ev .bundleComplete (.at a)⟩ ∈ (noteIssued s a hdr).agenda := by
  obtain ⟨x, hx, hk, -⟩ := noteIssued_split s a hdr
  rw [hx, hk.now]
  exact (mem_sched _ _ _ _ _ _).2 (.inl rfl)

/-! ### Results of an operation that has issued -/

theorem resultDue_noteIssued {s t : State} {a : Nat} {u : Sock} {c d : Nat} {v : Row} (h : ResultDue s t a u c d v) (hdr : BitVec 64) :
    ResultDue s (noteIssued t a hdr) a u c d v := by
  refine ⟨?_, (kept_noteIssued t a hdr).agenda _ h.2⟩
  rw [noteIssued_x]
  exact h.1

theorem writeDue_noteIssued {t : State} {a : Nat} {u : Sock} {d : Nat} {w : RegWrite} (h : WriteDue t a u d w) (hdr : BitVec 64) :
    WriteDue (noteIssued t a hdr) a u d w := by
  refine ⟨?_, (kept_noteIssued t a hdr).agenda _ h.2⟩
  rw [noteIssued_x]
  exact h.1

theorem fly_x (s : State) (a : Nat) (u : Sock) (c n : Nat) (v : Row) :
    (bk (fly s a u c n v) a).x = { (bk s a).x with flights := (bk s a).x.flights ++
      [{ id := 0, u := u, code := c, due := some (s.now + n), val := v, locked := lockedMode s a u, pre := false }] } := by
  simp [fly, flyId, flyMode, modX]

theorem resultDue_fly (s : State) (a : Nat) (u : Sock) (c n : Nat) (v : Row) : ResultDue s (fly s a u c n v) a u c (s.now + n) v := by
  refine ⟨?_, ?_⟩
  · rw [fly_x]
    exact ⟨_, List.mem_append_right _ (List.mem_singleton.2 rfl), rfl, rfl, rfl, rfl, rfl, rfl⟩
  · exact (mem_sched _ _ _ _ _ _).2 (.inl rfl)

theorem writeDue_pend (s : State) (a : Nat) (u : Sock) (i n : Nat) (w : RegWrite) : WriteDue (pend s a u i (some n) w) a u n w := by
  refine ⟨?_, (mem_sched _ _ _ _ _ _).2 (.inl rfl)⟩
  simp only [pend, bk_sched, modX, bk_modBk_same]
  exact ⟨_, List.mem_append_right _ (List.mem_singleton.2 rfl), rfl, rfl, rfl⟩

/-- The landing mode of a socket depends on `fumode` alone (R148). -/
theorem Kept.lockedMode {s t : State} {a : Nat} (h : Kept s t a) (u : Sock) : lockedMode t a u = lockedMode s a u := by
  simp only [Sys2Proof.Machine.lockedMode, h.regs.2.2.2.2.2]

/-- An effect that keeps what an operation that only computes keeps. -/
theorem kept_issued {s : State} {m : Trig} {e : State → State} (h : Kept (sourced s m) (e (sourced s m)) s.cur.a) :
    Kept s (issued s m e) s.cur.a :=
  (kept_sourced s m).trans (h.trans (kept_noteIssued _ _ _))

/-- A result on its way in the same landing mode. -/
theorem resultDue_mode {s s' t : State} {a : Nat} {u : Sock} {c d : Nat} {v : Row} (h : ResultDue s t a u c d v)
    (hm : lockedMode s a u = lockedMode s' a u) : ResultDue s' t a u c d v := by
  obtain ⟨⟨f, hf, h1, h2, h3, h4, h5, h6⟩, hg⟩ := h
  exact ⟨⟨f, hf, h1, h2, h3, h4, h5.trans hm, h6⟩, hg⟩

/-- A result that the effect puts on its way is on its way after the issue. -/
theorem resultDue_issued {s : State} {m : Trig} {e : State → State} {u : Sock} {c d : Nat} {v : Row}
    (h : ResultDue (sourced s m) (e (sourced s m)) s.cur.a u c d v) : ResultDue s (issued s m e) s.cur.a u c d v :=
  resultDue_mode (resultDue_noteIssued h s.cur.hdr) ((kept_sourced s m).lockedMode u)

theorem writeDue_issued {s : State} {m : Trig} {e : State → State} {u : Sock} {d : Nat} {w : RegWrite}
    (h : WriteDue (e (sourced s m)) s.cur.a u d w) : WriteDue (issued s m e) s.cur.a u d w := writeDue_noteIssued h s.cur.hdr

theorem sourced_now (s : State) (m : Trig) : (sourced s m).now = s.now := (kept_sourced s m).now

/-- The operation of one result (R146, R147): it goes, its result is due `lat` cycles later, and it only computes. -/
theorem result_issues {s : State} {m : Trig} {f : OpFn} {u : Sock} {lat : Nat} {v : Word} (hr : Ready s m) (hf : Free s u 0x20 1)
    (h : f (ctxOf s m) s = result (ctxOf s m) s u lat v) :
    ∃ t, execOne m f s = .next t ∧ ResultDue s t s.cur.a u 0x20 (s.now + lat) (rowOf v) ∧ OnlyComputes s t := by
  have hg : f (ctxOf s m) s = .go fun t => fly t s.cur.a u 0x20 lat (rowOf v) := by
    rw [h]
    have h2 : ¬ 32 ≤ inFlight s s.cur.a u 0x20 := by have := hf.2; omega
    simp [result, ctxOf, hf.1, h2]
  refine ⟨_, execOne_go hr hg, ?_, (kept_issued (kept_fly _ _ _ _ _ _)).onlyComputes⟩
  have := resultDue_issued (e := fun t => fly t s.cur.a u 0x20 lat (rowOf v)) (resultDue_fly (sourced s m) s.cur.a u 0x20 lat (rowOf v))
  rwa [sourced_now] at this

/-- An operation without a result issues. -/
theorem effect_issues {s : State} {m : Trig} {f : OpFn} {u : Sock} {e : State → State} (hr : Ready s m) (hs : sockHeld s s.cur.a u = false)
    (h : f (ctxOf s m) s = effect (ctxOf s m) s u e) : execOne m f s = .next (issued s m e) :=
  execOne_go hr (by rw [h]; simp [effect, ctxOf, hs])

/-! ### Operations of the sequencer -/

theorem rest_trans {s t u : State} (h : { t with agents := s.agents, agenda := s.agenda } = s)
    (k : { u with agents := t.agents, agenda := t.agenda } = t) : { u with agents := s.agents, agenda := s.agenda } = s := by
  rw [← k] at h
  simpa using h

theorem rest_mem {s t : State} (h : { t with agents := s.agents, agenda := s.agenda } = s) : SameMemory s t := by
  have e : t = { s with agents := t.agents, agenda := t.agenda } := by rw [← h]
  rw [e]
  exact ⟨fun _ => rfl, fun _ => rfl, fun _ => rfl⟩

/-- A change of the sequencer alone. -/
structure Moved (s t : State) (a : Nat) (f : Seq → Seq) : Prop where
  rest : { t with agents := s.agents, agenda := s.agenda } = s
  others : ∀ b, b ≠ a → ag t b = ag s b
  wings : (ag t a).wings = (ag s a).wings
  regs : SameRegs s t a
  values : SameValues s t a
  seq : (bk t a).q = f (bk s a).q
  agenda : ∀ e ∈ s.agenda, e ∈ t.agenda

theorem moved_modQ (s : State) (a : Nat) (f : Seq → Seq) : Moved s (modQ s a f) a f where
  rest := rfl
  others := fun _ hb => ag_modBk_ne s _ hb
  wings := by simp [modQ]
  regs := by simp [SameRegs, modQ]
  values := by simp [SameValues, modQ, portR, latchOf]
  seq := by simp [modQ]
  agenda := fun _ h => h

/-- One change of the sequencer after another. -/
theorem Moved.trans {s t u : State} {a : Nat} {f g : Seq → Seq} (h : Moved s t a f) (k : Moved t u a g) : Moved s u a (g ∘ f) where
  rest := by
    have h1 := h.rest
    have h2 := k.rest
    rw [← h2] at h1
    simpa using h1
  others := fun b hb => (k.others b hb).trans (h.others b hb)
  wings := k.wings.trans h.wings
  regs := by
    obtain ⟨a1, a2, a3, a4, a5, a6⟩ := h.regs
    obtain ⟨b1, b2, b3, b4, b5, b6⟩ := k.regs
    exact ⟨b1.trans a1, b2.trans a2, b3.trans a3, b4.trans a4, b5.trans a5, b6.trans a6⟩
  values := ⟨fun u c => (k.values.1 u c).trans (h.values.1 u c), fun u c => (k.values.2 u c).trans (h.values.2 u c)⟩
  seq := by rw [k.seq, h.seq]; rfl
  agenda := fun e he => k.agenda e (h.agenda e he)

theorem Kept.moved {s t : State} {a : Nat} (h : Kept s t a) (hq : (bk t a).q = (bk s a).q) : Moved s t a id :=
  ⟨h.rest, h.others, h.wings, h.regs, h.values, hq, h.agenda⟩

theorem fly_q (s : State) (a : Nat) (u : Sock) (c n : Nat) (v : Row) : (bk (fly s a u c n v) a).q = (bk s a).q := by
  simp [fly, flyId, flyMode, modX]

theorem moved_fly (s : State) (a : Nat) (u : Sock) (c n : Nat) (v : Row) : Moved s (fly s a u c n v) a id :=
  (kept_fly s a u c n v).moved (fly_q s a u c n v)

theorem schedLandings_agents (s : State) (a : Nat) (u : Sock) : (schedLandings s a u).agents = s.agents := by
  have h : ∀ (l : List Nat) (s : State), (l.foldl (fun s d => sched s (max d s.now) priLand .resultLanding (.unit a u)) s).agents = s.agents := by
    intro l
    induction l with
    | nil => exact fun _ => rfl
    | cons d l ih => exact fun s => ih _
  exact h _ s

theorem sourced_q (s : State) (m : Trig) : (bk (sourced s m) s.cur.a).q = (bk s s.cur.a).q := by
  unfold sourced
  split
  · unfold readLatch
    simp only
    have h : ∀ (s t : State) (a : Nat), s.agents = t.agents → bk s a = bk t a := fun s t a h => by simp [bk, ag, h]
    split
    · split
      · rw [h _ _ _ (schedLandings_agents _ _ _)]; simp [modX]
      · simp [modX]
    · simp [modX]
  · rfl

/-- What an operation that only changes the sequencer comes to. -/
theorem moved_issued {s : State} {m : Trig} {e : State → State} {g : Seq → Seq} (h : Moved (sourced s m) (e (sourced s m)) s.cur.a g) :
    OnlySequences s (issued s m e) g := by
  have h1 := (kept_sourced s m).moved (sourced_q s m)
  have h2 := h1.trans h
  have h3 := kept_noteIssued (e (sourced s m)) s.cur.a s.cur.hdr
  refine ⟨⟨?_, ?_, ?_, ?_, ?_⟩, ?_, ?_⟩
  · exact rest_trans h2.rest h3.rest
  · exact rest_mem (rest_trans h2.rest h3.rest)
  · obtain ⟨a1, a2, a3, a4, a5, a6⟩ := h2.regs
    obtain ⟨b1, b2, b3, b4, b5, b6⟩ := h3.regs
    exact ⟨b1.trans a1, b2.trans a2, b3.trans a3, b4.trans a4, b5.trans a5, b6.trans a6⟩
  · exact fun b hb => (h3.others b hb).trans (h2.others b hb)
  · exact h3.wings.trans h2.wings
  · exact ⟨fun u c => (h3.values.1 u c).trans (h2.values.1 u c), fun u c => (h3.values.2 u c).trans (h2.values.2 u c)⟩
  · exact h3.seq.trans (by rw [h2.seq]; rfl)

end Sys2Proof.Laws
end

