-- ==== Sys2Proof/Laws/Memory.lean ====
section
/-! SUPPORT. The memories: every operation on them keeps the canonical form, a read after a write of the same byte gives what was written, and a
write leaves every other byte as it was. -/

namespace Sys2Proof.Laws

open Sys2Proof.Machine

/-! ### The canonical form -/

theorem memWf_iff (s : State) : s.memWf = true ↔ kwf (0 : Byte) s.sram = true ∧ kwf (0 : Byte) s.hbm = true ∧ kwf (0 : Byte) s.host = true := by
  simp [State.memWf, Memory.wf, and_assoc]

/-- A change that leaves the three memories alone keeps their form. -/
theorem memWf_of_eq {s t : State} (h : s.memWf = true) (h1 : t.sram = s.sram) (h2 : t.hbm = s.hbm) (h3 : t.host = s.host) : t.memWf = true := by
  simpa [State.memWf, h1, h2, h3] using h

theorem memWf_reset : State.reset.memWf = true := rfl

theorem memWf_writeRaw {s : State} (h : s.memWf = true) (addr : Nat) (b : Byte) : (writeRaw s addr b).memWf = true := by
  obtain ⟨h1, h2, h3⟩ := (memWf_iff s).1 h
  unfold writeRaw
  split
  · exact h
  · exact (memWf_iff _).2 ⟨kwf_kset _ _ _ _ h1, h2, h3⟩

theorem memWf_writeByte {s : State} (h : s.memWf = true) (addr : Nat) (b : Byte) : (writeByte s addr b).memWf = true := memWf_writeRaw h _ _

theorem memWf_storeN (n : Nat) {s : State} (h : s.memWf = true) (addr v : Nat) : (storeN s addr n v).memWf = true := by
  induction n generalizing s addr v with
  | zero => exact h
  | succ n ih => exact ih (memWf_writeByte h _ _) _ _

theorem memWf_store32 {s : State} (h : s.memWf = true) (addr : Nat) (v : Word) : (store32 s addr v).memWf = true := memWf_storeN 4 h _ _

theorem memWf_clearPoison {s : State} (h : s.memWf = true) (addr n : Nat) : (clearPoison s addr n).memWf = true := memWf_of_eq h rfl rfl rfl

theorem memWf_wakeBank {s : State} (h : s.memWf = true) (k : Nat) : (wakeBank s k).memWf = true := by
  unfold wakeBank
  split
  · exact h
  · exact memWf_of_eq h rfl rfl rfl

theorem memWf_plainStore {s : State} (h : s.memWf = true) (addr n v : Nat) : (plainStore s addr n v).memWf = true := by
  have h1 := memWf_wakeBank (memWf_storeN n (memWf_clearPoison h addr n) addr v) (bankKey addr)
  unfold plainStore
  split
  · exact h1
  · exact memWf_wakeBank h1 _

theorem memWf_setHbmByte {s : State} (h : s.memWf = true) (pa : Nat) (b : Byte) : (setHbmByte s pa b).memWf = true := by
  obtain ⟨h1, h2, h3⟩ := (memWf_iff s).1 h
  exact (memWf_iff _).2 ⟨h1, kwf_kset _ _ _ _ h2, h3⟩

theorem memWf_setHbmN (n : Nat) {s : State} (h : s.memWf = true) (pa v : Nat) : (setHbmN s pa n v).memWf = true := by
  induction n generalizing s pa v with
  | zero => exact h
  | succ n ih => exact ih (memWf_setHbmByte h _ _) _ _

theorem memWf_setHostByte {s : State} (h : s.memWf = true) (pa : Nat) (b : Byte) : (setHostByte s pa b).memWf = true := by
  obtain ⟨h1, h2, h3⟩ := (memWf_iff s).1 h
  exact (memWf_iff _).2 ⟨h1, h2, kwf_kset _ _ _ _ h3⟩

theorem memWf_setPhysRaw {s : State} (h : s.memWf = true) (p : Phys) (b : Nat) : (setPhysRaw s p b).memWf = true := by
  unfold setPhysRaw
  split
  · exact memWf_setHostByte h _ _
  · split
    · exact memWf_setHbmByte h _ _
    · exact memWf_setHbmN 64 h _ _

theorem memWf_setPhysByte {s : State} (h : s.memWf = true) (p : Phys) (b : Nat) : (setPhysByte s p b).memWf = true := memWf_setPhysRaw h _ _

theorem memWf_setPhysN (n : Nat) {s : State} (h : s.memWf = true) (p : Phys) (v : Nat) : (setPhysN s p n v).memWf = true := by
  induction n generalizing s p v with
  | zero => exact h
  | succ n ih => exact ih (memWf_setPhysByte h _ _) _ _

theorem memWf_dropHostLines {s : State} (h : s.memWf = true) (pa n : Nat) : (dropHostLines s pa n).memWf = true := by
  unfold dropHostLines
  split
  · exact h
  · exact memWf_of_eq h rfl rfl rfl

theorem memWf_devWrite {s : State} (h : s.memWf = true) (pa n v : Nat) : (devWrite s pa n v).memWf = true :=
  memWf_dropHostLines (memWf_of_eq (s := setHbmN s pa n v) (t := clearHpoison (setHbmN s pa n v) pa n) (memWf_setHbmN n h pa v) rfl rfl rfl) pa n

theorem memWf_devWritePhys {s : State} (h : s.memWf = true) (p : Phys) (n v : Nat) : (devWritePhys s p n v).memWf = true := by
  unfold devWritePhys
  split
  · exact memWf_setPhysN n h p v
  · exact memWf_dropHostLines (s := clearHpoison (setPhysN s p n v) (hbmFront s p.pa) n) (memWf_of_eq (memWf_setPhysN n h p v) rfl rfl rfl) p.pa n

theorem memWf_setRegF {s : State} (h : s.memWf = true) (off hi lo v : Nat) : (setRegF s off hi lo v).memWf = true := memWf_of_eq h rfl rfl rfl

theorem memWf_errLost {s : State} (h : s.memWf = true) (m : KMap Bool) : ({ s with errLost := m } : State).memWf = true :=
  memWf_of_eq h rfl rfl rfl

theorem memWf_ite {c : Prop} [Decidable c] {s t : State} (hs : s.memWf = true) (ht : t.memWf = true) : (if c then s else t).memWf = true := by
  split
  · exact hs
  · exact ht

/-- An error record keeps the form of the memories (R388). -/
theorem memWf_errorRecord {s : State} (h : s.memWf = true) (e : ErrRec) : (errorRecord s e).memWf = true := by
  unfold errorRecord
  dsimp only
  refine memWf_ite ?_ ?_
  · exact memWf_errLost (memWf_setRegF h _ _ _ _) _
  · exact memWf_errLost (memWf_setRegF (memWf_devWrite h _ _ _) _ _ _ _) _

/-- The bytes of a number stand from its key on, within the room of its depth, and none of them is zero. -/
theorem kbytes_spec (d : Nat) (v b : Nat) :
    (∀ e ∈ kbytes d v b, b ≤ e.1 ∧ e.1 < b + 2 ^ d ∧ e.2 ≠ 0) ∧ (kbytes d v b).Pairwise fun x y => x.1 < y.1 := by
  induction d generalizing v b with
  | zero =>
    unfold kbytes
    split
    · simp
    · rename_i h
      refine ⟨?_, by simp⟩
      intro e he
      rw [List.mem_singleton.1 he]
      refine ⟨Nat.le_refl _, by simp, ?_⟩
      intro hz
      apply h
      have := congrArg BitVec.toNat hz
      simpa using this
  | succ d ih =>
    unfold kbytes
    split
    · simp
    · obtain ⟨h1, h2⟩ := ih (v % 256 ^ 2 ^ d) b
      obtain ⟨h3, h4⟩ := ih (v / 256 ^ 2 ^ d) (b + 2 ^ d)
      have hp : 2 ^ (d + 1) = 2 ^ d + 2 ^ d := by rw [Nat.pow_succ, Nat.mul_two]
      refine ⟨?_, ?_⟩
      · intro e he
        rcases List.mem_append.1 he with he | he
        · obtain ⟨a1, a2, a3⟩ := h1 e he
          exact ⟨a1, by omega, a3⟩
        · obtain ⟨a1, a2, a3⟩ := h3 e he
          exact ⟨by omega, by omega, a3⟩
      · refine List.pairwise_append.2 ⟨h2, h4, ?_⟩
        intro x hx y hy
        have := (h1 x hx).2.1
        have := (h3 y hy).1
        omega

theorem kwf_kbytes (d v : Nat) : kwf (0 : Byte) (kbytes d v 0) = true :=
  (kwf_iff _ _).2 ⟨(kbytes_spec d v 0).2, fun e he => ((kbytes_spec d v 0).1 e he).2.2⟩

theorem memWf_fillBytes {s : State} (h : s.memWf = true) (addr n v : Nat) : (fillBytes s addr n v).memWf = true := by
  unfold fillBytes
  split
  · obtain ⟨h1, h2, h3⟩ := (memWf_iff s).1 h
    exact (memWf_iff _).2 ⟨kwf_kpaste _ _ _ _ _ h1 (kwf_kbytes _ _), h2, h3⟩
  · exact memWf_plainStore h _ _ _

theorem memWf_putImage {s : State} (h : s.memWf = true) (pa n v : Nat) : (putImage s pa n v).memWf = true := by
  obtain ⟨h1, h2, h3⟩ := (memWf_iff s).1 h
  unfold putImage
  split
  · exact (memWf_iff _).2 ⟨h1, kwf_kpaste _ _ _ _ _ h2 (kwf_kbytes _ _), h3⟩
  · exact h

theorem memWf_holdSlot {s : State} (h : s.memWf = true) (slot : Nat) : (holdSlot s slot).memWf = true := by
  unfold holdSlot
  exact memWf_ite h (memWf_setRegF h _ _ _ _)

/-- A record of a line, and the hold that it brings, keep the form of the memories (R392, R393). -/
theorem memWf_recordLine {s : State} (h : s.memWf = true) (line : Nat) : (recordLine s line).memWf = true := by
  unfold recordLine hardError
  dsimp only
  refine memWf_holdSlot (memWf_errorRecord ?_ _) _
  exact memWf_of_eq h rfl rfl rfl

theorem memWf_saveBytes {s : State} (h : s.memWf = true) (addr pa n : Nat) : (saveBytes s addr pa n).memWf = true := by
  have hf : ∀ (l : List (Nat × Bool)) (s : State), s.memWf = true → (l.foldl (fun s e => recordLine s (addr / 64 + e.1)) s).memWf = true := by
    intro l
    induction l with
    | nil => exact fun s h => h
    | cons e l ih => exact fun s h => ih _ (memWf_recordLine h _)
  unfold saveBytes
  split
  · exact h
  · obtain ⟨h1, h2, h3⟩ := (memWf_iff _).1 (hf ((kslice s.poison (addr / 64) (n / 64)).filter (·.2)) s h)
    exact (memWf_iff _).2 ⟨h1, kwf_kpaste _ _ _ _ _ h2 (kwf_kslice _ _ _ _ h1), h3⟩

theorem memWf_fillFrom {s : State} (h : s.memWf = true) (addr pa n : Nat) (keep : Bool) : (fillFrom s addr pa n keep).memWf = true := by
  obtain ⟨h1, h2, h3⟩ := (memWf_iff s).1 h
  refine (memWf_iff _).2 ⟨?_, h2, h3⟩
  refine kwf_kpaste _ _ _ _ _ h1 ?_
  split
  · exact kwf_kslice _ _ _ _ h2
  · rfl

/-! ### Reads after writes -/

/-- The byte just written is read, where the address is not reserved (R16). -/
theorem readRaw_writeRaw_same (s : State) (addr : Nat) (b : Byte) (h : offReserved (addrOff addr) = false) :
    readRaw (writeRaw s addr b) addr = b := by simp [readRaw, writeRaw, h]

/-- Another byte is as it was. -/
theorem readRaw_writeRaw_ne (s : State) {x addr : Nat} (b : Byte) (h : x % 2 ^ 32 ≠ addr % 2 ^ 32) :
    readRaw (writeRaw s addr b) x = readRaw s x := by
  unfold readRaw writeRaw
  split
  · rfl
  · split
    · rfl
    · exact kget_kset_ne _ _ _ h

/-- The reserved range reads zero, and a write to it is ignored (R16). -/
theorem readRaw_reserved (s : State) (addr : Nat) (h : offReserved (addrOff addr) = true) : readRaw s addr = 0 := by simp [readRaw, h]

theorem writeRaw_reserved (s : State) (addr : Nat) (b : Byte) (h : offReserved (addrOff addr) = true) : writeRaw s addr b = s := by
  simp [writeRaw, h]

@[simp] theorem hbmByte_setHbmByte_same (s : State) (pa : Nat) (b : Byte) : hbmByte (setHbmByte s pa b) pa = b := by simp [hbmByte, setHbmByte]

theorem hbmByte_setHbmByte_ne (s : State) {x pa : Nat} (b : Byte) (h : x ≠ pa) : hbmByte (setHbmByte s pa b) x = hbmByte s x := by
  simp [hbmByte, setHbmByte, kget_kset_ne _ _ _ h]

@[simp] theorem hostByte_setHostByte_same (s : State) (pa : Nat) (b : Byte) : hostByte (setHostByte s pa b) pa = b := by
  simp [hostByte, setHostByte]

theorem hostByte_setHostByte_ne (s : State) {x pa : Nat} (b : Byte) (h : x ≠ pa) : hostByte (setHostByte s pa b) x = hostByte s x := by
  simp [hostByte, setHostByte, kget_kset_ne _ _ _ h]

/-- The pairs, which map addresses, are not memory: a store changes none of them. -/
@[simp] theorem writeRaw_pairs (s : State) (addr : Nat) (b : Byte) : (writeRaw s addr b).pairs = s.pairs := by
  unfold writeRaw; split <;> rfl

theorem frontAddr_writeRaw (s : State) (x addr : Nat) (b : Byte) : frontAddr (writeRaw s addr b) x = frontAddr s x := by
  unfold writeRaw; split <;> rfl

/-- A plain read after a plain write of the same address (R103). -/
theorem readByte_writeByte_same (s : State) (addr : Nat) (b : Byte) (h : offReserved (addrOff (frontAddr s addr)) = false) :
    readByte (writeByte s addr b) addr = b := by
  unfold readByte writeByte
  rw [frontAddr_writeRaw]
  exact readRaw_writeRaw_same s _ b h

theorem readByte_writeByte_ne (s : State) {x addr : Nat} (b : Byte) (h : frontAddr s x % 2 ^ 32 ≠ frontAddr s addr % 2 ^ 32) :
    readByte (writeByte s addr b) x = readByte s x := by
  unfold readByte writeByte
  rw [frontAddr_writeRaw]
  exact readRaw_writeRaw_ne s b h

theorem frontAddr_storeN (n : Nat) (s : State) (x addr v : Nat) : frontAddr (storeN s addr n v) x = frontAddr s x := by
  induction n generalizing s addr v with
  | zero => rfl
  | succ n ih => exact (ih _ _ _).trans (frontAddr_writeRaw _ _ _ _)

/-- A store of `n` bytes leaves every byte that none of its addresses maps to. -/
theorem readByte_storeN_ne (n : Nat) (s : State) (x addr v : Nat)
    (h : ∀ i, i < n → frontAddr s x % 2 ^ 32 ≠ frontAddr s (addr + i) % 2 ^ 32) : readByte (storeN s addr n v) x = readByte s x := by
  induction n generalizing s addr v with
  | zero => rfl
  | succ n ih =>
    have h0 := h 0 (Nat.succ_pos n)
    refine (ih (writeByte s addr (BitVec.ofNat 8 v)) (addr + 1) (v / 256) ?_).trans (readByte_writeByte_ne s _ (by simpa using h0))
    intro i hi
    have := h (i + 1) (Nat.succ_lt_succ hi)
    simp only [writeByte, frontAddr_writeRaw]
    rwa [Nat.add_assoc, Nat.add_comm 1 i]

/-! ### Without pairs (R103) -/

/-- Where no pair entry is set, an offset is its own front image (R103). -/
theorem pairMap_noPairs {s : State} (h : s.pairs = []) (tile off : Nat) (sh : Bool) (l : List Nat) : pairMap s tile off sh l = off := by
  induction l with
  | nil => rfl
  | cons i is ih =>
    have hw : pairWord s tile i 0 = 0 := by unfold pairWord; rw [h]; rfl
    unfold pairMap
    rw [hw]
    exact ih

/-- Where no pair entry is set, an access is performed at its own address (R103). -/
theorem frontAddr_noPairs {s : State} (h : s.pairs = []) (addr : Nat) : frontAddr s addr = addr % 2 ^ 32 := by
  unfold frontAddr
  rw [pairMap_noPairs h]
  unfold addrTile addrOff
  omega

/-- A load is the load of its first bytes, and of the rest above them (R3). -/
theorem loadN_add (s : State) (addr m n : Nat) : loadN s addr (m + n) = loadN s addr m + 256 ^ m * loadN s (addr + m) n := by
  induction m generalizing addr with
  | zero => simp [loadN]
  | succ m ih =>
    rw [Nat.succ_add, loadN, ih (addr + 1), loadN, show addr + 1 + m = addr + (m + 1) by omega, Nat.pow_succ, Nat.mul_add, Nat.add_assoc,
      Nat.mul_comm (256 ^ m) 256, Nat.mul_assoc]

end Sys2Proof.Laws
end

