-- ==== Sys2Proof/Laws/Ops.lean ====
section
/-! SUPPORT. What each shared operation can answer, said once, and the frames of the shared steps of issue. -/

namespace Sys2Proof.Laws

open Sys2Proof.Machine

/-! ### Answers (R147, R150) -/

/-- A one-result operation holds for a lock stall, or goes and puts its result in flight. -/
theorem result_cases (x : OpCtx) (s : State) (u : Sock) (lat : Nat) (v : Word) (k : State → State) :
    ((sockHeld s x.a u = true ∨ 32 ≤ inFlight s x.a u 0x20) ∧ result x s u lat v k = .hold .lock) ∨
    (sockHeld s x.a u = false ∧ inFlight s x.a u 0x20 < 32 ∧ result x s u lat v k = .go fun t => k (fly t x.a u 0x20 lat (rowOf v))) := by
  unfold result
  by_cases h1 : sockHeld s x.a u = true
  · exact .inl ⟨.inl h1, by simp [h1]⟩
  · by_cases h2 : 32 ≤ inFlight s x.a u 0x20
    · exact .inl ⟨.inr h2, by simp [h2]⟩
    · exact .inr ⟨by simpa using h1, by omega, by simp [h1, h2]⟩

/-- A two-result operation holds for a lock stall, or goes and puts both in flight. -/
theorem result2_cases (x : OpCtx) (s : State) (u : Sock) (lat : Nat) (v w : Word) (k : State → State) :
    result2 x s u lat v w k = .hold .lock ∨
    (sockHeld s x.a u = false ∧ inFlight s x.a u 0x20 < 32 ∧ inFlight s x.a u 0x21 < 32 ∧
      result2 x s u lat v w k = .go fun t => k (fly (fly t x.a u 0x20 lat (rowOf v)) x.a u 0x21 lat (rowOf w))) := by
  unfold result2
  by_cases h1 : sockHeld s x.a u = true
  · exact .inl (by simp [h1])
  · by_cases h2 : 32 ≤ inFlight s x.a u 0x20
    · exact .inl (by simp [h2])
    · by_cases h3 : 32 ≤ inFlight s x.a u 0x21
      · exact .inl (by simp [h3])
      · exact .inr ⟨by simpa using h1, by omega, by omega, by simp [h1, h2, h3]⟩

/-- An operation without a result holds while its socket does, or goes. -/
theorem effect_cases (x : OpCtx) (s : State) (u : Sock) (k : State → State) :
    (sockHeld s x.a u = true ∧ effect x s u k = .hold .lock) ∨ (sockHeld s x.a u = false ∧ effect x s u k = .go k) := by
  unfold effect
  by_cases h : sockHeld s x.a u = true
  · exact .inl ⟨h, by simp [h]⟩
  · exact .inr ⟨by simpa using h, by simp [h]⟩

/-- A handle operation faults on a bad handle number or a bad handle, or goes on with its handle (R206, R212). -/
theorem withHandle_cases (x : OpCtx) (s : State) (roles : List Nat) (k : Nat → BitVec 128 → OpOut) :
    (16 ≤ x.t.toNat ∧ withHandle x s roles k = .fault 0x2A none) ∨
    (x.t.toNat < 16 ∧ ∃ c, handleCause (hReg s x.a x.t.toNat) roles = some c ∧ withHandle x s roles k = .fault c none) ∨
    (x.t.toNat < 16 ∧ handleCause (hReg s x.a x.t.toNat) roles = none ∧ withHandle x s roles k = k x.t.toNat (hReg s x.a x.t.toNat)) := by
  unfold withHandle handleNo
  by_cases h : x.t.toNat < 16
  · cases hc : handleCause (hReg s x.a x.t.toNat) roles with
    | none => exact .inr (.inr ⟨h, rfl, by simp [h, hc]⟩)
    | some c => exact .inr (.inl ⟨h, c, rfl, by simp [h, hc]⟩)
  · exact .inl ⟨by omega, by simp [h]⟩

/-- A cause of a handle is 0x2A or 0x28. -/
theorem handleCause_value {h : BitVec 128} {roles : List Nat} {c : Nat} (hc : handleCause h roles = some c) : c = 0x2A ∨ c = 0x28 := by
  unfold handleCause at hc
  split at hc
  · exact .inl (by simpa using hc.symm)
  · split at hc
    · exact .inr (by simpa using hc.symm)
    · exact absurd hc (by simp)

/-! ### Frames -/

theorem kept_schedIssue (s : State) (a t : Nat) : Kept s (schedIssue s a t) a := by
  unfold schedIssue
  split
  · exact Kept.refl s a
  · exact (kept_modAg s a _ rfl rfl).trans (kept_addEntry _ _ a)

theorem kept_chargeDelay (s : State) (a : Nat) (h : ∀ t, bookingOf s a = some t → False) : chargeDelay s a = s := by
  unfold chargeDelay
  cases hr : (bk s a).run with
  | none => rfl
  | some r =>
    cases hb : runBooking s r with
    | none => simp only [hb]
    | some b => exact (h b (by simp [bookingOf, hr, hb])).elim

/-- A hold of an unbooked step that no other step's booking keeps changes only its agent's counters and its agenda (R67, R319). -/
theorem kept_holdCycle (s : State) (a : Nat) (k : Hold) (hk : ∀ r, k ≠ .booked r)
    (hb : bookingOf s a = none ∧ ∀ c, bookingOf (perfAdd s a c 1) a = none) : Kept s (holdCycle s a k) a := by
  have h0 : ∀ t : State, bookingOf t a = none → Kept t
      (schedIssue (modAg t a fun g => { g with lastHold := (t.now + 1, holdState k) }) a (t.now + 1)) a :=
    fun t _ => (kept_modAg t a _ rfl rfl).trans (kept_schedIssue _ a _)
  have h1 : ∀ t : State, bookingOf t a = none → (if isWait k then chargeDelay t a else t) = t := by
    intro t ht
    split
    · exact kept_chargeDelay t a fun x hx => by simp [ht] at hx
    · rfl
  unfold holdCycle
  cases hc : holdCounter k with
  | none =>
    cases k <;> first | exact absurd rfl (hk _) | (simp only [h1 s hb.1]; exact h0 s hb.1)
  | some c =>
    cases k <;> first | exact absurd rfl (hk _) | (simp only [h1 _ (hb.2 c)]; exact (kept_perfAdd s a c 1).trans (h0 _ (hb.2 c)))

/-- Drawing a free value and taking an identifier only count. -/
@[simp] theorem draw_state (s : State) : (draw s).2 = { s with free := s.free + 1 } := rfl

@[simp] theorem draw_value (s : State) : (draw s).1 = s.free := rfl

/-- A register write leaves every other register. -/
theorem reg_setReg_ne (s : State) {x off : Nat} (v : BitVec 64) (h : x ≠ off) : reg (setReg s off v) x = reg s x := by
  simp [reg, setReg, kget_kset_ne _ _ _ h]

@[simp] theorem reg_setReg_same (s : State) (off : Nat) (v : BitVec 64) : reg (setReg s off v) off = v := by simp [reg, setReg]

end Sys2Proof.Laws
end

