-- ==== Sys2Proof/Laws/PerInstr.lean ====
section
/-! SUPPORT. Statements about every instruction, one lemma for each constructor: the decoder's opcode map reads what the encoder's table gives
(R173 to R175). -/

namespace Sys2Proof.Laws.OpcodeRead

/-- The socket, opcode and move that the encoder gives an operation are read back as that operation, which is well-formed exactly where its
move is. An event of the device has no opcode. -/
def Statement (i : Instr) : Prop :=
  match encOp i with
  | none => True
  | some x => decOp x.1 x.2.1 x.2.2 = some i ∧ instrWf i = trigWf x.2.2

/-! ### The four maps with qualifiers (R173, R202, R203) -/

theorem decOp_plain (u : IntUnit) (op : BitVec 12) (m : Trig) (h : op.extractLsb' 6 6 ≠ 0x08#6) (k : op.extractLsb' 4 8 ≠ 0x30#8) :
    decOp u.sock op m = decIntPlain u op.toNat m := by
  cases u <;> simp only [decOp, IntUnit.sock, decInt, if_neg h, if_neg k]

theorem decOp_cmp (u : IntUnit) (op : BitVec 12) (k : Nat) (pair : Fin 8) (m : Trig) (h : op.extractLsb' 6 6 = 0x08#6)
    (hk : (op.extractLsb' 3 3).toNat = k) (hp : (op.extractLsb' 0 3).toFin = pair) : decOp u.sock op m = decCmp u k pair m := by
  cases u <;> simp only [decOp, IntUnit.sock, decInt, if_pos h, hk, hp]

theorem decOp_sel (u : IntUnit) (op : BitVec 12) (n : Fin 16) (m : Trig) (h : op.extractLsb' 6 6 ≠ 0x08#6) (k : op.extractLsb' 4 8 = 0x30#8)
    (hn : (op.extractLsb' 0 4).toFin = n) : decOp u.sock op m = some (.xaSel u n m) := by
  cases u <;> simp only [decOp, IntUnit.sock, decInt, if_neg h, if_pos k, hn]

theorem decOp_ls (op : BitVec 12) (k : Nat) (cls : Fin 8) (m : Trig) (h : op.extractLsb' 11 1 = 0#1) (hk : (op.extractLsb' 0 8).toNat = k)
    (hc : (op.extractLsb' 8 3).toFin = cls) : decOp .ls op m = decLs k cls m := by
  simp only [decOp, if_pos h, hk, hc]

theorem decOp_ch (op : BitVec 12) (k : Nat) (act : Fin 4) (m : Trig) (h : op.extractLsb' 10 2 = 0#2) (hk : (op.extractLsb' 0 8).toNat = k)
    (hc : (op.extractLsb' 8 2).toFin = act) : decOp .ch op m = decCh k act m := by
  simp only [decOp, if_pos h, hk, hc]

/-! ### One lemma for each constructor -/

theorem sqBr (m : Trig) : Statement (.sqBr m) := ⟨rfl, rfl⟩
theorem sqBrr (m : Trig) : Statement (.sqBrr m) := ⟨rfl, rfl⟩
theorem sqCall (m : Trig) : Statement (.sqCall m) := ⟨rfl, rfl⟩
theorem sqCallx (m : Trig) : Statement (.sqCallx m) := ⟨rfl, rfl⟩
theorem sqRet (m : Trig) : Statement (.sqRet m) := ⟨rfl, rfl⟩
theorem sqLoop (m : Trig) : Statement (.sqLoop m) := ⟨rfl, rfl⟩
theorem sqLbrk (m : Trig) : Statement (.sqLbrk m) := ⟨rfl, rfl⟩
theorem sqLidx (m : Trig) : Statement (.sqLidx m) := ⟨rfl, rfl⟩
theorem sqScene (m : Trig) : Statement (.sqScene m) := ⟨rfl, rfl⟩
theorem sqTrap (m : Trig) : Statement (.sqTrap m) := ⟨rfl, rfl⟩
theorem sqIret (m : Trig) : Statement (.sqIret m) := ⟨rfl, rfl⟩
theorem sqIfence (m : Trig) : Statement (.sqIfence m) := ⟨rfl, rfl⟩
theorem sqBrswap (m : Trig) : Statement (.sqBrswap m) := ⟨rfl, rfl⟩
theorem sqHalt (m : Trig) : Statement (.sqHalt m) := ⟨rfl, rfl⟩
theorem xaAdd (u : IntUnit) (m : Trig) : Statement (.xaAdd u m) :=
  ⟨(decOp_plain u 0x001#12 m (by decide) (by decide)).trans rfl, rfl⟩
theorem xaSub (u : IntUnit) (m : Trig) : Statement (.xaSub u m) :=
  ⟨(decOp_plain u 0x002#12 m (by decide) (by decide)).trans rfl, rfl⟩
theorem xaRsub (u : IntUnit) (m : Trig) : Statement (.xaRsub u m) :=
  ⟨(decOp_plain u 0x003#12 m (by decide) (by decide)).trans rfl, rfl⟩
theorem xaMul (u : IntUnit) (m : Trig) : Statement (.xaMul u m) :=
  ⟨(decOp_plain u 0x004#12 m (by decide) (by decide)).trans rfl, rfl⟩
theorem xaMulh (u : IntUnit) (m : Trig) : Statement (.xaMulh u m) :=
  ⟨(decOp_plain u 0x005#12 m (by decide) (by decide)).trans rfl, rfl⟩
theorem xaMulhu (u : IntUnit) (m : Trig) : Statement (.xaMulhu u m) :=
  ⟨(decOp_plain u 0x006#12 m (by decide) (by decide)).trans rfl, rfl⟩
theorem xaDiv (u : IntUnit) (m : Trig) : Statement (.xaDiv u m) :=
  ⟨(decOp_plain u 0x007#12 m (by decide) (by decide)).trans rfl, rfl⟩
theorem xaDivu (u : IntUnit) (m : Trig) : Statement (.xaDivu u m) :=
  ⟨(decOp_plain u 0x008#12 m (by decide) (by decide)).trans rfl, rfl⟩
theorem xaRem (u : IntUnit) (m : Trig) : Statement (.xaRem u m) :=
  ⟨(decOp_plain u 0x009#12 m (by decide) (by decide)).trans rfl, rfl⟩
theorem xaRemu (u : IntUnit) (m : Trig) : Statement (.xaRemu u m) :=
  ⟨(decOp_plain u 0x00A#12 m (by decide) (by decide)).trans rfl, rfl⟩
theorem xaMin (u : IntUnit) (m : Trig) : Statement (.xaMin u m) :=
  ⟨(decOp_plain u 0x00B#12 m (by decide) (by decide)).trans rfl, rfl⟩
theorem xaMax (u : IntUnit) (m : Trig) : Statement (.xaMax u m) :=
  ⟨(decOp_plain u 0x00C#12 m (by decide) (by decide)).trans rfl, rfl⟩
theorem xaMinu (u : IntUnit) (m : Trig) : Statement (.xaMinu u m) :=
  ⟨(decOp_plain u 0x00D#12 m (by decide) (by decide)).trans rfl, rfl⟩
theorem xaMaxu (u : IntUnit) (m : Trig) : Statement (.xaMaxu u m) :=
  ⟨(decOp_plain u 0x00E#12 m (by decide) (by decide)).trans rfl, rfl⟩
theorem xaAbs (u : IntUnit) (m : Trig) : Statement (.xaAbs u m) :=
  ⟨(decOp_plain u 0x00F#12 m (by decide) (by decide)).trans rfl, rfl⟩
theorem xaAnd (u : IntUnit) (m : Trig) : Statement (.xaAnd u m) :=
  ⟨(decOp_plain u 0x101#12 m (by decide) (by decide)).trans rfl, rfl⟩
theorem xaOr (u : IntUnit) (m : Trig) : Statement (.xaOr u m) :=
  ⟨(decOp_plain u 0x102#12 m (by decide) (by decide)).trans rfl, rfl⟩
theorem xaXor (u : IntUnit) (m : Trig) : Statement (.xaXor u m) :=
  ⟨(decOp_plain u 0x103#12 m (by decide) (by decide)).trans rfl, rfl⟩
theorem xaAndn (u : IntUnit) (m : Trig) : Statement (.xaAndn u m) :=
  ⟨(decOp_plain u 0x104#12 m (by decide) (by decide)).trans rfl, rfl⟩
theorem xaShl (u : IntUnit) (m : Trig) : Statement (.xaShl u m) :=
  ⟨(decOp_plain u 0x105#12 m (by decide) (by decide)).trans rfl, rfl⟩
theorem xaShr (u : IntUnit) (m : Trig) : Statement (.xaShr u m) :=
  ⟨(decOp_plain u 0x106#12 m (by decide) (by decide)).trans rfl, rfl⟩
theorem xaSra (u : IntUnit) (m : Trig) : Statement (.xaSra u m) :=
  ⟨(decOp_plain u 0x107#12 m (by decide) (by decide)).trans rfl, rfl⟩
theorem xaRol (u : IntUnit) (m : Trig) : Statement (.xaRol u m) :=
  ⟨(decOp_plain u 0x108#12 m (by decide) (by decide)).trans rfl, rfl⟩
theorem xaClz (u : IntUnit) (m : Trig) : Statement (.xaClz u m) :=
  ⟨(decOp_plain u 0x109#12 m (by decide) (by decide)).trans rfl, rfl⟩
theorem xaCtz (u : IntUnit) (m : Trig) : Statement (.xaCtz u m) :=
  ⟨(decOp_plain u 0x10A#12 m (by decide) (by decide)).trans rfl, rfl⟩
theorem xaPopc (u : IntUnit) (m : Trig) : Statement (.xaPopc u m) :=
  ⟨(decOp_plain u 0x10B#12 m (by decide) (by decide)).trans rfl, rfl⟩
theorem xaSextB (u : IntUnit) (m : Trig) : Statement (.xaSextB u m) :=
  ⟨(decOp_plain u 0x10C#12 m (by decide) (by decide)).trans rfl, rfl⟩
theorem xaSextH (u : IntUnit) (m : Trig) : Statement (.xaSextH u m) :=
  ⟨(decOp_plain u 0x10D#12 m (by decide) (by decide)).trans rfl, rfl⟩
theorem xaBext (u : IntUnit) (m : Trig) : Statement (.xaBext u m) :=
  ⟨(decOp_plain u 0x10E#12 m (by decide) (by decide)).trans rfl, rfl⟩
theorem xaBins (u : IntUnit) (m : Trig) : Statement (.xaBins u m) :=
  ⟨(decOp_plain u 0x10F#12 m (by decide) (by decide)).trans rfl, rfl⟩
theorem xaPass (u : IntUnit) (m : Trig) : Statement (.xaPass u m) :=
  ⟨(decOp_plain u 0x110#12 m (by decide) (by decide)).trans rfl, rfl⟩
theorem xaCmpEq (u : IntUnit) (pair : Fin 8) (m : Trig) : Statement (.xaCmpEq u pair m) :=
  ⟨(decOp_cmp u (0x40#9 ++ BitVec.ofNat 3 pair.val) 0 pair m (by revert pair; decide) (by revert pair; decide) (by revert pair; decide)).trans rfl, rfl⟩
theorem xaCmpNe (u : IntUnit) (pair : Fin 8) (m : Trig) : Statement (.xaCmpNe u pair m) :=
  ⟨(decOp_cmp u (0x41#9 ++ BitVec.ofNat 3 pair.val) 1 pair m (by revert pair; decide) (by revert pair; decide) (by revert pair; decide)).trans rfl, rfl⟩
theorem xaCmpLt (u : IntUnit) (pair : Fin 8) (m : Trig) : Statement (.xaCmpLt u pair m) :=
  ⟨(decOp_cmp u (0x42#9 ++ BitVec.ofNat 3 pair.val) 2 pair m (by revert pair; decide) (by revert pair; decide) (by revert pair; decide)).trans rfl, rfl⟩
theorem xaCmpLe (u : IntUnit) (pair : Fin 8) (m : Trig) : Statement (.xaCmpLe u pair m) :=
  ⟨(decOp_cmp u (0x43#9 ++ BitVec.ofNat 3 pair.val) 3 pair m (by revert pair; decide) (by revert pair; decide) (by revert pair; decide)).trans rfl, rfl⟩
theorem xaCmpLtu (u : IntUnit) (pair : Fin 8) (m : Trig) : Statement (.xaCmpLtu u pair m) :=
  ⟨(decOp_cmp u (0x44#9 ++ BitVec.ofNat 3 pair.val) 4 pair m (by revert pair; decide) (by revert pair; decide) (by revert pair; decide)).trans rfl, rfl⟩
theorem xaCmpLeu (u : IntUnit) (pair : Fin 8) (m : Trig) : Statement (.xaCmpLeu u pair m) :=
  ⟨(decOp_cmp u (0x45#9 ++ BitVec.ofNat 3 pair.val) 5 pair m (by revert pair; decide) (by revert pair; decide) (by revert pair; decide)).trans rfl, rfl⟩
theorem xaTst (u : IntUnit) (pair : Fin 8) (m : Trig) : Statement (.xaTst u pair m) :=
  ⟨(decOp_cmp u (0x46#9 ++ BitVec.ofNat 3 pair.val) 6 pair m (by revert pair; decide) (by revert pair; decide) (by revert pair; decide)).trans rfl, rfl⟩
theorem xaSel (u : IntUnit) (pn : Fin 16) (m : Trig) : Statement (.xaSel u pn m) :=
  ⟨(decOp_sel u (0x30#8 ++ BitVec.ofNat 4 pn.val) pn m (by revert pn; decide) (by revert pn; decide) (by revert pn; decide)).trans rfl, rfl⟩
theorem agLea (m : Trig) : Statement (.agLea m) := ⟨rfl, rfl⟩
theorem agGaddr (m : Trig) : Statement (.agGaddr m) := ⟨rfl, rfl⟩
theorem agTileid (m : Trig) : Statement (.agTileid m) := ⟨rfl, rfl⟩
theorem agHome (m : Trig) : Statement (.agHome m) := ⟨rfl, rfl⟩
theorem agStep (m : Trig) : Statement (.agStep m) := ⟨rfl, rfl⟩
theorem agWrap (m : Trig) : Statement (.agWrap m) := ⟨rfl, rfl⟩
theorem agCbInit (m : Trig) : Statement (.agCbInit m) := ⟨rfl, rfl⟩
theorem agCbWait (m : Trig) : Statement (.agCbWait m) := ⟨rfl, rfl⟩
theorem agCbRoom (m : Trig) : Statement (.agCbRoom m) := ⟨rfl, rfl⟩
theorem agCbAdvp (m : Trig) : Statement (.agCbAdvp m) := ⟨rfl, rfl⟩
theorem agCbAdvc (m : Trig) : Statement (.agCbAdvc m) := ⟨rfl, rfl⟩
theorem agCbPos (m : Trig) : Statement (.agCbPos m) := ⟨rfl, rfl⟩
theorem agCbPosp (m : Trig) : Statement (.agCbPosp m) := ⟨rfl, rfl⟩
theorem agCbFill (m : Trig) : Statement (.agCbFill m) := ⟨rfl, rfl⟩
theorem lsLdB (cls : Fin 8) (m : Trig) : Statement (.lsLdB cls m) :=
  ⟨(decOp_ls (0#1 ++ BitVec.ofNat 3 cls.val ++ 0x01#8) 0x01 cls m (by revert cls; decide) (by revert cls; decide) (by revert cls; decide)).trans rfl, rfl⟩
theorem lsLdBz (cls : Fin 8) (m : Trig) : Statement (.lsLdBz cls m) :=
  ⟨(decOp_ls (0#1 ++ BitVec.ofNat 3 cls.val ++ 0x02#8) 0x02 cls m (by revert cls; decide) (by revert cls; decide) (by revert cls; decide)).trans rfl, rfl⟩
theorem lsLdH (cls : Fin 8) (m : Trig) : Statement (.lsLdH cls m) :=
  ⟨(decOp_ls (0#1 ++ BitVec.ofNat 3 cls.val ++ 0x03#8) 0x03 cls m (by revert cls; decide) (by revert cls; decide) (by revert cls; decide)).trans rfl, rfl⟩
theorem lsLdHz (cls : Fin 8) (m : Trig) : Statement (.lsLdHz cls m) :=
  ⟨(decOp_ls (0#1 ++ BitVec.ofNat 3 cls.val ++ 0x04#8) 0x04 cls m (by revert cls; decide) (by revert cls; decide) (by revert cls; decide)).trans rfl, rfl⟩
theorem lsLdW (cls : Fin 8) (m : Trig) : Statement (.lsLdW cls m) :=
  ⟨(decOp_ls (0#1 ++ BitVec.ofNat 3 cls.val ++ 0x05#8) 0x05 cls m (by revert cls; decide) (by revert cls; decide) (by revert cls; decide)).trans rfl, rfl⟩
theorem lsStB (cls : Fin 8) (m : Trig) : Statement (.lsStB cls m) :=
  ⟨(decOp_ls (0#1 ++ BitVec.ofNat 3 cls.val ++ 0x06#8) 0x06 cls m (by revert cls; decide) (by revert cls; decide) (by revert cls; decide)).trans rfl, rfl⟩
theorem lsStH (cls : Fin 8) (m : Trig) : Statement (.lsStH cls m) :=
  ⟨(decOp_ls (0#1 ++ BitVec.ofNat 3 cls.val ++ 0x07#8) 0x07 cls m (by revert cls; decide) (by revert cls; decide) (by revert cls; decide)).trans rfl, rfl⟩
theorem lsStW (cls : Fin 8) (m : Trig) : Statement (.lsStW cls m) :=
  ⟨(decOp_ls (0#1 ++ BitVec.ofNat 3 cls.val ++ 0x08#8) 0x08 cls m (by revert cls; decide) (by revert cls; decide) (by revert cls; decide)).trans rfl, rfl⟩
theorem lsAmoAdd (cls : Fin 8) (m : Trig) : Statement (.lsAmoAdd cls m) :=
  ⟨(decOp_ls (0#1 ++ BitVec.ofNat 3 cls.val ++ 0x20#8) 0x20 cls m (by revert cls; decide) (by revert cls; decide) (by revert cls; decide)).trans rfl, rfl⟩
theorem lsAmoAnd (cls : Fin 8) (m : Trig) : Statement (.lsAmoAnd cls m) :=
  ⟨(decOp_ls (0#1 ++ BitVec.ofNat 3 cls.val ++ 0x21#8) 0x21 cls m (by revert cls; decide) (by revert cls; decide) (by revert cls; decide)).trans rfl, rfl⟩
theorem lsAmoOr (cls : Fin 8) (m : Trig) : Statement (.lsAmoOr cls m) :=
  ⟨(decOp_ls (0#1 ++ BitVec.ofNat 3 cls.val ++ 0x22#8) 0x22 cls m (by revert cls; decide) (by revert cls; decide) (by revert cls; decide)).trans rfl, rfl⟩
theorem lsAmoXor (cls : Fin 8) (m : Trig) : Statement (.lsAmoXor cls m) :=
  ⟨(decOp_ls (0#1 ++ BitVec.ofNat 3 cls.val ++ 0x23#8) 0x23 cls m (by revert cls; decide) (by revert cls; decide) (by revert cls; decide)).trans rfl, rfl⟩
theorem lsAmoMin (cls : Fin 8) (m : Trig) : Statement (.lsAmoMin cls m) :=
  ⟨(decOp_ls (0#1 ++ BitVec.ofNat 3 cls.val ++ 0x24#8) 0x24 cls m (by revert cls; decide) (by revert cls; decide) (by revert cls; decide)).trans rfl, rfl⟩
theorem lsAmoMax (cls : Fin 8) (m : Trig) : Statement (.lsAmoMax cls m) :=
  ⟨(decOp_ls (0#1 ++ BitVec.ofNat 3 cls.val ++ 0x25#8) 0x25 cls m (by revert cls; decide) (by revert cls; decide) (by revert cls; decide)).trans rfl, rfl⟩
theorem lsAmoMinu (cls : Fin 8) (m : Trig) : Statement (.lsAmoMinu cls m) :=
  ⟨(decOp_ls (0#1 ++ BitVec.ofNat 3 cls.val ++ 0x26#8) 0x26 cls m (by revert cls; decide) (by revert cls; decide) (by revert cls; decide)).trans rfl, rfl⟩
theorem lsAmoMaxu (cls : Fin 8) (m : Trig) : Statement (.lsAmoMaxu cls m) :=
  ⟨(decOp_ls (0#1 ++ BitVec.ofNat 3 cls.val ++ 0x27#8) 0x27 cls m (by revert cls; decide) (by revert cls; decide) (by revert cls; decide)).trans rfl, rfl⟩
theorem lsAmoSwap (cls : Fin 8) (m : Trig) : Statement (.lsAmoSwap cls m) :=
  ⟨(decOp_ls (0#1 ++ BitVec.ofNat 3 cls.val ++ 0x28#8) 0x28 cls m (by revert cls; decide) (by revert cls; decide) (by revert cls; decide)).trans rfl, rfl⟩
theorem lsAmoCas (cls : Fin 8) (m : Trig) : Statement (.lsAmoCas cls m) :=
  ⟨(decOp_ls (0#1 ++ BitVec.ofNat 3 cls.val ++ 0x29#8) 0x29 cls m (by revert cls; decide) (by revert cls; decide) (by revert cls; decide)).trans rfl, rfl⟩
theorem lsAmoFadd (cls : Fin 8) (m : Trig) : Statement (.lsAmoFadd cls m) :=
  ⟨(decOp_ls (0#1 ++ BitVec.ofNat 3 cls.val ++ 0x2A#8) 0x2A cls m (by revert cls; decide) (by revert cls; decide) (by revert cls; decide)).trans rfl, rfl⟩
theorem lsAmoChunk (cls : Fin 8) (m : Trig) : Statement (.lsAmoChunk cls m) :=
  ⟨(decOp_ls (0#1 ++ BitVec.ofNat 3 cls.val ++ 0x2B#8) 0x2B cls m (by revert cls; decide) (by revert cls; decide) (by revert cls; decide)).trans rfl, rfl⟩
theorem lsAcq (cls : Fin 8) (m : Trig) : Statement (.lsAcq cls m) :=
  ⟨(decOp_ls (0#1 ++ BitVec.ofNat 3 cls.val ++ 0x40#8) 0x40 cls m (by revert cls; decide) (by revert cls; decide) (by revert cls; decide)).trans rfl, rfl⟩
theorem lsRel (cls : Fin 8) (m : Trig) : Statement (.lsRel cls m) :=
  ⟨(decOp_ls (0#1 ++ BitVec.ofNat 3 cls.val ++ 0x41#8) 0x41 cls m (by revert cls; decide) (by revert cls; decide) (by revert cls; decide)).trans rfl, rfl⟩
theorem lsFence (cls : Fin 8) (m : Trig) : Statement (.lsFence cls m) :=
  ⟨(decOp_ls (0#1 ++ BitVec.ofNat 3 cls.val ++ 0x42#8) 0x42 cls m (by revert cls; decide) (by revert cls; decide) (by revert cls; decide)).trans rfl, rfl⟩
theorem lsSwArm (cls : Fin 8) (m : Trig) : Statement (.lsSwArm cls m) :=
  ⟨(decOp_ls (0#1 ++ BitVec.ofNat 3 cls.val ++ 0x43#8) 0x43 cls m (by revert cls; decide) (by revert cls; decide) (by revert cls; decide)).trans rfl, rfl⟩
theorem lsSwWait (cls : Fin 8) (m : Trig) : Statement (.lsSwWait cls m) :=
  ⟨(decOp_ls (0#1 ++ BitVec.ofNat 3 cls.val ++ 0x44#8) 0x44 cls m (by revert cls; decide) (by revert cls; decide) (by revert cls; decide)).trans rfl, rfl⟩
theorem lsSwAdd (cls : Fin 8) (m : Trig) : Statement (.lsSwAdd cls m) :=
  ⟨(decOp_ls (0#1 ++ BitVec.ofNat 3 cls.val ++ 0x45#8) 0x45 cls m (by revert cls; decide) (by revert cls; decide) (by revert cls; decide)).trans rfl, rfl⟩
theorem lsSwRead (cls : Fin 8) (m : Trig) : Statement (.lsSwRead cls m) :=
  ⟨(decOp_ls (0#1 ++ BitVec.ofNat 3 cls.val ++ 0x46#8) 0x46 cls m (by revert cls; decide) (by revert cls; decide) (by revert cls; decide)).trans rfl, rfl⟩
theorem vxVadd (m : Trig) : Statement (.vxVadd m) := ⟨rfl, rfl⟩
theorem vxVsub (m : Trig) : Statement (.vxVsub m) := ⟨rfl, rfl⟩
theorem vxVmul (m : Trig) : Statement (.vxVmul m) := ⟨rfl, rfl⟩
theorem vxVfma (m : Trig) : Statement (.vxVfma m) := ⟨rfl, rfl⟩
theorem vxVfms (m : Trig) : Statement (.vxVfms m) := ⟨rfl, rfl⟩
theorem vxVfnma (m : Trig) : Statement (.vxVfnma m) := ⟨rfl, rfl⟩
theorem vxVmin (m : Trig) : Statement (.vxVmin m) := ⟨rfl, rfl⟩
theorem vxVmax (m : Trig) : Statement (.vxVmax m) := ⟨rfl, rfl⟩
theorem vxVabs (m : Trig) : Statement (.vxVabs m) := ⟨rfl, rfl⟩
theorem vxVneg (m : Trig) : Statement (.vxVneg m) := ⟨rfl, rfl⟩
theorem vxVdiv (m : Trig) : Statement (.vxVdiv m) := ⟨rfl, rfl⟩
theorem vxVsqrt (m : Trig) : Statement (.vxVsqrt m) := ⟨rfl, rfl⟩
theorem vxVrcp (m : Trig) : Statement (.vxVrcp m) := ⟨rfl, rfl⟩
theorem vxVrsqrt (m : Trig) : Statement (.vxVrsqrt m) := ⟨rfl, rfl⟩
theorem vxVexp2 (m : Trig) : Statement (.vxVexp2 m) := ⟨rfl, rfl⟩
theorem vxVlog2 (m : Trig) : Statement (.vxVlog2 m) := ⟨rfl, rfl⟩
theorem vxVaddi (m : Trig) : Statement (.vxVaddi m) := ⟨rfl, rfl⟩
theorem vxVsubi (m : Trig) : Statement (.vxVsubi m) := ⟨rfl, rfl⟩
theorem vxVmuli (m : Trig) : Statement (.vxVmuli m) := ⟨rfl, rfl⟩
theorem vxVand (m : Trig) : Statement (.vxVand m) := ⟨rfl, rfl⟩
theorem vxVor (m : Trig) : Statement (.vxVor m) := ⟨rfl, rfl⟩
theorem vxVxor (m : Trig) : Statement (.vxVxor m) := ⟨rfl, rfl⟩
theorem vxVshl (m : Trig) : Statement (.vxVshl m) := ⟨rfl, rfl⟩
theorem vxVshr (m : Trig) : Statement (.vxVshr m) := ⟨rfl, rfl⟩
theorem vxVsra (m : Trig) : Statement (.vxVsra m) := ⟨rfl, rfl⟩
theorem vxVmini (m : Trig) : Statement (.vxVmini m) := ⟨rfl, rfl⟩
theorem vxVmaxi (m : Trig) : Statement (.vxVmaxi m) := ⟨rfl, rfl⟩
theorem vxVcmpEq (m : Trig) : Statement (.vxVcmpEq m) := ⟨rfl, rfl⟩
theorem vxVcmpNe (m : Trig) : Statement (.vxVcmpNe m) := ⟨rfl, rfl⟩
theorem vxVcmpLt (m : Trig) : Statement (.vxVcmpLt m) := ⟨rfl, rfl⟩
theorem vxVcmpLe (m : Trig) : Statement (.vxVcmpLe m) := ⟨rfl, rfl⟩
theorem vxVcmpiEq (m : Trig) : Statement (.vxVcmpiEq m) := ⟨rfl, rfl⟩
theorem vxVcmpiNe (m : Trig) : Statement (.vxVcmpiNe m) := ⟨rfl, rfl⟩
theorem vxVcmpiLt (m : Trig) : Statement (.vxVcmpiLt m) := ⟨rfl, rfl⟩
theorem vxVcmpiLe (m : Trig) : Statement (.vxVcmpiLe m) := ⟨rfl, rfl⟩
theorem vxVsel (m : Trig) : Statement (.vxVsel m) := ⟨rfl, rfl⟩
theorem vxMand (m : Trig) : Statement (.vxMand m) := ⟨rfl, rfl⟩
theorem vxMor (m : Trig) : Statement (.vxMor m) := ⟨rfl, rfl⟩
theorem vxMnot (m : Trig) : Statement (.vxMnot m) := ⟨rfl, rfl⟩
theorem vxVcvt (m : Trig) : Statement (.vxVcvt m) := ⟨rfl, rfl⟩
theorem vxVscale (m : Trig) : Statement (.vxVscale m) := ⟨rfl, rfl⟩
theorem vxVcvti (m : Trig) : Statement (.vxVcvti m) := ⟨rfl, rfl⟩
theorem vxVredsum (m : Trig) : Statement (.vxVredsum m) := ⟨rfl, rfl⟩
theorem vxVredmax (m : Trig) : Statement (.vxVredmax m) := ⟨rfl, rfl⟩
theorem vxVredmin (m : Trig) : Statement (.vxVredmin m) := ⟨rfl, rfl⟩
theorem vxVbcast (m : Trig) : Statement (.vxVbcast m) := ⟨rfl, rfl⟩
theorem vxVperm (m : Trig) : Statement (.vxVperm m) := ⟨rfl, rfl⟩
theorem vxVrot (m : Trig) : Statement (.vxVrot m) := ⟨rfl, rfl⟩
theorem vxVins (m : Trig) : Statement (.vxVins m) := ⟨rfl, rfl⟩
theorem vxVget (m : Trig) : Statement (.vxVget m) := ⟨rfl, rfl⟩
theorem vxVmov (m : Trig) : Statement (.vxVmov m) := ⟨rfl, rfl⟩
theorem vxVout (m : Trig) : Statement (.vxVout m) := ⟨rfl, rfl⟩
theorem vxVld (m : Trig) : Statement (.vxVld m) := ⟨rfl, rfl⟩
theorem vxVst (m : Trig) : Statement (.vxVst m) := ⟨rfl, rfl⟩
theorem vxVgath (m : Trig) : Statement (.vxVgath m) := ⟨rfl, rfl⟩
theorem vxVscat (m : Trig) : Statement (.vxVscat m) := ⟨rfl, rfl⟩
theorem vxVldc (m : Trig) : Statement (.vxVldc m) := ⟨rfl, rfl⟩
theorem vxVstc (m : Trig) : Statement (.vxVstc m) := ⟨rfl, rfl⟩
theorem vxVnest (nest : Nest) : Statement (.vxVnest nest) := trivial
theorem mxCfg (m : Trig) : Statement (.mxCfg m) := ⟨rfl, rfl⟩
theorem mxWload (m : Trig) : Statement (.mxWload m) := ⟨rfl, rfl⟩
theorem mxWloadx (m : Trig) : Statement (.mxWloadx m) := ⟨rfl, rfl⟩
theorem mxRun (m : Trig) : Statement (.mxRun m) := ⟨rfl, rfl⟩
theorem mxRunsp (m : Trig) : Statement (.mxRunsp m) := ⟨rfl, rfl⟩
theorem mxGrp (m : Trig) : Statement (.mxGrp m) := ⟨rfl, rfl⟩
theorem mxSclr (m : Trig) : Statement (.mxSclr m) := ⟨rfl, rfl⟩
theorem mxDrain (m : Trig) : Statement (.mxDrain m) := ⟨rfl, rfl⟩
theorem mxDrainc (m : Trig) : Statement (.mxDrainc m) := ⟨rfl, rfl⟩
theorem mxScale (m : Trig) : Statement (.mxScale m) := ⟨rfl, rfl⟩
theorem mxCap (m : Trig) : Statement (.mxCap m) := ⟨rfl, rfl⟩
theorem mxPrio (m : Trig) : Statement (.mxPrio m) := ⟨rfl, rfl⟩
theorem mxStat (m : Trig) : Statement (.mxStat m) := ⟨rfl, rfl⟩
theorem mxSwap (m : Trig) : Statement (.mxSwap m) := ⟨rfl, rfl⟩
theorem chCopy (act : Fin 4) (m : Trig) : Statement (.chCopy act m) :=
  ⟨(decOp_ch (0#2 ++ BitVec.ofNat 2 act.val ++ 0x01#8) 0x01 act m (by revert act; decide) (by revert act; decide) (by revert act; decide)).trans rfl, rfl⟩
theorem chCopyt (act : Fin 4) (m : Trig) : Statement (.chCopyt act m) :=
  ⟨(decOp_ch (0#2 ++ BitVec.ofNat 2 act.val ++ 0x02#8) 0x02 act m (by revert act; decide) (by revert act; decide) (by revert act; decide)).trans rfl, rfl⟩
theorem chCopyi (act : Fin 4) (m : Trig) : Statement (.chCopyi act m) :=
  ⟨(decOp_ch (0#2 ++ BitVec.ofNat 2 act.val ++ 0x03#8) 0x03 act m (by revert act; decide) (by revert act; decide) (by revert act; decide)).trans rfl, rfl⟩
theorem chExpand (act : Fin 4) (m : Trig) : Statement (.chExpand act m) :=
  ⟨(decOp_ch (0#2 ++ BitVec.ofNat 2 act.val ++ 0x04#8) 0x04 act m (by revert act; decide) (by revert act; decide) (by revert act; decide)).trans rfl, rfl⟩
theorem chFill (act : Fin 4) (m : Trig) : Statement (.chFill act m) :=
  ⟨(decOp_ch (0#2 ++ BitVec.ofNat 2 act.val ++ 0x05#8) 0x05 act m (by revert act; decide) (by revert act; decide) (by revert act; decide)).trans rfl, rfl⟩
theorem chShadow (act : Fin 4) (m : Trig) : Statement (.chShadow act m) :=
  ⟨(decOp_ch (0#2 ++ BitVec.ofNat 2 act.val ++ 0x06#8) 0x06 act m (by revert act; decide) (by revert act; decide) (by revert act; decide)).trans rfl, rfl⟩
theorem chPublish (m : Trig) : Statement (.chPublish m) :=
  ⟨(decOp_ch 0x007#12 0x007 0 m (by decide) (by decide) (by decide)).trans rfl, rfl⟩
theorem chCrc (act : Fin 4) (m : Trig) : Statement (.chCrc act m) :=
  ⟨(decOp_ch (0#2 ++ BitVec.ofNat 2 act.val ++ 0x08#8) 0x08 act m (by revert act; decide) (by revert act; decide) (by revert act; decide)).trans rfl, rfl⟩
theorem chPbinv (m : Trig) : Statement (.chPbinv m) :=
  ⟨(decOp_ch 0x009#12 0x009 0 m (by decide) (by decide) (by decide)).trans rfl, rfl⟩
theorem chTlbinv (m : Trig) : Statement (.chTlbinv m) :=
  ⟨(decOp_ch 0x00A#12 0x00A 0 m (by decide) (by decide) (by decide)).trans rfl, rfl⟩
theorem chTlbpin (m : Trig) : Statement (.chTlbpin m) :=
  ⟨(decOp_ch 0x00B#12 0x00B 0 m (by decide) (by decide) (by decide)).trans rfl, rfl⟩
theorem chCancel (m : Trig) : Statement (.chCancel m) :=
  ⟨(decOp_ch 0x00C#12 0x00C 0 m (by decide) (by decide) (by decide)).trans rfl, rfl⟩
theorem chStat (m : Trig) : Statement (.chStat m) :=
  ⟨(decOp_ch 0x00D#12 0x00D 0 m (by decide) (by decide) (by decide)).trans rfl, rfl⟩
theorem ntSend (m : Trig) : Statement (.ntSend m) := ⟨rfl, rfl⟩
theorem ntSendw (m : Trig) : Statement (.ntSendw m) := ⟨rfl, rfl⟩
theorem ntPut (m : Trig) : Statement (.ntPut m) := ⟨rfl, rfl⟩
theorem ntPutb (m : Trig) : Statement (.ntPutb m) := ⟨rfl, rfl⟩
theorem ntReduce (m : Trig) : Statement (.ntReduce m) := ⟨rfl, rfl⟩
theorem ntBcast (m : Trig) : Statement (.ntBcast m) := ⟨rfl, rfl⟩
theorem ntSpawn (m : Trig) : Statement (.ntSpawn m) := ⟨rfl, rfl⟩
theorem ntEvent (m : Trig) : Statement (.ntEvent m) := ⟨rfl, rfl⟩
theorem ntMxcmd (m : Trig) : Statement (.ntMxcmd m) := ⟨rfl, rfl⟩
theorem ntTree (m : Trig) : Statement (.ntTree m) := ⟨rfl, rfl⟩
theorem ntStat (m : Trig) : Statement (.ntStat m) := ⟨rfl, rfl⟩
theorem ntRedwait (m : Trig) : Statement (.ntRedwait m) := ⟨rfl, rfl⟩
theorem lmBank (m : Trig) : Statement (.lmBank m) := ⟨rfl, rfl⟩
theorem lmTick (m : Trig) : Statement (.lmTick m) := ⟨rfl, rfl⟩
theorem lmFan (m : Trig) : Statement (.lmFan m) := ⟨rfl, rfl⟩
theorem lmLoad (m : Trig) : Statement (.lmLoad m) := ⟨rfl, rfl⟩
theorem lmStore (m : Trig) : Statement (.lmStore m) := ⟨rfl, rfl⟩
theorem lmInject (m : Trig) : Statement (.lmInject m) := ⟨rfl, rfl⟩
theorem lmRead (m : Trig) : Statement (.lmRead m) := ⟨rfl, rfl⟩
theorem lmWrite (m : Trig) : Statement (.lmWrite m) := ⟨rfl, rfl⟩
theorem lmRun (m : Trig) : Statement (.lmRun m) := ⟨rfl, rfl⟩
theorem lmStop (m : Trig) : Statement (.lmStop m) := ⟨rfl, rfl⟩
theorem lmDrain (m : Trig) : Statement (.lmDrain m) := ⟨rfl, rfl⟩
theorem lmTie (m : Trig) : Statement (.lmTie m) := ⟨rfl, rfl⟩
theorem lmStat (m : Trig) : Statement (.lmStat m) := ⟨rfl, rfl⟩
theorem cqProbe (m : Trig) : Statement (.cqProbe m) := ⟨rfl, rfl⟩
theorem cqBook (m : Trig) : Statement (.cqBook m) := ⟨rfl, rfl⟩
theorem cqRelease (m : Trig) : Statement (.cqRelease m) := ⟨rfl, rfl⟩
theorem cqExtend (m : Trig) : Statement (.cqExtend m) := ⟨rfl, rfl⟩
theorem cqChain (m : Trig) : Statement (.cqChain m) := ⟨rfl, rfl⟩
theorem cqCompact (m : Trig) : Statement (.cqCompact m) := ⟨rfl, rfl⟩
theorem cqDemote (m : Trig) : Statement (.cqDemote m) := ⟨rfl, rfl⟩
theorem cqSlack (m : Trig) : Statement (.cqSlack m) := ⟨rfl, rfl⟩
theorem cqQuery (m : Trig) : Statement (.cqQuery m) := ⟨rfl, rfl⟩
theorem syCsrr (m : Trig) : Statement (.syCsrr m) := ⟨rfl, rfl⟩
theorem syCsrw (m : Trig) : Statement (.syCsrw m) := ⟨rfl, rfl⟩
theorem syGtime (m : Trig) : Statement (.syGtime m) := ⟨rfl, rfl⟩
theorem syWaitgt (m : Trig) : Statement (.syWaitgt m) := ⟨rfl, rfl⟩
theorem syCurtain (m : Trig) : Statement (.syCurtain m) := ⟨rfl, rfl⟩
theorem syCarrive (m : Trig) : Statement (.syCarrive m) := ⟨rfl, rfl⟩
theorem syCwait (m : Trig) : Statement (.syCwait m) := ⟨rfl, rfl⟩
theorem syFumode (m : Trig) : Statement (.syFumode m) := ⟨rfl, rfl⟩
theorem syPbmark (m : Trig) : Statement (.syPbmark m) := ⟨rfl, rfl⟩
theorem syEcall (m : Trig) : Statement (.syEcall m) := ⟨rfl, rfl⟩
theorem syYield (m : Trig) : Statement (.syYield m) := ⟨rfl, rfl⟩
theorem syBrk (m : Trig) : Statement (.syBrk m) := ⟨rfl, rfl⟩
theorem syUsr (m : Trig) : Statement (.syUsr m) := ⟨rfl, rfl⟩
theorem syUsw (m : Trig) : Statement (.syUsw m) := ⟨rfl, rfl⟩
theorem syPerf (m : Trig) : Statement (.syPerf m) := ⟨rfl, rfl⟩
theorem syIdle (m : Trig) : Statement (.syIdle m) := ⟨rfl, rfl⟩
theorem bundleIssue (a : Nat) (w : BundleBits) : Statement (.bundleIssue a w) := trivial
theorem bundleComplete : Statement .bundleComplete := trivial
theorem resultLanding : Statement .resultLanding := trivial
theorem replyArrival : Statement .replyArrival := trivial
theorem lineFetchComplete : Statement .lineFetchComplete := trivial
theorem interruptTake : Statement .interruptTake := trivial
theorem gtComparePend : Statement .gtComparePend := trivial
theorem deferredFault : Statement .deferredFault := trivial
theorem iterationOverrun : Statement .iterationOverrun := trivial
theorem slackExhausted : Statement .slackExhausted := trivial
theorem bookingEndPassed : Statement .bookingEndPassed := trivial
theorem ageIncrement : Statement .ageIncrement := trivial
theorem queueEnable : Statement .queueEnable := trivial
theorem queueHeadParse : Statement .queueHeadParse := trivial
theorem arbiterChoice : Statement .arbiterChoice := trivial
theorem gangStart : Statement .gangStart := trivial
theorem stepTurn : Statement .stepTurn := trivial
theorem bookingProbe : Statement .bookingProbe := trivial
theorem bookingNoFit : Statement .bookingNoFit := trivial
theorem stepLoadStart : Statement .stepLoadStart := trivial
theorem stepLoaded : Statement .stepLoaded := trivial
theorem taskStart : Statement .taskStart := trivial
theorem bankFlipComplete : Statement .bankFlipComplete := trivial
theorem wingsFlipBack : Statement .wingsFlipBack := trivial
theorem stepRestart : Statement .stepRestart := trivial
theorem curtainArrive : Statement .curtainArrive := trivial
theorem curtainClose : Statement .curtainClose := trivial
theorem curtainRelease : Statement .curtainRelease := trivial
theorem homeAccess : Statement .homeAccess := trivial
theorem atomicAtHome : Statement .atomicAtHome := trivial
theorem lockAcquireAtHome : Statement .lockAcquireAtHome := trivial
theorem lockReleaseAtHome : Statement .lockReleaseAtHome := trivial
theorem lockGrantArrival : Statement .lockGrantArrival := trivial
theorem lockReissue : Statement .lockReissue := trivial
theorem creditAtHome : Statement .creditAtHome := trivial
theorem armAtHome : Statement .armAtHome := trivial
theorem syncWaitAnswer : Statement .syncWaitAnswer := trivial
theorem syncWaitReissue : Statement .syncWaitReissue := trivial
theorem putArrival : Statement .putArrival := trivial
theorem sendArrival : Statement .sendArrival := trivial
theorem sendAcceptance : Statement .sendAcceptance := trivial
theorem refusalArrival : Statement .refusalArrival := trivial
theorem resend : Statement .resend := trivial
theorem flitInject : Statement .flitInject := trivial
theorem handleUpdateArrival : Statement .handleUpdateArrival := trivial
theorem spawnArrival : Statement .spawnArrival := trivial
theorem siltEventArrival : Statement .siltEventArrival := trivial
theorem mxcmdArrival : Statement .mxcmdArrival := trivial
theorem treePacketArrival : Statement .treePacketArrival := trivial
theorem treeForward : Statement .treeForward := trivial
theorem treeTimeout : Statement .treeTimeout := trivial
theorem deliveryPass : Statement .deliveryPass := trivial
theorem fanoutQueueTimeout : Statement .fanoutQueueTimeout := trivial
theorem cceAccept : Statement .cceAccept := trivial
theorem timedCopyStart : Statement .timedCopyStart := trivial
theorem copyRowWrite : Statement .copyRowWrite := trivial
theorem copyWriteAck : Statement .copyWriteAck := trivial
theorem copyComplete : Statement .copyComplete := trivial
theorem publishReady : Statement .publishReady := trivial
theorem publishExchange : Statement .publishExchange := trivial
theorem tlbinvComplete : Statement .tlbinvComplete := trivial
theorem tlbpinComplete : Statement .tlbpinComplete := trivial
theorem mxArraySelect : Statement .mxArraySelect := trivial
theorem mxLoadStart : Statement .mxLoadStart := trivial
theorem mxCommandComplete : Statement .mxCommandComplete := trivial
theorem vnestComplete : Statement .vnestComplete := trivial
theorem gapResume : Statement .gapResume := trivial
theorem recordFlushTimer : Statement .recordFlushTimer := trivial
theorem pbEnable : Statement .pbEnable := trivial
theorem pbDisable : Statement .pbDisable := trivial
theorem pbModeWrite : Statement .pbModeWrite := trivial
theorem launchComplete : Statement .launchComplete := trivial
theorem dcDec : Statement .dcDec := trivial
theorem ctxBind : Statement .ctxBind := trivial
theorem ctxRestore : Statement .ctxRestore := trivial
theorem restoreComplete : Statement .restoreComplete := trivial
theorem ctxPreempt : Statement .ctxPreempt := trivial
theorem copyOut : Statement .copyOut := trivial
theorem copyOutComplete : Statement .copyOutComplete := trivial
theorem ctxEnd : Statement .ctxEnd := trivial
theorem contextClearComplete : Statement .contextClearComplete := trivial
theorem ctxUnbind : Statement .ctxUnbind := trivial
theorem ctxInvalidate : Statement .ctxInvalidate := trivial
theorem invalidateComplete : Statement .invalidateComplete := trivial
theorem ctxResume : Statement .ctxResume := trivial
theorem ctxRemap : Statement .ctxRemap := trivial
theorem remapEffect : Statement .remapEffect := trivial
theorem ctxPair : Statement .ctxPair := trivial
theorem keyLoad : Statement .keyLoad := trivial
theorem keyErase : Statement .keyErase := trivial
theorem scrubStep : Statement .scrubStep := trivial
theorem hbmScrub : Statement .hbmScrub := trivial
theorem dbgHalt : Statement .dbgHalt := trivial
theorem dbgResume : Statement .dbgResume := trivial
theorem crossTrigger : Statement .crossTrigger := trivial
theorem dbgValWrite : Statement .dbgValWrite := trivial
theorem codeWriteGo : Statement .codeWriteGo := trivial
theorem lineDiscard : Statement .lineDiscard := trivial
theorem sampleTick : Statement .sampleTick := trivial
theorem powerGood : Statement .powerGood := trivial
theorem bringupStageComplete : Statement .bringupStageComplete := trivial
theorem bringupTimeout : Statement .bringupTimeout := trivial
theorem pwrRun : Statement .pwrRun := trivial
theorem pwrClockStop : Statement .pwrClockStop := trivial
theorem pwrRetain : Statement .pwrRetain := trivial
theorem pwrOff : Statement .pwrOff := trivial
theorem pwrTransitionComplete : Statement .pwrTransitionComplete := trivial
theorem vddSet : Statement .vddSet := trivial
theorem vddRampStep : Statement .vddRampStep := trivial
theorem thermUpdate : Statement .thermUpdate := trivial
theorem thermRead : Statement .thermRead := trivial
theorem thermtrip : Statement .thermtrip := trivial
theorem podJoin : Statement .podJoin := trivial
theorem timeBeatExchange : Statement .timeBeatExchange := trivial
theorem parentLinkFail : Statement .parentLinkFail := trivial
theorem swGo : Statement .swGo := trivial
theorem swCancel : Statement .swCancel := trivial
theorem swTReached : Statement .swTReached := trivial
theorem swDeadline : Statement .swDeadline := trivial
theorem markerArrival : Statement .markerArrival := trivial
theorem markerTimeout : Statement .markerTimeout := trivial
theorem attGo : Statement .attGo := trivial
theorem attReportDone : Statement .attReportDone := trivial
theorem registerWrite : Statement .registerWrite := trivial
theorem powerRemoved : Statement .powerRemoved := trivial
theorem apronLinkTrained : Statement .apronLinkTrained := trivial
theorem queueDisable : Statement .queueDisable := trivial

end Sys2Proof.Laws.OpcodeRead
end

