-- ==== Sys2Proof/Tests/Slice0.lean ====
section
/-! SUPPORT. Small tests: ill-formed terms that the checks refuse, words written out from the encoding rules, one step of a few operations with
the values that the rules give, and for every statement a state and operands that meet its hypotheses. -/

namespace Sys2Proof.Tests

open Sys2Proof Sys2Proof.Machine

-- one theorem at a time, so that few threads run at once
set_option Elab.async false

/-! ### Small states -/

/-- A state in which agent `a` issues a lone operation, with the bundle's constant and operand ports as given. -/
def alone (a : Nat) (k : BitVec 64) (ports : List (Sock × Nat × Row)) : State :=
  ports.foldl (fun s p => setPort s a p.1 p.2.1 p.2.2) { now := 100, cur := { a := a, long := k } }

/-- The unguarded move of the constant's low half. -/
def mk : Trig := ⟨none, .long false⟩

/-- A handle's fields (R206). -/
def hnd (base lsize role cls peer ph prod cons : Nat) : BitVec 128 :=
  BitVec.ofNat 128 (base + 2 ^ 32 * lsize + 2 ^ 37 * role + 2 ^ 39 * cls + 2 ^ 42 * peer + 2 ^ 54 * ph + 2 ^ 63 + 2 ^ 64 * prod + 2 ^ 96 * cons)

/-- An unbooked step of slot 1 on tile `a`, with 8 bundles of code. -/
def aRun (a : Nat) : Run :=
  { key := { tile := a }, slot := 1, going := true, codeLen := 8, codeVa := 0, maxIter := 65535, pbMode := 0 }

/-- The state in which agent `a` runs that step. -/
def running (s : State) (a : Nat) : State := modBk s a fun b => { b with run := some (aRun a) }

/-- It runs it booked, in slots 0 to 999. -/
def bookedStep (s : State) (a : Nat) : State :=
  modBk s a fun b => { b with run := some { aRun a with booking := some { s := 0, e := 1000, slack := 0, span := 2, movable := false, demotePolicy := false, entries := 1, cues := [] } } }

/-- Without a step there is no journal to check an effect against (R123). -/
theorem fresh_of_no_run {s : State} {a ty : Nat} {o : BitVec 64} (h : (bk s a).run = none) : restartEffect s a ty o = .fresh := by
  unfold restartEffect; rw [h]

theorem effect_fresh {s : State} {k : StepKey} {ty : Nat} {o : BitVec 64} (h : stepRec s k = none) : effectOf s k ty o = .fresh := by
  unfold effectOf; rw [h]

/-- An answer without an error, told by a check. -/
def isOk {α β : Type} [DecidableEq β] (r : Except α β) (b : β) : Bool :=
  match r with
  | .ok x => decide (x = b)
  | .error _ => false

theorem eq_ok {α β : Type} [DecidableEq β] {r : Except α β} {b : β} (h : isOk r b = true) : r = .ok b := by
  cases r with
  | ok x => rw [show x = b from of_decide_eq_true h]
  | error e => cases h

/-- Where no pair entry is set, bytes below the reserved range are plain (R16, R103). -/
theorem plain_noPairs {s : State} {addr n : Nat} (hp : s.pairs = []) (h : addrOff addr + n ≤ 0x1B4000) : Plain s addr n := by
  have hf : ∀ x, frontAddr s x = x % 2 ^ 32 := Laws.frontAddr_noPairs hp
  refine ⟨fun k hk => ?_, fun j k hj hk => ?_⟩
  · rw [hf]
    unfold addrOff at h ⊢
    unfold offReserved
    have h1 : ¬ 0x1B4000 ≤ (addr + k) % 2 ^ 32 % 2 ^ 21 := by omega
    rw [decide_eq_false h1]; rfl
  · rw [hf, hf]; omega

/-- Words that follow each other, at steps of at least four bytes, where no pair entry is set. -/
theorem plainWords_noPairs {s : State} {as : List Nat} (hp : s.pairs = []) (h : ∀ a ∈ as, addrOff a + 4 ≤ 0x1B4000 ∧ a + 4 ≤ 2 ^ 32) (hs : as.Pairwise fun a b => a + 4 ≤ b) :
    PlainWords s as := by
  have hf : ∀ x, frontAddr s x = x % 2 ^ 32 := Laws.frontAddr_noPairs hp
  refine ⟨fun a ha k hk => (plain_noPairs hp (h a ha).1).1 k hk, fun i j k l hi hj hk hl he => ?_⟩
  rw [hf, hf] at he
  have gi : as.getD i 0 = as[i] := by simp [hi]
  have gj : as.getD j 0 = as[j] := by simp [hj]
  have h1 := (h as[i] (List.getElem_mem hi)).2
  have h2 := (h as[j] (List.getElem_mem hj)).2
  rw [gi, gj] at he
  have hs := List.pairwise_iff_getElem.1 hs
  by_cases hij : i < j
  · have := hs i j hi hj hij; omega
  · by_cases hji : j < i
    · have := hs j i hj hi hji; omega
    · have : i = j := by omega
      subst this; omega

/-- A walk that fails, told by a check. -/
def fails {ε α : Type} (r : Except ε α) : Bool :=
  match r with
  | .ok _ => false
  | .error _ => true

/-- An answer that is there and passes a check. -/
def okB {ε α : Type} (r : Except ε α) (p : α → Bool) : Bool :=
  match r with
  | .ok x => p x
  | .error _ => false

theorem ok_of {ε α : Type} {r : Except ε α} {p : α → Bool} (h : okB r p = true) : ∃ x, r = .ok x ∧ p x = true := by
  cases r with
  | ok x => exact ⟨x, rfl, h⟩
  | error e => cases h

/-! ### Ill-formed terms -/

/-- A latch that no socket has (R143, R172). -/
theorem test_trig_rejects_missing_latch : instrWf (.sqBr ⟨none, .latch .sq 0x25⟩) = false := by decide

/-- A broad latch does not fit a narrow trigger (R168). -/
theorem test_trig_rejects_broad_latch : instrWf (.xaAdd .xa ⟨none, .latch .vx 0x21⟩) = false := by decide

/-- R263 does not list `vfms` among a nest's element operations. -/
theorem test_nest_rejects_operation : instrWf (.vxVnest ⟨false, 0, 0, 0, 0, 0, 0x005⟩) = false := by decide

/-- Agent 2,096 is none of a tile or dock core (R77). -/
theorem test_bundle_rejects_agent : instrWf (.bundleIssue 2096 0) = false := by decide

/-! ### Words written out from R162 to R175

Guard in bits [63:59] (0 for none), opcode in [58:47], destination in [46:32] (class 3, unit, code 0), source in [31:16] with the immediate of class 3 in [15:0]; the
opcodes are R174's, in the order of its lists. -/

/-- A slot that moves `#5` to the trigger of unit `u` with opcode `op`. -/
def slotWord (u op : Nat) : BitVec 64 := 0b00000#5 ++ BitVec.ofNat 12 op ++ (3#3 ++ BitVec.ofNat 6 u ++ 0#6) ++ (3#4 ++ 0#12) ++ 5#16

/-- The unguarded trigger that moves `#5`. -/
def five : Trig := ⟨none, .imm 5⟩

/-- The words of a unit from opcode `op` on decode to a list of operations. -/
def reads (u op : Nat) (l : List Instr) : Bool := l.zipIdx.all fun x => isOk (decodeInstr (slotWord u (op + x.2))) x.1

theorem test_decode_sq :
    reads 0x00 0x001 [.sqBr five, .sqBrr five, .sqCall five, .sqCallx five, .sqRet five, .sqLoop five, .sqLbrk five, .sqLidx five, .sqScene five, .sqTrap five, .sqIret five, .sqIfence five, .sqBrswap five, .sqHalt five] = true := by
  decide +kernel

theorem test_decode_xa :
    reads 0x01 0x001 [.xaAdd .xa five, .xaSub .xa five, .xaRsub .xa five, .xaMul .xa five, .xaMulh .xa five, .xaMulhu .xa five, .xaDiv .xa five, .xaDivu .xa five, .xaRem .xa five, .xaRemu .xa five, .xaMin .xa five, .xaMax .xa five, .xaMinu .xa five, .xaMaxu .xa five, .xaAbs .xa five] = true ∧
    reads 0x01 0x101 [.xaAnd .xa five, .xaOr .xa five, .xaXor .xa five, .xaAndn .xa five, .xaShl .xa five, .xaShr .xa five, .xaSra .xa five, .xaRol .xa five, .xaClz .xa five, .xaCtz .xa five, .xaPopc .xa five, .xaSextB .xa five, .xaSextH .xa five, .xaBext .xa five, .xaBins .xa five, .xaPass .xa five] = true ∧
    reads 0x01 0x205 [.xaCmpEq .xa 5 five, .xaCmpEq .xa 6 five] = true ∧
    reads 0x01 0x20D [.xaCmpNe .xa 5 five, .xaCmpNe .xa 6 five] = true ∧
    reads 0x01 0x215 [.xaCmpLt .xa 5 five, .xaCmpLt .xa 6 five] = true ∧
    reads 0x01 0x21D [.xaCmpLe .xa 5 five, .xaCmpLe .xa 6 five] = true ∧
    reads 0x01 0x225 [.xaCmpLtu .xa 5 five, .xaCmpLtu .xa 6 five] = true ∧
    reads 0x01 0x22D [.xaCmpLeu .xa 5 five, .xaCmpLeu .xa 6 five] = true ∧
    reads 0x01 0x235 [.xaTst .xa 5 five, .xaTst .xa 6 five] = true ∧
    reads 0x01 0x305 [.xaSel .xa 5 five, .xaSel .xa 6 five] = true := by
  refine ⟨?_, ?_, ?_, ?_, ?_, ?_, ?_, ?_, ?_, ?_⟩ <;> decide +kernel

theorem test_decode_xb :
    reads 0x02 0x001 [.xaAdd .xb five, .xaSub .xb five, .xaRsub .xb five, .xaMul .xb five, .xaMulh .xb five, .xaMulhu .xb five, .xaDiv .xb five, .xaDivu .xb five, .xaRem .xb five, .xaRemu .xb five, .xaMin .xb five, .xaMax .xb five, .xaMinu .xb five, .xaMaxu .xb five, .xaAbs .xb five] = true ∧
    reads 0x02 0x101 [.xaAnd .xb five, .xaOr .xb five, .xaXor .xb five, .xaAndn .xb five, .xaShl .xb five, .xaShr .xb five, .xaSra .xb five, .xaRol .xb five, .xaClz .xb five, .xaCtz .xb five, .xaPopc .xb five, .xaSextB .xb five, .xaSextH .xb five, .xaBext .xb five, .xaBins .xb five, .xaPass .xb five] = true ∧
    reads 0x02 0x205 [.xaCmpEq .xb 5 five, .xaCmpEq .xb 6 five] = true ∧
    reads 0x02 0x20D [.xaCmpNe .xb 5 five, .xaCmpNe .xb 6 five] = true ∧
    reads 0x02 0x215 [.xaCmpLt .xb 5 five, .xaCmpLt .xb 6 five] = true ∧
    reads 0x02 0x21D [.xaCmpLe .xb 5 five, .xaCmpLe .xb 6 five] = true ∧
    reads 0x02 0x225 [.xaCmpLtu .xb 5 five, .xaCmpLtu .xb 6 five] = true ∧
    reads 0x02 0x22D [.xaCmpLeu .xb 5 five, .xaCmpLeu .xb 6 five] = true ∧
    reads 0x02 0x235 [.xaTst .xb 5 five, .xaTst .xb 6 five] = true ∧
    reads 0x02 0x305 [.xaSel .xb 5 five, .xaSel .xb 6 five] = true := by
  refine ⟨?_, ?_, ?_, ?_, ?_, ?_, ?_, ?_, ?_, ?_⟩ <;> decide +kernel

theorem test_decode_ag :
    reads 0x03 0x001 [.agLea five, .agGaddr five, .agTileid five, .agHome five, .agStep five, .agWrap five] = true ∧
    reads 0x03 0x010 [.agCbInit five, .agCbWait five, .agCbRoom five, .agCbAdvp five, .agCbAdvc five, .agCbPos five, .agCbPosp five, .agCbFill five] = true := by
  refine ⟨?_, ?_⟩ <;> decide +kernel

theorem test_decode_ls :
    reads 0x04 0x501 [.lsLdB 5 five, .lsLdBz 5 five, .lsLdH 5 five, .lsLdHz 5 five, .lsLdW 5 five, .lsStB 5 five, .lsStH 5 five, .lsStW 5 five] = true ∧
    reads 0x04 0x520 [.lsAmoAdd 5 five, .lsAmoAnd 5 five, .lsAmoOr 5 five, .lsAmoXor 5 five, .lsAmoMin 5 five, .lsAmoMax 5 five, .lsAmoMinu 5 five, .lsAmoMaxu 5 five, .lsAmoSwap 5 five, .lsAmoCas 5 five, .lsAmoFadd 5 five, .lsAmoChunk 5 five] = true ∧
    reads 0x04 0x540 [.lsAcq 5 five, .lsRel 5 five, .lsFence 5 five, .lsSwArm 5 five, .lsSwWait 5 five, .lsSwAdd 5 five, .lsSwRead 5 five] = true := by
  refine ⟨?_, ?_, ?_⟩ <;> decide +kernel

theorem test_decode_vx :
    reads 0x05 0x001 [.vxVadd five, .vxVsub five, .vxVmul five, .vxVfma five, .vxVfms five, .vxVfnma five, .vxVmin five, .vxVmax five, .vxVabs five, .vxVneg five, .vxVdiv five, .vxVsqrt five, .vxVrcp five, .vxVrsqrt five, .vxVexp2 five, .vxVlog2 five] = true ∧
    reads 0x05 0x101 [.vxVaddi five, .vxVsubi five, .vxVmuli five, .vxVand five, .vxVor five, .vxVxor five, .vxVshl five, .vxVshr five, .vxVsra five, .vxVmini five, .vxVmaxi five] = true ∧
    reads 0x05 0x201 [.vxVcmpEq five, .vxVcmpNe five, .vxVcmpLt five, .vxVcmpLe five, .vxVcmpiEq five, .vxVcmpiNe five, .vxVcmpiLt five, .vxVcmpiLe five, .vxVsel five, .vxMand five, .vxMor five, .vxMnot five] = true ∧
    reads 0x05 0x301 [.vxVcvt five, .vxVscale five, .vxVcvti five] = true ∧
    reads 0x05 0x401 [.vxVredsum five, .vxVredmax five, .vxVredmin five, .vxVbcast five, .vxVperm five, .vxVrot five, .vxVins five, .vxVget five, .vxVmov five, .vxVout five] = true ∧
    reads 0x05 0x501 [.vxVld five, .vxVst five, .vxVgath five, .vxVscat five, .vxVldc five, .vxVstc five] = true := by
  refine ⟨?_, ?_, ?_, ?_, ?_, ?_⟩ <;> decide +kernel

theorem test_decode_mx :
    reads 0x06 0x001 [.mxCfg five, .mxWload five, .mxWloadx five, .mxRun five, .mxRunsp five, .mxGrp five, .mxSclr five, .mxDrain five, .mxDrainc five, .mxScale five, .mxCap five, .mxPrio five, .mxStat five, .mxSwap five] = true := by
  decide +kernel

theorem test_decode_ch :
    reads 0x07 0x301 [.chCopy 3 five, .chCopyt 3 five, .chCopyi 3 five, .chExpand 3 five, .chFill 3 five, .chShadow 3 five] = true ∧
    reads 0x07 0x007 [.chPublish five] = true ∧
    reads 0x07 0x308 [.chCrc 3 five] = true ∧
    reads 0x07 0x009 [.chPbinv five, .chTlbinv five, .chTlbpin five, .chCancel five, .chStat five] = true := by
  refine ⟨?_, ?_, ?_, ?_⟩ <;> decide +kernel

theorem test_decode_nt :
    reads 0x08 0x001 [.ntSend five, .ntSendw five, .ntPut five, .ntPutb five, .ntReduce five, .ntBcast five, .ntSpawn five, .ntEvent five, .ntMxcmd five, .ntTree five, .ntStat five, .ntRedwait five] = true := by
  decide +kernel

theorem test_decode_lm :
    reads 0x09 0x001 [.lmBank five, .lmTick five, .lmFan five, .lmLoad five, .lmStore five, .lmInject five, .lmRead five, .lmWrite five, .lmRun five, .lmStop five, .lmDrain five, .lmTie five, .lmStat five] = true := by
  decide +kernel

theorem test_decode_cq :
    reads 0x0A 0x001 [.cqProbe five, .cqBook five, .cqRelease five, .cqExtend five, .cqChain five, .cqCompact five, .cqDemote five, .cqSlack five, .cqQuery five] = true := by
  decide +kernel

theorem test_decode_sy :
    reads 0x0B 0x001 [.syCsrr five, .syCsrw five, .syGtime five, .syWaitgt five, .syCurtain five, .syCarrive five, .syCwait five, .syFumode five, .syPbmark five, .syEcall five, .syYield five, .syBrk five, .syUsr five, .syUsw five, .syPerf five, .syIdle five] = true := by
  decide +kernel

/-- A tag 0x1 bundle of no-ops and the nest `vadd` of FP32 with extents 2, 3 and stride 1 of the destination's innermost level (R170, R171). -/
theorem test_decode_vnest :
    decode [1#64, 0#64, 0#64, 0#64, 0x001#64 ||| (2#64 <<< 12) ||| (3#64 <<< 24), 1#64 <<< 8, 0#64, 1#64 <<< 50] =
      some (.vxVnest ⟨false, 0, 1, 0, 1, 2 + 2 ^ 12 * 3, 0x001⟩) := by
  decide +kernel

/-- Any other eight words are the bundle that they are (R162). -/
theorem test_decode_bundle : (decode [0#64, 0x9000B00030000028#64, 0#64, 0#64, 0#64, 0#64, 0#64, 0#64]).isSome = true := by decide +kernel

/-- R175: the codes beside each list are reserved. -/
theorem test_decode_reserved :
    ∀ e ∈ [(0, 0x000), (0, 0x00F), (1, 0x010), (1, 0x111), (1, 0x238), (1, 0x310), (3, 0x007), (3, 0x018), (4, 0x009), (4, 0x82C), (5, 0x011), (5, 0x601), (6, 0x00F), (7, 0x00E), (7, 0x107), (7, 0x401), (8, 0x00D), (9, 0x00E), (10, 0x00A), (11, 0x011)],
      okB (decodeInstr (slotWord e.1 e.2)) (fun _ => true) = false := by
  decide +kernel

/-! ### One step of a few operations, with values computed by hand from their rules -/

/-- Tile 5 in cycle 100 triggers an operation with t = `t`; ports as given. -/
def one (t : Nat) (ports : List (Sock × Nat × Nat)) : State := alone 5 (BitVec.ofNat 64 t) (ports.map fun p => (p.1, p.2.1, BitVec.ofNat 2048 p.2.2))

/-- The flights of a next state: latch code, due cycle, low word. -/
def landings (r : Host.Outcome State Fault Refusal) (u : Sock) : List (Nat × Option Nat × Nat) :=
  match r with
  | .next t => ((bk t 5).x.flights.filter fun f => f.u == u).map fun f => (f.code, f.due, f.val.toNat % 2 ^ 32)
  | _ => []

/-- R199: a + b wraps, with latency 1; the trigger is b and o0 is a. -/
theorem test_add_wraps : landings (exec (.xaAdd .xa mk) (one 0xFFFFFFFF [(.xa, 0, 3)])) .xa = [(0x20, some 101, 2)] := by decide +kernel

/-- R199: `rsub` is b − a. -/
theorem test_rsub_order : landings (exec (.xaRsub .xa mk) (one 2 [(.xa, 0, 5)])) .xa = [(0x20, some 101, 0xFFFFFFFD)] := by decide +kernel

/-- R201: `ctz` of 0 is 32. -/
theorem test_ctz_zero : (landings (exec (.xaCtz .xb mk) (one 0 [])) .xb).map (·.2.2) = [32] := by decide +kernel

/-- R314: `gtime` delivers GT with latency 1. -/
theorem test_gtime : landings (exec (.syGtime mk) (one 0 [])) .sy = [(0x20, some 101, 100), (0x21, some 101, 0)] := by decide +kernel

/-- R204: `tileid` of tile 5 is 5. -/
theorem test_tileid : (landings (exec (.agTileid mk) (one 0 [])) .ag).map (·.2.2) = [5] := by decide +kernel

/-- A word placed where the step fetches is the first to run: `(p2) #40 -> sq.br` issues in tile 0 with its guard off, and its bundle is under way. -/
theorem test_step_runs_placed_word :
    (match step (State.reset.withFetchWord 64 0x9000B00030000028) with
      | .next t => decide ((bk t 0).q.started = true) && decide ((bk t 0).q.bq = []) && decide ((bk t 0).c.xcause = 0)
      | _ => false) = true := by
  decide +kernel

/-! ### A state and operands for every statement: its hypotheses hold together there -/

/-! ### States and operands that meet the hypotheses of the statements -/

theorem witness_IntegerOperationResults : ∀ u : IntUnit, Ready (alone 5 3 []) mk ∧ Free (alone 5 3 []) u.sock 0x20 1 := by
  intro u; cases u <;> delta Ready Free <;> decide +kernel

theorem witness_AddressOperationResults : Ready (alone 5 3 []) mk ∧ Free (alone 5 3 []) .ag 0x20 1 := by delta Ready Free; decide +kernel

/-- Handle 15 of tile 5: a consumer's ring of `2 ^ l` bytes at offset 64 of its memory, 128 bytes filled. -/
def wH (l role : Nat) (o0 : Nat) : State := setH (alone 5 15 [(.ag, 0, BitVec.ofNat 2048 o0)]) 5 15 (hnd (5 * 2 ^ 21 + 64) l role 0 6 1 128 0)

theorem witness_HandleOperations_init :
    let s := alone 5 15 [(.ag, 0, BitVec.ofNat 2048 (5 * 2 ^ 21)), (.ag, 1, 20)]
    Ready s mk ∧ Free s .ag 0x20 1 ∧ (tVal s mk).toNat < 16 ∧ (oVal s .ag 0).toNat % 64 = 0 ∧ 6 ≤ (oVal s .ag 1).toNat % 32 ∧
      (oVal s .ag 1).toNat % 32 ≤ 20 ∧ (oVal s .ag 1).toNat / 2 ^ 5 % 4 ≠ 3 ∧ (oVal s .ag 1).toNat / 2 ^ 26 = 0 ∧
      inData (oVal s .ag 0).toNat (2 ^ ((oVal s .ag 1).toNat % 32)) = true := by delta Ready Free; decide +kernel

theorem witness_HandleOperations_read : Ready (wH 6 2 0) mk ∧ Free (wH 6 2 0) .ag 0x20 1 ∧ HandleUsable (wH 6 2 0) (tVal (wH 6 2 0) mk) [0, 1, 2] := by
  delta Ready Free HandleUsable; decide +kernel

theorem witness_HandleOperations_push :
    let s := wH 8 1 128
    Ready s mk ∧ Free s .ag 0x20 1 ∧ stepJournals s (stepOf s 5) = false ∧ restartEffect s 5 0x2A (objSram (hBase (handleAt s mk))) = .fresh ∧
      HandleUsable s (tVal s mk) [0, 1] ∧ (oVal s .ag 0).toNat + (hProd (handleAt s mk) - hCons (handleAt s mk)).toNat ≤ 2 ^ hLsize (handleAt s mk) ∧
      classPending s 5 (hCls (handleAt s mk)) true = false := by
  delta Ready Free HandleUsable
  exact ⟨by decide +kernel, by decide +kernel, by decide +kernel, fresh_of_no_run (by decide +kernel), by decide +kernel⟩

theorem witness_HandleOperations_pop :
    let s := wH 8 2 128
    Ready s mk ∧ Free s .ag 0x20 1 ∧ stepJournals s (stepOf s 5) = false ∧ restartEffect s 5 0x2A (objSram (hBase (handleAt s mk))) = .fresh ∧
      HandleUsable s (tVal s mk) [0, 2] ∧ (oVal s .ag 0).toNat ≤ (hProd (handleAt s mk) - hCons (handleAt s mk)).toNat ∧
      classPending s 5 (hCls (handleAt s mk)) false = false := by
  delta Ready Free HandleUsable
  exact ⟨by decide +kernel, by decide +kernel, by decide +kernel, fresh_of_no_run (by decide +kernel), by decide +kernel⟩

theorem witness_HandleWaitsAndFaults_wait :
    let s := wH 8 2 128
    let h := handleAt s mk
    Ready s mk ∧ Free s .ag 0x20 1 ∧ HandleUsable s (tVal s mk) [0, 2] ∧ (oVal s .ag 0).toNat ≤ 2 ^ hLsize h ∧
      (oVal s .ag 0).toNat ≤ (hProd h - hCons h).toNat := by delta Ready Free HandleUsable; decide +kernel

theorem witness_HandleWaitsAndFaults_room :
    let s := wH 8 1 128
    let h := handleAt s mk
    Ready s mk ∧ Free s .ag 0x20 1 ∧ HandleUsable s (tVal s mk) [0, 1] ∧ (oVal s .ag 0).toNat ≤ 2 ^ hLsize h ∧
      (oVal s .ag 0).toNat + (hProd h - hCons h).toNat ≤ 2 ^ hLsize h := by delta Ready Free HandleUsable; decide +kernel

theorem witness_HandleWaitsAndFaults_hold :
    let s := wH 8 2 129
    let h := handleAt s mk
    (Ready s mk ∧ HandleUsable s (tVal s mk) [0, 2] ∧ (oVal s .ag 0).toNat ≤ 2 ^ hLsize h ∧ (hProd h - hCons h).toNat < (oVal s .ag 0).toNat) ∧
    (let s := wH 8 1 129
     let h := handleAt s mk
     Ready s mk ∧ HandleUsable s (tVal s mk) [0, 1] ∧ (oVal s .ag 0).toNat ≤ 2 ^ hLsize h ∧ (hProd h - hCons h).toNat ≤ 2 ^ hLsize h ∧ 2 ^ hLsize h < (oVal s .ag 0).toNat + (hProd h - hCons h).toNat) := by
  delta Ready HandleUsable; decide +kernel

theorem witness_HandleWaitsAndFaults_faults :
    (Ready (alone 5 16 []) mk ∧ 16 ≤ (tVal (alone 5 16 []) mk).toNat) ∧
    (Ready (alone 5 15 []) mk ∧ (tVal (alone 5 15 []) mk).toNat < 16 ∧ hValid (handleAt (alone 5 15 []) mk) = false) ∧
    (Ready (wH 5 1 0) mk ∧ (tVal (wH 5 1 0) mk).toNat < 16 ∧ hValid (handleAt (wH 5 1 0) mk) = true ∧ hLsize (handleAt (wH 5 1 0) mk) < 6) ∧
    (Ready (wH 8 1 0) mk ∧ hValid (handleAt (wH 8 1 0) mk) = true ∧
      ¬ (hRole (handleAt (wH 8 1 0) mk) = 3 ∨ hLsize (handleAt (wH 8 1 0) mk) < 6 ∨ 20 < hLsize (handleAt (wH 8 1 0) mk) ∨
        hBase (handleAt (wH 8 1 0) mk) % 64 ≠ 0 ∨ inData (hBase (handleAt (wH 8 1 0) mk)) (2 ^ hLsize (handleAt (wH 8 1 0) mk)) = false) ∧
      hRole (handleAt (wH 8 1 0) mk) ∉ [0, 2]) ∧
    (HandleUsable (wH 8 2 257) (tVal (wH 8 2 257) mk) [0, 2] ∧ 2 ^ hLsize (handleAt (wH 8 2 257) mk) < (oVal (wH 8 2 257) .ag 0).toNat) ∧
    (HandleUsable (wH 8 1 257) (tVal (wH 8 1 257) mk) [0, 1] ∧ 2 ^ hLsize (handleAt (wH 8 1 257) mk) < (oVal (wH 8 1 257) .ag 0).toNat) ∧
    (HandleUsable (wH 8 1 129) (tVal (wH 8 1 129) mk) [0, 1] ∧
      (hProd (handleAt (wH 8 1 129) mk) - hCons (handleAt (wH 8 1 129) mk)).toNat ≤ 2 ^ hLsize (handleAt (wH 8 1 129) mk) ∧
      2 ^ hLsize (handleAt (wH 8 1 129) mk) < (oVal (wH 8 1 129) .ag 0).toNat + (hProd (handleAt (wH 8 1 129) mk) - hCons (handleAt (wH 8 1 129) mk)).toNat) ∧
    (HandleUsable (wH 8 2 129) (tVal (wH 8 2 129) mk) [0, 2] ∧
      (hProd (handleAt (wH 8 2 129) mk) - hCons (handleAt (wH 8 2 129) mk)).toNat < (oVal (wH 8 2 129) .ag 0).toNat) ∧
    (Ready (alone 5 0 [(.ag, 1, 5)]) mk ∧ (oVal (alone 5 0 [(.ag, 1, 5)]) .ag 1).toNat % 32 < 6) :=
  by delta Ready HandleUsable; (repeat' apply And.intro) <;> decide +kernel

theorem inCode_none {s : State} {a : Nat} {t : Int} (h : (bk s a).q.scene = none) (h0 : 0 ≤ t) (h1 : t < codeLimit (bk s a)) : InCode s a t := by
  refine ⟨h0, ?_⟩; rw [h]; exact h1

theorem not_inCode {s : State} {a : Nat} {t : Int} (h : (bk s a).q.scene = none) (h1 : ¬ t < codeLimit (bk s a)) : ¬ InCode s a t := by
  rintro ⟨-, h2⟩; rw [h] at h2; exact h1 h2

/-- Tile 5 triggers an operation of `sq` with t = `k`, its sequencer as `f` leaves it. -/
def wS (k : BitVec 64) (f : Seq → Seq) : State := modQ (running (alone 5 k []) 5) 5 f

theorem witness_BranchesJoinOrFault_join :
    (Ready (wS 7 id) mk ∧ Free (wS 7 id) .sq 0x20 1 ∧ swapQueued (bk (wS 7 id) 5).q = false ∧ endsScene (bk (wS 7 id) 5).q (wS 7 id).cur.hdr = false ∧ (bk (wS 7 id) 5).q.cdepth ≠ 255 ∧
      (bk (wS 7 id) 5).q.scene = none) ∧ InCode (wS 7 id) 5 ((tVal (wS 7 id) mk).toNat % 2 ^ 16 : Nat) ∧
    (let s := wS 0xFFFF fun q => { q with pc := 1 }
     InCode s 5 (bIndex (bk s 5).q + (BitVec.ofNat 16 ((tVal s mk).toNat % 2 ^ 16)).toInt)) ∧
    (let s := wS 7 fun q => { q with entries := [(7, 0)], cdepth := 254 }
     InCode s 5 ((tVal s mk).toNat % 2 ^ 16 : Nat) ∧ ((tVal s mk).toNat % 2 ^ 16, (oVal s .sq 0).toNat % 256) ∈ (bk s 5).q.entries) ∧
    (let s := wS 0 fun q => { q with cdepth := 1 }
     InCode s 5 ((tVal s mk).toNat % 2 ^ 16 : Nat) ∧ (bk s 5).q.cdepth ≠ 0) ∧
    (let s := wS 511 fun q => { q with imode := 1 }
     (bk s 5).q.imode = 1 ∧ (tVal s mk).extractLsb' 9 7 = 0) := by
  delta Ready Free
  refine ⟨by decide +kernel, inCode_none ?_ ?_ ?_, inCode_none ?_ ?_ ?_, ⟨inCode_none ?_ ?_ ?_, ?_⟩, ⟨inCode_none ?_ ?_ ?_, ?_⟩, ?_⟩ <;> decide +kernel

theorem witness_BranchesJoinOrFault_faults :
    (Ready (wS 8 id) mk ∧ swapQueued (bk (wS 8 id) 5).q = false ∧ (bk (wS 8 id) 5).q.scene = none) ∧
    ¬ InCode (wS 8 id) 5 ((tVal (wS 8 id) mk).toNat % 2 ^ 16 : Nat) ∧
    (let s := wS 7 fun q => { q with cdepth := 255 }
     (bk s 5).q.scene = none ∧ InCode s 5 ((tVal s mk).toNat % 2 ^ 16 : Nat) ∧ (bk s 5).q.cdepth = 255) ∧
    (let s := wS 7 id
     InCode s 5 ((tVal s mk).toNat % 2 ^ 16 : Nat) ∧ (bk s 5).q.cdepth = 0 ∧
      ((tVal s mk).toNat % 2 ^ 16, (oVal s .sq 0).toNat % 256) ∉ (bk s 5).q.entries) ∧
    (let s := modQ (wS 7 id) 5 fun q => { q with scene := some 0, cdepth := 1 }
     (bk s 5).q.scene.isSome ∧ Ready s mk) ∧
    (let s := { modQ (wS 7 id) 5 fun q => { q with scene := some 0 } with cur := { a := 5, long := 7, hdr := 2 ^ 59 } }
     Ready s mk ∧ endsScene (bk s 5).q s.cur.hdr = true) ∧
    (let s := wS 0 id
     (bk s 5).q.imode ≠ 1 ∧ (tVal s mk).extractLsb' 9 7 = 0) ∧
    (let s := wS 512 fun q => { q with imode := 1 }
     (bk s 5).q.imode = 1 ∧ (tVal s mk).extractLsb' 9 7 ≠ 0) ∧
    ¬ InCode (wS 8 id) 5 (bIndex (bk (wS 8 id) 5).q + (BitVec.ofNat 16 ((tVal (wS 8 id) mk).toNat % 2 ^ 16)).toInt) ∧
    (let s := wS 8 fun q => { q with cdepth := 1, bq := [⟨3, 2, true⟩] }
     (bk s 5).q.scene = none ∧ ¬ InCode s 5 ((tVal s mk).toNat % 2 ^ 16 : Nat) ∧ (bk s 5).q.cdepth ≠ 255 ∧ (bk s 5).q.cdepth ≠ 0 ∧ swapQueued (bk s 5).q = true ∧ Ready s mk) := by
  delta Ready
  refine ⟨by decide +kernel, not_inCode ?_ ?_, ⟨?_, inCode_none ?_ ?_ ?_, ?_⟩, ⟨inCode_none ?_ ?_ ?_, ?_⟩, ?_, ?_, ?_, ?_, not_inCode ?_ ?_, ?_, not_inCode ?_ ?_, ?_, ?_, ?_, ?_⟩ <;> decide +kernel

theorem witness_LoopAndSequencerOperations_loop :
    (let s := wS 1 fun q => { q with depth := 5 }
     Ready s mk ∧ Free s .sq 0x20 1 ∧ (header s.cur.hdr).lend = 0 ∧ (bk s 5).q.depth < 6 ∧ tVal s mk ≠ 0 ∧ (loopOf (bk s 5).q 4).fixed = false ∧
       (bk s 5).q.depth ≠ 0 ∧ endsScene (bk s 5).q s.cur.hdr = false ∧ (oVal s .sq 0).toNat % 8 < 6 ∧ (oVal s .sq 0).toNat / 2 ^ 6 % 4 = 0) ∧
    (let s := wS 0 id
     (bk s 5).q.depth < 6 ∧ tVal s mk = 0 ∧ (bk s 5).q.scene = none) ∧
    (∀ n ∈ [255, 256], let s := wS 0 fun q => { q with depth := 1, scene := some 0, loops := [(0, ⟨0, 2, 3, BitVec.ofNat 16 (n - 1), false⟩)] }
     Ready s mk ∧ Free s .sq 0x20 1 ∧ (loopOf (bk s 5).q 0).fixed = false ∧ (loopOf (bk s 5).q 0).stop.toNat + 1 = n ∧ sceneLen s 5 0 = 256) ∧
    (let s := setPort (wS 6 id) 5 .sq 0 (0x100 + 64)
     (oVal s .sq 0).toNat / 2 ^ 6 % 4 = 1 ∧ (oVal s .sq 0).getLsbD 8 = true ∧ (tVal s mk).toNat ≤ 6) := by delta Ready Free; decide +kernel

theorem witness_LoopAndSequencerOperations_requests :
    (let s := wS 63 fun q => { q with scenes := [(63, some 0)] }
     Ready s mk ∧ sockHeld s 5 .sq = false ∧ (tVal s mk).toNat < 64 ∧ kget none (bk s 5).q.scenes (tVal s mk).toNat = some 0 ∧ codeStores s 5 = false) ∧
    (let s := modC (wS 0 fun q => { q with intrap := true }) 5 fun c => { c with xpc := 7 }
     Ready s mk ∧ (bk s 5).q.intrap = true ∧ ((bk s 5).q.xscenes.headD {}).scene = none ∧ (bk s 5).c.xpc.toNat % 2 ^ 16 < codeLimit (bk s 5) ∧
       (bk s 5).c.xq0.getLsbD 31 = false ∧ (bk s 5).c.xq1.getLsbD 31 = false ∧ (bk s 5).c.xqm0.getLsbD 31 = false ∧ (bk s 5).c.xqm1.getLsbD 31 = false) := by delta Ready; decide +kernel

/-- Tile 5's bundle completes, its sequencer as `f` leaves it. -/
def wC (f : Seq → Seq) : State := { wS 0 f with occ := .at 5 }

theorem witness_BundleSuccession :
    (∀ f ∈ [(fun q => { q with pc := 6 } : Seq → Seq), fun q => { q with bq := [⟨7, 1, false⟩], newq := [⟨1, 2, false⟩] },
        fun q => { q with imode := 1, bq := [⟨511, 1, true⟩] }, fun q => { q with lend := 1, depth := 1, loops := [(0, ⟨0, 2, 3, 0, false⟩)] },
        fun q => { q with lend := 1, depth := 1, loops := [(0, ⟨1, 2, 3, 0, false⟩)] }, fun q => { q with lend := 1, depth := 1, loops := [(0, ⟨1, 2, 3, 0, true⟩)] }],
      (wC f).occ = .at 5 ∧ (bk (wC f) 5).run = some (aRun 5) ∧ (aRun 5).going = true ∧ iterationPassed (wC f) 5 (aRun 5) = false ∧ (bk (wC f) 5).q.after = [] ∧ (bk (wC f) 5).q.scene = none ∧
        successor (bk (wC f) 5).q < codeLimit (bk (wC f) 5)) ∧
    (dueBranch (bk (wC fun q => { q with imode := 1, bq := [⟨511, 1, true⟩] }) 5).q).map (·.swap) = some true ∧
    (dueBranch (bk (wC fun q => { q with bq := [⟨7, 1, false⟩] }) 5).q).map (·.swap) = some false ∧
    loopsBack (bk (wC fun q => { q with lend := 1, depth := 1, loops := [(0, ⟨0, 2, 3, 0, false⟩)] }) 5).q = true ∧
    loopsBack (bk (wC fun q => { q with lend := 1, depth := 1, loops := [(0, ⟨1, 2, 3, 0, false⟩)] }) 5).q = false ∧
    (ag (wC id) 5).queued = false := by decide +kernel

theorem witness_TrapsAndReturns :
    (let s := wC fun q => { q with pc := 6, after := [.trap 255 none 7] }
     s.occ = .at 5 ∧ (bk s 5).run = some (aRun 5) ∧ (aRun 5).going = true ∧ unsaved s 5 = false ∧ (ag s 5).queued = false ∧ iterationPassed s 5 (aRun 5) = false ∧
       (bk s 5).q.after = [.trap 255 none 7] ∧ (bk s 5).q.scene = none ∧ (bk s 5).q.bound = false ∧ successor (bk s 5).q < codeLimit (bk s 5) ∧ (bk s 5).q.bq = []) ∧
    (let s := wC fun q => { q with pc := 6, after := [.iret], intrap := true }
     iterationPassed s 5 (aRun 5) = false ∧ (bk s 5).q.after = [.iret] ∧ (bk s 5).q.scene = none ∧ (bk s 5).q.bound = false ∧ (bk s 5).q.lend = 0 ∧ dueBranch (bk s 5).q = none ∧
       (bk s 5).q.pc.toNat + 1 < codeLimit (bk s 5) ∧ ((bk s 5).q.xscenes.headD {}).scene = none) := by decide +kernel

/-- The record of the step on tile 5. -/
def aRec : StepRec := { key := { tile := 5 }, slot := 1, i := 0, j := 0, st := .running }

theorem witness_TrapsAndReturns_halt :
    let s := { wC fun q => { q with after := [.halt] } with steps := [aRec] }
    s.occ = .at 5 ∧ (bk s 5).run = some (aRun 5) ∧ (aRun 5).going = true ∧ (bk s 5).q.after.contains .halt = true ∧ stepRec s (aRun 5).key = some aRec ∧
      aRec.booking = none ∧ aRec.restartable = false ∧ isFaulted s (aRun 5).key = false ∧ iterationPassed s 5 (aRun 5) = false ∧ (bk s 5).dfaults = [] ∧ postHolds (bk s 5).wait = false ∧
      spawnHeld s 5 = false := by decide +kernel

/-- Tile 5 triggers an operation of `ls` to `addr`. -/
def wL (addr : Nat) : State := alone 5 (BitVec.ofNat 64 addr) []

theorem witness_TileAccessesSetOutOrFault_access :
    (∀ n ∈ [1, 2, 4], LsReady (wL (6 * 2 ^ 21 - 2 ^ 18 - n)) mk 7 1 ∧ allMapped (lsTarget (wL (6 * 2 ^ 21 - 2 ^ 18 - n)) mk) n = true ∧
      lsTarget (wL (6 * 2 ^ 21 - 2 ^ 18 - n)) mk % n = 0) ∧
    (∀ n ∈ [4, 16], LsReady (wL (5 * 2 ^ 21 + 0x180000 - n)) mk 0 2 ∧ inData (lsTarget (wL (5 * 2 ^ 21 + 0x180000 - n)) mk) n = true ∧
      lsTarget (wL (5 * 2 ^ 21 + 0x180000 - n)) mk % n = 0 ∧ stepJournals (wL (5 * 2 ^ 21 + 0x180000 - n)) (stepOf (wL (5 * 2 ^ 21 + 0x180000 - n)) 5) = false) ∧
    restartEffect (wL 64) 5 0x28 (objSram (lsTarget (wL 64) mk)) = .fresh := by
  simp only [LsReady, Ready, Free]
  exact ⟨by decide +kernel, by decide +kernel, fresh_of_no_run (by decide +kernel)⟩

theorem witness_TileAccessesSetOutOrFault_fault :
    (Ready (wL 0x1C0001) mk ∧ isTile (wL 0x1C0001).cur.a = true ∧ ∀ n ∈ [1, 2, 4, 16], allMapped (oVal (wL 0x1C0001) .ls 0 + tVal (wL 0x1C0001) mk).toNat n = false ∧
      inData (oVal (wL 0x1C0001) .ls 0 + tVal (wL 0x1C0001) mk).toNat n = false) ∧
    (∀ n ∈ [2, 4], allMapped (oVal (wL 1) .ls 0 + tVal (wL 1) mk).toNat n = true ∧ (oVal (wL 1) .ls 0 + tVal (wL 1) mk).toNat % n ≠ 0) ∧
    (∀ n ∈ [4, 16], inData (oVal (wL 1) .ls 0 + tVal (wL 1) mk).toNat n = true ∧ (oVal (wL 1) .ls 0 + tVal (wL 1) mk).toNat % n ≠ 0) ∧
    4 < (tVal (wL 5) mk).toNat % 8 := by delta Ready; decide +kernel

theorem witness_SynchronisationSetsOut :
    (∀ n ∈ [8, 16], let s := wL (5 * 2 ^ 21 + 0x180000 - n)
      LsReady s mk 0 4 ∧ stepJournals s (stepOf s 5) = false ∧ inData (lsTarget s mk) n = true ∧ lsTarget s mk % n = 0 ∧ (ag s 5).acqs = []) ∧
    restartEffect (wL 64) 5 0x29 (objSram (lsTarget (wL 64) mk)) = .fresh ∧ (tVal (wL 4) mk).toNat % 8 ≤ 4 ∧
    (let s := modAg (wL 64) 5 fun g => { g with acqs := [⟨7, 1, 128⟩] }
     LsReady s mk 2 4 ∧ stepJournals s (stepOf s 5) = false ∧ restartEffect s 5 0x29 (objSram (lsTarget s mk)) = .fresh ∧ inData (lsTarget s mk) 8 = true ∧ lsTarget s mk % 8 = 0 ∧ (ag s 5).acqs ≠ []) := by
  simp only [LsReady, Ready, Free]
  exact ⟨by decide +kernel, fresh_of_no_run (by decide +kernel), by decide +kernel, by decide +kernel, by decide +kernel, fresh_of_no_run (by decide +kernel), by decide +kernel⟩

/-- Dock core 2048 triggers an operation of `ls` to byte 16 of its window, whose first page stands in HBM frame 1, with permission to read and write. -/
def wD : State := { alone 2048 16 [] with tlbs := [(2048, [{ slot := 0, page := 0, big := false, leaf := 0x1000F }])] }

theorem witness_DockCoreAccessesSetOut :
    Ready wD mk ∧ isDock wD.cur.a = true ∧ isBooked wD wD.cur.a = false ∧ Free wD .ls 0x20 2 ∧ accessHeld wD wD.cur.a 0 = false ∧ stepJournals wD (stepOf wD wD.cur.a) = false ∧
      (∀ n ∈ [1, 2, 4, 16], lsTarget wD mk % n = 0) ∧ (∀ w ∈ [false, true], dockBlocked wD wD.cur.a (lsTarget wD mk) w = false) ∧
      (locate (sourced wD mk) wD.cur.a (lsTarget wD mk) false).2 = .ok (.mem false 0x10010 none 16) ∧
      (locate (sourced wD mk) wD.cur.a (lsTarget wD mk) true).2 = .ok (.mem false 0x10010 none 16) ∧
      restartEffect wD wD.cur.a 0x28 (objWord wD wD.cur.a (lsTarget wD mk)) = .fresh ∧ NoErrors wD := by
  simp only [Ready, Free, NoErrors]
  exact ⟨by decide +kernel, by decide +kernel, by decide +kernel, by decide +kernel, by decide +kernel, by decide +kernel, by decide +kernel,
    by decide +kernel, eq_ok (by decide +kernel), eq_ok (by decide +kernel), fresh_of_no_run (by decide +kernel), by decide +kernel⟩

/-- An access of tile 5 to byte 64 of tile 6. -/
def wAcc (op : AccOp) : Access :=
  { id := 3, agent := 5, slot := 0, op := op, cls := 0, loc := .sram (6 * 2 ^ 21 + 64), data := 0x12345678, fixed := true, org := ⟨0, 0⟩, step := {} }

/-- A result of tile 5's operation 3, and the event `o`. -/
def wOcc (o : Occ) : State :=
  modX { now := 100, occ := o } 5 fun x => { x with flights := [⟨3, .ls, 0x20, some 102, 0, false, false⟩, ⟨3, .ls, 0x20, some 103, 0, false, false⟩] }

theorem witness_AccessesAndAtomicsArePerformed_access :
    (let s := wOcc (.access (wAcc (.load 2 true)))
     s.occ = .access (wAcc (.load 2 true)) ∧ (wAcc (.load 2 true)).loc = .sram (6 * 2 ^ 21 + 64) ∧ AtHome s 5 3 {} 0 (wAcc (.load 2 true)).loc 2 true true ∧
       (wAcc (.load 2 true)).fixed = true ∧ (resultsOf s 5 3).length = 2) ∧
    (let s := wOcc (.access (wAcc (.store 4)))
     s.occ = .access (wAcc (.store 4)) ∧ AtHome s 5 3 {} 0 (wAcc (.store 4)).loc 4 false true) ∧ Plain (wOcc (.access (wAcc (.store 4)))) (6 * 2 ^ 21 + 64) 4 ∧
    (let s := { wOcc (.access (wAcc (.store 4))) with tags := [(6 * 2 ^ 15 + 1, 2)] }
     HomeFree s 5 3 {} (wAcc (.store 4)).loc true ∧ tagsOk s 0 (6 * 2 ^ 21 + 64) 4 = false) ∧
    (let x := { wAcc (.load 2 true) with fixed := false }
     let s := wOcc (.access x)
     s.occ = .access x ∧ AtHome s 5 3 {} 0 x.loc 2 true x.fixed) := by
  simp only [AtHome, HomeFree]
  exact ⟨by decide +kernel, by decide +kernel, plain_noPairs (by decide +kernel) (by decide +kernel), by decide +kernel, by decide +kernel⟩

/-- A synchronisation operation of tile 5 on byte 64 of tile 6, with operand `a`. -/
def wOp (a : Word) : SyncOp :=
  { id := 3, agent := 5, issuer := 5, slot := 0, cls := 0, loc := .sram (6 * 2 ^ 21 + 64), a := a, b := 1, fixed := true, org := ⟨0, 0⟩, step := {}, pb := 0, eff := none }

theorem witness_AccessesAndAtomicsArePerformed_atomic : ∀ f ∈ [Amo.add, .and, .or, .xor, .min, .max, .minu, .maxu, .swap, .cas, .fadd, .chunk],
    let s := wOcc (.amo f (wOp 7))
    s.occ = .amo f (wOp 7) ∧ (wOp 7).loc = .sram (6 * 2 ^ 21 + 64) ∧ (wOp 7).eff = none ∧ NotLogged s 0 0 ∧ AtHome s 5 3 {} 0 (wOp 7).loc (amoBytes f) true true ∧ (wOp 7).issuer = (wOp 7).agent ∧
      Plain s (6 * 2 ^ 21 + 64) (amoBytes f) ∧ (wOp 7).fixed = true ∧ loadN s (6 * 2 ^ 21 + 64 + 12) 4 = 0 ∧ (resultsOf s 5 3).length = 2 := by
  intro f hf
  refine ⟨rfl, rfl, rfl, Or.inl (by simp only [List.mem_cons, List.not_mem_nil, or_false] at hf; rcases hf with rfl | rfl | rfl | rfl | rfl | rfl | rfl | rfl | rfl | rfl | rfl | rfl <;> decide +kernel), ?_, ?_, ?_, rfl, ?_⟩
  · simp only [AtHome, HomeFree]
    revert f; decide +kernel
  · exact rfl
  · exact plain_noPairs (by revert f; decide +kernel) (by revert f; decide +kernel)
  · revert f; decide +kernel

/-- The event of an operation on byte 64 of tile 6, where an object of `n` bytes stands, with the requests that its bank holds. -/
def wSync (a : Word) (n bytes : Nat) (q : HomeQ) : State :=
  setHomeQ (plainStore (wOcc (.sync (wOp a))) (6 * 2 ^ 21 + 64) n bytes) (bankKey (6 * 2 ^ 21 + 64)) q

theorem witness_LocksAndSyncWordsAtTheirHome_locks :
    let x := wOp 7
    let w := { wOp 0 with id := 4, agent := 9 }
    (∀ v ∈ [0, 6, 10, 2 ^ 32 * 65534 + 10, 2 ^ 32 + 6], ∀ q ∈ [[], [w], List.replicate 32 w], let s := wSync 7 8 v { locks := q }
      s.occ = .sync x ∧ x.loc = .sram (6 * 2 ^ 21 + 64) ∧ pbEnabled s 0 = false ∧ AtHome s 5 3 {} 0 x.loc 8 true true ∧ x.issuer = x.agent ∧ isTile x.agent = true ∧ loadN s (6 * 2 ^ 21 + 64) 8 = v ∧ v < 2 ^ 48 ∧
        (releaseCovers s x.agent x.cls x.id).isEmpty = true ∧ (homeQ s (bankKey (6 * 2 ^ 21 + 64))).locks = q) ∧
    Plain (wSync 7 8 (2 ^ 32 + 6) { locks := [w] }) (6 * 2 ^ 21 + 64) 8 ∧ w.loc = x.loc ∧ isTile w.agent = true ∧
    (let s := { wOcc .none with occ := .at2 5 3 }
     s.occ = .at2 5 3) := by
  simp only [AtHome, HomeFree]
  exact ⟨by decide +kernel, plain_noPairs (by decide +kernel) (by decide +kernel), by decide +kernel⟩

theorem witness_LocksAndSyncWordsAtTheirHome_words :
    let x := wOp 7
    (∀ e ∈ [(0, 0), (5, 1), (1, 3), (0, 2)], let s := wSync 7 16 (e.1 + 2 ^ 32 * 2 + 2 ^ 64 * 9 + 2 ^ 96 * e.2) {}
      s.occ = .sync x ∧ x.loc = .sram (6 * 2 ^ 21 + 64) ∧ x.eff = none ∧ pbEnabled s 0 = false ∧ AtHome s 5 3 {} 0 x.loc 16 true true ∧ x.issuer = x.agent ∧ s.deadCredits.contains x.id = false ∧ armComing s x.loc = false ∧ isTile x.agent = true ∧
        loadN s (6 * 2 ^ 21 + 64) 4 = e.1 ∧ loadN s (6 * 2 ^ 21 + 64 + 12) 4 = e.2 ∧ e.2 < 4 ∧ (e.2 % 2 = 1 → e.1 ≠ 0) ∧ (releaseCovers s x.agent x.cls x.id).isEmpty = true ∧
        x.a ≠ 0 ∧ (BitVec.ofNat 32 (loadN s (6 * 2 ^ 21 + 64 + 8) 4) - x.a).toInt > 0) ∧
    Plain (wSync 7 16 0 {}) (6 * 2 ^ 21 + 64) 16 ∧
    (let s := wSync 9 16 (2 ^ 64 * 9) {}
     (BitVec.ofNat 32 (loadN s (6 * 2 ^ 21 + 64 + 8) 4) - (wOp 9).a).toInt ≤ 0 ∧ (homeQ s (bankKey (6 * 2 ^ 21 + 64))).waits.length < 32) ∧
    (let s := modBk (modX { wOcc (.reply 5 3 [(0, 9)]) with now := 101 } 5 fun x => { x with flights := [⟨3, .ls, 0x20, none, 0, false, false⟩] }) 5 fun b => { b with wait := .sync 3 }
     s.occ = .reply 5 3 [(0, 9)] ∧ resultsOf s 5 3 = [0] ∧ (bk s 5).wait = .sync 3) := by
  simp only [AtHome, HomeFree]
  exact ⟨by decide +kernel, plain_noPairs (by decide +kernel) (by decide +kernel), by decide +kernel, by decide +kernel⟩

/-- Tile 5 triggers an operation of `vx` with specifier `t`, under mask 7 where it names one. -/
def wV (t : Nat) (ports : List (Sock × Nat × Row)) : State := setM (alone 5 (BitVec.ofNat 64 t) ports) 5 7 0x8000000000000001

theorem witness_VectorArithmeticResults :
    (∀ r ∈ [rA, rAB, rABs, rAf, rABf], VxReady (wV (63 + 63 * 2 ^ 6 + (if r.b = .reg then 63 * 2 ^ 12 else 0) + 7 * 2 ^ 24 + 2 ^ 27) []) mk r []) ∧
    VxReady (wV (63 + 63 * 2 ^ 6 + 63 * 2 ^ 12 + 63 * 2 ^ 18 + 3 * 2 ^ 28 + 2 ^ 31) []) mk rABCf [] := by
  simp only [VxReady, Ready]; (repeat' apply And.intro) <;> decide +kernel

theorem witness_VectorMaskAndMoveResults :
    (∀ r ∈ [({ d := .mask, a := .mask, b := .mask, men := false } : VReads)], VxReady (wV (7 + 7 * 2 ^ 6 + 7 * 2 ^ 12) []) mk r []) ∧
    VxReady (wV (7 + 7 * 2 ^ 6) []) mk { d := .mask, a := .mask, b := .no, men := false } [] ∧
    VxReady (wV (7 + 63 * 2 ^ 6 + 63 * 2 ^ 12 + 7 * 2 ^ 24 + 2 ^ 27) []) mk { d := .mask, a := .reg, b := .reg } [] ∧
    VxReady (wV (63 + 63 * 2 ^ 6 + 63 * 2 ^ 12 + 7 * 2 ^ 18) []) mk { d := .reg, a := .reg, b := .reg, c := .mask } [] ∧
    VxReady (wV 63 [(.vx, 0, 63)]) mk { d := .reg } [] ∧ VxReady (wV 63 [(.vx, 0, 63)]) mk { d := .reg, old := true } [] ∧
    VxReady (wV (63 + 63 * 2 ^ 6) [(.vx, 0, 63)]) mk rA [] ∧ VxReady (wV (63 + 63 * 2 ^ 6 + 63 * 2 ^ 12) []) mk rAB [] ∧
    VxReady (wV (63 * 2 ^ 6) [(.vx, 0, 63)]) mk { a := .reg, men := false } [] ∧ (oVal (wV 63 [(.vx, 0, 63)]) .vx 0).toNat < 64 := by
  simp only [VxReady, Ready]; (repeat' apply And.intro) <;> decide +kernel

theorem witness_VectorConversionsAndReductions :
    (∀ e ∈ [(0, 1, 1), (2, 0, 1), (0, 0, 0), (0, 3, 3)], let s := wV (63 + 63 * 2 ^ 6) [(.vx, 0, BitVec.ofNat 2048 (e.1 + 2 ^ 8 * e.2.1 + 2 ^ 16 * e.2.2))]
      let o := (oVal s .vx 0).toNat
      VxReady s mk rAf [] ∧ (fmtOf (o % 64)).any isFloat = true ∧ (fmtOf (o / 2 ^ 8 % 64)).isSome = true ∧ o / 2 ^ 6 % 4 = 0 ∧ o / 2 ^ 14 % 4 = 0 ∧ o / 2 ^ 16 = e.2.2) ∧
    (let s := wV (63 + 63 * 2 ^ 6) [(.vx, 0, 3 + 2 ^ 8 * 5 + 2 ^ 16 * 3)]
     VxReady s mk { d := .reg, a := .reg, sat := true } [] ∧ fmtOf ((oVal s .vx 0).toNat % 64) = some (.int 8) ∧ fmtOf ((oVal s .vx 0).toNat / 2 ^ 8 % 64) = some (.int 32)) ∧
    VxReady (wV (63 * 2 ^ 6 + 7 * 2 ^ 24 + 2 ^ 27) []) mk { a := .reg } [] := by
  simp only [VxReady, Ready]; (repeat' apply And.intro) <;> decide +kernel

theorem witness_VectorMemorySetsOut :
    (let s := wV (63 + 7 * 2 ^ 28) [(.vx, 0, BitVec.ofNat 2048 (6 * 2 ^ 21 - 2 ^ 18 - 256))]
     isTile s.cur.a = true ∧ isBooked s s.cur.a = false ∧ accessHeld s s.cur.a ((tVal s mk).toNat / 2 ^ 28 % 8) = false ∧ (oVal s .vx 0).toNat % 64 = 0 ∧
       (oVal s .vx 0).toNat + 256 ≤ 2 ^ 32 ∧ (∀ i, i < 64 → allMapped ((oVal s .vx 0).toNat + 4 * i) 4 = true) ∧ VxReady s mk { d := .reg, rnd := .cls } []) ∧
    VxReady (wV (63 * 2 ^ 6) []) mk { a := .reg, rnd := .cls } [] ∧
    (let s := wV (63 + 63 * 2 ^ 12) [(.vx, 0, BitVec.ofNat 2048 (5 * 2 ^ 21 + 0x17FFFC))]
     VxReady s mk { d := .reg, b := .reg, rnd := .cls } [] ∧ ∀ i, i < 64 → addrTile (oVal s .vx 0 + vLane s 63 i).toNat = 5 ∧
       inData (oVal s .vx 0 + vLane s 63 i).toNat 4 = true ∧ (oVal s .vx 0 + vLane s 63 i).toNat % 4 = 0) ∧
    VxReady (wV (63 * 2 ^ 6 + 63 * 2 ^ 12) []) mk { a := .reg, b := .reg, rnd := .cls } [] := by
  simp only [VxReady, Ready]; (repeat' apply And.intro) <;> decide +kernel

theorem witness_VectorStreamsSetOut : ∀ e ∈ [(2, 63, 256, ({ d := .reg, rnd := .cls } : VReads)), (1, 63 * 2 ^ 6, 0, { a := .reg, rnd := .cls })],
    let s := setH (wV e.2.1 [(.vx, 0, 15)]) 5 15 (hnd (5 * 2 ^ 21) 8 e.1 0 6 1 e.2.2.1 0)
    let n := (oVal s .vx 0).toNat
    let h := hReg s 5 n
    isTile s.cur.a = true ∧ isBooked s s.cur.a = false ∧ stepJournals s (stepOf s s.cur.a) = false ∧ accessHeld s s.cur.a ((tVal s mk).toNat / 2 ^ 28 % 8) = false ∧ n < 16 ∧
      hValid h = true ∧ hRole h = e.1 ∧ hRole h ≠ 3 ∧ 8 ≤ hLsize h ∧ hLsize h ≤ 20 ∧ hBase h % 64 = 0 ∧ inData (hBase h) (2 ^ hLsize h) = true ∧
      kget 0 (bk s 5).claimed n = 0 ∧ (∀ o ∈ (ag s 5).outs, o.hnd ≠ some n) ∧ (hCons h).toNat % 64 = 0 ∧ (hProd h).toNat % 64 = 0 ∧ (hProd h - hCons h).toNat = e.2.2.1 ∧ VxReady s mk e.2.2.2 [] := by
  simp only [VxReady, Ready]; decide +kernel

/-- A nest of INT8 additions over `k` rows, one after another. -/
def wNest (k : Nat) : Nest :=
  { sat := false, rnd := 0, efmt := 3, redm := 0, stride := 0, ext := BitVec.ofNat 60 (k + 2 ^ 12 + 2 ^ 24 + 2 ^ 36 + 2 ^ 48), eop := 0x101 }

theorem witness_LoopNestStarts :
    (∀ k ∈ [0, 2], let s := alone 5 0 [(.vx, 0, BitVec.ofNat 2048 (5 * 2 ^ 21)), (.vx, 1, BitVec.ofNat 2048 (5 * 2 ^ 21 + 256)), (.vx, 2, BitVec.ofNat 2048 (5 * 2 ^ 21 + 512))]
      Ready s ⟨none, .zero⟩ ∧ vxHeld s 5 = false ∧ accessHeld s 5 0 = false ∧ useHeld s 5 (ridTile 2 5 0) = false ∧ useOk s 5 (ridTile 2 5 0) s.now = true ∧
        (∀ c ∈ nestCauses 5 (wNest k) (oVal s .vx 0).toNat (oVal s .vx 1).toNat (oVal s .vx 2).toNat, c.1 = false) ∧ nestPoints (wNest k) = k) ∧
    (let s := modAg { now := 100, occ := .at 5 } 5 fun g => { g with nest := some ⟨3, wNest 2, 0, 0, 0, 1, [], 0, ⟨0, 0⟩⟩ }
     s.occ = .at 5 ∧ (ag s 5).nest.isSome ∧ ∀ e ∈ s.agenda, nestRowOut 5 e = none) := by
  delta Ready; decide +kernel

/-- An event at tile 5's home for its running nest or a row of 256 bytes. -/
def wRow (op : AccOp) : State :=
  let x : Access := { wAcc op with loc := .sram (5 * 2 ^ 21 + 64) }
  let s := modAg { now := 100, occ := .access x } 5 fun g => { g with nest := some ⟨3, wNest 2, 5 * 2 ^ 21, 5 * 2 ^ 21 + 256, 5 * 2 ^ 21 + 512, 0, [], 0, ⟨0, 0⟩⟩ }
  modX s 5 fun y => { y with pends := [⟨3, .vx, some 102, .vreg 63 0⟩] }

/-- The four lines of a row of tile 6's memory. -/
def wLines : List Nat := [6 * 2 ^ 21, 6 * 2 ^ 21 + 64, 6 * 2 ^ 21 + 128, 6 * 2 ^ 21 + 192]

/-- The words of lanes 0 and 2 of that row, and elements in two tiles. -/
theorem wWords_plain (s : State) (hp : s.pairs = []) : PlainWords s ((lanesOn 5).map fun i => wLines.getD (i / 16) 0 + 4 * (i % 16)) ∧ PlainWords s [5 * 2 ^ 21, 6 * 2 ^ 21 + 4] := by
  have h : ((lanesOn 5).map fun i => wLines.getD (i / 16) 0 + 4 * (i % 16)) = [6 * 2 ^ 21, 6 * 2 ^ 21 + 8] := by decide +kernel
  rw [h]
  exact ⟨plainWords_noPairs hp (by decide) (by decide), plainWords_noPairs hp (by decide) (by decide)⟩

theorem witness_VectorAccessesArePerformed_rows :
    (∀ op ∈ [AccOp.vload wLines 5 none, .vstore wLines 5 none, .gather [(63, 5 * 2 ^ 21), (0, 6 * 2 ^ 21 + 4)], .scatter [(63, 5 * 2 ^ 21), (0, 6 * 2 ^ 21 + 4)]],
      ∃ x, x.op = op ∧ RowReady (wRow op) x) ∧
    linesCause (wRow .nestRead) 0 64 true (activeLines wLines 5) = none ∧ linesCause (wRow .nestRead) 0 64 false (activeLines wLines 5) = none ∧ wLines.length = 4 ∧
    (bk (wRow .nestRead) 5).x.pends.length = 1 ∧ ((([(63, 5 * 2 ^ 21), (0, 6 * 2 ^ 21 + 4)] : List (Nat × Nat)).map (·.1)).Nodup) ∧
    (([(63, 5 * 2 ^ 21), (0, 6 * 2 ^ 21 + 4)] : List (Nat × Nat)).filter fun e => (linesCause (wRow .nestRead) 0 4 false [e.2]).isNone) = [(63, 5 * 2 ^ 21), (0, 6 * 2 ^ 21 + 4)] ∧
    PlainWords (wRow (.vstore wLines 5 none)) ((lanesOn 5).map fun i => wLines.getD (i / 16) 0 + 4 * (i % 16)) ∧ PlainWords (wRow .nestRead) [5 * 2 ^ 21, 6 * 2 ^ 21 + 4] := by
  refine ⟨fun op h => ⟨_, rfl, rfl, rfl, ?_⟩, by decide +kernel, by decide +kernel, rfl, by decide +kernel, by decide, by decide +kernel, (wWords_plain _ rfl).1, (wWords_plain _ rfl).2⟩
  revert op; decide +kernel

/-- The row of a stream through handle 15, which has a peer, of the step that tile 5 runs. -/
def wStream (op : AccOp) : State :=
  let s := setH (running { now := 100, occ := .access { wAcc op with step := (aRun 5).key } } 5) 5 15 (hnd (6 * 2 ^ 21) 10 2 0 6 1 512 0)
  modX s 5 fun y => { y with pends := [⟨3, .vx, some 102, .vreg 63 0⟩] }

theorem witness_VectorAccessesArePerformed_streams :
    (∀ op ∈ [AccOp.vload wLines 5 (some 15), .vstore wLines 5 (some 15)], ∃ x, x.op = op ∧ x.agent = 5 ∧ RowReady (wStream op) x ∧
      (bk (wStream op) 5).run = some (aRun 5) ∧ (aRun 5).key = x.step ∧ hRole (hReg (wStream op) 5 15) ≠ 0 ∧ stepJournals (wStream op) x.step = false ∧
      effectOf (wStream op) x.step 0x2A (objSram (hBase (hReg (wStream op) 5 15))) = .fresh) ∧
    (∀ b, linesCause (wStream .nestRead) 0 64 b (activeLines wLines 5) = none) ∧
    PlainWords (wStream (.vstore wLines 5 (some 15))) ((lanesOn 5).map fun i => wLines.getD (i / 16) 0 + 4 * (i % 16)) := by
  refine ⟨fun op h => ⟨_, rfl, rfl, ⟨rfl, rfl, ?_⟩, by revert op; decide +kernel, rfl, by revert op; decide +kernel, by revert op; decide +kernel, effect_fresh (by revert op; decide +kernel)⟩,
    by decide +kernel, (wWords_plain _ rfl).1⟩
  revert op; decide +kernel

theorem witness_VectorAccessesArePerformed_nests :
    (∀ op ∈ [AccOp.nestRead, .nestWrite], ∃ x, x.op = op ∧ x.agent = 5 ∧ RowReady (wRow op) x ∧ nestLate (wRow op) x = false) ∧
    (∃ r, (ag (wRow .nestRead) 5).nest = some r ∧ nestStop (wRow .nestRead) 5 0 r = none ∧ r.point + 1 < nestPoints r.nest) ∧
    (let s := modAg (wRow .nestRead) 5 fun g => { g with nest := g.nest.map fun r => { r with point := 1 } }
     ∃ r, (ag s 5).nest = some r ∧ nestStop s 5 0 r = none ∧ r.point + 1 = nestPoints r.nest) ∧
    Plain (wRow .nestWrite) (5 * 2 ^ 21 + 64) (nestRow (wNest 2)) := by
  refine ⟨fun op h => ⟨_, rfl, rfl, ⟨rfl, rfl, ?_⟩, ?_⟩, ⟨_, rfl, by decide +kernel, by decide +kernel⟩, ⟨_, rfl, by decide +kernel, by decide +kernel⟩,
    plain_noPairs (by decide +kernel) (by decide +kernel)⟩
  all_goals revert op; decide +kernel

theorem witness_FloatSpecialCases : isNaN32 0x7F800001 = true ∧ isNaN32 0x7F800000 = false ∧ isNaN32 0xFF800001 = true ∧
    (isNaN32 0x80000001 = false ∧ (0x80000001#32).getLsbD 31 = true ∧ (0x80000001#32) ≠ 0x80000000#32) ∧ (-126 : Int) ≤ -126 ∧ (-126 : Int) ≤ 127 := by decide +kernel

/-- Tile 5 triggers an operation of `mx` with t = `k`: handle 0 holds 1024 bytes, handle 1 has room for 1024, set 0 is active with 8 panels of BF16. -/
def wM (k : Nat) (ports : List (Nat × Nat)) (f : Mx → Mx) : State :=
  let s := alone 5 (BitVec.ofNat 64 k) (ports.map fun p => (.mx, p.1, BitVec.ofNat 2048 p.2))
  let s := setH (setH s 5 0 (hnd (5 * 2 ^ 21) 10 2 0 6 1 1024 0)) 5 1 (hnd (5 * 2 ^ 21 + 1024) 10 1 0 6 1 0 0)
  { modC s 5 fun c => { c with mxcfg := 0x100 } with mx := [(5, f { s0 := { panels := 8, fmt := 1 } })] }

theorem witness_MatrixCommands_settings :
    (∀ t ∈ [2 ^ 22 - 1 - 4 * 2 ^ 18 - 61 * 2 ^ 12, 2 ^ 22, 4 * 2 ^ 18, 7, 8, 0, 1], Ready (wM t [] id) mk ∧ sockHeld (wM t [] id) 5 .mx = false ∧ useHeld (wM t [] id) 5 (ridTile 1 5 0) = false ∧ (tVal (wM t [] id) mk).toNat = t) ∧
    (let t := 2 ^ 22 - 1 - 4 * 2 ^ 18 - 61 * 2 ^ 12
     t < 2 ^ 22 ∧ t / 2 ^ 18 % 8 < 4 ∧ (fmtOf (t / 2 ^ 12 % 64)).any isFloat = true) ∧
    (2 ^ 22 / 2 ^ 18 % 8 < 4 ∧ fmtOf (2 ^ 22 / 2 ^ 12 % 64) ≠ none) ∧ 4 ≤ 4 * 2 ^ 18 / 2 ^ 18 % 8 ∧ fmtOf (4 * 2 ^ 18 / 2 ^ 12 % 64) ≠ none := by
  simp only [Ready]; decide +kernel

/-- Slot 6 of tile 5's matrix unit is booked by a step of tile 9. -/
theorem witness_MatrixCommands_kept :
    let s : State := { running (wM 0 [] id) 5 with cal := [(calKey (ridTile 1 5 0) 6, some { key := { tile := 9 }, slot := 6 })] }
    Ready s mk ∧ sockHeld s 5 .mx = false ∧ useHeld s 5 (ridTile 1 5 0) = true ∧ tVal s mk = 0 := by
  simp only [Ready]; decide +kernel

theorem witness_MatrixCommands_queue :
    (let s := wM 0 [] id
     Ready s mk ∧ sockHeld s 5 .mx = false ∧ useHeld s 5 (ridTile 1 5 0) = false ∧ (mxOf s 5).q.length < 16 ∧ tVal s mk = 0 ∧ handleCause (hReg s 5 ((bk s 5).c.mxcfg.toNat / 16 % 16)) [0, 2] = none ∧
       handleCause (hReg s 5 ((bk s 5).c.mxcfg.toNat % 16)) [0, 2] = none ∧ handleCause (hReg s 5 ((bk s 5).c.mxcfg.toNat / 256 % 16)) [0, 1] = none) ∧
    (let o := fun k => (oVal (wM 0 [(0, 1), (1, 4)] id) .mx k).toNat
     o 0 < 64 ∧ widthClass (o 0) ≠ none ∧ 1 ≤ o 1 ∧ o 1 ≤ 4) ∧
    (let o := fun k => (oVal (wM 0 [(0, 1), (1, 7), (2, 1)] id) .mx k).toNat
     o 0 < 2 ∧ 1 ≤ o 2 ∧ o 1 + o 2 ≤ 8) ∧
    (∀ b ∈ [false, true], let s := wM 0 [(0, 2), (1, 256), (2, 1023 - 255), (3, 0x62)] fun x => { x with s0 := { x.s0 with sparse := b } }
     let o := fun k => (oVal s .mx k).toNat
     o 0 < 64 ∧ widthClass (o 0) ≠ none ∧ widthClass (o 0) = widthClass (mxOf s 5).s0.fmt ∧ 1 ≤ o 1 ∧ o 1 ≤ 256 ∧ o 2 < 1024 ∧ o 2 % 256 + o 1 ≤ 256 ∧
       o 3 < 128 ∧ 1 ≤ o 3 % 16 ∧ o 3 / 16 + o 3 % 16 ≤ (mxOf s 5).s0.panels ∧ (mxOf s 5).s0.panels ≤ 8 ∧ (mxOf s 5).s0.sparse = b ∧ o 3 % 2 = 0 ∧ o 3 / 16 % 2 = 0) ∧
    (let o := fun k => (oVal (wM 0 [(0, 511), (1, 2047 - 510)] id) .mx k).toNat
     o 0 < 512 ∧ o 1 < 2048 ∧ 1 ≤ o 1 % 512 ∧ o 0 % 256 + o 1 % 512 ≤ 256) := by
  simp only [Ready]; (repeat' apply And.intro) <;> decide +kernel

theorem witness_MatrixCommands_group :
    let s := plainStore (wM 0 [(0, 5 * 2 ^ 21 + 2048), (1, 2 + 256), (2, 512 + 254), (3, 5 * 2 ^ 21 + 64)] id) (5 * 2 ^ 21 + 2048) 8
      ((1 + 7 * 2 ^ 12 + 2 ^ 16) * (2 ^ 32 + 1))
    let o := fun k => (oVal s .mx k).toNat
    let n := o 1 % 32
    Ready s mk ∧ sockHeld s 5 .mx = false ∧ useHeld s 5 (ridTile 1 5 0) = false ∧ (mxOf s 5).q.length < 16 ∧ tVal s mk = 0 ∧ performedAt s 5 5 = true ∧
      handleCause (hReg s 5 ((bk s 5).c.mxcfg.toNat % 16)) [0, 2] = none ∧ o 0 % 4 = 0 ∧ addrTile (o 0) = 5 ∧ inData (o 0) (4 * n) = true ∧
      locCause s (slotOf s 5) (.sram (o 0)) (4 * n) true = none ∧ (o 3 % 16 = 0 ∧ inData (o 3) 16 = true) ∧ (mxOf s 5).act = false ∧ (mxOf s 5).s0.sparse = false ∧
      (mxOf s 5).s0.panels = 8 ∧ 1 ≤ n ∧ n ≤ 16 ∧ o 1 / 2 ^ 5 % 8 = 0 ∧ o 1 < 2 ^ 14 ∧ o 2 < 1024 ∧ widthClass (o 1 / 2 ^ 8) ≠ none ∧
      widthClass (o 1 / 2 ^ 8) = widthClass (mxOf s 5).s0.fmt ∧
      (∀ i, i < n → let w := loadN s (o 0 + 4 * i) 4
        w / 2 ^ 9 % 8 = 0 ∧ w / 2 ^ 15 % 2 = 0 ∧ w < 2 ^ 20 ∧ w % 512 ≤ 256 ∧ 1 ≤ w / 2 ^ 16 % 16 ∧ w / 2 ^ 12 % 8 + w / 2 ^ 16 % 16 ≤ 8) ∧
      o 2 % 256 + ((List.range n).map fun i => loadN s (o 0 + 4 * i) 4 % 512).sum ≤ 256 := by
  simp only [Ready]; (repeat' apply And.intro) <;> decide +kernel

/-- A command of another agent in the queue of tile 5's matrix unit, with its own copy of a handle. -/
def wCmd (op : MxOp) (h : BitVec 128) : MxCmd :=
  { id := 3, agent := 9, remote := true, slot := 0, pb := 0, step := {}, org := ⟨0, 0⟩, trig := 90, op := op, set := 0, cfg := 0x1000, prio := 0, h := some h }

/-- A command of tile 5's own step, which reads or fills its handle 0. -/
def wMxOwn (op : MxOp) : MxCmd :=
  { id := 3, agent := 5, remote := false, slot := 0, pb := 0, step := (aRun 5).key, org := ⟨0, 0⟩, trig := 90, op := op, set := 1, cfg := 0x1000, prio := 0 }

/-- The occasion `id` of tile 5's matrix unit with that command in its queue. -/
def wTurn (id : Nat) (c : MxCmd) (load array : Option (Nat × Nat)) : State :=
  { now := 100, occ := .at2 5 id, mx := [(5, { q := [c], load := load, array := array })] }

theorem witness_MatrixReadsAndSelection :
    (let s := wM (2 ^ 15 - 32) [] fun x => { x with q := [wCmd .sclr 0] }
     let t := (tVal s mk).toNat
     Ready s mk ∧ sockHeld s 5 .mx = false ∧ useHeld s 5 (ridTile 1 5 0) = false ∧ t < 2 ^ 15 ∧ t % 256 + (t / 512 % 32 + 1) ≤ 256 ∧ inFlight s 5 .mx 0x20 + (t / 512 % 32 + 1) ≤ 32 ∧
       (∀ c ∈ (mxOf s 5).q, opBank c.op ≠ some (t / 256 % 2)) ∧
       ∀ k, k < t / 512 % 32 + 1 → (kget (0, 0) (mxOf s 5).clears (256 * (t / 256 % 2) + t % 256 + k)).1 < s.now + 1 + k) ∧
    (∀ t ∈ [0, 1, 2], Ready (wM t [] id) mk ∧ inFlight (wM t [] id) 5 .mx 0x21 < 32 ∧ (tVal (wM t [] id) mk).toNat = t) ∧
    (∀ c ∈ (mxOf (wM 1 [] fun x => { x with q := [wCmd .sclr 0] }) 5).q, c.remote = true) ∧
    (∃ c ∈ (mxOf (wM 1 [] fun x => { x with q := [{ wCmd .sclr 0 with remote := false }] }) 5).q, c.remote = false) ∧
    (let c := wCmd (.run false 1 0 0 false [⟨2, 0, 1⟩] 0) 0
     let s := wTurn 0 c none none
     s.occ = .at2 5 0 ∧ (mxOf s 5).array = none ∧ candidates s 5 = [c] ∧ c.started = false ∧ c.chosen = false ∧ pbEnabled s c.slot = false ∧
       mxKept s 5 c (max (c.trig + 70) (s.now + 9)) (arraySpan s 5 c) = false) ∧
    (let c := wMxOwn (.run false 1 0 0 false [⟨2, 0, 1⟩] 0)
     let s := bookedStep (wTurn 0 c none none) 5
     candidates s 5 = [c] ∧ mxBooked s 5 c = true) ∧
    (let c := wCmd .sclr 0
     (wTurn 3 c none none).occ = .at2 5 3 ∧ cmdOf (mxOf (wTurn 3 c none none) 5) 3 = some c) := by
  simp only [Ready]; (repeat' apply And.intro) <;> decide +kernel

theorem feed_ready {s : State} {c : MxCmd} {h : BitVec 128} {n : Nat} (h1 : handleCause h [0, 2] = none) (h2 : decide (hFilled h < n) = false)
    (h0 : n ≤ hSize h - (hCons h).toNat % hSize h) (h3 : tagsOk s c.slot (hAt h (hCons h)) n = true) (h4 : poisoned s (hAt h (hCons h)) n = false) :
    feed s c h n = .ready (ringRead s h n) := by
  have h5 : ¬ hFilled h < n := of_decide_eq_false h2
  unfold feed; simp [h1, h5, h3, h4, Nat.min_eq_left h0]

/-- Tile 5's load engine looks for work, with one command in the queue: its stream is empty, or holds 64 bytes; a command of array work stands before it; the engine is busy. -/
theorem witness_MatrixReadsAndSelection_load :
    let full := hnd (6 * 2 ^ 21) 6 0 0 0 0 64 0
    let empty := hnd (6 * 2 ^ 21) 6 0 0 0 0 0 0
    (∀ c ∈ [wCmd (.load false 1 8) empty, wCmd (.load false 1 8) full, wCmd .sclr 0], let s := wTurn 0 c none none
      s.occ = .at2 5 0 ∧ (mxOf s 5).load = none ∧ (mxOf s 5).q.find? (fun c => isLoadOp c.op) = some c ∧ behindArray (mxOf s 5) c = false ∧ pbEnabled s c.slot = false ∧ c.set ≤ 1 ∧
        c.done = 0 ∧ (∀ d ∈ (mxOf s 5).q, d.chosen = false) ∧ NoErrors s ∧ mxKept s 5 c s.now (loadSpan s 5 c) = false ∧ mxBank s c (ringRids full (hCons full) 64) = none) ∧
    (handleCause empty [0, 2] = none ∧ hFilled empty < 64) ∧
    feed (wTurn 0 (wCmd (.load false 1 8) full) none none) (wCmd (.load false 1 8) full) (cmdHandle (wTurn 0 (wCmd (.load false 1 8) full) none none) 5 (wCmd (.load false 1 8) full)) 64 =
      .ready (ringRead (wTurn 0 (wCmd (.load false 1 8) full) none none) full 64) ∧
    (mxOf (wTurn 0 (wCmd .sclr 0) (some (3, 100)) none) 5).load.isSome = true ∧ (∀ c ∈ (mxOf (wTurn 0 (wCmd (.run false 1 0 0 false [] 0) 0) none none) 5).q, isLoadOp c.op = false) ∧
    (let r := { wCmd (.run false 1 0 0 false [] 0) 0 with id := 2 }
     let c := wCmd .sclr 0
     let x : Mx := { q := [r, c] }
     x.q.find? (fun c => isLoadOp c.op) = some c ∧ behindArray x c = true) := by
  refine ⟨by delta NoErrors; decide +kernel, by decide +kernel, feed_ready (by decide +kernel) (by decide +kernel) (by decide +kernel) (by decide +kernel) (by decide +kernel), by decide +kernel,
    by decide +kernel, by decide +kernel⟩

/-- The occasion of the engines' turn with that command, or with a remote one. The own one stands behind a remote one in the queue, and the tile's handle 0 is as given. -/
def wEngine (own : Bool) (c : MxCmd) (h : BitVec 128) (load array : Option (Nat × Nat)) : State :=
  let s := wTurn 3 c load array
  if own then setH (running { s with mx := [(5, { q := [{ wCmd .sclr 0 with id := 2 }, c], load := load, array := array })] } 5) 5 0 h else s

def wMine (own : Bool) (op : MxOp) (h : BitVec 128) : MxCmd := if own then wMxOwn op else wCmd op h

/-- The turns of the load engine: a remote command's and the own step's, with 64 bytes in the stream. -/
theorem witness_MatrixTurns_loads :
    let full := hnd (6 * 2 ^ 21) 6 0 0 0 0 64 0
    ∀ own, ∀ op ∈ [MxOp.load false 1 8, .scale true 0 8, .scale false 7 1, .sclr], let c := wMine own op full
      let s := wEngine own c full (some (3, 100)) none
      (cmdOf (mxOf s 5) 3 = some c ∧ c.op = op ∧ s.occ = .at2 5 3 ∧ (mxOf s 5).load = some (3, s.now) ∧ c.set ≤ 1 ∧ NoErrors s ∧ c.done = 0 ∧
        mxKept s 5 c s.now (loadSpan s 5 c) = false ∧ cmdHandle s 5 c = full ∧ mxBank s c (ringRids full (hCons full) 64) = none) ∧
      feed s c full 64 = .ready (ringRead s full 64) := by
  refine fun own op h => ⟨by delta NoErrors; revert own op; decide +kernel, feed_ready (by decide +kernel) (by decide +kernel) (by decide +kernel) ?_ ?_⟩
  all_goals revert own op; decide +kernel

/-- The turns of the array engine: a pass's first row, its last row, the last pass, and a sparse command's rows, with `zero`; of a remote command and of the own step's. -/
theorem witness_MatrixTurns_rows :
    let full := hnd (6 * 2 ^ 21) 7 0 0 0 0 128 0
    ∀ own, ∀ e ∈ [(false, 2, 0), (false, 1, 0), (false, 1, 1), (true, 2, 0), (true, 1, 0)],
      let n := if e.1 then 128 else 64
      let c := { wMine own (.run e.1 1 1 254 true [⟨e.2.1, 6, 2⟩] 0) full with row := 0, pass := e.2.2 }
      let s := wEngine own c full none (some (3, 100))
      (cmdOf (mxOf s 5) 3 = some c ∧ s.occ = .at2 5 3 ∧ (mxOf s 5).array = some (3, s.now) ∧ NoErrors s ∧ mxKept s 5 c s.now (arraySpan s 5 c) = false ∧
        cmdHandle s 5 c = full ∧ ([⟨e.2.1, 6, 2⟩] : List MxGroup)[c.group]? = some ⟨e.2.1, 6, 2⟩ ∧ c.row < e.2.1 ∧ mxBank s c (ringRids full (hCons full) n) = none) ∧
      feed s c full n = .ready (ringRead s full n) := by
  refine fun own e h => ⟨by delta NoErrors; revert own e; decide +kernel, feed_ready (by decide +kernel) ?_ ?_ ?_ ?_⟩
  all_goals revert own e; decide +kernel

/-- The turns of `drainc` into a buffer with room. -/
theorem witness_MatrixTurns_drains :
    let room := hnd (6 * 2 ^ 21) 6 1 0 0 0 0 0
    (∀ own, ∀ clear, let c := wMine own (.drainc 1 255 1 clear false) room
      let s := wEngine own c room none (some (3, 100))
      let n := 4 * fmtBits (fmtD (c.cfg.toNat / 2 ^ 12 % 64))
      cmdOf (mxOf s 5) 3 = some c ∧ s.occ = .at2 5 3 ∧ (mxOf s 5).array = some (3, s.now) ∧ mxKept s 5 c s.now (arraySpan s 5 c) = false ∧ n ≤ 64 ∧ cmdHandle s 5 c = room ∧
        handleCause room [0, 1] = none ∧ pushHeld s c.step room = false ∧ mxBank s c (ringRids room (hProd room) n) = none ∧ n ≤ hRoom room ∧ (hProd room).toNat % hSize room + n ≤ hSize room ∧
        ringCause s c.slot room (hProd room) n = none) ∧
    ∀ own clear, Plain (wEngine own (wMine own (.drainc 1 255 1 clear false) room) room none (some (3, 100))) (6 * 2 ^ 21) 64 := by
  refine ⟨by decide +kernel, fun own clear => plain_noPairs (by revert own clear; decide +kernel) (by decide +kernel)⟩

/-- A matrix command for tile 5 arrives, whose unit has key 77. -/
def wRem (key op : Nat) (f : Mx → Mx) : State :=
  let p : Pkt := { id := 3, agent := 9, slot := 0, kind := .mxcmd 5 (BitVec.ofNat 32 key) 0x100000001 (BitVec.ofNat 12 op), flits := 1, booked := false, org := ⟨0, 0⟩, step := {}, pb := 0, eff := none }
  let s := wM 0 [] f
  { s with occ := .pkt p, mx := [(5, { (mxOf s 5) with key := 77 })] }

theorem witness_RemoteMatrixCommands :
    (∀ e ∈ [(76, 14), (77, 1), (77, 2), (77, 14)], ∃ p vals, (wRem e.1 e.2 id).occ = .pkt p ∧ p.kind = .mxcmd 5 (BitVec.ofNat 32 e.1) vals (BitVec.ofNat 12 e.2) ∧ Lands (wRem e.1 e.2 id) p []) ∧
    (mxOf (wRem 77 2 id) 5).key ≠ 0 ∧ (mxOf (wRem 77 2 id) 5).q.length < 16 ∧ 16 ≤ (mxOf (wRem 77 2 fun x => { x with q := List.replicate 16 (wCmd .sclr 0) }) 5).q.length ∧
    (BitVec.ofNat 12 1).toNat ∉ [2, 3, 4, 5, 6, 7, 9, 10, 14] ∧
    mxParse (wRem 77 2 id) 5 2 ⟨0, lane (0x100000001 : Row) 0, lane (0x100000001 : Row) 1, lane (0x100000001 : Row) 2, lane (0x100000001 : Row) 3⟩ [] = .ok (.load false 1 1) := by
  refine ⟨?_, by decide +kernel, by decide +kernel, by decide +kernel, by decide +kernel, eq_ok (by decide +kernel)⟩
  intro e he
  refine ⟨_, _, rfl, rfl, ?_⟩
  delta Lands
  revert e; decide +kernel

/-- Tile 5 triggers an operation of `ch` with t = `k`. -/
def wCh (k : Nat) (ports : List (Nat × Nat)) : State := alone 5 (BitVec.ofNat 64 k) (ports.map fun p => (.ch, p.1, BitVec.ofNat 2048 p.2))

/-- A block of 3 rows of 64 bytes from HBM to tile 5's memory. -/
def blockPorts : List (Nat × Nat) := [(0, 0x10000), (1, 2 ^ 20), (2, 5 * 2 ^ 21 + 64), (3, 0), (4, 64), (5, 3), (6, 64), (7, 64)]

/-- The copy request of operation 3 of tile 5. -/
def wReq (op : ChOp) : ChReq := { id := 3, agent := 5, slot := 0, step := {}, org := ⟨0, 0⟩, pb := 0, op := op }

/-- A block within SRAM: 2 rows of 128 bytes, with a credit and a decrement. -/
def wX : Xfer :=
  { kind := .copy, srcVirt := false, src := 6 * 2 ^ 21, dstVirt := false, dst := 5 * 2 ^ 21, rowBytes := 128, rows := 2, sstr := 128, dstr := 128, gt := none, lane := 7, hnd := none,
    act := 3, sw := 5 * 2 ^ 21 + 1024, dc := 9 }

theorem witness_ChannelOperationsSetOut_blocks :
    (∀ e ∈ [(7, true, true, XferKind.copy), (2 ^ 3, true, true, .shadow), (2 ^ 9 + 15 * 2 ^ 5, true, true, .copy), (0, false, true, .fill 0), (0, true, false, .crc 64)],
      let s := setH (wCh e.1 (blockPorts ++ [(8, 500), (9, 0)])) 5 15 (hnd (5 * 2 ^ 21) 20 1 0 6 1 0 0)
      ChReady s mk ∧ BlockLegal s mk e.2.1 e.2.2.1 true (oVal s .ch 5) (oVal s .ch 6) (oVal s .ch 7) ∧ (oVal s .ch 7).toNat % 16 = 0 ∧
        HasRoom s (described s mk e.2.2.2 e.2.1 e.2.2.1 3 64 64 none 3) ∧ HasRoom s (described s mk e.2.2.2 e.2.1 e.2.2.1 3 64 64 (some 500) 3)) ∧
    (let s := { wCh 7 blockPorts with cces := [(engineOf 5, { pend := List.replicate 16 (wReq (.xfer wX)) })] }
     ¬ HasRoom s (described s mk .copy true true 3 64 64 none 0)) ∧
    (let s := wCh 0 [(0, 0x10000), (1, 2 ^ 20), (2, 5 * 2 ^ 21 + 0x18FFC0), (3, 0), (4, 64), (5, 64)]
     BlockLegal s mk true true false 1 0 0 ∧ (oVal s .ch 5).toNat % 16 = 0 ∧ oVal s .ch 3 = 0 ∧ (oVal s .ch 2).toNat % 64 = 0 ∧ 0x180000 ≤ addrOff (oVal s .ch 2).toNat ∧
       addrOff (oVal s .ch 2).toNat < 0x190000) ∧
    (let s := wCh 0 [(0, 0x10000), (1, 2 ^ 20)]
     AddrLegal (oVal s .ch 0) (oVal s .ch 1) ∧ oVal s .ch 0 &&& 63#32 = 0 ∧ tVal s mk = 0) ∧
    (2 ^ 10 ≤ (tVal (wCh (2 ^ 10) []) mk).toNat ∧ (tVal (wCh (2 ^ 10) []) mk).toNat / 2 ^ 9 % 2 = 0) ∧
    (tVal (wCh (2 ^ 9) []) mk).toNat / 2 ^ 9 % 2 = 1 ∧ hValid (hReg (wCh (2 ^ 9) []) 5 ((tVal (wCh (2 ^ 9) []) mk).toNat / 2 ^ 5 % 16)) = false := by
  delta ChReady BlockLegal AddrLegal Ready Free HasRoom
  refine ⟨?_, ?_, ?_, ?_, ?_, ?_, ?_⟩ <;> decide +kernel

theorem witness_ChannelOperationsSetOut_control :
    (∀ t ∈ [0, 1, 2, 4, 5, 2 ^ 16 - 1, 2 ^ 16], ChReady (wCh t []) mk ∧ (tVal (wCh t []) mk).toNat = t) ∧
    (let s := { wCh 0xFFFF [] with hpairs := [{ slot := 0, pid := 0xFFFF, frames := 1, front := 0, shadow := 65536 }] }
     pairExists s (slotOf s 5) ((tVal s mk).toNat % 2 ^ 16) = true ∧ (tVal s mk).toNat < 2 ^ 16) ∧
    (let s := { wCh 0x10000 [] with hpairs := [{ slot := 0, pid := 0, frames := 1, front := 0, shadow := 65536 }] }
     pairExists s (slotOf s 5) ((tVal s mk).toNat % 2 ^ 16) = true ∧ 2 ^ 16 ≤ (tVal s mk).toNat) ∧
    pairExists (wCh 0 []) (slotOf (wCh 0 []) 5) ((tVal (wCh 0 []) mk).toNat % 2 ^ 16) = false ∧
    (∀ t ∈ [0, 1], let s := wCh t [(0, 0x10000), (1, 2 ^ 20), (4, 256)]
      AddrLegal (oVal s .ch 0) (oVal s .ch 1) ∧ addrNum (oVal s .ch 0) (oVal s .ch 1) % 64 = 0 ∧ 2 ^ 20 ≤ (oVal s .ch 1).toNat ∧ 1 ≤ (oVal s .ch 4).toNat ∧ (oVal s .ch 4).toNat ≤ 256) ∧
    (∀ t ∈ [0, 2, 4], let s := wCh t [(0, 7)]
      (tVal s mk).toNat ≤ 4 ∧ (oVal s .ch 0).toNat < 8) := by
  simp only [ChReady, AddrLegal, Ready, Free]; (repeat' apply And.intro) <;> decide +kernel

/-- The occasion `o`, with a copy engine as given for tile 5. -/
def wE (o : Occ) (c : Cce) : State := { now := 1000, occ := o, cces := [(engineOf 5, c)] }

theorem witness_CopyEngineTurns_accept :
    (∀ op ∈ [ChOp.stat 0 7, .cancel 6, .xfer wX, .xfer { wX with rows := 0 }, .xfer { wX with gt := some 2000 }], let s := wE (.at2 (engineOf 5) 3) { pend := [wReq op] }
      s.occ = .at2 (engineOf 5) 3 ∧ (cceOf s (engineOf 5)).pend.find? (fun q => q.id == 3) = some (wReq op) ∧ copiesOf (cceOf s (engineOf 5)) = [] ∧
        (cceOf s (engineOf 5)).kept = [] ∧ (∀ q ∈ (cceOf s (engineOf 5)).pend, q.agent = 5 → chAtOnce q.op = true ∨ 3 ≤ q.id) ∧ storesDone s 5 3 = true ∧ s.voids.contains 3 = false ∧
        (laneOf s (engineOf 5) 7).queue = [] ∧ (laneOf s (engineOf 5) 7).run = none ∧ (cceOf s (engineOf 5)).timed = []) ∧
    InSram wX ∧ wX.kind ≠ .shadow ∧ inData wX.sw 16 = true ∧ nothingToMove { wX with rows := 0 } = true ∧ nothingToMove wX = false ∧
    (let s := modAg (wE (.at2 (engineOf 5) 3) { pend := [wReq (.stat 0 7)] }) 5 fun g =>
      { g with outs := [{ id := 2, cls := 0, store := true, put := false, remote := false, addr := 0, home := 5, perfAt := 1000, key := {} }] }
     storesDone s 5 3 = false ∧ (cceOf s (engineOf 5)).kept = []) := by
  simp only [InSram]; (repeat' apply And.intro) <;> decide +kernel

theorem witness_CopyEngineTurns_move :
    (let c : Copy := { req := wReq (.xfer wX), x := { wX with gt := some 1000 }, cid := 4 }
     let s := wE (.at3 (engineOf 5) 7 3) { timed := [c] }
     s.occ = .at3 (engineOf 5) 7 3 ∧ (cceOf s (engineOf 5)).timed.find? (fun c => c.req.id == 3) = some c ∧ c.x.gt.getD 0 ≤ gtOf s ∧ (laneOf s (engineOf 5) 7).run = none ∧
       dueCopy s (engineOf 5) 7 (gtOf s) = some c ∧ ∀ g, c.x.gt = some g → g ≤ gtOf s) ∧
    (let c : Copy := { req := wReq (.xfer wX), x := wX, cid := 4, row := 1, unit_ := 64 }
     let s := wE (.at3 (engineOf 5) 7 3) { lanes := [(7, { run := some c })] }
     let sa := rowAddr c.x.src c.x.sstr false c.row c.unit_
     (laneOf s (engineOf 5) 7).run = some c ∧ c.req.id = 3 ∧ c.x.kind = .copy ∧ c.x.hnd = none ∧ InSram c.x ∧ stepBooked s 5 c.req.step = false ∧
       (laneOf s (engineOf 5) 7).line ≤ s.now ∧ turnKept s (engineOf 5) 7 c (some (.sram sa)) 64 false = none ∧ copyCause s c.req.slot (.sram sa) 64 true = none) ∧
    (let c : Copy := { req := wReq (.xfer wX), x := wX, cid := 4, row := 1, out := [1] }
     let x : Access := { wAcc (.store 64) with agent := engineOf 5, loc := .sram (5 * 2 ^ 21 + 192) }
     let s := wE (.access x) { lanes := [(7, { run := some c })] }
     s.occ = .access x ∧ copyOf s x.agent x.id = some c ∧ c.x.hnd = none ∧ c.x.kind ≠ .shadow ∧ stepBooked s c.req.agent c.req.step = false ∧ locKept s c.req.agent c.req.step x.loc 64 true = none ∧ stepRec s c.req.step = none ∧
       copyCause s x.slot x.loc 64 false = none ∧ s.deadCredits.contains x.id = false ∧ addrTile c.x.sw = c.req.agent) ∧
    Plain (wE .none {}) (5 * 2 ^ 21 + 192) 64 ∧
    (let op := wOp 64
     let s := wE (.sync op) {}
     s.occ = .sync op ∧ s.deadCredits.contains op.id = false ∧ stepBooked s op.issuer op.step = false ∧ stepRec s op.step = none) ∧
    effectOf (wE .none {}) {} 0x29 (objSram wX.sw) = .fresh := by
  simp only [InSram]
  refine ⟨⟨by decide +kernel, by decide +kernel, by decide +kernel, by decide +kernel, by decide +kernel, fun g hg => ?_⟩, ?_, ?_, plain_noPairs (by decide +kernel) (by decide +kernel), ?_, effect_fresh (by decide +kernel)⟩
  · cases hg; decide +kernel
  all_goals (repeat' apply And.intro) <;> decide +kernel

theorem witness_CopyEngineTurns_end :
    (let c : Copy := { req := wReq (.xfer wX), x := wX, cid := 4, row := 2 }
     let s := wE (.at2 (engineOf 5) 3) { lanes := [(7, { tail := [c] })] }
     s.occ = .at2 (engineOf 5) 3 ∧ copyOf s (engineOf 5) 3 = some c ∧ ∀ d ∈ copiesOf (cceOf s (engineOf 5)), d.x.hnd = none) ∧
    (let s := wE (.at2 (engineOf 5) 3) { invs := [(3, 5, 1, [])] }
     (cceOf s (engineOf 5)).invs.find? (fun v => v.1 == 3) = some (3, 5, 1, [])) ∧
    (let r := wReq (.tlbpin true 0x10000 1)
     let s := wE (.at2 (engineOf 5) 3) { pubs := [r] }
     (cceOf s (engineOf 5)).pubs.find? (fun q => q.id == 3) = some r ∧ fails (pinWalk s (engineOf 5) r.slot 0x10000 1) = true ∧
       let k : Tlb := { slot := 0, page := 1, big := false, leaf := 0x1000F }
       let u := { s with tlbs := [(engineOf 5, [k])] }
       (tlbOf u (engineOf 5)).find? (fun u => tlbHits u r.slot 0x10000) = some k ∧
         (((tlbOf u (engineOf 5)).map fun u => if u.slot = k.slot ∧ u.page = k.page ∧ u.big = k.big then { u with pinned := true } else u).filter (·.pinned)).length ≤ 256) := by
  (repeat' apply And.intro) <;> decide +kernel

theorem witness_PublishExchangesThePair :
    (let r := wReq (.publish 0xFFFF)
     let s := wE (.at2 (engineOf 5) 3) { pubs := [r] }
     s.occ = .at2 (engineOf 5) 3 ∧ (cceOf s (engineOf 5)).pubs.find? (fun q => q.id == 3) = some r ∧ shadowPending s (engineOf 5) r 0xFFFF = false ∧ pbEnabled s r.slot = false) ∧
    (let s := wE (.at3 0 7 1000) {}
     s.occ = .at3 0 7 1000 ∧ 1000 ≤ gtOf s) := by (repeat' apply And.intro) <;> decide +kernel

/-- Tile 5 triggers an operation of `nt` with t = `k`. -/
def wN (k : Nat) (ports : List (Nat × Nat)) : State := alone 5 (BitVec.ofNat 64 k) (ports.map fun p => (.nt, p.1, BitVec.ofNat 2048 p.2))

/-- A packet of tile 5. -/
def wP (k : PktKind) : Pkt := { id := 3, agent := 5, slot := 0, kind := k, flits := 1, booked := false, org := ⟨0, 0⟩, step := {}, pb := 0, eff := none }

/-- Tree 15 of a tile, with control word `ctl`. -/
def wTree (s : State) (t ctl : Nat) (opens : List TreeInst) : State :=
  { s with routers := [(t, { trees := [(15, { entry := { ctl := BitVec.ofNat 32 ctl, addr := BitVec.ofNat 32 (t * 2 ^ 21 + 64) }, opens := opens })] })] }

theorem witness_NetworkOperationsSendPackets_packets :
    (∀ k ∈ [PktKind.put 0 0 0, .putb 0 256 0, .send 6 1 256 0 true 15, .reduce 15 true 0 0, .bcast 15 false 0, .spawn 6 0 0 0, .event 0, .mxcmd 6 0 0 0], NtReady (wN 0 []) mk k) ∧
    stepJournals (wN 0 []) (stepOf (wN 0 []) 5) = false ∧
    (∀ k ∈ [PktKind.put 0 0 0, .putb 0 256 0, .send 6 1 256 0 true 15, .reduce 15 true 0 0, .bcast 15 false 0, .spawn 6 0 0 0, .event 0, .mxcmd 6 0 0 0],
      let s := modAg (wN 0 []) 5 fun g => { g with chans := (List.range 4).map fun c => (c, { pkts := [(wP k, 16)] }) }
      Ready s mk ∧ stepJournals s (stepOf s 5) = false ∧ 16 < chanFlits (chanOf s 5 (pktChan k)) + pktFlits k) := by
  simp only [NtReady, Ready]; decide +kernel

theorem witness_NetworkOperationsSendPackets_send :
    (let s := setH (wN 15 [(1, 3)]) 5 15 (hnd (5 * 2 ^ 21) 8 1 0 6 1 0 0)
     tVal s mk = BitVec.ofNat 32 15 ∧ (oVal s .nt 1).toNat < 4 ∧ handleCause (hReg s 5 15) [1] = none ∧ inFlight s 5 .nt 0x20 < 32) ∧
    restartEffect (setH (wN 15 [(1, 3)]) 5 15 (hnd (5 * 2 ^ 21) 8 1 0 6 1 0 0)) 5 0x2A (objSram (5 * 2 ^ 21)) = .fresh ∧
    hMalformed (hReg (setH (wN 15 []) 5 15 (hnd (5 * 2 ^ 21) 21 1 0 6 1 0 0)) 5 15) = true ∧
    (hMalformed (hReg (wN 15 []) 5 15) = false ∧ hValid (hReg (wN 15 []) 5 15) = false) ∧ 16 ≤ (tVal (wN 16 []) mk).toNat := by
  refine ⟨by decide +kernel, fresh_of_no_run (by decide +kernel), ?_⟩; decide +kernel

theorem witness_NetworkOperationsSendPackets_other :
    (let s := wN 3 [(0, 6 * 2 ^ 21 + 0x180000 - 256)]
     fenceHeld s 5 = false ∧ inData (oVal s .nt 0).toNat 8 = true ∧ (oVal s .nt 0).toNat % 8 = 0 ∧ (tVal s mk).toNat < 4 ∧ inData (oVal s .nt 0).toNat (64 * ((tVal s mk).toNat + 1)) = true ∧
       (oVal s .nt 0).toNat % 64 = 0) ∧
    inData (oVal (wN 3 [(0, 0x180000)]) .nt 0).toNat 8 = false ∧
    (inData (oVal (wN 3 [(0, 4)]) .nt 0).toNat 8 = true ∧ (oVal (wN 3 [(0, 4)]) .nt 0).toNat % 8 ≠ 0) ∧
    (let s := wTree (wN 31 []) 5 0x307 []
     (tVal s mk).toNat < 32 ∧ (tVal s mk).toNat % 16 = 15 ∧ teValid (treeAt s 5 15).entry = true ∧ teLocal (treeAt s 5 15).entry = true ∧ teParent (treeAt s 5 15).entry = 7) ∧
    (let s := wN 15 []
     teValid (treeAt s 5 15).entry = false ∧ teParent (treeAt s 5 15).entry ≠ 7) ∧ 32 ≤ (tVal (wN 32 []) mk).toNat ∧
    (let s := { wN 255 [(0, 0x10010), (1, 2 ^ 31)] with tlbs := [(engineOf 5, [{ slot := 0, page := 1, big := false, leaf := 0x1000F }])] }
     (tVal s mk).toNat < 256 ∧ 2 ^ 31 ≤ (oVal s .nt 1).toNat ∧ (oVal s .nt 1).toNat < 2 ^ 31 + 2 ^ 20 ∧ isBooked s 5 = false ∧
       (match (translate (sourced s mk) (engineOf 5) (slotOf s 5) 0x10010 false).2 with
         | .ok (p, _) => !p.host && paOk p.pa
         | .error _ => false) = true) ∧
    (tVal (wN 255 []) mk).toNat < 256 ∧ 256 ≤ (tVal (wN 256 []) mk).toNat ∧ (oVal (wN 255 []) .nt 1) = 0 ∧
    (oVal (wN 0 [(0, 3)]) .nt 0).toNat % 8 < 4 ∧ 4 ≤ (oVal (wN 0 [(0, 4)]) .nt 0).toNat % 8 ∧
    ((oVal (wN 4095 [(0, 2047)]) .nt 0).toNat < 2048 ∧ (tVal (wN 4095 [(0, 2047)]) mk).toNat < 4096) ∧ 2048 ≤ (oVal (wN 0 [(0, 2048)]) .nt 0).toNat := by
  refine ⟨?_, ?_, ?_, ?_, ?_, ?_, ?_, ?_, ?_, ?_, ?_, ?_, ?_, ?_⟩ <;> decide +kernel

theorem witness_TreeEntriesAndStatus :
    (let s := wTree (wN 15 [(0, 0x307), (1, 0)]) 5 0 []
     Ready s mk ∧ sockHeld s 5 .nt = false ∧ (tVal s mk).toNat = 15 ∧ oVal s .nt 1 = 0 ∧ ctlOk 5 (oVal s .nt 0) = true ∧ inFlight s 5 .nt 0x20 < 32 ∧
       (treeAt s 5 15).count ≠ (oVal s .nt 0).extractLsb' 0 8) ∧
    ctlOk 5 (oVal (wN 15 [(0, 8)]) .nt 0) = false ∧ oVal (wN 15 [(1, 1)]) .nt 1 = 1 ∧ oVal (wN 15 [(1, 2)]) .nt 1 = 2 ∧
    (let s := wN 15 [(0, 5 * 2 ^ 21 + 0x180000 - 320), (1, 3)]
     oVal s .nt 1 = 3 ∧ addrTile (oVal s .nt 0).toNat = 5 ∧ inData (oVal s .nt 0).toNat 264 = true ∧ (oVal s .nt 0).toNat % 64 = 0) ∧
    (let s := wN 15 [(0, 5 * 2 ^ 21 + 8), (1, 3)]
     inData (oVal s .nt 0).toNat 264 = true ∧ (oVal s .nt 0).toNat % 64 ≠ 0) ∧
    (inData (oVal (wN 15 [(0, 5 * 2 ^ 21 + 0x180000 - 256), (1, 3)]) .nt 0).toNat 264 = false) ∧
    (treeAt (wN 15 []) 5 15).count = (oVal (wN 15 []) .nt 0).extractLsb' 0 8 ∧ 16 ≤ (tVal (wN 16 []) mk).toNat ∧
    (∀ t ∈ [0, 1, 2, 3, 4], Ready (wN t [(0, 15)]) mk ∧ (tVal (wN t [(0, 15)]) mk).toNat = t ∧ (oVal (wN t [(0, 15)]) .nt 0).toNat % 16 = 15) := by
  delta Ready
  refine ⟨?_, ?_, ?_, ?_, ?_, ?_, ?_, ?_, ?_, ?_⟩ <;> decide +kernel

theorem witness_PacketsTravel_channels :
    (let p := wP (.put 0 0 0)
     let s := modAg { now := 100, occ := .at 5 } 5 fun g => { g with chans := [(3, { pkts := [(p, 1)] })] }
     s.occ = .at 5 ∧ (∀ d, d < 3 → chanReady s 5 d = false) ∧ chanReady s 5 3 = true ∧ chanKept s 5 3 = none ∧ (chanOf s 5 3).pkts = [(p, 1)] ∧ p.agent = 5 ∧
       stepBooked s 5 p.step = false) ∧
    (let p := wP (.put 0 0 0)
     let sent := [({ p with id := 2 }, 1)]
     let rest := [({ p with id := 4 }, 1)]
     let s := modAg { now := 100, occ := .at2 5 3 } 5 fun g => { g with chans := [(3, { pkts := sent ++ rest, refused := [(p, some 100)] })] }
     s.occ = .at2 5 3 ∧ (chanOf s 5 3).refused = [(p, some 100)] ∧ 100 ≤ s.now ∧ (chanOf s 5 3).pkts = sent ++ rest ∧ (∀ x ∈ sent, x.2 < x.1.flits ∨ x.1.id < p.id) ∧
       ∀ x ∈ rest.head?, x.1.flits ≤ x.2 ∧ p.id ≤ x.1.id) ∧
    (let p := { wP (.send 6 1 256 0 true 15) with step := (aRun 5).key }
     let s := running { wOcc (.pktPos p 7) with now := 100 } 5
     s.occ = .pktPos p 7 ∧ p.eff = none ∧ (bk s 5).run = some (aRun 5) ∧ (aRun 5).key = p.step) ∧ (wOcc (.pkt (wP (.event 0)))).occ = .pkt (wP (.event 0)) := by
  refine ⟨?_, ?_, ?_, rfl⟩ <;> decide +kernel

theorem witness_PacketsTravel_arrivals :
    (∀ k ∈ [PktKind.put (6 * 2 ^ 21 + 64) 1 2, .putb (6 * 2 ^ 21 + 64) 64 9], let s := wOcc (.pkt (wP k))
      s.occ = .pkt (wP k) ∧ putRemote (wP k) = false ∧ putBehind s (wP k) 6 = false ∧ Lands s (wP k) (byteLines (6 * 2 ^ 21 + 64) 64) ∧ Lands s (wP k) (byteLines (6 * 2 ^ 21 + 64) 8) ∧
        locCause s 0 (.sram (6 * 2 ^ 21 + 64)) 64 false = none ∧ locCause s 0 (.sram (6 * 2 ^ 21 + 64)) 8 false = none) ∧
    Plain (wOcc .none) (6 * 2 ^ 21 + 64) 64 ∧
    (∀ e ∈ [0, 64], let s := setH (wOcc (.pkt (wP (.send 6 1 64 9 true 15)))) 6 1 (hnd (6 * 2 ^ 21 + 64) 6 2 0 5 15 e 0)
      s.occ = .pkt (wP (.send 6 1 64 9 true 15)) ∧ isIssuer 6 = true ∧ handleCause (hReg s 6 1) [2] = none ∧ ringCause s 0 (hReg s 6 1) (hProd (hReg s 6 1)) 64 = none ∧
        64 ≤ hSize (hReg s 6 1) ∧ (hRoom (hReg s 6 1) = 64 - e) ∧ pbEnabled s 0 = false ∧
        Lands s (wP (.send 6 1 64 9 true 15)) (if 64 ≤ hRoom (hReg s 6 1) then ringLines (hReg s 6 1) (hProd (hReg s 6 1)) 64 else [])) := by
  simp only [Lands]
  exact ⟨by decide +kernel, plain_noPairs (by decide +kernel) (by decide +kernel), by decide +kernel⟩

/-- Slot 1's Prompt Book with `ctl`, and `head` and `tail` as given; its ring stands in HBM. -/
def wBook (s : State) (ctl head tail : BitVec 64) : State :=
  { s with regs := [(0x1008, 1), (0x4200, 3), (0x4308, 20), (0x4310, head), (0x4318, tail), (0x4320, ctl)], books := [(1, { frames := (List.range 16).map fun i => ⟨false, 0x400000 + 65536 * i, none⟩ })] }

/-- A term of instance 7 of tree 15. -/
def wTerm (b : Bool) : TreePkt := { tree := 15, inst := 7, bcast := b, wide := true, data := 5, missing := 0, expect := 0, slot := 0, booked := false, pb := 0 }

/-- An open instance of tree 15, its entry as given, with the term of its own tile. -/
def wInst (ctl : Nat) (closing : Bool) : TreeInst :=
  { num := 7, entry := { ctl := BitVec.ofNat 32 ctl, addr := BitVec.ofNat 32 (5 * 2 ^ 21 + 64) }, due := some 90, own := some (wTerm false), closing := closing }

theorem witness_ReductionTreesForward :
    (∀ e ∈ [(false, 0x217), (false, 0x10317), (true, 0x217)], let s := wTree { now := 100, occ := .tree 5 .west (wTerm e.1) } 5 e.2 []
      s.occ = .tree 5 .west (wTerm e.1) ∧ routerStill s 5 0 = false ∧ (treeAt s 5 15).opens.all (fun i => i.num != 7) = true ∧ forwarded (treeAt s 5 15) 7 = false ∧
        teValid (treeAt s 5 15).entry = true ∧ RPort.west ≠ .own ∧ teChild (treeAt s 5 15).entry (portNo .west) = true ∧ (treeAt s 5 15).opens.length < 2 ∧
        retryAhead s 5 .west (wTerm e.1) = none) ∧
    (let s := writeRecord (wBook (wTree { now := 100 } 5 0x217 []) 10 0 0) 1 0x1B 0 0 5 (objTree 15) 0 6
     let k := { wTerm false with slot := 1, pb := 2, expect := 2 }
     (treeDrive s (treeAt s 5 15) k) = some (0, 6) ∧ k.expect &&& ~~~6#64 = 0#64 ∧ (wTerm false).pb ≠ 2) ∧
    (teValid (treeAt (wTree {} 5 0x117 []) 5 15).entry = false ∧ teChild (treeAt (wTree {} 5 0x307 []) 5 15).entry (portNo .west) = false) ∧
    (let s := wTree { now := 100, occ := .at3 5 15 7 } 5 0x317 [wInst 0x317 false]
     s.occ = .at3 5 15 7 ∧ (treeAt s 5 15).opens.find? (fun i => i.num == 7 && !i.closing && i.due.any (· ≤ s.now)) = some (wInst 0x317 false) ∧ s.timersOff = [] ∧
       routerStill s 5 (instSlot (wInst 0x317 false)) = false ∧ ∀ k ∈ (wInst 0x317 false).own.toList ++ (wInst 0x317 false).kids.map (·.2), k.pb ≠ 2) ∧
    (∀ e ∈ [(5, 0x307), (5, 0x302), (5, 0x303)], let s := wTree { now := 100, occ := .at3 5 15 7 } 5 e.2 [wInst e.2 true]
      let i := wInst e.2 true
      (treeAt s 5 15).opens.find? (fun i => i.num == 7 && i.closing) = some i ∧ routerStill s 5 (instSlot i) = false ∧ termsOf 5 i = [wTerm false] ∧
        (addrTile i.entry.addr.toNat = 5 ∧ inData i.entry.addr.toNat 264 = true ∧ tagsOk s 0 i.entry.addr.toNat 264 = true ∧ missingOf i = 0#64 ∧ (bk s 5).wait = .none ∧ areaHold s 5 i.entry true = none ∧
          ∀ x ∈ lineUses s.now (areaLines i.entry true), useOk s 5 x.1 x.2 = true) ∧ (∀ k ∈ i.own, stepBooked s k.agent k.step = false) ∧
        (teParent i.entry = 7 ∨ teParent i.entry < 4 ∧ (neighbour 5 (teParent i.entry)).isSome = true)) ∧
    (wInst 0x307 true).drive = none ∧ Plain (wTree { now := 100, occ := .at3 5 15 7 } 5 0x307 [wInst 0x307 true]) (5 * 2 ^ 21 + 64) 264 := by
  refine ⟨?_, ?_, ?_, ?_, ?_, rfl, plain_noPairs (by decide +kernel) ?_⟩ <;> decide +kernel

/-- A term joins an open instance of its number, through a child port or from the tile; with it the instance is complete, or still lacks the other. -/
theorem witness_ReductionTreesForward_joins :
    (∀ e ∈ [(none, true), (some (wTerm false), true), (none, false)], let i := { wInst (if e.2 then 0x217 else 0x317) false with own := e.1 }
      let s := wTree { now := 100, occ := .tree 5 .west (wTerm false) } 5 (if e.2 then 0x217 else 0x317) [i]
      s.occ = .tree 5 .west (wTerm false) ∧ (wTerm false).bcast = false ∧ routerStill s 5 0 = false ∧ (treeAt s 5 15).opens.find? (fun i => i.num == (wTerm false).inst) = some i ∧ i.closing = false ∧
        i.drive = none ∧ teValid i.entry = true ∧ teChild i.entry (portNo .west) = true ∧ (∀ x ∈ i.kids, x.1 ≠ .west) ∧ retryAhead s 5 .west (wTerm false) = none ∧
        instComplete { i with kids := i.kids ++ [(.west, wTerm false)] } = e.2) ∧
    (∀ ctl ∈ [0x307, 0x317], let i := { wInst ctl false with own := none }
      let p := wP (.reduce 15 true 5 7)
      let s := wTree { now := 100, occ := .pkt p } 5 ctl [i]
      s.occ = .pkt p ∧ Lands s p [] ∧ routerStill s p.agent p.slot = false ∧ termBehind s p 15 = false ∧ (treeAt s p.agent 15).opens.find? (fun i => i.num == 7) = some i ∧ i.closing = false ∧
        i.drive = none ∧ i.own = none ∧ teValid i.entry = true ∧ teLocal i.entry = true ∧ instComplete { i with own := some (wTerm false) } = decide (ctl = 0x307)) := by
  simp only [Lands]; constructor <;> decide +kernel

/-- A broadcast at a node of its tree that delivers it, at the tile's memory, and one that does not. -/
theorem witness_ReductionTreesForward_broadcasts :
    (let s := wTree { now := 100, occ := .tree 5 .west (wTerm true) } 5 0x217 []
     s.occ = .tree 5 .west (wTerm true) ∧ (wTerm true).bcast = true ∧ routerStill s 5 (wTerm true).slot = false ∧ teValid (treeAt s 5 15).entry = true) ∧
    (∀ ctl ∈ [0x307, 0x217], ∀ wide, let k := { wTerm true with cast := 4, wide := wide }
      let i : TreeInst := { num := 4, entry := (wInst ctl false).entry }
      let s : State := { now := 100, occ := .tree 5 .west k, routers := [(5, { trees := [(15, { casts := [i] })] })] }
      s.occ = .tree 5 .west k ∧ (treeAt s 5 15).casts.find? (fun i => i.num == k.cast) = some i ∧ routerStill s 5 k.slot = false ∧ stepBooked s k.agent k.step = false ∧
        teLocal i.entry = decide (ctl = 0x307) ∧ addrTile i.entry.addr.toNat = 5 ∧ inData i.entry.addr.toNat 264 = true ∧ tagsOk s k.slot i.entry.addr.toNat 264 = true ∧
        areaHold s 5 i.entry wide = none ∧ (∀ x ∈ lineUses s.now (areaLines i.entry wide), useOk s 5 x.1 x.2 = true) ∧ Plain s i.entry.addr.toNat 264) ∧
    (∃ q, q < 4 ∧ teChild (wInst 0x217 false).entry q = true ∧ (neighbour 5 q).isSome = true) := by
  refine ⟨by decide +kernel, fun ctl hc wide => ?_, by decide +kernel⟩
  · have := plain_noPairs (s := { now := 100, occ := .tree 5 .west { wTerm true with cast := 4, wide := wide }, routers := [(5, { trees := [(15, { casts := [{ num := 4, entry := (wInst ctl false).entry }] })] })] })
      (addr := 5 * 2 ^ 21 + 64) (n := 264) rfl (by decide +kernel)
    simp only [List.mem_cons, List.not_mem_nil, or_false] at hc
    rcases hc with rfl | rfl <;> cases wide <;> exact ⟨by decide +kernel, by decide +kernel, by decide +kernel, by decide +kernel, by decide +kernel, by decide +kernel, by decide +kernel, by decide +kernel, by decide +kernel, by decide +kernel, this⟩

/-- Tile 5 triggers an operation of `lm` with t = `k`, its unit as given. -/
def wLm (k : Nat) (ports : List (Nat × Nat)) (l : Loam) : State :=
  modBk (alone 5 (BitVec.ofNat 64 k) (ports.map fun p => (.lm, p.1, BitVec.ofNat 2048 p.2))) 5 fun b => { b with lm := l }

/-- An image of a unit: one event for tile 5, and sixteen banks of tick length 4. -/
def wImage : Nat := 1 + 256 ^ 576 * (3 + 2 ^ 33 * 5) + (List.range 16).foldl (fun v b => v + 4 * 256 ^ (64 + 32 * b + 11)) 0

/-- Tile 5 loads that image, which stands at the start of its memory. -/
def wLoad : State :=
  { wLm 0 [(0, 5 * 2 ^ 21)] {} with sram := [(5 * 2 ^ 21, 1)] ++ ((List.range 16).map fun b => (5 * 2 ^ 21 + 64 + 32 * b + 11, 4)) ++ [(5 * 2 ^ 21 + 576, 3), (5 * 2 ^ 21 + 580, 10)] }

theorem witness_LoamOperations_blocks :
    (let s := plainStore (wLm 15 [(0, 5 * 2 ^ 21 + 32)] {}) (5 * 2 ^ 21 + 32) 32 (4 * 256 ^ 11)
     Ready s mk ∧ sockHeld s 5 .lm = false ∧ isBooked s 5 = false ∧ useHeld s 5 (ridTile 3 5 0) = false ∧ useHeld s 5 (ridTile 4 5 (addrBank (oVal s .lm 0).toNat)) = false ∧ (lmOf s 5).running = false ∧ performedAt s 5 (addrTile (oVal s .lm 0).toNat) = true ∧ (tVal s mk).toNat < 16 ∧
       LmBlock (oVal s .lm 0).toNat 32 32 ∧ addrTile (oVal s .lm 0).toNat = 5 ∧ locCause s (slotOf s 5) (.sram (oVal s .lm 0).toNat) 32 true = none ∧ GoodDescriptor (loadN s (oVal s .lm 0).toNat 32)) ∧
    ¬ GoodDescriptor (loadN (wLm 15 [(0, 5 * 2 ^ 21 + 32)] {}) (oVal (wLm 15 [(0, 5 * 2 ^ 21 + 32)] {}) .lm 0).toNat 32) ∧
    (∀ e ∈ [(32, 32), (0, 584)], let s := wLm 15 [(0, 5 * 2 ^ 21 + e.1)] {}
      NoErrors s ∧ usesHeld s 5 (lmReads s (oVal s .lm 0).toNat e.2) = none) ∧
    (let s := wLm 0 [(0, 5 * 2 ^ 21 + 0x180000 - 576)] {}
     (tVal s mk).toNat = 0 ∧ LmBlock (oVal s .lm 0).toNat 576 64 ∧ accessHeld s 5 0 = false ∧ inFlight s 5 .lm 0x20 < 31) ∧ LoamFits {} ∧
    (LmBlock (oVal wLoad .lm 0).toNat 576 64 ∧ 576 + 8 * loadN wLoad (oVal wLoad .lm 0).toNat 4 = 584 ∧ inData (oVal wLoad .lm 0).toNat 584 = true ∧
       locCause wLoad (slotOf wLoad 5) (.sram (oVal wLoad .lm 0).toNat) 584 true = none ∧ (oVal wLoad .lm 0).toNat = 5 * 2 ^ 21) ∧
    loadN wLoad (5 * 2 ^ 21) 584 = wImage ∧ GoodImage 5 wImage := by
  delta Ready LmBlock GoodDescriptor GoodImage NoErrors
  refine ⟨?_, ?_, ?_, ?_, ⟨Nat.zero_le _, fun b => ?_⟩, ?_, ?_, ?_⟩
  · decide +kernel
  · decide +kernel
  · decide +kernel
  · decide +kernel
  · rw [show lmBank {} b = {} from rfl]; decide
  · decide +kernel
  · rw [show 584 = 64 + (64 + (64 + (64 + (64 + (64 + (64 + (64 + (64 + 8)))))))) from rfl]
    iterate 9 rw [Laws.loadN_add]
    decide +kernel
  · decide +kernel

theorem witness_LoamOperations_settings :
    (∀ t ∈ [0, 3, 13, 15, 16], Ready (wLm t [] {}) mk ∧ sockHeld (wLm t [] {}) 5 .lm = false ∧ isBooked (wLm t [] {}) 5 = false ∧ (tVal (wLm t [] {}) mk).toNat = t ∧
      inFlight (wLm t [] {}) 5 .lm 0x20 < 31) ∧
    (lmOf (wLm 0 [] { running := true }) 5).running = true ∧ (lmOf (wLm 0 [] { running := true }) 5).pass = none ∧ (lmOf (wLm 0 [] { running := true }) 5).fan = none ∧
    (lmOf (wLm 0 [] { running := true, pass := some { bank := 0, tick := 0 } }) 5).pass ≠ none ∧
    ((lmOf (wLm 3 [] { running := true, idle := true }) 5).running = true ∧ (lmOf (wLm 3 [] { running := true, idle := true }) 5).idle = true ∧ (lmOf (wLm 3 [] { running := true }) 5).idle = false) ∧
    ((oVal (wLm 15 [(0, 0x17FFF8)] {}) .lm 0).toNat % 8 = 0 ∧ (oVal (wLm 15 [(0, 0x17FFF8)] {}) .lm 0).toNat < 0x180000) ∧
    (let s := wLm (6 * 2 ^ 12) [(0, 5 * 2 ^ 33 % 2 ^ 32 + 3)] {}
     evTile (tVal s mk ++ oVal s .lm 0) ≠ 5) ∧
    (let s := wLm (6 * 2 ^ 12 + 10) [(0, 3)] {}
     evTile (tVal s mk ++ oVal s .lm 0) = 5 ∧ (oVal s .lm 0).toNat % 8 < 4 ∧ (lmOf s 5).queue.length < 4096 ∧ isLate s 5 (tVal s mk ++ oVal s .lm 0) = false) ∧
    4096 ≤ (List.replicate 4096 (⟨0, 0, 0, false, false⟩ : LmEvent)).length ∧ 4 ≤ (oVal (wLm 0 [(0, 4)] {}) .lm 0).toNat % 8 ∧
    (let s := wLm 3 [(0, 2 ^ 14 - 1), (1, 3)] {}
     (tVal s mk).toNat < 4 ∧ (oVal s .lm 0).toNat < 2 ^ 14 ∧ (oVal s .lm 1).toNat < 4 ∧
       addrOff (5 * 2 ^ 21 + 0x194000 + 8192 * ((oVal s .lm 0).toNat / 2 ^ 10) + 8 * ((oVal s .lm 0).toNat % 1024)) + 8 ≤ 0x1B4000 ∧ s.pairs = [] ∧
       poisoned s (5 * 2 ^ 21 + 0x194000 + 8192 * ((oVal s .lm 0).toNat / 2 ^ 10) + 8 * ((oVal s .lm 0).toNat % 1024)) 8 = false) ∧
    (let s := setH (wLm 0xFFFF [(1, 31)] {}) 5 15 (hnd (5 * 2 ^ 21) 8 1 0 6 1 0 0)
     (tVal s mk).toNat < 2 ^ 16 ∧ (oVal s .lm 1).toNat < 32 ∧ (oVal s .lm 1).toNat / 2 ^ 4 % 2 = 1 ∧ handleCause (hReg s 5 ((oVal s .lm 1).toNat % 16)) [0, 1] = none) ∧
    (let s := wLm 0xFFFF [(1, 31)] {}
     hValid (hReg s 5 ((oVal s .lm 1).toNat % 16)) = false ∧ Ready s mk) ∧
    (let s := wLm 7 [(0, 15)] { banks := [(15, { ended := some 7 })] }
     (oVal s .lm 0).toNat < 16 ∧ (tVal s mk).toNat < 2 ^ 20 ∧ (lmBank (lmOf s 5) (oVal s .lm 0).toNat).ended = some 7) ∧ precedes 6 7 = true ∧
    (lmBank (lmOf (wLm 7 [(0, 15)] {}) 5) 15).ended = none ∧ (lmBank (lmOf (wLm 7 [(0, 15)] { banks := [(15, { ended := some 6 })] }) 5) 15).ended = some 6 ∧ precedes 7 6 = false := by
  delta Ready
  refine ⟨?_, ?_, ?_, ?_, ?_, ?_, ?_, ?_, ?_, Nat.le_of_eq List.length_replicate.symm, ?_, ?_, ?_, ?_, ?_, ?_, ?_, ?_, ?_⟩ <;> decide +kernel

/-- An event for neuron 0 of bank 15 of tile 5, of tick 6, with weight 1 and the kind given. -/
def wEv (kind : Nat) : BitVec 64 := BitVec.ofNat 64 (6 * 2 ^ 44 + 5 * 2 ^ 33 + 15 * 2 ^ 29 + 8 + kind)

/-- Tile 5 runs a step that owns the unit; the occasion is `o`. -/
def wOwn (o : Occ) (l : Loam) : State := modBk { running {} 5 with now := 100, occ := o } 5 fun b => { b with lm := l }

theorem witness_LoamDeliversEvents_arrival :
    (∀ e ∈ [({} : Loam), { banks := [(15, { ended := some 6 })] }, { banks := [(15, { ended := some 6 })], modes := 2, running := true, idle := true }], let s := wOwn (.pkt (wP (.event (wEv 0)))) e
      s.occ = .pkt (wP (.event (wEv 0))) ∧ kget 0 s.owners (tileCluster (evTile (wEv 0))) = (wP (.event (wEv 0))).slot ∧ evTile (wEv 0) = 5 ∧ lmOwned s 5 = true ∧
        Lands s (wP (.event (wEv 0))) [] ∧ eventBehind s (wP (.event (wEv 0))) 5 = false ∧ (lmOf s 5).queue.length < 4096 ∧ isLate s 5 (wEv 0) = !e.banks.isEmpty ∧ (lmOf s 5).modes.getLsbD 1 = e.running ∧ (lmOf s 5).idle = e.running) ∧
    (lmOf (wOwn .none { queue := List.replicate 4096 ⟨0, 0, 0, false, false⟩ }) 5).queue = List.replicate 4096 ⟨0, 0, 0, false, false⟩ ∧ lmOwned {} 5 = false ∧
    (let s := modChan (wOwn (.pkt (wP (.event (wEv 0)))) {}) 5 3 fun c => { c with refused := [({ wP (.event (wEv 0)) with id := 2 }, none)] }
     eventBehind s (wP (.event (wEv 0))) 5 = true ∧ Lands s (wP (.event (wEv 0))) []) := by
  simp only [Lands]
  refine ⟨?_, rfl, ?_, ?_⟩ <;> decide +kernel

/-- A delivery turn of tile 5's unit, whose pass of bank 15 has one event, on a neuron record. -/
def wPass (kind rec_ : Nat) : State :=
  let s := wOwn (.at2 5 9) { running := true, chain := 9, pass := some { bank := 15, tick := 6 }, queue := [⟨wEv kind, 5, 50, false, false⟩],
                             banks := [(15, { theta := 100, vreset := 0, rticks := 3 })] }
  plainStore s (5 * 2 ^ 21 + 0x194000 + 8192 * 15) 8 rec_

theorem span_rid {s : State} {rid c n : Nat} {u : Nat × Nat} (h : u ∈ spanUses s rid c n) : u.1 = rid := by
  simp only [spanUses] at h
  split at h
  · simp at h
  · simp only [List.mem_cons, List.mem_filterMap, Option.ite_none_right_eq_some, Option.some.injEq] at h
    obtain rfl | ⟨_, _, _, rfl⟩ := h <;> rfl

/-- With empty calendars no slot is kept from the unit of an unbooked step. -/
theorem unit_free {s : State} {t d : Nat} {us : List (Nat × Nat)} (hc : s.cal = []) (hb : isBooked s t = false) (h3 : (ridTile 3 t 0 / 2 ^ 24 == 8) = false)
    (hu : ∀ u ∈ us, (u.1 / 2 ^ 24 == 8) = false) : lmKept s t d us = none ∧ ∀ u ∈ spanUses s (ridTile 3 t 0) s.now d ++ us, useOk s t u.1 u.2 = true := by
  have hk : ∀ u ∈ spanUses s (ridTile 3 t 0) s.now d ++ us, ∀ k n, slotKept s k u.1 n = false := by
    intro u h k n
    have hr : (u.1 / 2 ^ 24 == 8) = false := by
      rcases List.mem_append.1 h with h | h
      · rw [span_rid h]; exact h3
      · exact hu u h
    simp only [slotKept, inRefresh, calAt, hc, kget, hr, Bool.false_and, Bool.false_or]
  simp only [isBooked, bookingOf] at hb
  refine ⟨?_, fun u _ => ?_⟩
  · simp only [lmKept, usesHeld]
    cases hr : (bk s t).run with
    | none => rfl
    | some r =>
      simp only [Option.bind_some, Option.map_eq_none_iff, List.find?_eq_none]
      exact fun u h => by simp [hk u h]
  · simp only [useOk]
    cases hr : (bk s t).run with
    | none => rfl
    | some r =>
      simp only [hr, Option.bind_some, Option.isSome_eq_false_iff, Option.isNone_iff_eq_none] at hb
      simp only [hb]

theorem witness_LoamDeliversEvents_pass :
    (∀ e ∈ [(0, 0), (0, 2 ^ 52 * 200), (0, 2 ^ 60), (1, 0), (2, 0), (3, 0), (0, 99)], let s := wPass e.1 e.2
      s.occ = .at2 5 (lmOf s 5).chain ∧ (lmOf s 5).running = true ∧ lmOwned s 5 = true ∧ isBooked s 5 = false ∧ s.cal = [] ∧ probeUses s 5 ⟨wEv e.1, 5, 50, false, false⟩ = [] ∧ (lmOf s 5).fan = none ∧
        (lmOf s 5).pass = some { bank := 15, tick := 6 } ∧ (chanOf s 5 3).refused = [] ∧ nextEvent (lmOf s 5) { bank := 15, tick := 6 } = some ⟨wEv e.1, 5, 50, false, false⟩ ∧
        poisoned s (5 * 2 ^ 21 + 0x194000 + 8192 * 15) 8 = false ∧ (lmOf s 5).drops < 0xFFFFFFFF ∧ (lmOf s 5).fires < 0xFFFFFFFF ∧ (lmOf s 5).lost < 0xFFFFFFFF ∧ s.flaws = [] ∧ s.hflaws = []) ∧
    (let s := setH (modBk { wPass 3 0 with tags := [(5 * 2 ^ 15, 1)] } 5 fun b => { b with lm := { b.lm with probe := 31 } }) 5 15 (hnd (5 * 2 ^ 21) 8 1 0 6 1 0 0)
     let h := hReg s 5 15
     (lmOf s 5).probe.toNat % 16 = 15 ∧ (lmOf s 5).probe.getLsbD 4 = true ∧ handleCause h [0, 1] = none ∧ 16 ≤ hRoom h ∧ ringCause s (slotOf s 5) h (hProd h) 16 = none ∧ s.pairs = [] ∧ evKind (wEv 3) = 3 ∧
       nextEvent (lmOf s 5) { bank := 15, tick := 6 } = some ⟨wEv 3, 5, 50, false, false⟩ ∧ (lmOf s 5).probe.getLsbD 4 = true ∧ ∀ u ∈ probeUses s 5 ⟨wEv 3, 5, 50, false, false⟩, (u.1 / 2 ^ 24 == 8) = false) ∧
    (let s := modBk (wPass 0 0) 5 fun b => { b with lm := { b.lm with pass := none, queue := [⟨wEv 0, 5, 50, true, false⟩] } }
     (lmOf s 5).fan = none ∧ (lmOf s 5).pass = none ∧ (lmOf s 5).stopping = false ∧ (chanOf s 5 3).refused = [] ∧ tieReplay s 5 = false ∧ pbEnabled s (slotOf s 5) = false ∧
       ((lmOf s 5).queue.filter (·.late)).head? = some ⟨wEv 0, 5, 50, true, false⟩) ∧
    Plain (wPass 0 0) (5 * 2 ^ 21 + 0x194000 + 8192 * 15) 8 ∧
    (neuronOf (2 ^ 60)).off = true ∧ (neuronOf 0).off = false ∧ 0 < (neuronOf (2 ^ 52 * 200)).refr - 6 ∧ (neuronOf 0).refr = 0 ∧
    (let s := wOwn (.at2 5 9) { running := true, chain := 9, pass := some { bank := 15, tick := 6 } }
     nextEvent (lmOf s 5) { bank := 15, tick := 6 } = none ∧ ({ bank := 15, tick := 6 } : LmPass).done.eraseDups.length < 2 ∧ (lmOf s 5).stopping = false ∧ tieReplay s 5 = false ∧ (chanOf s 5 3).refused = []) ∧
    (∀ v ∈ [0xFFFF, 7], let s := plainStore (wOwn (.at2 5 9) { running := true, chain := 9, fan := some { bank := 15, tick := 6, at_ := 0x17FFFE, index := true } }) (5 * 2 ^ 21 + 0x17FFFE) 2 v
      (lmOf s 5).fan = some { bank := 15, tick := 6, at_ := 0x17FFFE, index := true } ∧ 0x17FFFE + 2 ≤ 0x180000 ∧ isBooked s 5 = false ∧ s.cal = [] ∧ poisoned s (5 * 2 ^ 21 + 0x17FFFE) 2 = false ∧
        loadN s (5 * 2 ^ 21 + 0x17FFFE) 2 = v) ∧
    (∀ t ∈ [5, 6], let s := plainStore (wOwn (.at2 5 9) { running := true, chain := 9, fan := some { bank := 15, tick := 6, at_ := 0x17FFF8 } }) (5 * 2 ^ 21 + 0x17FFF8) 8 (2 ^ 63 + t * 2 ^ 30)
      (lmOf s 5).fan = some { bank := 15, tick := 6, at_ := 0x17FFF8 } ∧ 0x17FFF8 + 8 ≤ 0x180000 ∧ isBooked s 5 = false ∧ s.cal = [] ∧ poisoned s (5 * 2 ^ 21 + 0x17FFF8) 8 = false ∧ loadN s (5 * 2 ^ 21 + 0x17FFF8) 8 / 2 ^ 49 % 2 ^ 14 = 0 ∧
        loadN s (5 * 2 ^ 21 + 0x17FFF8) 8 / 2 ^ 30 % 2048 = t ∧ (chanOf s 5 3).refused = [] ∧ chanFlits (chanOf s 5 3) < 16 ∧
        isLate s 5 (BitVec.ofNat 64 (7 * 2 ^ 44 + 5 * 2 ^ 33)) = false) ∧
    (let s := { wOwn (.at2 5 9) { running := true, chain := 9, fan := some { bank := 15, tick := 6, at_ := 0, since := some 100 } } with now := 356 }
     (lmOf s 5).fan = some { bank := 15, tick := 6, at_ := 0, since := some 100 } ∧ 100 + 256 ≤ s.now) := by
  refine ⟨?_, ?_, ?_, plain_noPairs ?_ ?_, ?_, ?_, ?_, ?_, ?_, ?_, ?_, ?_⟩ <;> decide +kernel

theorem witness_TreeAndLoamEventsComplete_tree :
    (let s := wTree { now := 100, occ := .tree 5 .west (wTerm false) } 5 0x217 []
     s.occ = .tree 5 .west (wTerm false) ∧ RPort.west ≠ .own ∧ (wTerm false).bcast = false ∧ (wTerm false).pb ≠ 2 ∧ routerStill s 5 0 = false ∧ retryAhead s 5 .west (wTerm false) = none ∧ (treeAt s 5 15).opens = [] ∧
       (treeAt s 5 15).gone = [] ∧ teValid (treeAt s 5 15).entry = true ∧ teChild (treeAt s 5 15).entry (portNo .west) = true) ∧
    (let p := wP (.reduce 15 true 5 7)
     let s := wTree { now := 100, occ := .pkt p } 5 0x307 []
     s.occ = .pkt p ∧ p.kind = .reduce 15 true 5 7 ∧ p.pb ≠ 2 ∧ Lands s p [] ∧ routerStill s p.agent p.slot = false ∧ termBehind s p 15 = false ∧ (treeAt s 5 15).opens = [] ∧ (treeAt s 5 15).gone = [] ∧
       teValid (treeAt s 5 15).entry = true ∧ teLocal (treeAt s 5 15).entry = true) ∧
    (∀ e ∈ [(0x317, false), (0x307, true), (0x302, true)], let i := wInst e.1 e.2
      let s := wTree { now := 100, occ := .at3 5 15 7 } 5 e.1 [i]
      s.occ = .at3 5 15 7 ∧ (treeAt s 5 15).opens = [i] ∧ i.num = 7 ∧ routerStill s 5 (instSlot i) = false ∧ i.closing = e.2 ∧ i.due = some 90 ∧ 90 ≤ s.now ∧ (∀ k ∈ i.own.toList ++ i.kids.map (·.2), k.pb ≠ 2) ∧
        termsOf 5 i = [wTerm false] ∧ (∀ k ∈ i.own, stepBooked s k.agent k.step = false) ∧ i.drive = none ∧ missingOf i = 0#64 ∧ areaHold s 5 i.entry true = none ∧ (bk s 5).wait = .none ∧
        addrTile i.entry.addr.toNat = 5 ∧ inData i.entry.addr.toNat 264 = true ∧ tagsOk s 0 i.entry.addr.toNat 264 = true ∧ ∀ x ∈ lineUses s.now (areaLines i.entry true), useOk s 5 x.1 x.2 = true) ∧
    (teParent (wInst 0x302 true).entry < 4 ∧ (neighbour 5 (teParent (wInst 0x302 true).entry)).isSome = true) ∧ teParent (wInst 0x307 true).entry = 7 := by
  simp only [Lands]
  refine ⟨?_, ?_, ?_, ?_, ?_⟩ <;> decide +kernel

theorem witness_TreeAndLoamEventsComplete_loam :
    (∀ own ∈ [false, true], let p := wP (.event (wEv 0))
      let s : State := if own then wOwn (.pkt p) {} else { now := 100, occ := .pkt p }
      s.occ = .pkt p ∧ p.kind = .event (wEv 0) ∧ Lands s p [] ∧ eventBehind s p (evTile (wEv 0)) = false ∧ kget 0 s.owners (tileCluster (evTile (wEv 0))) = p.slot ∧ lmOwned s (evTile (wEv 0)) = own ∧
        (lmOf s (evTile (wEv 0))).queue.length < 4096 ∧ isLate s (evTile (wEv 0)) (wEv 0) = false) ∧
    (let s := wOwn (.at2 5 9) { running := true, chain := 9, on := 0x8008, banks := [(15, { next := 6 }), (3, { next := 7 })] }
     let l := lmOf s 5
     s.occ = .at2 5 l.chain ∧ l.running = true ∧ lmOwned s 5 = true ∧ l.fan = none ∧ (chanOf s 5 3).refused = [] ∧ l.pass = none ∧ l.stopping = false ∧ l.queue = [] ∧ tieReplay s 5 = false ∧ l.on.getLsbD 15 = true ∧
       passDue l 15 ≤ gtOf s ∧ ∀ c, c < 15 → l.on.getLsbD c = true → gtOf s < passDue l c) ∧
    (let q : LmPass := { bank := 15, tick := 6 }
     let s := wOwn (.at2 5 9) { running := true, chain := 9, pass := some q }
     let l := lmOf s 5
     s.occ = .at2 5 l.chain ∧ l.running = true ∧ lmOwned s 5 = true ∧ l.fan = none ∧ (chanOf s 5 3).refused = [] ∧ l.pass = some q ∧ nextEvent l q = none ∧ q.done = [] ∧ l.stopping = false ∧ tieReplay s 5 = false) ∧
    (let f : LmFan := { bank := 15, tick := 6, at_ := 0, since := some 100 }
     let s := { wOwn (.at2 5 9) { running := true, chain := 9, fan := some f } with now := 356 }
     s.occ = .at2 5 (lmOf s 5).chain ∧ (lmOf s 5).running = true ∧ lmOwned s 5 = true ∧ (lmOf s 5).fan = some f ∧ f.since = some 100 ∧ 100 + 256 ≤ s.now) := by
  simp only [Lands]
  refine ⟨?_, ?_, ?_, ?_⟩ <;> decide +kernel

/-- A cue list of one entry: tile 5's matrix unit for two slots. -/
def wCue : Nat := 1 + 2 ^ 48 * 2 + 2 ^ 80

/-- A booking that is not yet in force. -/
def wB (movable : Bool) : Booking := { s := 1000, e := 16032, slack := 0, span := 2, movable := movable, demotePolicy := false, entries := 1, cues := [cueOf wCue] }

/-- Tile 5's step triggers an operation of `cq` with t = `k` on its list, holding booking `b`. -/
def wQ (k : Nat) (ports : List (Nat × Nat)) (b : Option Booking) : State :=
  let s := alone 5 (BitVec.ofNat 64 k) (([(0, 5 * 2 ^ 21 + 64), (1, 1)] ++ ports : List (Nat × Nat)).map fun p => (.cq, p.1, BitVec.ofNat 2048 p.2))
  let s := modBk s 5 fun x => { x with run := some { aRun 5 with booking := b } }
  let s : State := { s with tags := [(5 * 2 ^ 15 + 1, 1)], owners := [(tileCluster 5, 1)], steps := [{ aRec with booking := b }] }
  storeN s (5 * 2 ^ 21 + 64) 16 wCue

theorem witness_BookingOperations :
    (∀ e ∈ [(0, some 47), (8192, none)], let s := wQ 0 [(2, e.1)] none
      Ready s mk ∧ Free s .cq 0x20 1 ∧ inFlight s 5 .cq 0x21 < 32 ∧ pbEnabled s (slotOf s 5) = false ∧ GoodList s [wCue] false ∧ GoodList s [wCue] true ∧ heldBooking s 5 = none ∧
        probeAfter s 5 [cueOf wCue] (oVal s .cq 2).toNat 1 = e.2 ∧ (∀ n, n < 100 → switchRefuses s (slotOf s 5) n (spanOf 5 [cueOf wCue]) = false) ∧ (bk s 5).run = some { aRun 5 with booking := none }) ∧
    (let s : State := { wQ 0 [(2, 0)] none with regs := [(0x7118, 4)], switch := { out := 1, t := 700 } }
     regF s 0x7118 2 0 = 4 ∧ probeAfter s 5 [cueOf wCue] (oVal s .cq 2).toNat 1 = some 47 ∧ switchRefuses s (slotOf s 5) 47 (spanOf 5 [cueOf wCue]) = true ∧ heldBooking s 5 = none) ∧
    (let s : State := { wQ 0 [] (some (wB false)) with regs := [(0x7118, 1)], switch := { out := 1, t := 700 }, now := 16000 }
     bookingOf s 5 = some (wB false) ∧ fitsAt s none ([cueOf wCue].flatMap (cueHolds 5)) (wB false).s = true ∧ switchRefuses s (slotOf s 5) (wB false).s (spanOf 5 [cueOf wCue]) = true) ∧
    (let s := wQ 0 [] (some (wB false))
     Ready s mk ∧ GoodList s [wCue] false ∧ (bk s 5).run = some { aRun 5 with booking := some (wB false) } ∧ heldBooking s 5 ≠ none ∧
       fitsAt s none ([cueOf wCue].flatMap (cueHolds 5)) (wB false).s = true ∧ (wB false).s + spanOf 5 [cueOf wCue] ≤ slotNow s + 8192) ∧
    fitsAt { wQ 0 [] (some (wB false)) with cal := [(calKey (ridTile 1 5 0) 1000, some { key := {}, slot := 1000 })] } none ([cueOf wCue].flatMap (cueHolds 5)) 1000 = false := by
  delta Ready Free GoodList NoErrors
  refine ⟨?_, ?_, ?_, ?_, ?_⟩ <;> decide +kernel

/-- Tile 5's step, with a movable booking, stands before a committed step whose movable booking starts in slot `n`. -/
def wChain (k n : Nat) : State :=
  let b := { wB true with succ := some { pos := 7, tile := 5 } }
  let s := modBk (wQ k [] none) 5 fun x => { x with run := some { aRun 5 with booking := some b } }
  { s with steps := [{ aRec with booking := some b }, { aRec with key := { pos := 7, tile := 5 }, st := .committed, booking := some { wB true with s := n, pred := some (aRun 5).key } }] }

theorem witness_BookingsEndAndChain_pulls :
    (∀ e ∈ [(1020, true), (40, false)], let s := wChain 0 e.1
      let b := { wB true with succ := some { pos := 7, tile := 5 } }
      let q : StepRec := { aRec with key := { pos := 7, tile := 5 }, st := .committed, booking := some { wB true with s := e.1, pred := some (aRun 5).key } }
      let c := { wB true with s := e.1, pred := some (aRun 5).key }
      Ready s mk ∧ Free s .cq 0x20 1 ∧ (bk s 5).run = some { aRun 5 with booking := some b } ∧ b.succ = some q.key ∧ b.pred = none ∧ stepRec s q.key = some q ∧ q.booking = some c ∧ q.key ≠ (aRun 5).key ∧ q.st = .committed ∧
        c.movable = true ∧ c.succ = none ∧ (pulledTo (releaseFrom s (aRun 5).key (slotNow s + 1)) q.key c (slotNow s + 1)).isSome = e.2 ∧
        chainHeads s (slotOf s 5) = [((aRun 5).key, b)] ∧ (pulledTo s q.key c (b.s + b.span)).isSome = e.2) ∧
    (let s := wChain 0 1020
     calAt s (ridTile 1 5 0) 1020 = none ∧ inRefresh (ridTile 1 5 0) 1020 = false) := by
  delta Ready Free
  refine ⟨?_, ?_⟩ <;> decide +kernel

/-- The lists that are refused: a count of 0 or of 33, a flag above the booking's, a misaligned address, another tile's, one outside the data banks; a line of another slot; a poisoned line; a reserved
cue; a tile of another context. -/
theorem witness_BookingsEndAndChain_lists :
    (∀ e ∈ [(5 * 2 ^ 21 + 64, 0), (5 * 2 ^ 21 + 64, 33), (5 * 2 ^ 21 + 64, 129), (5 * 2 ^ 21 + 72, 1), (6 * 2 ^ 21, 1), (5 * 2 ^ 21 + 0x17FFF0, 2)],
      let n := e.2 % 64
      n = 0 ∨ 32 < n ∨ 128 ≤ e.2 ∨ e.1 % 16 ≠ 0 ∨ addrTile e.1 ≠ 5 ∨ inData e.1 (16 * n) = false) ∧
    (oVal (wQ 0 [(1, 65)] none) .cq 1).toNat = 65 ∧
    (let s := wQ 0 [] none
     let n := (oVal s .cq 1).toNat % 64
     ¬ (n = 0 ∨ 32 < n ∨ 128 ≤ (oVal s .cq 1).toNat ∨ (oVal s .cq 0).toNat % 16 ≠ 0 ∨ addrTile (oVal s .cq 0).toNat ≠ 5 ∨ inData (oVal s .cq 0).toNat (16 * n) = false) ∧
       tagsOk s (slotOf s 5) (oVal s .cq 0).toNat 16 = true ∧ poisoned s (oVal s .cq 0).toNat 16 = false ∧ cuesOk 5 [wCue] = true ∧
       tagsOk { s with tags := [] } (slotOf s 5) (oVal s .cq 0).toNat 16 = false ∧ poisoned { s with poison := [(5 * 2 ^ 15 + 1, true)] } (oVal s .cq 0).toNat 16 = true ∧ cuesOk 5 [wCue + 2 ^ 127] = false ∧
       ∃ x ∈ cueTiles 5 [cueOf wCue], kget 0 ({ s with owners := [] } : State).owners (tileCluster x) ≠ slotOf s 5) := by
  refine ⟨?_, ?_, ?_⟩ <;> decide +kernel

/-- Tile 5's booked step triggers an operation; its slot of the resource `rid` is its own. -/
def wInside (s : State) (rid : Nat) : State :=
  let s := bookedStep s 5
  { s with cal := [(calKey rid 6, some { key := (aRun 5).key, slot := 6 })] }

theorem witness_BookedOperationsKeepTheirWindows :
    (∀ addr ∈ [5 * 2 ^ 21, 4 * 2 ^ 21 + 64, 100 * 2 ^ 21], let s := wInside (wL addr) (ridTile 4 5 (addrBank (5 * 2 ^ 21)))
      Ready s mk ∧ isTile s.cur.a = true ∧ isBooked s 5 = true ∧ Free s .ls 0x20 1 ∧ accessHeld s 5 0 = false ∧ allMapped (lsTarget s mk) 8 = true ∧ lsTarget s mk % 8 = 0) ∧
    (let s := wInside (wL (5 * 2 ^ 21)) (ridTile 4 5 (addrBank (5 * 2 ^ 21)))
     UseInside s (ridTile 4 5 (addrBank (5 * 2 ^ 21)), s.now) ∧ ¬ UseInside s (ridTile 4 5 (addrBank (5 * 2 ^ 21)), s.now + 16)) ∧
    (∀ e ∈ [((0 : Nat), ({ d := .reg, rnd := .cls } : VReads)), (0, { a := .reg, rnd := .cls })], let s := wInside (wV e.1 [(.vx, 0, 5 * 2 ^ 21 + 64)]) (ridTile 2 5 0)
      isBooked s 5 = true ∧ Ready s mk ∧ (∀ c ∈ specCauses e.2 (tVal s mk), c.1 = false) ∧ vxHeld s 5 = false ∧ vLocked s 5 e.2 (tVal s mk) = false ∧ inFlight s 5 .vx 0x20 < 32 ∧ inFlight s 5 .vx 0x21 < 32 ∧
        useHeld s 5 (ridTile 2 5 0) = false ∧ accessHeld s 5 0 = false ∧ (oVal s .vx 0).toNat % 64 = 0 ∧ (oVal s .vx 0).toNat + 256 ≤ 2 ^ 32 ∧
        ∀ i, i < 64 → allMapped ((oVal s .vx 0).toNat + 4 * i) 4 = true) ∧
    (let s := wInside (wM 0 [] id) (ridTile 1 5 0)
     Ready s mk ∧ isBooked s 5 = true ∧ sockHeld s 5 .mx = false ∧ useHeld s 5 (ridTile 1 5 0) = false ∧ tVal s mk = 0 ∧ (mxOf s 5).q.length < 16 ∧ UseInside s (ridTile 1 5 0, s.now) ∧
       handleCause (hReg s 5 ((bk s 5).c.mxcfg.toNat / 16 % 16)) [0, 2] = none) ∧
    (let s := wInside (plainStore { wLm 15 [(0, 5 * 2 ^ 21 + 32)] {} with tags := [(5 * 2 ^ 15, 1)] } (5 * 2 ^ 21 + 32) 32 (4 * 256 ^ 11)) (ridTile 3 5 0)
     Ready s mk ∧ isBooked s 5 = true ∧ sockHeld s 5 .lm = false ∧ useHeld s 5 (ridTile 3 5 0) = false ∧ inFlight s 5 .lm 0x20 < 32 ∧ (lmOf s 5).running = false ∧ performedAt s 5 5 = true ∧ NoErrors s ∧
       (tVal s mk).toNat < 16 ∧ LmBlock (oVal s .lm 0).toNat 32 32 ∧ addrTile (oVal s .lm 0).toNat = 5 ∧ locCause s (slotOf s 5) (.sram (oVal s .lm 0).toNat) 32 true = none ∧
       usesHeld s 5 (lmReads s (oVal s .lm 0).toNat 32) = none ∧ GoodDescriptor (loadN s (oVal s .lm 0).toNat 32) ∧ UseInside s (ridTile 3 5 0, s.now)) := by
  delta Ready Free LmBlock NoErrors GoodDescriptor UseInside
  refine ⟨?_, ⟨⟨_, rfl, rfl, rfl⟩, ?_⟩, ?_, ?_, ?_⟩
  · decide +kernel
  · rintro ⟨h, h1, -⟩
    have : calAt (wInside (wL (5 * 2 ^ 21)) (ridTile 4 5 (addrBank (5 * 2 ^ 21)))) (ridTile 4 5 (addrBank (5 * 2 ^ 21))) 7 = none := by decide +kernel
    exact absurd (h1.symm.trans this) (by simp)
  · decide +kernel
  · refine ⟨by decide +kernel, by decide +kernel, by decide +kernel, by decide +kernel, by decide +kernel, by decide +kernel, ⟨_, rfl, rfl, rfl⟩, by decide +kernel⟩
  · refine ⟨by decide +kernel, by decide +kernel, by decide +kernel, by decide +kernel, by decide +kernel, by decide +kernel, by decide +kernel, by decide +kernel, by decide +kernel, by decide +kernel, by decide +kernel, by decide +kernel, by decide +kernel, by decide +kernel, ⟨{ key := (aRun 5).key, slot := 6 }, by decide +kernel, by decide +kernel, rfl⟩⟩

theorem witness_BookingsEndAndChain :
    (∀ t ∈ [0, 1, 2, 3, 4], Ready (wQ t [] (some (wB true))) mk ∧ Free (wQ t [] (some (wB true))) .cq 0x20 1 ∧ inFlight (wQ t [] (some (wB true))) 5 .cq 0x21 < 32 ∧
      (tVal (wQ t [] (some (wB true))) mk).toNat = t ∧ heldBooking (wQ t [] (some (wB true))) 5 = some (wB true) ∧ (wB true).succ = none ∧ (wB true).pred = none ∧
      chainOutcome (wB true) (chainTarget (wQ t [(0, 7), (1, 0)] (some (wB true))) 5 7 0) ≠ 0 ∧ chainHeads (wQ t [] (some (wB true))) 1 = [] ∧
      bookingOf (wQ t [] (some (wB true))) 5 = none) ∧
    heldBooking (wQ 0 [] none) 5 = none ∧ (oVal (wQ 0 [(1, 0)] none) .cq 1).toNat % 64 = 0 ∧
    (let c := { wB true with s := 1010 }
     let q : StepRec := { aRec with key := { pos := 7, tile := 5 }, st := .committed, booking := some c }
     let s := { wQ 0 [(0, 7), (1, 0)] (some (wB true)) with steps := [{ aRec with booking := some (wB true) }, q] }
     (bk s 5).run = some { aRun 5 with booking := some (wB true) } ∧ chainTarget s 5 (oVal s .cq 0).toNat (oVal s .cq 1).toNat = some q ∧ chainOutcome (wB true) (some q) = 0 ∧
       q.key ≠ (aRun 5).key ∧ stepRec s q.key = some q ∧ stepRec s (aRun 5).key = some { aRec with booking := some (wB true) } ∧ c.succ = none) ∧
    (let c := { wB true with s := 1002 }
     searchFit (wQ 0 [(0, 7), (1, 0)] (some (wB true))) (some { pos := 7, tile := 5 }) (c.cues.flatMap (cueHolds 5)) c.span
       (max (firstStart (wQ 0 [(0, 7), (1, 0)] (some (wB true))) 0) (bookEnd (wB true))) (c.s - max (firstStart (wQ 0 [(0, 7), (1, 0)] (some (wB true))) 0) (bookEnd (wB true))) = none) ∧
    (let s := { wQ 0 [] (some (wB true)) with now := 16000 }
     bookingOf s 5 = some (wB true) ∧ (bk s 5).run = some { aRun 5 with booking := some (wB true) }) := by
  delta Ready Free
  refine ⟨?_, ?_, ?_, ?_, ?_, ?_⟩ <;> decide +kernel

/-- Tile 5 triggers an operation of `sy` with t = `k`. -/
def wSy (k : Nat) (ports : List (Nat × Nat)) : State := alone 5 (BitVec.ofNat 64 k) (ports.map fun p => (.sy, p.1, BitVec.ofNat 2048 p.2))

theorem witness_ControlRegisters :
    (∀ n ∈ [0x000, 0x001, 0x002, 0x003, 0x004, 0x008, 0x009, 0x00A, 0x00B, 0x00C, 0x00D, 0x010, 0x01B, 0x020, 0x030, 0x03F, 0x040, 0x07F],
      Ready (wSy n []) mk ∧ sockHeld (wSy n []) 5 .sy = false ∧ (tVal (wSy n []) mk).toNat = n ∧ inFlight (wSy n []) 5 .sy 0x20 < 32 ∧ ∃ e ∈ csrTable (wSy n []) 5, e.1 = n) ∧
    (∃ e ∈ csrMasks 5, e.1 = 0x07F) ∧ (∀ e ∈ csrTable (wSy 0x006 []) 5, e.1 ≠ 0x006) ∧ Ready (wSy 0x006 []) mk ∧
    (let s := wSy 0x03E [(0, 0x8001)]
     (tVal s mk).toNat = 0x030 + 2 * 7 ∧ (pairWord s 5 7 0) &&& 0xC000#32 = 0 ∧ (oVal s .sy 0).getLsbD 15 = true) ∧
    (let s := { wSy 0x03E [(0, 0x8001)] with pairs := [(16 * 5 + 14, 0x8001)] }
     (pairWord s 5 7 0).getLsbD 15 = true ∧ (oVal s .sy 0).getLsbD 15 = true) ∧ (oVal (wSy 0x03E []) .sy 0).getLsbD 15 = false ∧
    (pairWord (wSy 0x03F []) 5 7 0).getLsbD 15 = false ∧ (tVal (wSy 0x03F []) mk).toNat = 0x031 + 2 * 7 := by
  delta Ready
  refine ⟨?_, ?_, ?_, ?_, ?_, ?_, ?_, ?_, ?_⟩ <;> decide +kernel

theorem witness_SystemAndUnderstudyOperations_system :
    (∀ n ∈ [0, 1, 8, 9, 24, 31, 32, 4095, 4096], Ready (wSy n []) mk ∧ sockHeld (wSy n []) 5 .sy = false ∧ inFlight (wSy n []) 5 .sy 0x20 < 32 ∧ inFlight (wSy n []) 5 .sy 0x21 < 32 ∧
      (tVal (wSy n []) mk).toNat = n ∧ pbOf (wSy n []) 5 = 3 ∧ (reg (wSy n []) (dbgReg (tileCluster 5) 0)).getLsbD 0 = false ∧ (bk (wSy n []) 5).q.intrap = false) ∧
    (let s := modBk (wSy 0 []) 5 fun b => { b with run := some { aRun 5 with pbMode := 1 } }
     pbOf s 5 = 1 ∧ pbEnabled s (slotOf s 5) = false) ∧
    (let s := { wSy 0 [] with regs := [(dbgReg (tileCluster 5) 0, 1)] }
     isTile s.cur.a = true ∧ (reg s (dbgReg (tileCluster 5) 0)).getLsbD 0 = true) ∧
    (let s := modBk (wSy 0 []) 5 fun b => { b with q := { b.q with intrap := true }, c := { b.c with xcause := 0x11 } }
     (bk s 5).q.intrap = true ∧ (bk s 5).c.xcause = 0x11 ∧ allLanded s 5 = true) ∧
    (let s := modBk (wSy 0 []) 5 fun b => { b with q := { b.q with intrap := true }, c := { b.c with xcause := 0x11 }, x := { b.x with pends := [⟨3, .vx, some 102, .mask 0 0⟩] } }
     allLanded s 5 = false) := by
  delta Ready
  refine ⟨?_, ?_, ?_, ?_, ?_⟩ <;> decide +kernel

/-- An image is well formed if its entries, up to 32 of each latch, are so. -/
theorem image_wellFormed {u : Sock} {v : Nat} (h : fld v 0 1 = sockPorts u ∧ fld v 1 1 = (latchCodes u).length ∧ fld v 2 2 = 0 ∧ fld v (4 + (latchCodes u).length) (60 - (latchCodes u).length) = 0)
    (hs : ∀ i, i < (latchCodes u).length → entryCount v i ≤ 32 ∧ fld v (4 + i) 1 / 64 % 2 = 0 ∧
      (∀ j, j < 32 → (j + 1 < entryCount v i → fld v (64 + 64 * i + 2 * j) 2 ≤ fld v (64 + 64 * i + 2 * (j + 1)) 2) ∧ (entryCount v i ≤ j → fld v (64 + 64 * i + 2 * j) 2 = 0))) :
    WellFormedImage u v :=
  ⟨h.1, h.2.1, h.2.2.1, h.2.2.2, fun i hi => ⟨(hs i hi).1, (hs i hi).2.1, fun j hj => ((hs i hi).2.2 j (by have := (hs i hi).1; omega)).1 hj, fun j h1 h2 => ((hs i hi).2.2 j h2).2 h1⟩⟩

/-- The address of an image for `xa`, whose head is as given and whose first latch holds two results of ages 5 and 7. -/
def wImg (head : Nat) : State :=
  plainStore (plainStore (wSy 1 [(0, 5 * 2 ^ 21 + 64)]) (5 * 2 ^ 21 + 64) 5 (head + 2 ^ 32 * (2 + 128))) (5 * 2 ^ 21 + 128) 4 (5 + 2 ^ 16 * 7)

theorem witness_SystemAndUnderstudyOperations_understudies :
    (let s := wSy 1 [(0, 5 * 2 ^ 21 + 64)]
     Ready s mk ∧ sockHeld s 5 .sy = false ∧ isTile s.cur.a = true ∧ isBooked s 5 = false ∧ (tVal s mk).toNat = Sock.xa.id ∧ (oVal s .sy 0).toNat % 64 = 0 ∧
       inData (oVal s .sy 0).toNat (imagePlace .xa (entriesHeld (bk s 5).x .xa) (latchCodes .xa).length) = true ∧ (∀ f ∈ (bk s 5).x.flights, f.pre = true → f.u ≠ .xa) ∧ accessHeld s 5 0 = false ∧
       inData (oVal s .sy 0).toNat 64 = true ∧ performedAt s 5 (addrTile (oVal s .sy 0).toNat) = true ∧ NoErrors s ∧
       ∀ c ∈ latchCodes .xa, (underOf (bk s 5).x .xa c).entries.length ≤ 32 ∧ ∀ e ∈ (underOf (bk s 5).x .xa c).entries, e.age < 2 ^ 16) ∧
    inData (oVal (wSy 1 [(0, 0x180000)]) .sy 0).toNat 64 = false := by
  delta Ready NoErrors
  refine ⟨?_, ?_⟩ <;> decide +kernel

/-- A well-formed image, and one that is not. -/
theorem witness_SystemAndUnderstudyOperations_images :
    (∀ h ∈ [imageVal {} .xa % 2 ^ 32, 0], let s := wImg h
      let n := imagePlace .xa (entryCount (loadN s (oVal s .sy 0).toNat 64)) (latchCodes .xa).length
      inData (oVal s .sy 0).toNat n = true ∧ locCause s (slotOf s 5) (.sram (oVal s .sy 0).toNat) n true = none ∧ NoErrors s ∧ entryCount (loadN s (oVal s .sy 0).toNat 64) 0 = 2) ∧
    (let s := wImg (imageVal {} .xa % 2 ^ 32)
     WellFormedImage .xa (loadN s (oVal s .sy 0).toNat (imagePlace .xa (entryCount (loadN s (oVal s .sy 0).toNat 64)) (latchCodes .xa).length))) ∧
    (let s := wImg 0
     ¬ WellFormedImage .xa (loadN s (oVal s .sy 0).toNat (imagePlace .xa (entryCount (loadN s (oVal s .sy 0).toNat 64)) (latchCodes .xa).length))) := by
  refine ⟨by delta NoErrors; decide +kernel, image_wellFormed (by decide +kernel) (by decide +kernel), fun h => ?_⟩
  have h0 : fld (loadN (wImg 0) (oVal (wImg 0) .sy 0).toNat (imagePlace .xa (entryCount (loadN (wImg 0) (oVal (wImg 0) .sy 0).toNat 64)) (latchCodes .xa).length)) 0 1 = 0 := by decide +kernel
  exact absurd (h0.symm.trans h.1) (by decide)

/-- A launch of one step, on tile 5. -/
def wL1 : Launch :=
  { id := 3, queue := 0, slot := 1, st := .inSequence, pos := 0, pkt := 1 + 2 ^ 24 + 2 ^ 40 * 5 + 2 ^ 48 + 2 ^ 56 + 2 ^ 64 * 0x10000 + 2 ^ 128 * 0x11000 }

/-- Tile 5 triggers an operation of `sy` with a curtain declared. -/
def wCu (k : Nat) (c : Option Curtain) : State := modBk (wSy k [(0, 200)]) 5 fun b => { b with curtain := c }

theorem witness_CurtainsCloseAndRelease :
    (∀ n ∈ [0, 1, 4, 5, 7], ∀ c ∈ [none, some ({ scope := 1, tc := 200 } : Curtain), some { scope := 4, tc := 200, arrived := true }, some { scope := 1, tc := 200, arrived := true, released := true }],
      Ready (wCu n c) mk ∧ sockHeld (wCu n c) 5 .sy = false ∧ (tVal (wCu n c) mk).toNat = n ∧ (bk (wCu n c) 5).curtain = c) ∧
    mayArrive (wCu 0 none) 5 { scope := 1, tc := 200 } = true ∧
    mayArrive (modBk (wCu 0 none) 5 fun b => { b with x := { b.x with pends := [⟨3, .vx, some 102, .mask 0 0⟩] } }) 5 { scope := 1, tc := 200 } = false ∧
    (∀ e ∈ [(11, false), (12, true)], mayArrive (modBk (wCu 0 none) 5 fun b => { b with lm := { queue := [{ word := BitVec.ofNat 64 (e.1 * 2 ^ 44), src := 6, at_ := 1 }] } }) 5 { scope := 1, tc := 200 } = e.2) ∧
    2 ^ 31 ≤ gtOf { wCu 1 none with now := 2 ^ 31 } ∧
    (let s := { modBk (wCu 0 (some { scope := 1, tc := 200 })) 5 fun b => { b with run := some (aRun 5) } with launches := [wL1] }
     ownLaunch s 5 = some wL1 ∧ Ready s mk ∧ sockHeld s 5 .sy = false ∧ (tVal s mk).toNat = 0 ∧ mayArrive s 5 { scope := 1, tc := 200 } = true) ∧
    (let c : Arrival := { tile := 5, act := 0, scope := 1, tc := 200 }
     let l := { wL1 with arrivals := [c] }
     let s : State := { occ := .at 5, launches := [l] }
     s.occ = .at 5 ∧ arriving s 5 = some l ∧ l.arrivals.find? (fun y => y.tile == 5) = some c ∧ deadlineCut s l.slot = false ∧ participants l c.scope (scopePart c.scope 5) = [5]) ∧
    (∀ e ∈ ([none, some 200, some 201] : List (Option Nat)), let c : Arrival := { tile := 5, act := 0, scope := 1, tc := 200 }
     let l := { wL1 with pkt := 1 + 2 ^ 24 + 2 ^ 40 * 4 + 2 ^ 48 + 2 ^ 57 + 2 ^ 64 * 0x10000 + 2 ^ 128 * 0x11000, arrivals := c :: (e.map fun tc => { c with tile := 4, tc := tc, atPoint := true }).toList }
     let s : State := { occ := .at 5, launches := [l] }
     arriving s 5 = some l ∧ l.arrivals.find? (fun y => y.tile == 5) = some c ∧ deadlineCut s l.slot = false ∧ participants l c.scope (scopePart c.scope 5) = [4, 5] ∧
       (l.arrivals.find? fun y => y.tile == 4 && y.act == c.act && (y.atPoint || 4 == 5)).map (·.tc) = e) ∧
    (let k : CurtainKey := ⟨3, 0, 1, tileCluster 5⟩
     let s := { modBk (running {} 5) 5 fun b => { b with curtain := some { scope := 1, tc := 200, arrived := true }, wait := .curtain true } with occ := .curtain k, launches := [wL1] }
     s.occ = .curtain k ∧ launchOf s k.launch = some wL1 ∧ s.switch.atCurtain ≠ some k ∧ (bookOf s wL1.slot).opens = [] ∧ (participants wL1 k.scope k.part).Nodup ∧
       bankOf wL1 (bk s 5) = true ∧ (bk s 5).wait = .curtain true) := by
  delta Ready
  refine ⟨?_, ?_, ?_, ?_, ?_, ?_, ?_, ?_, ?_⟩
  · decide +kernel
  · decide +kernel
  · decide +kernel
  · decide +kernel
  · decide +kernel
  · decide +kernel
  · decide +kernel
  · decide +kernel
  · decide +kernel

/-- Tile 5 runs a step, at the event `o`. -/
def wTileEv (o : Occ) : State := { running { now := 100 } 5 with occ := o }

theorem witness_InterruptsAreTaken :
    (∀ i ∈ [Irq.debug, .preempt, .gtCompare, .message], let s := wTileEv (.irq 5 i)
      s.occ = .irq 5 i ∧ (bk s 5).run = some (aRun 5) ∧ unsaved s 5 = false ∧ (ag s 5).queued = false ∧ (aRun 5).booking = none ∧ 0 < s.now) ∧
    (let s := { bookedStep (wTileEv (.irq 5 .preempt)) 5 with steps := [aRec] }
     s.occ = .irq 5 .preempt ∧ (∃ r b, (bk s 5).run = some r ∧ r.booking = some b ∧ b.succ = none) ∧ (stepRec s (aRun 5).key).isSome = true) ∧
    (∀ e ∈ [(4, false, 0), (12, true, 0), (8, true, 0), (8, true, 9), (9, false, 1), (9, true, 1), (1, true, 3), (3, true, 2), (2, true, 3)],
      let s := modBk { wTileEv .none with agenda := [⟨100, priIssue, .issue 5⟩] } 5 fun b =>
        { b with c := { b.c with ipend := BitVec.ofNat 4 e.1, ien := BitVec.ofNat 2 e.2.2 }, run := some { aRun 5 with atBoundary := e.2.1 }, wait := if e.2.2 = 9 then .idle else .none }
      s.agenda = [⟨100, priIssue, .issue 5⟩] ∧ frozenAt s ⟨100, priIssue, .issue 5⟩ = none ∧ mayInterrupt (headMet s ⟨100, priIssue, .issue 5⟩ []) 5 { aRun 5 with atBoundary := e.2.1 } ∧
        let t := headMet s ⟨100, priIssue, .issue 5⟩ []
        (bk t 5).c.ipend = BitVec.ofNat 4 e.1 ∧ (bk t 5).c.ien = BitVec.ofNat 2 e.2.2 ∧ (bk t 5).q.scene = none ∧ ((bk t 5).wait = .none ∨ (bk t 5).wait = .idle)) ∧
    (¬ (aRun 5).maxIter < 100 + 1 - (aRun 5).iterStart) ∧
    (∀ g ∈ [100, 101, 0],
      let s := modBk (wTileEv (.at 5)) 5 fun b => { b with c := { b.c with gtcmplo := BitVec.ofNat 32 g, armed := decide (g ≠ 0) } }
      s.occ = .at 5 ∧ ((bk s 5).c.armed = true ↔ g ≠ 0) ∧ (g = 100 → g ≤ gtOf s) ∧ (g = 101 → gtOf s < g)) ∧
    (wTileEv (.at 5)).occ = .at 5 ∧ (bk (wTileEv (.at 5)) 5).run = some (aRun 5) ∧ unsaved (wTileEv (.at 5)) 5 = false := by
  delta mayInterrupt
  refine ⟨?_, ⟨rfl, ⟨_, _, rfl, rfl, rfl⟩, ?_⟩, ?_, ?_, ?_, ?_, ?_, ?_⟩ <;> decide +kernel

/-- A refusal of operation 3 of tile 5's step. -/
def wDf : DFault := { cause := 0x41, org := ⟨0, 0⟩, addr := 64, step := some { tile := 5 }, id := 3 }

/-- Tile 5's handle 2, a producer's, at the event `o`. -/
def wHu (o : Occ) (valid : Bool) : State :=
  modBk { now := 100, occ := o } 5 fun b => { b with h := [(2, if valid then hnd 0x10000 6 1 0 6 2 8 4 else 0)] }

theorem witness_RefusalsAndUpdatesArrive :
    (∀ w ∈ [Wait.none, .sync 3], let s := modBk (wTileEv (.dfault 5 wDf)) 5 fun b => { b with wait := w }
      s.occ = .dfault 5 wDf ∧ (bk s 5).run = some (aRun 5) ∧ wDf.step = some (aRun 5).key ∧ stepStOf s (aRun 5).key ≠ .parked ∧ (bk s 5).wait = w) ∧
    (let f : DFault := { wDf with id := 0, step := none }
     let s : State := { occ := .dfault 5 f }
     s.occ = .dfault 5 f ∧ (bk s 5).run = none ∧ (ag s 5).wings.run = none ∧ f.id = 0) ∧
    (∀ v ∈ [(1, 9), (1, 8), (1, 7), (1, 0x80000007), (1, 0x80000008), (0, 9)], let s := wHu (.handle 5 2 true (BitVec.ofNat 32 v.2)) (v.1 == 1)
      let h := hReg s 5 2
      let d := (BitVec.ofNat 32 v.2 - h.extractLsb' 64 32).toNat
      s.occ = .handle 5 2 true (BitVec.ofNat 32 v.2) ∧ ((h.getLsbD 63 = true ∧ hMalformed h = false ∧ 0 < d ∧ d < 2 ^ 31) ↔ (v.1 = 1 ∧ (v.2 = 9 ∨ v.2 = 0x80000007)))) := by
  refine ⟨?_, ?_, ?_⟩ <;> decide +kernel

/-- A booking from slot 4 on, of two slots, with its policy to demote. -/
def wB4 (d : Bool) : Booking := { s := 4, e := 96, slack := 8, span := 2, movable := false, demotePolicy := d, entries := 0, cues := [] }

/-- Tile 5's booked step with delay count `n`, at GT `g` and the event `o`. -/
def wOv (d : Bool) (n g : Nat) (o : Occ) : State :=
  { modBk { now := g, occ := o } 5 fun b => { b with run := some { aRun 5 with booking := some (wB4 d), delay := n } } with steps := [aRec] }

/-- A holding of tile 5's step in slot `n`. -/
def wHeld (aged : Bool) : Held := { key := { tile := 5 }, slot := 6, aged := aged }

theorem witness_OverrunsAndAging :
    (∀ d ∈ [false, true],
      (∀ n ∈ [8, 9], let s := wOv d n 100 (.at 5)
        let r := { aRun 5 with booking := some (wB4 d), delay := n }
        (bk s 5).run = some r ∧ r.booking = some (wB4 d) ∧ 16 * (wB4 d).s ≤ gtOf s ∧ s.occ = .at 5 ∧ ((wB4 d).slack < r.delay ↔ n = 9) ∧ (wB4 d).succ = none ∧ unsaved s 5 = false ∧ (stepRec s r.key).isSome = true ∧ isFaulted s r.key = false) ∧
      (∀ h ∈ [none, some (wHeld false), some (wHeld true)], let s := { wOv d 0 100 (.use 5 3 0 7) with cal := [(calKey 3 6, h)] }
        let r := { aRun 5 with booking := some (wB4 d) }
        (bk s 5).run = some r ∧ 16 * (wB4 d).s ≤ gtOf s ∧ s.occ = .use 5 3 (keyNo r.key) 7 ∧ slotNow s = 6 ∧ calAt s 3 6 = h ∧ (wHeld false).key = r.key) ∧
      (∀ g ∈ [103, 104], let s := wOv d 0 g (.at2 5 104)
        (bk s 5).run = some { aRun 5 with booking := some (wB4 d) } ∧ 16 * (wB4 d).s ≤ gtOf s ∧ s.occ = .at2 5 ((wB4 d).e + (wB4 d).slack) ∧ ((wB4 d).e + (wB4 d).slack ≤ gtOf s ↔ g = 104)) ∧
      (wOv d 0 100 (.at2 5 105)).occ = .at2 5 105 ∧ 105 ≠ (wB4 d).e + (wB4 d).slack) ∧
    (∀ e ∈ [((0, 393306, 524377) : Nat × Nat × Nat), (3, 90, 524378), (2, 0, 524378), (2, 90, 524376), (3, 91, 524378)],
      let r := { aRun 5 with ages := [(3, e)] }
      let s := modBk { now := 524378, occ := .at2 5 3 } 5 fun b => { b with run := some r }
      s.occ = .at2 5 3 ∧ (bk s 5).run = some r ∧ bookingOf s 5 = none ∧ (ag s 5).wings.run = none ∧ kget (0, 0, 0) r.ages 3 = e ∧ s.cal = [] ∧ slotKept s r.key 3 (slotNow s + 1) = false) ∧
    (393306 + 131072 * (0 + 1) ≤ 524378 ∧ 90 + 131072 * (3 + 1) ≤ 524378 ∧ ¬ 91 + 131072 * (3 + 1) ≤ 524378) ∧ ¬ 524378 ≤ 524376 + 1 := by
  refine ⟨?_, ?_, ?_, ?_⟩ <;> decide +kernel
/-! ### A kernel object in HBM -/

/-- HBM with numbers of `n` bytes at addresses. -/
def wHbm (l : List (Nat × Nat × Nat)) : KMap Byte := l.foldl (fun m x => kpaste m x.1 x.2.1 (kbytes 7 x.2.2 0)) []

/-- Tables that map the first 2 MiB of the address space of slot 1 to themselves (R379). -/
def wTables : List (Nat × Nat × Nat) := [(0x100000, 8, 0x110001), (0x110000, 8, 0x120001), (0x120000, 8, 0xF)]

/-- The header of an object with `n` sections and flags `f` (R348). -/
def wHdr (n f : Nat) : Nat := 0x4B4F4233 + 2 ^ 32 + 2 ^ 40 * 3 + 2 ^ 48 * 3 + 2 ^ 56 * f + 2 ^ 64 * 100 + 2 ^ 224 * n

/-- A native section of one bundle at offset 128 for every stepping, and after it a cue list of one entry (R349). -/
def wRows : Nat := 0x10 + 2 ^ 16 * 0xFFFF + 2 ^ 32 * 128 + 2 ^ 64 * 64
def wRow2 : Nat := 0x02 + 2 ^ 32 * 192 + 2 ^ 64 * 16

/-- Objects at 0x10000 (code only), 0x12000 (restartable), 0x13000 (with a cue list of cue `c`), 0x14000 (a need of 128 registers), and an operator block of one
tensor-free dimension at 0x11000 (R26). -/
def wObjects (c : Nat) : List (Nat × Nat × Nat) :=
  [(0x10000, 64, wHdr 1 0), (0x10040, 16, wRows), (0x11000, 8, 0x4F504231 + 2 ^ 32), (0x12000, 64, wHdr 1 1), (0x12040, 16, wRows), (0x13000, 64, wHdr 2 0), (0x13040, 32, wRows + 2 ^ 128 * wRow2), (0x130C0, 16, c),
   (0x14000, 64, wHdr 1 0 + 2 ^ 128 * 128), (0x14040, 16, wRows)]

/-- Slot 1 is Active with those tables; its objects are in HBM. -/
def wMem (o : Occ) : State :=
  { now := 100, occ := o, hbm := wHbm (wObjects (1 + 2 ^ 48 * 2 + 2 ^ 80) ++ wTables), regs := [(0x1008, 1), (0x4200, 3), (0x4208, 0x100000)] }

/-- The bundle for every stepping is chosen, if the table has it alone or with a cue list (R351). -/
theorem choose_any {ss : List Sect} {x : Sect} (hx : x ∈ ss) (ht : x.type = 0x10) (hk : x.key = 0xFFFF) (ho : ∀ y ∈ ss, y ≠ x → y.type ≠ 0x10) : chooseSect ss 0x10 = some x := by
  have hu : ∀ (q : Sect → Bool), q x = true → (∀ y, q y = true → y.type = 0x10) → ss.find? q = some x := by
    intro q hq hy
    cases h : ss.find? q with
    | none => exact absurd hq (by simpa using List.find?_eq_none.1 h x hx)
    | some z =>
      have h1 := List.find?_some h
      have h2 := List.mem_of_find?_eq_some h
      by_cases hz : z = x
      · rw [hz]
      · exact absurd (hy z h1) (ho z h2 hz)
  unfold chooseSect
  by_cases h : x.key = stepping
  · rw [hu _ (by simp [ht, h]) (by intro y hy; simp only [Bool.and_eq_true, beq_iff_eq] at hy; exact hy.1)]
  · have hn : (ss.find? fun y => y.type == 0x10 && y.key == stepping) = none := by
      rw [List.find?_eq_none]
      intro y hy hc
      simp only [Bool.and_eq_true, beq_iff_eq] at hc
      by_cases hyx : y = x
      · exact h (hyx ▸ hc.2)
      · exact ho y hy hyx hc.1
    rw [hn]
    exact hu _ (by simp [ht, hk]) (by intro y hy; simp only [Bool.and_eq_true, beq_iff_eq] at hy; exact hy.1)

theorem choose_none {ss : List Sect} {t : Nat} (ho : ∀ y ∈ ss, y.type ≠ t) : chooseSect ss t = none := by
  have hn : ∀ n, (ss.find? fun y => y.type == t && y.key == n) = none := by
    intro n
    rw [List.find?_eq_none]
    intro y hy hc
    simp only [Bool.and_eq_true, beq_iff_eq] at hc
    exact ho y hy hc.1
  unfold chooseSect
  rw [hn, hn]

/-- What the walker captures of an object at `va` without scenes, with header `h`, sections `ss` and the code section `x` (R348, R349). -/
def wKern (s : State) (va h : Nat) (ss : List Sect) (x : Sect) : Kern :=
  { restartable := fld h 7 1 % 2 = 1, overlay := fld h 7 1 / 2 % 2 = 1, maxIter := fld h 8 2, fumode := BitVec.ofNat 12 (fld h 10 2), tvec := BitVec.ofNat 17 (fld h 12 4),
    overstated := decide (3 < fld h 5 1), needG := fld h 16 1, needLoop := fld h 18 1, needCalls := fld h 19 1, needFrame := 64 * fld h 20 2, needPairs := fld h 22 1,
    cues := (oneSect ss 0x02).map fun y => items (rdVa s 1 (va + y.off) y.len) 16 (y.len / 16), codeVa := va + x.off, codeLen := x.len / 64 }

theorem wKern_levels {s : State} {va h : Nat} {ss : List Sect} {x : Sect} : (wKern s va h ss x).levels = [] := rfl

/-- The checks of an object (R348, R349, R356). -/
def wFits (s : State) (va h tb : Nat) (ss : List Sect) : Bool :=
  let rows := items tb 16 (fld h 28 1)
  va % 64 == 0 && headerOk h && tableOk h rows && spanReadable s 1 va ((ss.map fun x => x.off + x.len).foldl max (64 + 16 * fld h 28 1)) &&
    ss.all fun x => contentOk (decide (fld h 7 1 / 2 % 2 = 1)) x (rdVa s 1 (va + x.off) (checkedBytes x))

theorem read_kernel {s : State} {va h tb : Nat} {ss : List Sect} {x : Sect} (h1 : vread s 1 va 64 = some h) (h2 : vread s 1 (va + 64) (16 * fld h 28 1) = some tb)
    (hs : (items tb 16 (fld h 28 1)).map sectOf = ss) (hf : wFits s va h tb ss = true) (hx : x ∈ ss) (ht : x.type = 0x10) (hk : x.key = 0xFFFF) (ho : ∀ y ∈ ss, y ≠ x → y.type ≠ 0x10)
    (hn : ∀ y ∈ ss, y.type = 0x10 ∨ y.type = 0x02) (hv : fld h 7 1 / 2 % 2 = 0) : readKernel s 1 va = some (wKern s va h ss x) := by
  have hone : ∀ t, t ≠ 0x10 → t ≠ 0x02 → oneSect ss t = none := by
    intro t h3 h4
    unfold oneSect
    rw [List.find?_eq_none]
    intro y hy hc
    rw [beq_iff_eq] at hc
    rcases hn y hy with h5 | h5
    · exact h3 (hc ▸ h5)
    · exact h4 (hc ▸ h5)
  have hsc : chooseSect ss 0x11 = none := choose_none (by
    intro y hy hc
    rcases hn y hy with h5 | h5 <;> rw [hc] at h5 <;> exact absurd h5 (by decide))
  have hok : ¬ (va % 64 ≠ 0 ∨ (!headerOk h) = true ∨ (!tableOk h (items tb 16 (fld h 28 1))) = true ∨
      (!spanReadable s 1 va ((ss.map fun x => x.off + x.len).foldl max (64 + 16 * fld h 28 1))) = true ∨
      (!(ss.all fun x => contentOk (decide (fld h 7 1 / 2 % 2 = 1)) x (rdVa s 1 (va + x.off) (checkedBytes x)))) = true) := by
    simp only [wFits, Bool.and_eq_true, beq_iff_eq] at hf
    obtain ⟨⟨⟨⟨h3, h4⟩, h5⟩, h6⟩, h7⟩ := hf
    simp [h3, h4, h5, h6, h7]
  unfold readKernel
  rw [h1]
  dsimp only
  rw [h2]
  dsimp only
  rw [hs, if_neg hok, choose_any hx ht hk ho]
  dsimp only
  rw [hsc, hone 0x01 (by decide) (by decide), hone 0x07 (by decide) (by decide), hone 0x03 (by decide) (by decide), hone 0x04 (by decide) (by decide), hone 0x06 (by decide) (by decide),
    hone 0x08 (by decide) (by decide)]
  unfold wKern
  have hno : ¬ fld h 7 1 / 2 % 2 = 1 := by omega
  simp [items, fld]
  intro hc
  simp only [fld] at hno
  exact absurd (by simpa using hc) hno

/-- The objects of `wMem` as the walker reads them. -/
def wSs : List Sect := [{ type := 0x10, key := 0xFFFF, off := 128, len := 64 }]
def wSs2 : List Sect := wSs ++ [{ type := 0x02, key := 0, off := 192, len := 16 }]

/-- The checks of `read_kernel` as one. -/
def wReads (s : State) (va h tb : Nat) (ss : List Sect) : Bool :=
  decide (vread s 1 va 64 = some h) && decide (vread s 1 (va + 64) (16 * fld h 28 1) = some tb) && decide ((items tb 16 (fld h 28 1)).map sectOf = ss) && wFits s va h tb ss && decide (fld h 7 1 / 2 % 2 = 0)

theorem read_one {s : State} {va h tb : Nat} (hr : wReads s va h tb wSs = true) : readKernel s 1 va = some (wKern s va h wSs { type := 0x10, key := 0xFFFF, off := 128, len := 64 }) := by
  simp only [wReads, Bool.and_eq_true, decide_eq_true_eq] at hr
  obtain ⟨⟨⟨⟨h1, h2⟩, h3⟩, h4⟩, h5⟩ := hr
  exact read_kernel h1 h2 h3 h4 (by decide) rfl rfl (by decide) (by decide) h5

theorem read_two {s : State} {va h tb : Nat} (hr : wReads s va h tb wSs2 = true) : readKernel s 1 va = some (wKern s va h wSs2 { type := 0x10, key := 0xFFFF, off := 128, len := 64 }) := by
  simp only [wReads, Bool.and_eq_true, decide_eq_true_eq] at hr
  obtain ⟨⟨⟨⟨h1, h2⟩, h3⟩, h4⟩, h5⟩ := hr
  exact read_kernel h1 h2 h3 h4 (by decide) rfl rfl (by decide) (by decide) h5

/-- A task for tile 6 with the kernel at 0x10000, on its way to a queue that holds `n` tasks. -/
def wSpawn : Pkt := { wP (.spawn 6 4 (0x10000 + 2 ^ 64) 9) with slot := 1 }
def wTarget (n : Nat) : State :=
  modAg { wMem (.pkt wSpawn) with owners := [(tileCluster 6, 1)] } 6 fun g => { g with spawnQ := List.replicate n ⟨6, 1, 0, {}, 0, 0⟩ }

theorem witness_PacketsTravel_tasks :
    (∀ n ∈ [31, 32], let s := wTarget n
      s.occ = .pkt wSpawn ∧ wSpawn.kind = .spawn 6 4 (0x10000 + 2 ^ 64) 9 ∧ kget 0 s.owners (tileCluster 6) = wSpawn.slot ∧ NotLogged s wSpawn.slot wSpawn.pb ∧ Lands s wSpawn [] ∧
        (ag s 6).spawnQ.length = n) ∧
    ∀ n ∈ [31, 32], ∃ k, spawnEntry (wTarget n) 1 [0x10000 + 2 ^ 64] 0 = some k := by
  refine ⟨by delta NotLogged Lands; decide +kernel, fun n hn => ?_⟩
  have hr : ∀ n ∈ [31, 32], wReads (wTarget n) 0x10000 (wHdr 1 0) wRows wSs = true := by decide +kernel
  have hk := read_one (hr n hn)
  unfold spawnEntry
  have hf : fld (0x10000 + 2 ^ 64) 0 8 = 0x10000 ∧ fld (0x10000 + 2 ^ 64) 8 1 = 1 ∧ fld (0x10000 + 2 ^ 64) 9 7 = 0 := by decide +kernel
  simp only [List.getElem?_cons_zero, hf.1, hf.2.1, hf.2.2, hk]
  rw [if_neg (by decide), Option.filter_some]
  have ht : ∀ n ∈ [31, 32], taskKernel (wKern (wTarget n) 0x10000 (wHdr 1 0) wSs { type := 0x10, key := 0xFFFF, off := 128, len := 64 }) = true := by decide +kernel
  exact ⟨_, if_pos (ht n hn)⟩

theorem wReads_wMem : wReads (wMem .none) 0x10000 (wHdr 1 0) wRows wSs = true := by decide +kernel
/-- A launch of slot 1 at position 0, with cue field `c`. -/
def wLc (c : Nat) (k : Kern) : Launch := { id := 3, queue := 0, slot := 1, st := .inSequence, pos := 0, pkt := 2 ^ 16 * c, kern := k }

/-- A waiting step of tile 5, and a later one. -/
def wWait (round : Nat) : StepRec := { key := { tile := 5, round := round }, slot := 1, i := 0, j := 0 }

/-- Idle tile 5 with two waiting steps, in an Active slot. -/
def wTileTurn (l : Launch) : State := { now := 100, occ := .at 5, regs := [(0x4200, 3)], owners := [(tileCluster 5, 1)], steps := [wWait 1, wWait 0], launches := [l] }

/-- An open order record of stream `k` in slot 1 is due. -/
def wDue (s : State) (k : StreamKey) : State := modBook s 1 fun b => { b with opens := [{ key := k, n := 0, entries := [(6, 0)], gt := 0, due := true }] }

/-- Tile 5 in a flip, with a step in its wings bank whose record is in state `st`. -/
def wFlip (f : Option Nat) (st : StepState) (x : Bool) : State :=
  { modAg { now := 100, occ := .at 5 } 5 fun g => { g with flip := f, wings := { run := some { aRun 5 with begun := decide (st = .parked) }, x := { captured := x } } } with steps := [{ aRec with st := st }] }

theorem witness_TilesTakeTheirTurn_steps :
    (∀ c ∈ [0, 1], ∀ q ∈ [none, some [wCue]], let l := wLc c { cues := q }
      let s := wTileTurn l
      let r := wWait 0
      s.occ = .at 5 ∧ TileIdle s 5 r.slot ∧ WaitsOn s 5 r ∧ r.st = .assigned ∧ launchAt s r.key.pos = some l ∧ l.slot = r.slot ∧ fld l.pkt 57 1 = 0 ∧ pbEnabled s l.slot = false ∧
        (fld l.pkt 2 1 % 4 ≠ 0 ↔ c = 1) ∧ (l.kern.cues.isSome = true ↔ q ≠ none)) ∧
    (∀ x, WaitsOn (wTileTurn (wLc 0 {})) 5 x → x = wWait 0 ∨ EarlierStep (wWait 0) x) ∧
    (let l := { wLc 0 {} with pbMode := 1 }
     let s := { wBook (wTileTurn l) 9 0xFFFFF 0 with steps := [wWait 0] }
     TileIdle s 5 1 ∧ WaitsOn s 5 (wWait 0) ∧ launchAt s 0 = some l ∧ fld l.pkt 57 1 = 0) ∧
    (let l := { wLc 0 {} with pbMode := 1 }
     startChoice (wDue (wBook (wTileTurn l) 9 0xFFFC0 0) ⟨0x0C, objAgent 5⟩) 5 1 1 0 2 = .wait 0) ∧
    (∀ b ∈ [false, true], let r := { aRun 5 with begun := b }
     let s := { modAg (wFlip none .running false) 5 fun g => { g with wings := { run := some r } } with regs := [(0x4200, 3)], owners := [(tileCluster 5, 1)] }
     s.occ = .at 5 ∧ (ag s 5).flip = none ∧ (ag s 5).front.run = none ∧ wingsReady s 5 = true ∧ (ag s 5).wings.run = some r ∧ pbEnabled s 1 = false) ∧
    (∀ d ∈ [true, false], let s := { running { now := 100, occ := .at 5 } 5 with steps := [{ aRec with st := .parked }] }
     let s := if d then s else modAg s 5 fun g => { g with outs := [{ id := 3, cls := 0, store := true, put := false, addr := 0, home := 6, key := { tile := 5 } }] }
     s.occ = .at 5 ∧ isTile 5 = true ∧ (ag s 5).flip = none ∧ (bk s 5).run = some (aRun 5) ∧ stepStOf s (aRun 5).key = .parked ∧ parkDrained s 5 (aRun 5).key = d ∧ (ag s 5).wings.run = none) ∧
    (let s := modAg (wTileTurn (wLc 0 {})) 5 fun g => { g with spawnQ := [⟨6, 1, 0, {}, 0, 0⟩] }
     let s := { s with steps := [] }
     s.occ = .at 5 ∧ TileIdle s 5 1 ∧ s.steps = [] ∧ (ag s 5).spawnQ ≠ []) ∧
    (∀ x, ¬ WaitsOn ({ wTileTurn (wLc 0 {}) with steps := [] }) 5 x) := by
  refine ⟨?_, ?_, ?_, ?_, ?_, ?_, ?_, ?_⟩
  · delta TileIdle WaitsOn; decide +kernel
  · intro x hx
    have h : ∀ x ∈ (wTileTurn (wLc 0 {})).steps, x = wWait 0 ∨ EarlierStep (wWait 0) x := by delta EarlierStep; decide +kernel
    exact h x hx.1
  · delta TileIdle WaitsOn; decide +kernel
  · intro l; unfold startChoice orderEvent
    rw [if_neg (by decide +kernel), if_pos rfl, if_pos (by decide +kernel)]
  · decide +kernel
  · decide +kernel
  · delta TileIdle; decide +kernel
  · intro x hx; exact absurd hx.1 (by simp)

/-- Under record, with room in the ring, the start of a step loaded ahead is an entry. -/
theorem witness_TilesTakeTheirTurn_logs :
    let r := { aRun 5 with pbMode := 1 }
    let s := modAg { wBook { now := 100, occ := .at 5 } 9 0 0 with steps := [aRec], owners := [(tileCluster 5, 1)] } 5 fun g => { g with wings := { run := some r } }
    s.occ = .at 5 ∧ (ag s 5).flip = none ∧ (ag s 5).front.run = none ∧ wingsReady s 5 = true ∧ (ag s 5).wings.run = some r ∧ r.begun = false ∧ ∃ k, startChoice s 5 r.slot r.pbMode 0 2 = .go k := by
  refine ⟨rfl, by decide +kernel, by decide +kernel, by decide +kernel, by decide +kernel, rfl, ?_⟩
  unfold startChoice orderEvent
  rw [if_neg (by decide +kernel), if_pos rfl, if_neg (by decide +kernel)]
  exact ⟨_, rfl⟩

theorem witness_TilesTakeTheirTurn_banks :
    (∀ c ∈ [3, 4], ∀ x ∈ [false, true], ∀ st ∈ [StepState.running, .parked], let r := { aRun 5 with begun := decide (st = .parked) }
      let s := { wFlip (some 164) st x with regs := [(0x4200, BitVec.ofNat 64 c)] }
      ctxState s 1 = c ∧
      s.occ = .at 5 ∧ (ag s 5).flip = some 164 ∧ (ag s 5).wings.run = some r ∧ (ag s 5).queued = false ∧ (stepRec s r.key).isSome = true ∧ stepStOf s r.key = st ∧ emptyStep (ag s 5).wings = false ∧ (ag s 5).wings.x.captured = x) ∧
    (let s := modAg { now := 100, occ := .at 5 } 5 fun g => { g with flip := some 164 }
     s.occ = .at 5 ∧ (ag s 5).flip = some 164 ∧ (ag s 5).wings.run = none) ∧
    (let s := modAg { now := 100, occ := .at 5 } 5 fun g => { g with flipBack := true, wings := { run := some (aRun 5) } }
     s.occ = .at 5 ∧ (ag s 5).wings.run = some (aRun 5) ∧ (ag s 5).flip = none ∧ (ag s 5).flipBack = true ∧ pbEnabled s (aRun 5).slot = false ∧ isBooked s 5 = false ∧
       isBooked (modBk s 5 fun b => { b with run := some { aRun 5 with booking := some { s := 0, e := 96, slack := 8, span := 2, movable := false, demotePolicy := true, entries := 0, cues := [] } } }) 5 = true) ∧
    (let r := { aRun 5 with pbMode := 2 }
     let s := modAg { now := 100, occ := .at 5 } 5 fun g => { g with flipBack := true, wings := { run := some r } }
     let s := writeRecord (wBook s 10 0 0) 1 0x18 0 0 5 (objAgent 5) 0 3
     (ag s 5).wings.run = some r ∧ pbEnabled s r.slot = true ∧ (nextOccasion s r.slot 0x18 (objAgent 5)).map (fun q => q.payload % 2 ^ 32) = some 3 ∧ (bk s 5).run = none ∧ (bk s 5).wait ≠ .flip ∧
       (bookOf s 1).closed = [] ∧ isBooked s 5 = false ∧ (let u := modAg s 5 fun g => { g with front := { run := some { aRun 5 with boundaries := 3 } } }
         ((bk u 5).run.map (·.boundaries)).getD 0 = 3 ∧ (nextOccasion u r.slot 0x18 (objAgent 5)).map (fun q => q.payload % 2 ^ 32) = some 3) ∧
       ∀ h ∈ [64, 128], let u := setReg (wBook s 10 0 0) 0x4310 (BitVec.ofNat 64 h)
         (nextOccasion (setReg u 0x4318 64) r.slot 0x18 (objAgent 5)).isNone = true ∧ (readable (setReg u 0x4318 64) r.slot).2 = decide (h = 128)) ∧
    (let s := modAg (wMem (.at 5)) 5 fun g => { g with spawnQ := [⟨6, 1, 0, {}, 0, 0⟩] }
     s.occ = .at 5 ∧ (ag s 5).front.run = none ∧ (ag s 5).flip = none ∧ powerState s (tileCluster 5) = 0 ∧ powerMoves s (tileCluster 5) = false ∧ s.steps = [] ∧ ctxState s 1 = 3 ∧ pbEnabled s 1 = false ∧
       (ag s 5).spawnQ = [⟨6, 1, 0, {}, 0, 0⟩] ∧ ({} : Kern).levels = [] ∧ (ag s 5).queued = false) := by
  refine ⟨?_, ?_, ?_, ?_, ?_⟩ <;> decide +kernel

/-- Tile 5's booking step, of a launch with cue field `c`, that has looked for a fit since `since`. -/
def wBk (c since : Nat) : State :=
  { wTileTurn (wLc c { cues := some [wCue] }) with now := 1048576, steps := [{ wWait 0 with st := .booking, bookSince := since }] }


theorem witness_StepsBookOrGiveUp :
    (∀ c ∈ [1, 2], ∀ n ∈ [0, 1], let s := wBk c n
      let r := { wWait 0 with st := .booking, bookSince := n }
      s.occ = .at 5 ∧ bookingStep s 5 = some r ∧ r.key.task = false ∧ launchAt s r.key.pos = some (wLc c { cues := some [wCue] }) ∧ tileHeld s 5 r.slot = false ∧ stepCues (wLc c { cues := some [wCue] }) r = [cueOf wCue] ∧
        probe s 5 [cueOf wCue] 0 = some 65576 ∧ switchRefuses s 1 65576 (spanOf 5 [cueOf wCue]) = false ∧ pbEnabled s 1 = false ∧ (s.now < r.bookSince + 1048576 ↔ n = 1) ∧ (fld (wLc c {}).pkt 2 1 % 4 = 1 ↔ c = 1)) ∧
    probe { wBk 1 0 with steps := [{ wWait 0 with st := .booking, remain := some [{ cueOf wCue with length := 8193 }] }] } 5 [{ cueOf wCue with length := 8193 }] 0 = none := by
  refine ⟨?_, ?_⟩ <;> decide +kernel

/-- A step whose probe waits: for its tile, or for the fill; or that a gang switch of its context refuses. -/
theorem witness_StepsBookOrGiveUp_again :
    (let s := wBk 1 0
     let r := { wWait 0 with st := .booking, bookSince := 0 }
     unfilled s r = false ∧ tileHeld { s with regs := [(0x4200, 4)] } 5 r.slot = true ∧ bookingStep { s with regs := [(0x4200, 4)] } 5 = some r) ∧
    (let s : State := { wBk 1 0 with regs := [(0x4200, 3), (0x7118, 1)], switch := { out := 1, t := 16 * 65577 } }
     tileHeld s 5 1 = false ∧ probe s 5 [cueOf wCue] 0 = some 65576 ∧ switchRefuses s 1 65576 (spanOf 5 [cueOf wCue]) = true) ∧
    (let o : Out := { id := 3, cls := 0, store := true, put := false, addr := 0, home := 6, key := { pos := 9, tile := 5 } }
     let r := { wWait 0 with st := .booking }
     let s := modAg { wBk 1 0 with steps := [r, { aRec with key := { pos := 9, tile := 5 }, st := .done }] } 5 fun g => { g with outs := [o] }
     bookingStep s 5 = some r ∧ tileHeld s 5 1 = false ∧ unfilled s r = true ∧ (stepRec s r.key).isSome = true) := by
  refine ⟨?_, ?_, ?_⟩ <;> decide +kernel

/-- Under record, with the ring full and the stall choice, a commit waits. -/
theorem witness_StepsBookOrGiveUp_waits :
    let s := wDue (wBook (wBk 1 0) 9 0xFFFC0 0) ⟨0x0E, objCalendar 16777376⟩
    commitOrder s 1 1 (walkerNo 5) (commitRids ([cueOf wCue].flatMap (cueHolds 5))) = .wait := by
  have h : commitRids ([cueOf wCue].flatMap (cueHolds 5)) = [16777376] := by decide +kernel
  intro s
  rw [h]
  unfold commitOrder orderEvent
  rw [if_neg (by decide +kernel), if_pos rfl, if_pos (by decide +kernel)]

/-- The cause of an answer, told by a check. -/
def isErr {α : Type} (r : Except Nat α) (c : Nat) : Bool :=
  match r with
  | .ok _ => false
  | .error e => e == c

/-- A launch whose kernel has the loop table `ks` with extents `es`. -/
def wLl (ks : List (Nat × Nat × Nat × Nat)) (es : List Nat) : Launch :=
  { wLc 0 { levels := ks, dataLen := 64, data := 7, codeLen := 1, code := 9, overlay := true, sceneLen := 1, scenes := 5 } with extents := es }

/-- Tile 5's step on its way into a bank, booked or not, of a launch with loop table `ks` and extents `es`; the tile is filled for it or not. -/
def wStepLoad (b filled : Bool) (ks : List (Nat × Nat × Nat × Nat)) (es : List Nat) : State :=
  let s := wTileTurn (wLl ks es)
  let s : State := { s with occ := .at2 5 (if b then 1000 else 0), steps := [{ wWait 0 with st := if b then .committed else .loading, booking := if b then some (wB false) else none }] }
  if filled then modAg s 5 fun g => { g with filled := 4 } else s

/-- The step of `wStepLoad`. -/
def wLs (b : Bool) : StepRec := { wWait 0 with st := if b then .committed else .loading, booking := if b then some (wB false) else none }

theorem witness_StepsLoadAndStart_fill :
    (∀ b ∈ [false, true], ∀ f ∈ [false, true], ∀ k ∈ [1, 2],
      (wStepLoad b f [(k, 0, 20, 0)] [4]).occ = .at2 5 (if b then 1000 else 0) ∧ loadFor (wStepLoad b f [(k, 0, 20, 0)] [4]) 5 (if b then 1000 else 0) = some (wLs b) ∧ (wLs b).booking.isSome = b ∧
        launchAt (wStepLoad b f [(k, 0, 20, 0)] [4]) (wLs b).key.pos = some (wLl [(k, 0, 20, 0)] [4]) ∧ (bk (wStepLoad b f [(k, 0, 20, 0)] [4]) 5).run = none ∧
        isFilled (wStepLoad b f [(k, 0, 20, 0)] [4]) 5 (wLl [(k, 0, 20, 0)] [4]) = f ∧ fillWaits (wStepLoad b f [(k, 0, 20, 0)] [4]) 5 (wLl [(k, 0, 20, 0)] [4]) = false) ∧
    (∀ b ∈ [false, true], (wLs b).resume = none ∧ (wLs b).key.tile = 5) ∧
    (∀ k ∈ [1, 2], let l := wLl [(k, 0, 20, 0)] [4]
      l.slot < 16 ∧ l.started = false ∧ l.kern.dataLen ≤ 0x180000 ∧ l.kern.sceneLen ≤ 256 ∧ l.kern.codeLen ≤ 512 ∧ l.kern.overlay = true ∧ l.kern.levels = [(k, 0, 20, 0)] ∧ l.extents = [4]) ∧
    (let o : Out := { id := 3, cls := 0, store := true, put := false, addr := 0, home := 6, key := { pos := 9, tile := 5 } }
     let s := modAg { wStepLoad true false [] [] with steps := [wLs true, { aRec with key := { pos := 9, tile := 5 }, st := .done }] } 5 fun g => { g with outs := [o] }
     isFilled s 5 (wLl [] []) = false ∧ fillWaits s 5 (wLl [] []) = true ∧ loadFor s 5 1000 = some (wLs true)) ∧
    (∀ b ∈ [false, true], ∀ f ∈ [false, true], kwf 0#4 (wStepLoad b f [] []).tags = true ∧ ∀ i ∈ List.range 8, ∀ w ∈ [0, 1], pairWord (wStepLoad b f [] []) 5 i w = 0) := by
  refine ⟨?_, ?_, ?_, ?_, ?_⟩ <;> decide +kernel

/-- Tile 5's loaded step with one temporal level of extent `n`. -/
def wEnd (n : Word) : State :=
  { modBk { now := 100, occ := .at 5 } 5 fun b => { b with run := some (aRun 5), q := { b.q with depth := 1, loops := [(0, { cnt := n, fixed := true })] } } with steps := [{ aRec with st := .loading }] }

theorem witness_StepsLoadAndStart_start :
    (∀ n ∈ [0, 1], let s := wEnd (BitVec.ofNat 32 n)
      s.occ = .at 5 ∧ loadFor s 5 0 = none ∧ (bk s 5).run = some (aRun 5) ∧ (stepRec s (aRun 5).key).isSome = true ∧ (ag s 5).queued = false ∧ (emptyStep (bk s 5) = true ↔ n = 0) ∧ (stepRec s (aRun 5).key).map (·.restartable) = some false) ∧
    (let r := { aRun 5 with codeVa := 0x10000 }
     let s := modBk (wMem (.at2 5 0)) 5 fun b => { b with run := some r, wait := .line 0 }
     s.occ = .at2 5 0 ∧ (bk s 5).run = some r ∧ keptOf s r.key ((lineUnits s r 0).map ridHbm) = none ∧ s.flaws = [] ∧ s.hflaws = [] ∧ s.hostLines = [] ∧ (bk s 5).wait = .line 0 ∧
       isOk ((fetchVa s 5 r.slot (r.codeVa + 256 * 0) 256).2.map fun v => v % 2 ^ 64) (0x4B4F4233 + 2 ^ 32 + 2 ^ 40 * 3 + 2 ^ 48 * 3) = true) ∧
    (let r := { aRun 5 with codeVa := 0x200000 }
     let s := modBk (wMem (.at2 5 0)) 5 fun b => { b with run := some r }
     s.occ = .at2 5 0 ∧ (bk s 5).run = some r ∧ keptOf s r.key ((lineUnits s r 0).map ridHbm) = none ∧ isErr (fetchVa s 5 r.slot (r.codeVa + 256 * 0) 256).2 0xA0 = true) := by
  refine ⟨?_, ?_, ?_⟩
  · decide +kernel
  · decide +kernel
  · decide +kernel

/-- A kernel with a temporal level and a spatial one in each dimension; a gang's launch with a start to come; a step loaded ahead of the one in front, which runs. -/
theorem witness_StepsLoadAndStart_levels :
    (∀ f ∈ [false, true], let ks := [(0, 0, 9, 3), (1, 0, 20, 0), (2, 0, 21, 0)]
      let s := wStepLoad false f ks [3, 4, 2]
      let l := wLl ks [3, 4, 2]
      s.occ = .at2 5 0 ∧ isTile 5 = true ∧ loadFor s 5 0 = some (wLs false) ∧ (wLs false).resume = none ∧ launchAt s (wLs false).key.pos = some l ∧ (bk s 5).run = none ∧ (ag s 5).ahead = false ∧
        clusterStill s 5 = false ∧ isFilled s 5 l = f ∧ fillWaits s 5 l = false ∧ ((l.kern.levels.filter fun x => x.1 ≠ 0).map (·.2.2.1)).Nodup) ∧
    (let l := { wLl [] [] with started := true, startAt := 500 }
     let s := { wStepLoad false true [] [] with launches := [l] }
     loadFor s 5 0 = some (wLs false) ∧ launchAt s (wLs false).key.pos = some l ∧ (ag s 5).ahead = false ∧ clusterStill s 5 = false ∧ isFilled s 5 l = true ∧ l.started = true ∧ s.now < l.startAt) ∧
    (∀ b ∈ [false, true], let w : StepRec := { wWait 0 with st := .loading }
      let s := wTileTurn (wLl [] [])
      let s := modAg { s with steps := [{ wWait 1 with st := .running }, w] } 5 fun g => { g with ahead := true, front := { run := if b then some { aRun 5 with key := (wWait 1).key, begun := true } else none } }
      s.occ = .at 5 ∧ (∀ x ∈ (bk s 5).run, stepStOf s x.key ≠ .loading ∧ x.begun = true) ∧ loadFor s 5 0 = some w ∧ launchAt s w.key.pos = some (wLl [] []) ∧ w.key.tile = 5) := by
  refine ⟨?_, ?_, ?_⟩ <;> decide +kernel

/-- A packet for tile 5 whose kernel stands at `kv` (R360). -/
def wPkt (kv : Nat) : Nat := 1 + 2 ^ 24 + 2 ^ 40 * 5 + 2 ^ 48 + 2 ^ 56 + 2 ^ 64 * kv + 2 ^ 128 * 0x11000

/-- Queue 7's descriptor: its ring of 16 entries stands at 0x900000 (R358). -/
def wDesc (en tail : Nat) : Nat := 0x900000 + 2 ^ 64 * 4 + 2 ^ 72 + 2 ^ 80 * en + 2 ^ 512 * tail

/-- HBM with objects whose cue is `c`, queue 7's descriptor `d` and the packet `p` at its head; counter 3 is slot 1's, counter 4 slot 2's. -/
def wQueue (c d p : Nat) (q : Queue) : State :=
  { now := 100, occ := .at 7, hbm := wHbm (wObjects c ++ wTables ++ [(0x800380, 128, d), (0x900000, 128, p)]), queues := [(7, q)],
    regs := [(0x1000, 0x800000), (0x1008, 1), (0x4200, 3), (0x4208, 0x100000), (0x100018, 2 ^ 36 + 2 ^ 32), (0x100020, 2 ^ 36 + 2 ^ 33)] }

/-- Queue 7 in use. -/
def wUse : Queue := { inUse := true, ring := 0x900000, lg := 4, slot := 1 }

theorem witness_PacketsAreParsed_queues :
    (∀ d ∈ [(wDesc 1 0, true), (wDesc 1 0 + 1, false), (wDesc 1 0 + 2 ^ 64 * 13, false), (wDesc 1 0 + 2 ^ 64 * 12, true), (wDesc 1 0 + 2 ^ 88, false)], let s := wQueue 0 d.1 0 {}
      let x := hbmN s (queueDesc s 7) 128
      s.occ = .at 7 ∧ regF s 0x1008 0 0 = 1 ∧ fld x 10 1 % 2 = 1 ∧ (queueOf s 7).inUse = false ∧ (DescriptorOk x ↔ d.2 = true)) ∧
    fld (hbmN (wQueue 0 (wDesc 0 0) 0 wUse) (queueDesc (wQueue 0 (wDesc 0 0) 0 wUse) 7) 128) 10 1 % 2 = 0 ∧
    (∀ n ∈ [0, 1, 16, 17], let s := wQueue 0 (wDesc 1 n) 0 wUse
      let x := queueOf s 7
      x.inUse = true ∧ x.parsed = none ∧ ctxState s x.slot = 3 ∧ x.head < 2 ^ 32 ∧ (hbmN s (queueDesc s 7 + 64) 4 + 2 ^ 32 - x.head) % 2 ^ 32 = n ∧ 2 ^ x.lg = 16) := by
  refine ⟨?_, ?_, ?_⟩
  · delta DescriptorOk; decide +kernel
  · decide +kernel
  · decide +kernel

/-- The state in which queue 7's packet `p` is checked. -/
def wTaken (c p : Nat) : State := setQueueHead (wQueue c (wDesc 1 1) p wUse) 7 1

/-- The checks on a packet after its kernel has been read as `k`. -/
def parseWith (s : State) (slot p : Nat) (k : Kern) : Except Nat Parsed :=
  match readOpBlock s slot (fld p 16 8) with
  | none => .error 0x32
  | some ext =>
    if !levelsOk k ext || !placementOk p then .error 0x32
    else if !((pktWaits p ++ pktSigs p).all (dcOwned s slot)) then .error 0x47
    else if !((pktTiles p).all (mayOwn s slot)) || !(pktGang p == 0 || pktIdx p != 0 || (pktPipes p).all fun e => !pipeValid e || inContext s slot p (pipeBase e)) ||
        !(cuesInContext s slot p k) || !(fld p 64 4 == 0 || inContext s slot p (fld p 64 4)) || !(fld p 74 1 == 0 || pairExists s slot (fld p 72 2)) then .error 0x41
    else if !needsOk k || gangMeets s slot p then .error 0x31
    else if k.restartable && !pbEnabled s slot then .error 0x34
    else if fld p 2 1 % 4 != 0 && (match k.cues with
        | some vs => !((pktTiles p).all fun t => cuesOk t vs)
        | none => false) then .error 0x54
    else .ok { kern := k, extents := k.levels.map fun l => ext.getD l.2.1 0, image := k.image }

theorem parse_with {s : State} {slot p : Nat} {k : Kern} (ho : packetOk p = true) (hm : memberOk s slot p = true) (hk : readKernel s slot (fld p 8 8) = some k) (hi : fld p 24 8 = 0) :
    parsePacket s slot p = parseWith s slot p k := by
  unfold parsePacket parseWith
  rw [ho, hm, hk, hi]
  rfl

/-- Whether a packet passes with a kernel. -/
def parses (s : State) (p : Nat) (k : Kern) : Bool :=
  match parseWith s 1 p k with
  | .ok _ => true
  | .error _ => false

theorem parse_ok {s : State} {p : Nat} {k : Kern} (ho : packetOk p = true) (hm : memberOk s 1 p = true) (hk : readKernel s 1 (fld p 8 8) = some k) (hi : fld p 24 8 = 0)
    (h : parses s p k = true) : ∃ r, parsePacket s 1 p = .ok r := by
  rw [parse_with ho hm hk hi]
  unfold parses at h
  cases hp : parseWith s 1 p k with
  | ok r => exact ⟨r, rfl⟩
  | error c => rw [hp] at h; cases h

/-- The code section of the objects of `wObjects`. -/
def wSect : Sect := { type := 0x10, key := 0xFFFF, off := 128, len := 64 }

theorem witness_PacketsAreParsed_kernel :
    (∀ p ∈ [0, 1 + 2 ^ 8, 1 + 2 ^ 16 * 3, 1 + 2 ^ 16 * 8, 1 + 2 ^ 256, 1 + 2 ^ 512],
      fld p 0 1 ≠ 1 ∨ fld p 1 1 ≠ 0 ∨ fld p 2 1 % 4 = 3 ∨ 8 ≤ fld p 2 1 ∨ fld p 32 8 % 64 ≠ 0 ∨ fld p 64 4 % 16 ≠ 0) ∧
    (let p := wPkt 0x18000
     packetOk p = true ∧ memberOk (wTaken 0 p) 1 p = true ∧ readKernel (wTaken 0 p) 1 (fld p 8 8) = none) ∧
    (∀ p ∈ [wPkt 0x10000, wPkt 0x10000 + 2 ^ 32 * 16, wPkt 0x10000 + 2 ^ 128 * 64, wPkt 0x10000 + 2 ^ 448 + 2 ^ 320 * 4, wPkt 0x10000 + 2 ^ 448 + 2 ^ 320 * 3],
      packetOk p = true ∧ memberOk (wTaken 0 p) 1 p = true ∧ fld p 24 8 = 0 ∧ wReads (wTaken 0 p) (fld p 8 8) (wHdr 1 0) wRows wSs = true) := by
  refine ⟨?_, ?_, ?_⟩ <;> decide +kernel

theorem witness_PacketsAreParsed_checks :
    (let p := wPkt 0x10000 + 2 ^ 128 * 64
     readOpBlock (wTaken 0 p) 1 (fld p 16 8) = none) ∧
    (let p := wPkt 0x10000 + 2 ^ 32 * 16
     readOpBlock (wTaken 0 p) 1 (fld p 16 8) = some [] ∧ levelsOk (wKern (wTaken 0 p) 0x10000 (wHdr 1 0) wSs wSect) [] = true ∧ placementOk p = false) ∧
    (∀ c ∈ [3, 4], let p := wPkt 0x10000 + 2 ^ 448 + 2 ^ 320 * c
     readOpBlock (wTaken 0 p) 1 (fld p 16 8) = some [] ∧ placementOk p = true ∧ pktWaits p ++ pktSigs p = [c] ∧ (dcOwned (wTaken 0 p) 1 c = true ↔ c = 3)) ∧
    (∀ o ∈ [0, 1, 2], let p := wPkt 0x10000
     let s := { wTaken 0 p with owners := [(tileCluster 5, o)] }
     wReads s (fld p 8 8) (wHdr 1 0) wRows wSs = true ∧ readOpBlock s 1 (fld p 16 8) = some [] ∧ pktWaits p ++ pktSigs p = [] ∧ pktTiles p = [5] ∧ (mayOwn s 1 5 = true ↔ o ≠ 2)) ∧
    (let p := wPkt 0x10000
     fld p 57 1 = 0 ∧ fld p 64 4 = 0 ∧ fld p 74 1 = 0 ∧ (∀ y ∈ pktPipes p, pipeValid y = false) ∧ needsOk (wKern (wTaken 0 p) 0x10000 (wHdr 1 0) wSs wSect) = true ∧
       cuesInContext (wTaken 0 p) 1 p (wKern (wTaken 0 p) 0x10000 (wHdr 1 0) wSs wSect) = true ∧ cuesInContext (wTaken 0 p) 1 (p + 2 ^ 16) { cues := some [wCue + 2 ^ 16 * (2 ^ 15 + 2 ^ 5 * 2)] } = false ∧
       cuesInContext (wTaken 0 p) 1 (p + 2 ^ 16) { cues := some [wCue] } = true ∧
       parses (wTaken 0 p) p (wKern (wTaken 0 p) 0x10000 (wHdr 1 0) wSs wSect) = true) ∧
    (let p := wPkt 0x14000
     let h := wHdr 1 0 + 2 ^ 128 * 128
     wReads (wTaken 0 p) (fld p 8 8) h wRows wSs = true ∧ needsOk (wKern (wTaken 0 p) 0x14000 h wSs wSect) = false) ∧
    (let p := wPkt 0x12000
     wReads (wTaken 0 p) (fld p 8 8) (wHdr 1 1) wRows wSs = true ∧ needsOk (wKern (wTaken 0 p) 0x12000 (wHdr 1 1) wSs wSect) = true ∧ (wKern (wTaken 0 p) 0x12000 (wHdr 1 1) wSs wSect).restartable = true ∧
       pbEnabled (wTaken 0 p) 1 = false) ∧
    (let p := wPkt 0x13000 + 2 ^ 16
     let k := wKern (wTaken 0 p) 0x13000 (wHdr 2 0) wSs2 wSect
     wReads (wTaken 0 p) (fld p 8 8) (wHdr 2 0) (wRows + 2 ^ 128 * wRow2) wSs2 = true ∧ needsOk k = true ∧ k.restartable = false ∧ fld p 2 1 % 4 ≠ 0 ∧ k.cues = some [0] ∧ ∃ y ∈ pktTiles p, cuesOk y [0] = false) := by
  refine ⟨?_, ?_, ?_, ?_, ?_, ?_, ?_, ?_⟩ <;> decide +kernel

theorem witness_PacketsAreParsed_passes : ∃ r, parsePacket (wTaken 0 (wPkt 0x10000)) 1 (wPkt 0x10000) = .ok r :=
  parse_ok (by decide +kernel) (by decide +kernel) (read_one (h := wHdr 1 0) (tb := wRows) (by decide +kernel)) (by decide +kernel) (by decide +kernel)
/-- A launch of slot 1 with packet `p` and a kernel of one level of dies and one of tiles, of extents `es`. -/
def wLp (id p : Nat) (es : List Nat) : Launch := { id := id, queue := 7, slot := 1, pkt := p, kern := { levels := [(2, 0, 20, 0), (1, 1, 21, 0)] }, extents := es }

/-- Queues 7 and 9 with parsed heads; cluster of tile 5 owned by `o`; counter 3 has failed or not. -/
def wArb (p : Nat) (es : List Nat) (o : Nat) (failed : Bool) : State :=
  { now := 100, queues := [(7, { inUse := true, slot := 1, parsed := some 3 }), (9, { inUse := true, slot := 1, parsed := some 4 })], launches := [wLp 3 p es, wLp 4 (wPkt 0x10000) es],
    owners := [(tileCluster 5, o)], regs := [(0x4200, 3), (0x100018, 2 ^ 36 + 2 ^ 32), (0x180000, if failed then 8 else 0)] }

theorem witness_LaunchesEnterAndStart_arbiter :
    (∀ f ∈ [false, true], ∀ o ∈ [0, 1, 2], ∀ es ∈ [[2, 3], [1, 0], [0, 1]], let p := wPkt 0x10000 + 2 ^ 448 + 2 ^ 320 * 3
      let s := wArb p es o f
      let l := wLp 3 p es
      s.occ = .none ∧ s.lastQueue < 8192 ∧ (queueOf s 7).parsed = some l.id ∧ launchOf s l.id = some l ∧ ctxState s l.slot = 3 ∧ regF s (slotReg l.slot 0x078) 0 0 = 0 ∧ pktWaits l.pkt = [3] ∧ dcValue s 3 = 0 ∧
        dcFailed s 3 = f ∧ pktTiles l.pkt = [5] ∧ (mayOwn s l.slot 5 = true ↔ o ≠ 2) ∧ pbEnabled s l.slot = false ∧ fld l.pkt 57 1 = 0) ∧
    (let s := wArb (wPkt 0x10000) [2, 3] 0 false
     kwf {} s.queues = true ∧ (∀ e ∈ s.queues, e.1 < 8192) ∧ (readyHeads s).map (·.1) = [7, 9] ∧ (∀ e ∈ readyHeads s, e.1 ≠ 7 → afterLast s 7 < afterLast s e.1) ∧ pktDies (wPkt 0x10000) ≠ [] ∧ pktRect (wPkt 0x10000) ≠ []) ∧
    pktRect (wPkt 0x10000 - 2 ^ 48) = [] := by
  refine ⟨?_, ?_, ?_⟩ <;> decide +kernel

/-- Member `i` of gang 9 of two, on tile 5 + `i`, with cue field `c` and a cue list `q`. -/
def wMember (i c : Nat) (q : Option (List Nat)) (st : LaunchSt) : Launch :=
  { id := 3 + i, queue := 7, slot := 1, st := st, pos := i, pkt := 1 + 2 ^ 16 * c + 2 ^ 24 + 2 ^ 40 * (5 + i) + 2 ^ 48 + 2 ^ 56 + 2 ^ 456 * 2 + 2 ^ 464 * i + 2 ^ 480 * 9, kern := { cues := q } }

/-- A gang's members and their waiting first steps. -/
def wGang (ms : List Launch) : State :=
  { now := 100, occ := .at2 1 9, regs := [(0x4200, 3)], owners := [(tileCluster 5, 1), (tileCluster 6, 1)], launches := ms, steps := ms.map fun m => { key := { pos := m.pos, tile := 5 + m.pos }, slot := 1, i := 0, j := 0 } }

theorem witness_LaunchesEnterAndStart_gangs :
    (let s := wGang [wMember 0 0 none .inSequence]
     s.occ = .at2 1 9 ∧ gangOf s 1 9 = s.launches ∧ ∃ m ∈ (gangOf s 1 9).head?, (gangOf s 1 9).length < fld m.pkt 57 1) ∧
    (∀ e ∈ [(0, none), (1, some [wCue]), (1, some [wCue + 2 ^ 48 * 8191])], let s := wGang [wMember 0 e.1 e.2 .inSequence, wMember 1 e.1 e.2 .inSequence]
      let ms := gangOf s 1 9
      ms = s.launches ∧ (∀ m ∈ ms.head?, fld m.pkt 57 1 ≤ ms.length) ∧ (∀ x ∈ ms, x.st = .inSequence ∧ x.started = false) ∧ gangPipesOk ms = true ∧
        (∀ x ∈ ms, (firstSteps s x).length = 1 ∧ (∀ r ∈ firstSteps s x, canLoad s x r = true ∧ r.st = .assigned) ∧ (wantsBooking x = true ↔ e.1 = 1)) ∧ pendingSwitch s = none) ∧
    (let s := wGang [wMember 0 0 none .inSequence, wMember 1 0 none .inSequence]
     (∀ x ∈ gangOf s 1 9, wantsBooking x = false) ∧ pbEnabled s 1 = false ∧ (s.steps.map (·.key)).Nodup) ∧
    (let s := wGang [wMember 0 1 (some [wCue]) .inSequence, wMember 1 1 (some [wCue]) .inSequence]
     gangFit s (gangBooked s (gangOf s 1 9)) = some 47 ∧ pbEnabled s 1 = false) ∧
    (let s := wGang [wMember 0 1 (some [wCue + 2 ^ 48 * 8191]) .inSequence, wMember 1 1 (some [wCue + 2 ^ 48 * 8191]) .inSequence]
     gangFit s (gangBooked s (gangOf s 1 9)) = none) := by
  refine ⟨?_, ?_, ?_, ?_, ?_⟩ <;> decide +kernel
/-- A launch of one step of tile 5 in state `st`, with packet `p`; its record is in state `rs`; `o` is the event. -/
def wDone (p : Nat) (st : LaunchSt) (rs : StepState) (o : Occ) : State :=
  { now := 100, occ := o, launches := [{ id := 3, queue := 7, slot := 1, st := st, pos := 0, pkt := p, status := if st = .completing then 2 else 0, cause := if st = .completing then 0x41 else 0, doneSteps := 1 }],
    steps := [{ aRec with st := rs }], regs := [(0x1008, 1), (0x4200, 3), (0x4208, 0x100000), (0x100018, 2 ^ 36 + 2 ^ 32 + 5), (0x100020, 2 ^ 36 + 2 ^ 32), (0x100028, 2 ^ 36 + 2 ^ 33 + 7)] }

/-- Its launch. -/
def wDl (p : Nat) (st : LaunchSt) : Launch :=
  { id := 3, queue := 7, slot := 1, st := st, pos := 0, pkt := p, status := if st = .completing then 2 else 0, cause := if st = .completing then 0x41 else 0, doneSteps := 1 }

theorem witness_LaunchesComplete_begin :
    (let s := wDone (wPkt 0x10000) .inSequence .done (.at2 3 0)
     s.occ = .at2 3 0 ∧ launchOf s 3 = some (wDl (wPkt 0x10000) .inSequence) ∧ ctxState s 1 = 3 ∧ (∀ r ∈ s.steps, r.key.pos = 0 → r.key.task = false → r.st = .done) ∧
       (∀ r ∈ s.steps, r.key.pos = 0 → r.key.task = false → stepBusy s r.key = false)) ∧
    (let s := { wDone (wPkt 0x10000) .inSequence .done (.at2 3 0) with agenda := [⟨200, 10, .ev .putArrival (.pkt { wP (.event 0) with step := { tile := 5 } })⟩] }
     launchOf s 3 = some (wDl (wPkt 0x10000) .inSequence) ∧ ∃ r ∈ s.steps, r.key.pos = 0 ∧ r.key.task = false ∧ r.st = .done ∧ stepBusy s r.key = true) ∧
    (let s := wDone (wPkt 0x10000) .inSequence .running (.at2 3 0)
     ∃ r ∈ s.steps, r.key.pos = 0 ∧ r.key.task = false ∧ r.st ≠ .done) := by
  refine ⟨?_, ?_, ?_⟩ <;> decide +kernel

theorem witness_LaunchesComplete_parts :
    (∀ e ∈ [(1, 0, 0), (1, 5 * 2 ^ 21 + 64, 0), (2, 0, 0), (2, 0, 1), (3, 0, 0), (4, 0, 0)], let p := wPkt 0x10000 + 2 ^ 512 * e.2.1 + 2 ^ 592 * e.2.2
      let s := wDone p .completing .done (.at2 3 e.1)
      s.occ = .at2 3 e.1 ∧ launchOf s 3 = some (wDl p .completing) ∧ (wDl p .completing).st = .completing ∧ fld p 64 4 = e.2.1 ∧ (e.2.1 ≠ 0 → e.2.1 % 16 = 0 ∧ inData e.2.1 16 = true) ∧ fld p 74 1 = e.2.2 ∧
        fld p 72 2 = 0 ∧ pbEnabled s 1 = false ∧ pktSigs p = [] ∧ fld p 57 1 = 0 ∧ fld p 32 8 = 0) ∧
    (let p := wPkt 0x10000 + 2 ^ 592
     pairExists { wDone p .completing .done (.at2 3 2) with hpairs := [{ slot := 1, pid := 0, frames := 1, front := 0x30000, shadow := 0x40000 }] } 1 (fld p 72 2) = true) ∧
    (let p := wPkt 0x10000 + 2 ^ 256 * 0x50000
     let s := { wDone p .completing .done (.at2 3 3) with hbm := wHbm wTables }
     let l := wDl p .completing
     fld p 32 8 ≠ 0 ∧ fld p 32 8 % 64 = 0 ∧ fld p 32 8 < 2 ^ 52 ∧ recordHeld s l = none ∧ (translateIo s 1 (fld p 32 8) true).toOption.isSome = true ∧ pktSigs p = [] ∧ l.status < 2 ^ 16 ∧ l.cause < 256) ∧
    (let p := wPkt 0x10000 + 2 ^ 448 * 16 + 2 ^ 384 * 3
     let s := wDone p .completing .done (.at2 3 3)
     s.steps.all (fun r => !r.demoted) = true ∧ ({ s with steps := [{ aRec with st := .done, demoted := true }] } : State).steps.any (fun r => r.key.pos == 0 && !r.key.task && r.demoted) = true ∧
       pktSigs p = [3] ∧ 3 < 2 ^ 16 ∧ fld p 57 1 = 0 ∧ fld p 32 8 = 0 ∧ dcOwned s 1 3 = true ∧ dcValue s 3 = 4 + 1 ∧ writeToCome s (dcReg 3) = none) := by
  refine ⟨?_, ?_, ?_, ?_⟩ <;> decide +kernel

theorem witness_LaunchesComplete_counters :
    (∀ e ∈ [(3, true, 5), (4, true, 0), (5, false, 7)], let s := wDone 0 .complete .done (.at3 1 e.1 5)
      s.occ = .at3 1 e.1 5 ∧ e.1 < 2 ^ 16 ∧ writeToCome s (dcReg e.1) = none ∧ dcOwned s 1 e.1 = e.2.1 ∧ dcValue s e.1 = e.2.2) ∧
    (let s := { wDone 0 .complete .done (.at3 1 3 5) with agenda := [⟨100, 10, .ev .registerWrite (.reg (dcReg 3) 0)⟩] }
     s.occ = .at3 1 3 5 ∧ writeToCome s (dcReg 3) ≠ none) := by
  decide +kernel

/-- Tile 5's Faulted restartable step, whose Prompt Book records. -/
def wRst (k : Bool) : State :=
  wBook { modBk { now := 100, occ := .at 5 } 5 (fun b => { b with run := some { aRun 5 with pbMode := 1 } }) with
    steps := [{ aRec with st := .faulted 0x41, restartable := k, performed := if k then [0] else [] }], launches := [{ wDl (wPkt 0x10000) .inSequence with kern := { restartable := k }, pbMode := 1 }] } 9 0 0

/-- The same without an effect, its ring's head as given. -/
def wRstJ (k : Bool) (head : Nat) : State :=
  modStep (setReg (wRst k) 0x4310 (BitVec.ofNat 64 head)) aRec.key fun r => { r with performed := [] }

theorem witness_LaunchesComplete_restart :
    (∀ k ∈ [false, true], ∀ h ∈ [0, 0xFFFC0], let s := wRstJ k h
      let r := { aRec with st := .faulted 0x41, restartable := k, performed := [] }
      let run := (bk s 5).run.filter fun x => decide (x.key = r.key)
      s.occ = .at 5 ∧ faultedStep s 5 = some r ∧ launchAt s r.key.pos = some { wDl (wPkt 0x10000) .inSequence with kern := { restartable := k }, pbMode := 1 } ∧ r.key.task = false ∧ pbEnabled s r.slot = true ∧
        run = some { aRun 5 with pbMode := 1 } ∧ pbMode s r.slot = 1 ∧ (∀ e ∈ r.performed, (journalled s r.slot e r.key).isSome = true) ∧ (ringLacks s r.slot 1 = true ↔ h ≠ 0)) ∧
    (journalled (writeRecord (wRst true) 1 0x28 0 0 5 0 0 (valuePayload 0x20 0 7 + keyBytes aRec.key)) 1 0 aRec.key).isSome = true := by
  refine ⟨?_, ?_⟩ <;> decide +kernel
/-- Slot 1's Prompt Book registers: address, control, head and tail; tables that map its first 2 MiB. -/
def wPc (o : Occ) (va ctl head tail : BitVec 64) (b : Book) : State :=
  { now := 200000, occ := o, hbm := wHbm wTables, regs := [(0x4200, 3), (0x4208, 0x100000), (0x4300, va), (0x4308, 20), (0x4310, head), (0x4318, tail), (0x4320, ctl)], books := [(1, b)] }

/-- An answer that is there. -/
def hasAll {α : Type} (o : Option (List α)) (n : Nat) : Bool :=
  match o with
  | some l => l.length == n
  | none => false

theorem witness_PromptBookIsControlled_modes :
    (∀ e ∈ [(3, false), (11, false), (8, true), (9, true), (1, true), (0, true)], let s := wPc (.reg 1 (BitVec.ofNat 64 e.1)) 0 0 0 0 {}
      let lg := regF s (slotReg 1 0x108) 5 0
      s.occ = .reg 1 (BitVec.ofNat 64 e.1) ∧ lg = 20 ∧ pbEnabled s 1 = false ∧ pbMode s 1 = 0 ∧ (∀ o ∈ (bookOf s 1).opens, o.due = false) ∧ (e.1 % 4 ≠ 3 ↔ e.2 = true)) ∧
    hasAll (ringFrames (wPc (.reg 1 8) 0 0 0 0 {}) 1 (regF (wPc (.reg 1 8) 0 0 0 0 {}) (slotReg 1 0x100) 51 16 * 65536) (2 ^ 20 / 65536)) 16 = true ∧
    ringFrames (wPc (.reg 1 8) 0x200000 0 0 0 {}) 1 (regF (wPc (.reg 1 8) 0x200000 0 0 0 {}) (slotReg 1 0x100) 51 16 * 65536) (2 ^ 20 / 65536) = none ∧
    (let s := { wPc (.reg 1 8) 0 0 0 0 {} with regs := [(0x4308, 19)] }
     regF s (slotReg 1 0x108) 5 0 = 19 ∧ ¬ 20 ≤ 19) := by
  refine ⟨?_, ?_, ?_, ?_⟩ <;> decide +kernel

/-- Tile 5 triggers `sy.pbmark` 7 in a step of mode `m`; its slot's Prompt Book has control `ctl`, the ring's head as given and the records `rs` (type, ordinal, value). -/
def wMark (m ctl head : Nat) (rs : List (Nat × Nat × Nat)) : State :=
  let s := modBk (alone 5 7 []) 5 fun b => { b with run := some { aRun 5 with pbMode := m } }
  rs.foldl (fun s r => writeRecord s 1 r.1 0 0 5 (objAgent 5) 0 (valuePayload 0 r.2.1 r.2.2)) (wBook s (BitVec.ofNat 64 ctl) (BitVec.ofNat 64 head) 0)

theorem witness_PromptBookIsControlled_marks :
    (∀ m ∈ [1, 2], Ready (wMark m (8 + m) 0 []) mk ∧ sockHeld (wMark m (8 + m) 0 []) 5 .sy = false ∧ slotOf (wMark m (8 + m) 0 []) 5 = 1 ∧
      pbOf (wMark m (8 + m) 0 []) 5 = m ∧ pbEnabled (wMark m (8 + m) 0 []) 1 = true) ∧
    (∀ h ∈ [0, 0xFFF80], RingRoom (wMark 1 9 h []) 1) ∧ PlainPlace (wMark 1 9 0 []) (recordPlace (wMark 1 9 0 []) 1 0) ∧
    (∀ g ∈ [9, 13], let s := wMark 1 g 0xFFFC0 []
      (bookOf s 1).gap = none ∧ pbFull s 1 = true ∧ (pbGapMode s 1 = true ↔ g = 13) ∧ pbHead s 1 + 64 < 2 ^ 64) ∧
    (bookOf (modBook (wMark 1 13 64 []) 1 fun b => { b with gap := some (0, 3) }) 1).gap = some (0, 3) := by
  delta Ready RingRoom PlainPlace
  refine ⟨?_, ?_, ?_, ?_, ?_⟩ <;> decide +kernel

/-- The agent's record of the ordinal under replay: none, or none before a gap; of another type, or with the mark's value or another; behind another of its stream; already made. -/
theorem witness_PromptBookIsControlled_replayedMarks :
    let mine := fun (s : State) => (readable s 1).1.find? fun r => decide (r.type ≤ 3) && r.agent == 5 && r.payload / 2 ^ 32 % 2 ^ 32 == kget 0 (ag s 5).ordinals 1
    (∀ h ∈ [0, 64], (mine (wMark 2 10 h [])).isNone = true ∧ (readable (wMark 2 10 h []) 1).2 = decide (h ≠ 0)) ∧
    (mine (wMark 2 10 0 [(2, 0, 7)])).map (·.type) = some 2 ∧
    (∀ v ∈ [7, 8], let s := wMark 2 10 0 [(3, 0, v)]
      (mine s).map (fun r => (r.type, r.object, r.payload % 2 ^ 12, r.payload / 2 ^ 64 % 2 ^ 64, r.seq)) = some (3, objAgent 5, 0, v, 0) ∧ (nextOccasion s 1 3 (objAgent 5)).map (·.seq) = some 0) ∧
    (let s := wMark 2 10 0 [(3, 1, 7), (3, 0, 7)]
     (mine s).map (·.seq) = some 1 ∧ (nextOccasion s 1 3 (objAgent 5)).map (·.seq) = some 0) ∧
    (let s := modBook (wMark 2 10 0 [(3, 0, 7)]) 1 fun b => { b with made := [(0, 1)] }
     (mine s).map (·.type) = some 3 ∧ (nextOccasion s 1 3 (objAgent 5)).isNone = true) ∧
    (bookOf (modBook (wMark 2 10 0 []) 1 fun b => { b with closed := [⟨3, objAgent 5⟩] }) 1).closed.contains ⟨3, objAgent 5⟩ = true ∧
    (let s := wMark 2 10 0 [(3, 0, 7), (3, 1, 8)]
     ((readable s 1).1.map (·.seq)).Nodup ∧ (readable s 1).1.map covers = [1, 1]) := by
  refine ⟨?_, ?_, ?_, ?_, ?_, ?_, ?_⟩ <;> decide +kernel

/-- An idle tile with a waiting step whose launch has mode `m`; its Prompt Book has control `ctl` and a head, and the record of a start, of choice `d`. -/
def wStart (m ctl head : Nat) (ds : List (Nat × Nat)) : State :=
  let s := wBook (wTileTurn { wLc 0 {} with pbMode := m }) (BitVec.ofNat 64 ctl) (BitVec.ofNat 64 head) 0
  ds.foldl (fun s d => writeRecord s 1 0x0C 0 1 0 (objAgent 5) 0 (2 ^ 32 * (d.1 + 2 ^ 16 * d.2))) s

theorem witness_PromptBookIsControlled_starts :
    (∀ m ∈ [1, 2], let s := { wStart m (8 + m) 0 [] with steps := [wWait 0] }
      s.occ = .at 5 ∧ TileIdle s 5 1 ∧ launchAt s 0 = some { wLc 0 {} with pbMode := m } ∧ pbEnabled s 1 = true ∧ fld (wLc 0 {}).pkt 57 1 = 0) ∧
    (∀ h ∈ [0, 0xFFFC0], orderStalled (wDue (wStart 1 9 h []) ⟨0x0C, objAgent 5⟩) 1 ⟨0x0C, objAgent 5⟩ (0, 2) 1 = decide (h ≠ 0) ∧ orderStalled (wStart 1 9 h []) 1 ⟨0x0C, objAgent 5⟩ (0, 2) 1 = false) ∧
    (Unrecorded (wStart 2 10 0 []) 1 ⟨0x0C, objAgent 5⟩ 0x60 ∧ Unrecorded (wStart 2 10 64 []) 1 ⟨0x0C, objAgent 5⟩ 0x61) ∧
    (∀ d ∈ [(0, 2), (0, 3)], let s := wStart 2 10 0 [d]
      (bookOf s 1).closed.contains ⟨0x0C, objAgent 5⟩ = false ∧ (nextOccasion s 1 0x0C (objAgent 5)).map (fun q => (q.seq, q.payload % 2 ^ 32, q.payload / 2 ^ 32 % 2 ^ 32)) = some (0, 0, d.1 + 2 ^ 16 * d.2)) := by
  refine ⟨?_, by decide +kernel, ⟨.inr ⟨by decide +kernel, ?_, by decide +kernel⟩, .inr ⟨by decide +kernel, ?_, by decide +kernel⟩⟩, by decide +kernel⟩
  · delta TileIdle; decide +kernel
  · exact Option.isNone_iff_eq_none.1 (by decide +kernel)
  · exact Option.isNone_iff_eq_none.1 (by decide +kernel)

/-- A request for the free lock at the start of tile 6's memory, of tile 5's step of slot 1 and mode `m`, as its Prompt Book has it. -/
def wAsk (m ctl head : Nat) (ds : List (Nat × Nat)) : State :=
  let x := { wOp 0 with loc := .sram (6 * 2 ^ 21), agent := 5, issuer := 5, slot := 1, pb := m }
  let s := wBook { now := 100, occ := .sync x, tags := [(6 * 2 ^ 15, 1)] } (BitVec.ofNat 64 ctl) (BitVec.ofNat 64 head) 0
  ds.foldl (fun s d => writeRecord s 1 8 0 1 0 (objSram (6 * 2 ^ 21)) 0 (2 ^ 32 * (d.1 + 2 ^ 16 * d.2))) s

theorem witness_PromptBookIsControlled_grants :
    (∀ m ∈ [1, 2], let s := wAsk m (8 + m) 0 []
      let x := { wOp 0 with loc := .sram (6 * 2 ^ 21), agent := 5, issuer := 5, slot := 1, pb := m }
      s.occ = .sync x ∧ AtHome s x.agent x.id x.step x.slot x.loc 8 true x.fixed ∧ isTile x.agent = true ∧ loadN s (6 * 2 ^ 21) 8 = 0 ∧ pbEnabled s 1 = true ∧ Plain s (6 * 2 ^ 21) 8) ∧
    (∀ h ∈ [0, 0xFFFC0], orderStalled (wDue (wAsk 1 9 h []) ⟨8, objSram (6 * 2 ^ 21)⟩) 1 ⟨8, objSram (6 * 2 ^ 21)⟩ (5, 0) 1 = decide (h ≠ 0)) ∧
    Unrecorded (wAsk 2 10 0 []) 1 ⟨8, objSram (6 * 2 ^ 21)⟩ 0x60 ∧
    (∀ d ∈ [(5, 0), (9, 0)], (nextOccasion (wAsk 2 10 0 [d]) 1 8 (objSram (6 * 2 ^ 21))).map (fun q => (q.seq, q.payload % 2 ^ 32, q.payload / 2 ^ 32 % 2 ^ 32)) = some (0, 0, d.1)) := by
  refine ⟨fun m hm => ⟨rfl, ?_, by revert m; decide +kernel, by revert m; decide +kernel, by revert m; decide +kernel, plain_noPairs (by revert m; decide +kernel) (by decide +kernel)⟩, by decide +kernel,
    .inr ⟨by decide +kernel, Option.isNone_iff_eq_none.1 (by decide +kernel), by decide +kernel⟩, by decide +kernel⟩
  delta AtHome HomeFree; revert m; decide +kernel

/-- A change of mode with two open records, and room for both. -/
theorem witness_PromptBookIsControlled_flush :
    (∀ ctl ∈ [9, 13], let b : Book := { frames := (List.range 16).map fun i => ⟨false, 0x400000 + 65536 * i, none⟩, opens := [{ key := ⟨0x0D, objArbiter⟩, n := 0, entries := [(7, 0), (9, 0)], gt := 5 }, { key := ⟨0x0C, objAgent 5⟩, n := 3, entries := [], gt := 6 }] }
      let s := wPc (.reg 1 8) 0 (BitVec.ofNat 64 ctl) 64 0 b
      let rs := (bookOf s 1).opens
      s.occ = .reg 1 8 ∧ (8 % 4 ≠ pbMode s 1) ∧ (rs.map (·.key)).Nodup ∧ (bookOf s 1).gap = none ∧ (∀ i, i < rs.length → pbShort s 1 i = false) ∧ pbHead s 1 + 64 * rs.length < 2 ^ 64 ∧
        (∀ i, i < rs.length → PlainPlace s (recordPlace s 1 i)) ∧ (recordPlace s 1 0).pa + 64 ≤ (recordPlace s 1 1).pa ∧ (∀ r ∈ rs, OrderFits r) ∧ (pbGapMode s 1 = true ↔ ctl = 13)) ∧
    (∀ rep ∈ [false, true], let k : StreamKey := ⟨0x0C, objAgent 5⟩
      let s := modBook (wBook { now := 100 } 9 0 0) 1 fun b => { b with last := if rep then [(k, (0, 2))] else [], opens := [{ key := k, n := 0, entries := [(6, 0)], gt := 0, due := false }] }
      ((bookOf s 1).last.find? (·.1 = k) = some (k, (0, 2)) ↔ rep = true) ∧ ((bookOf s 1).opens.find? (·.key = k)).isSome = true ∧ RingRoom s 1) := by
  delta PlainPlace OrderFits RingRoom
  refine ⟨?_, ?_⟩ <;> decide +kernel

/-- A ring of frames in HBM with a gap at offset 64. -/
def wGap : Book := { frames := (List.range 16).map fun i => ⟨false, 0x400000 + 65536 * i, none⟩, gap := some (64, 3) }

/-- An open record of two decisions. -/
def wOpen (g : Nat) : OpenRec := { key := ⟨0x0D, objArbiter⟩, n := 0, entries := [(7, 0), (9, 0)], gt := g }

theorem witness_PromptBookIsControlled_gaps :
    (∀ e ∈ [(0xFFFC0, false), (0xFF000, true), (0xFF040, false)], let s := wPc (.at 1) 0 9 (BitVec.ofNat 64 e.1) 0 wGap
      s.occ = .at 1 ∧ (bookOf s 1).gap = some (64, 3) ∧ (4096 ≤ pbSize s 1 - (pbHead s 1 - pbTail s 1) ↔ e.2 = true) ∧
        (let p := ringAt s 1 (64 % pbSize s 1)
         p.host = false ∧ p.key = none ∧ s.hpairs = []) ∧ 3 < 2 ^ 64) ∧
    (∀ g ∈ [68928, 68929], let s := wPc (.stream 1 ⟨0x0D, objArbiter⟩) 0 9 64 0 { wGap with gap := none, opens := [wOpen g] }
      s.occ = .stream 1 ⟨0x0D, objArbiter⟩ ∧ (bookOf s 1).opens.find? (fun x => x.key = ⟨0x0D, objArbiter⟩) = some (wOpen g) ∧ ((wOpen g).gt + 131072 ≤ gtOf s ↔ g = 68928) ∧ (bookOf s 1).gap = none ∧ pbFull s 1 = false) ∧
    (let s := wPc (.stream 1 ⟨0x0D, objArbiter⟩) 0 9 0xFFFC0 0 { wGap with gap := none, opens := [wOpen 68928] }
     (bookOf s 1).opens.find? (fun x => x.key = ⟨0x0D, objArbiter⟩) = some (wOpen 68928) ∧ (wOpen 68928).gt + 131072 ≤ gtOf s ∧ ringLacks s 1 1 = true) ∧
    (ringLacks (wPc (.stream 1 ⟨0x0D, objArbiter⟩) 0 9 64 0 { wGap with gap := none }) 1 1 = false) ∧
    (let s := wPc (.stream 1 ⟨0x0D, objArbiter⟩) 0 9 64 0 {}
     s.occ = .stream 1 ⟨0x0D, objArbiter⟩ ∧ ∀ r ∈ (bookOf s 1).opens, r.key ≠ ⟨0x0D, objArbiter⟩) := by
  refine ⟨?_, ?_, ?_, ?_, ?_⟩ <;> decide +kernel
/-- Slot 1 in state `st`, its command status and arguments, with an image at `img` (in units of 64 KiB) and an image header for cluster 1 at 0x40000. -/
def wCtx (o : Occ) (st busy img a1 a2 : Nat) : State :=
  { now := 100, occ := o, hbm := wHbm (wTables ++ [(0x40000, 8, 0x43545831 + 2 ^ 32), (0x40020, 4, 1), (0x40040, 1, 2)]), ctxWork := [(1, 9)],
    regs := [(0x4200, BitVec.ofNat 64 st), (0x4208, 0x100000), (0x4210, BitVec.ofNat 64 (65536 * img)), (0x4220, BitVec.ofNat 64 (2 ^ 63 * busy)), (0x4228, BitVec.ofNat 64 a1), (0x4230, BitVec.ofNat 64 a2)] }

theorem witness_ContextCommands_states :
    (∀ e ∈ slotCommands, (∃ st ∈ List.range 6, st ∉ e.2.2) ∧ ∃ st ∈ List.range 6, st ∉ e.2.1) ∧
    (∀ st ∈ List.range 6, ∀ b ∈ [0, 1], let s := wCtx (.reg 1 4) st b 4 0 0
      s.occ = .reg 1 4 ∧ ctxState s 1 = st ∧ regF s (slotReg 1 0x020) 63 63 = b) ∧
    (∀ e ∈ [(4, true, true), (5, true, false), (0xC00000, false, false)], let s := wCtx (.reg 1 1) 0 0 e.1 0 0
      let img := regF s (slotReg 1 0x010) 47 16 * 65536
      img = 65536 * e.1 ∧ paOk img = e.2.1 ∧ (e.2.1 = true → imageHeaderOk s img = e.2.2)) := by
  refine ⟨?_, ?_, ?_⟩ <;> decide +kernel

/-- Agent `a`'s step of slot 1, parked in its wings bank (a tile) or its front bank (a dock core). -/
def wParked (a : Nat) : State :=
  { modAg (wCtx (.reg 1 (BitVec.ofNat 64 (2 ^ 32 * a))) 3 0 4 0 0) a (fun g => if isTile a then { g with wings := { run := some (aRun a) } } else { g with front := { run := some (aRun a) } }) with
    steps := [{ aRec with key := { tile := a }, st := .parked }] }

/-- An engine's copy into the page of VA 0 of slot 1. -/
def wCopying : Copy :=
  { req := { id := 3, agent := 5, slot := 1, step := {}, org := ⟨0, 0⟩, pb := 0, op := .stat 0 0 }, cid := 0, pages := [⟨0, true, false, 0, none⟩],
    x := { kind := .copy, srcVirt := false, src := 0, dstVirt := true, dst := 0, rowBytes := 64, rows := 1, sstr := 0, dstr := 0, gt := none, lane := 0, hnd := none, act := 0, sw := 0, dc := 0 } }

/-- The same slot with that copy under way in an engine. -/
def wCopies (s : State) : State := { s with cces := [(2113, { lanes := [(0, { run := some wCopying })] })] }

theorem witness_ContextCommands_commands :
    (∀ a ∈ [5, 2048], let s := wParked a
      let v := BitVec.ofNat 64 (2 ^ 32 * a)
      s.occ = .reg 1 v ∧ v.toNat / 2 ^ 32 % 4096 = a ∧ parkedRun s a 1 = some (aRun a) ∧ (∀ q ∈ (cceOf s (engineOf a)).kept, q.agent ≠ a) ∧ (ag s a).kept = [] ∧ (ag s a).queued = false ∧ (isDock a = true ↔ a = 2048)) ∧
    parkedRun (wCtx (.reg 1 0) 3 0 4 0 0) 0 1 = none ∧
    isErr (walk (wCtx (.reg 1 8) 3 0 4 0x200000 0) 1 (0x200000 / 65536 % 2 ^ 36 * 65536)) 0xA0 = true ∧
    (∀ st ∈ [1, 3], ∀ c ∈ [false, true], let s0 := wCtx (.reg 1 8) st 0 4 0 0
      let s := if c then wCopies s0 else s0
      isOk (walk s 1 0) (0xF, true, 0x120000) = true ∧ pinnedPage s 1 0 = false ∧ writesPage s 1 0 true = c) ∧
    (let s := { wCtx (.reg 1 8) 3 0 4 0 0 with tlbs := [(2113, [{ slot := 1, page := 0, big := true, leaf := 0xF, pinned := true }])] }
     pinnedPage s 1 0 = true) ∧
    (∀ e ∈ [(2 ^ 32 + 2 ^ 16 + 7, false), (2 ^ 32 + 7, true)], let s := wCtx (.reg 1 9) 1 0 4 e.1 (3 + 2 ^ 32 * 4)
      let a1 := (reg s (slotReg 1 0x028)).toNat
      let a2 := (reg s (slotReg 1 0x030)).toNat
      a1 / 2 ^ 32 % 2 = 1 ∧ pairBad s { slot := 1, pid := a1 % 2 ^ 16, frames := a1 / 2 ^ 16 % 2 ^ 16, front := a2 % 2 ^ 32 * 65536, shadow := a2 / 2 ^ 32 % 2 ^ 32 * 65536 } = e.2) ∧
    (reg (wCtx (.reg 1 9) 1 0 4 7 0) (slotReg 1 0x028)).toNat / 2 ^ 32 % 2 = 0 := by
  refine ⟨?_, ?_, ?_, ?_, ?_, ?_, ?_⟩ <;> decide +kernel

theorem witness_ContextCommands_ends :
    (let s := { wCopies (wCtx (.at2 1 9) 3 1 4 0 0) with ctxInv := [(1, [3])] }
     s.occ = .at2 1 9 ∧ cmdIs s 1 9 = true ∧ ∃ i ∈ kget [] s.ctxInv 1, ∃ e ∈ s.cces, ∃ c ∈ copiesOf e.2, c.req.id = i) ∧
    (let s := wCtx (.at2 1 9) 3 1 4 0 0
     cmdIs s 1 9 = true ∧ ¬ ∃ i ∈ kget [] s.ctxInv 1, ∃ e ∈ s.cces, ∃ c ∈ copiesOf e.2, c.req.id = i) ∧
    (let s := wCtx (.at3 1 0 0x1F) 3 1 4 0 0
     s.occ = .at3 1 0 0x1F ∧ isOk (walk s 1 (0 / 65536 % 2 ^ 36 * 65536)) (0xF, true, 0x120000) = true) ∧
    ({ occ := .reg 0x3008 1 } : State).occ = .reg 0x3008 1 := by
  refine ⟨?_, ?_, ?_, ?_⟩ <;> decide +kernel
/-- Slot 1, which owns cluster 2 of tile 5, in state `st`; a step of tile 5 runs and another waits. -/
def wCtxOwn (o : Occ) (st busy : Nat) : State :=
  { running (wCtx o st busy 4 0 0) 5 with owners := [(2, 1)], steps := [aRec, { wWait 1 with st := .loading }], ctxLeft := [(1, [2])], ctxMap := [(1, [2])] }

theorem witness_ContextsSaveAndRestore_out :
    (∀ o ∈ [Occ.reg 1 3, .at 1], let s := wCtxOwn o 3 0
      s.occ = o ∧ regF s (slotReg 1 0x020) 63 63 = 0 ∧ ctxState s 1 = 3 ∧ (5 ∈ slotTiles s 1) ∧ bankRuns s (bk s 5) = true ∧ (s.steps.map (·.key)).Nodup ∧ 2 ∈ clustersOf s 1) ∧
    ctxState (wCtxOwn (.reg 1 3) 2 1) 1 = 2 ∧
    (let s := wCtxOwn (.at 2) 4 1
     s.occ = .at 2 ∧ savingSlot s 2 = some 1 ∧ 5 ∈ clusterTiles 2 ∧ tileAcked s 5 1 = false) ∧
    (let s := { wCtxOwn (.at 2) 4 1 with agents := [], steps := [] }
     savingSlot s 2 = some 1 ∧ (∀ t ∈ clusterTiles 2, tileAcked s t 1 = true) ∧ s.launches = [] ∧ switchingOut s 1 = false ∧ (∀ x ∈ clusterTiles 2, kslice s.poison (x * 2 ^ 15) (2 ^ 15) = []) ∧ (kget [] s.ctxMap 1).filter (fun g => decide (g < 2)) = [] ∧
       paOk (imagePa s 1 + 0x10000) = true ∧ paOk (imagePa s 1 + 0x10000 + 0x810000) = true ∧ ∀ g ∈ kget [] s.ctxLeft 1, g = 2) ∧
    (∀ b ∈ [none, some [], some [2]], let s0 := wCtxOwn (.at2 1 9) 4 1
      let s := match b with
        | some l => { s0 with regs := s0.regs ++ [(0x7118, 4)], switch := { out := 1, marks := l } }
        | none => s0
      s.occ = .at2 1 9 ∧ cmdIs s 1 9 = true ∧ ctxState s 1 = 4 ∧ switchingOut s 1 = b.isSome ∧ (b.isSome = true → regF s 0x7118 2 0 = 4 ∧ some s.switch.marks = b) ∧ collOk s 1 = false ∧ (kget [] s.ctxMap 1).length < 2 ^ 32) := by
  refine ⟨?_, ?_, ?_, ?_, ?_⟩ <;> decide +kernel

theorem witness_ContextsSaveAndRestore_in :
    (∀ e ∈ [(5, false), (4, true)], let s := wCtx (.reg 1 2) 1 0 e.1 0 0
      s.occ = .reg 1 2 ∧ ctxState s 1 = 1 ∧ regF s (slotReg 1 0x020) 63 63 = 0 ∧ regF s 0x7118 2 0 ≠ 5 ∧ imageHeaderOk s (imagePa s 1) = e.2) ∧
    (let s := { wCtx (.reg 1 2) 1 0 4 0 0 with owners := [(1, 2)] }
     imageHeaderOk s (imagePa s 1) = true ∧ ∃ c ∈ hdrMap s (imagePa s 1), clusterFree s c = false) ∧
    (let s := wCtx (.reg 1 2) 1 0 4 0 0
     hdrMap s (imagePa s 1) = [1] ∧ clusterFree s 1 = true ∧ (clusterBlock s (recordPa (imagePa s 1) 0)).pins = [] ∧ paOk (recordPa (imagePa s 1) 0) = true ∧ paOk (recordPa (imagePa s 1) 0 + 0x810000) = true) ∧
    (let s := { wCtxOwn (.at2 1 9) 2 1 with agents := [], steps := [{ aRec with st := .yielded }], ctxHeld := [(1, true)] }
     s.occ = .at2 1 9 ∧ cmdIs s 1 9 = true ∧ ctxState s 1 = 2 ∧ (s.steps.map (·.key)).Nodup ∧ s.cces = [] ∧ (∃ r ∈ s.steps, r.slot = 1 ∧ r.st = .yielded ∧ r.remain = none) ∧ kget false s.ctxHeld 1 = true) ∧
    (let s := modAg (wCtxOwn (.at2 1 9) 2 1) 5 fun g => { g with wings := { run := some { aRun 5 with resumed := true } } }
     5 ∈ slotTiles s 1 ∧ ((ag s 5).wings.run.any fun x => x.resumed) = true) := by
  refine ⟨?_, ?_, ?_, ?_, ?_⟩ <;> decide +kernel

theorem witness_ContextsSaveAndRestore_switch :
    (∀ e ∈ [(1, 0), (1, 1), (3, 0), (2, 1), (0, 0)], let s0 := wCtx (.at 1) e.1 e.2 5 0 0
      let s := { s0 with regs := s0.regs ++ [(0x7118, 5)], switch := { in_ := 1 } }
      s.occ = .at 1 ∧ s.switch.in_ = 1 ∧ regF s 0x7118 2 0 = 5 ∧ (regF s (slotReg 1 0x020) 63 63 = 1 ↔ e.2 = 1) ∧ ctxState s 1 = e.1 ∧ imageHeaderOk s (imagePa s 1) = false) ∧
    (∀ e ∈ [(2, 5), (1, 6)], let s0 := wCtx (.at 1) 1 0 5 0 0
      let s := { s0 with regs := s0.regs ++ [(0x7118, BitVec.ofNat 64 e.2)], switch := { in_ := e.1 } }
      s.occ = .at 1 ∧ (s.switch.in_ ≠ 1 ∨ regF s 0x7118 2 0 ≠ 5)) := by
  refine ⟨?_, ?_⟩ <;> decide +kernel

theorem witness_ContextsSaveAndRestore_end :
    (∀ st ∈ [2, 3, 4], let s := { wCtxOwn (.reg 1 5) st (if st = 3 then 0 else 1) with launches := [wL1] }
      s.occ = .reg 1 5 ∧ ctxState s 1 = st ∧ (st = 3 → regF s (slotReg 1 0x020) 63 63 = 0) ∧ (s.launches.map (·.id)).Nodup ∧ (∃ r ∈ s.steps, r.slot = 1 ∧ r.st ≠ .done ∧ r.st ≠ .ended) ∧
        ∃ l ∈ s.launches, l.slot = 1 ∧ (l.st = .parsed ∨ l.st = .inSequence)) ∧
    (let s := wCtxOwn (.at2 1 9) 5 1
     s.occ = .at2 1 9 ∧ cmdIs s 1 9 = true ∧ ctxState s 1 = 5 ∧ 2 ∈ clustersOf s 1) := by
  refine ⟨?_, ?_⟩ <;> decide +kernel
/-- An error ring of slot 1 (Active or Free) with size field `lg`, head and tail. -/
def wRing (st lg head tail : Nat) : State :=
  { now := 100, regs := [(0x2000, BitVec.ofNat 64 (0x700000 + lg)), (0x2008, BitVec.ofNat 64 (head + 2 ^ 32 * tail)), (0x4200, BitVec.ofNat 64 st), (0x4268, BitVec.ofNat 64 (0x700000 + lg)), (0x4270, BitVec.ofNat 64 (head + 2 ^ 32 * tail))] }

/-- An error record. -/
def wErr : ErrRec := { cause := 0x41, slot := 1, agent := 5, addr := 64 }

theorem witness_ErrorsAreRecorded_records :
    wErr.cause < 256 ∧ wErr.slot < 16 ∧ wErr.agent < 2 ^ 16 ∧ wErr.addr < 2 ^ 64 ∧ wErr.pos < 2 ^ 32 ∧ wErr.round < 2 ^ 16 ∧ wErr.wave < 2 ^ 16 ∧ wErr.detail < 2 ^ 256 ∧
    (∀ st ∈ [0, 3], ∀ e ∈ [(4, 15, 0, true), (16, 3, 0, true), (4, 16, 0, false), (3, 0, 0, false), (17, 0, 0, false), (4, 2, 4294967294, true)], let s := wRing st e.1 e.2.1 e.2.2.1
      let base := if ctxState s wErr.slot = 0 then 0x2000 else slotReg wErr.slot 0x068
      let lg := regF s base 4 0
      let used := (regF s (base + 8) 31 0 + 2 ^ 32 - regF s (base + 8) 63 32) % 2 ^ 32
      ctxState s wErr.slot = st ∧ ((4 ≤ lg ∧ lg ≤ 16 ∧ used < 2 ^ lg) ↔ e.2.2.2 = true)) := by
  refine ⟨?_, ?_⟩
  · decide
  · refine ⟨?_, ?_, ?_, ?_, ?_, ?_, ?_, ?_⟩ <;> decide +kernel

theorem witness_ErrorsAreRecorded_scrubs :
    (∀ b ∈ [0, 23], ∀ o ∈ [EccOutcome.clean, .uncorrectable, .corrected 17], let s : State := { occ := .scrub 2047 (.dataBank b) o, scrubRounds := 1025 }
      s.occ = .scrub 2047 (.dataBank b) o ∧ 2047 < 2048 ∧ b < 24 ∧ kget false s.poison (2047 * 2 ^ 15 + 1024 * b + (kget 0 s.scrubAt (arrayKey 2047 (.dataBank b)) + s.scrubRounds) % 1024) = false ∧
        (kget (0, 0) s.eccLast (arrayKey 2047 (.dataBank b))).1 = 0) ∧
    (∀ n ∈ [65535, 65536], let s : State := { now := n, occ := .scrub 5 (.dataBank 3) (.corrected 17), eccLast := [(arrayKey 5 (.dataBank 3), (1, 0))] }
      kget (0, 0) s.eccLast (arrayKey 5 (.dataBank 3)) = (1, 0) ∧ (s.now + 1 < 1 + 65536 ↔ n = 65535)) ∧
    (let s : State := { occ := .scrub 5 (.dataBank 3) .clean, poison := [(5 * 2 ^ 15 + 3072, true)] }
     s.occ = .scrub 5 (.dataBank 3) .clean ∧ kget false s.poison (5 * 2 ^ 15 + 1024 * 3 + (kget 0 s.scrubAt (arrayKey 5 (.dataBank 3)) + s.scrubRounds) % 1024) = true) ∧
    (let s : State := { now := 100, occ := .at (5 * 2 ^ 15 + 7), banks := [(bankKey (64 * (5 * 2 ^ 15 + 7)), 101)] }
     s.occ = .at (5 * 2 ^ 15 + 7) ∧ (5 * 2 ^ 15 + 7) % 2 ^ 15 < 0x6000 ∧ bankTaken s (bankKey (64 * (5 * 2 ^ 15 + 7))) = true) ∧
    (∀ o ∈ [EccOutcome.clean, .corrected 17, .uncorrectable], let s : State := { flaws := [(7, o)] }
      kget .clean s.flaws 7 = o) ∧ ({} : State).occ = .none := by
  refine ⟨?_, ?_, ?_, ?_, ?_, rfl⟩ <;> decide +kernel

/-- A round at the last pseudo-channel, whose unit 15 of the window has the outcome `o`, is poisoned or not, after a record of cycle `last`. -/
def wHscrub (o : EccOutcome) (poisoned : Bool) (last : Nat) : State :=
  { now := 70000, occ := .hbmScrub 11 31 1, hscrubRounds := 2 ^ 21 - 1, hflaws := [(pcAddr 11 31 1 (512 * (2 ^ 21 - 1) + 480) / 32, o)], hpoison := if poisoned then [(pcAddr 11 31 1 (512 * (2 ^ 21 - 1) + 480) / 32, true)] else [],
    eccLast := [(hbmKey 11 31 1, (last, 0))] }

theorem witness_ErrorsAreRecorded_hbmScrubs :
    ∀ e ∈ [(EccOutcome.clean, false, 0), (.uncorrectable, false, 0), (.clean, true, 0), (.corrected 17, false, 0), (.corrected 17, false, 4464), (.corrected 17, false, 4466)], let s := wHscrub e.1 e.2.1 e.2.2
      let at_ := (kget 0 s.scrubAt (hbmKey 11 31 1) + s.hscrubRounds) % 2 ^ 21
      let unit_ := fun (i : Nat) => pcAddr 11 31 1 (512 * at_ + 32 * i) / 32
      s.occ = .hbmScrub 11 31 1 ∧ kget .clean s.hflaws (unit_ 15) = e.1 ∧ kget false s.hpoison (unit_ 15) = e.2.1 ∧ (kget (0, 0) s.eccLast (hbmKey 11 31 1)).1 = e.2.2 ∧
        ∀ i ∈ List.range 15, kget .clean s.hflaws (unit_ i) = .clean ∧ kget false s.hpoison (unit_ i) = false := by
  decide +kernel

/-- Cluster 2, halted or not since cycle 90, with debug registers `r`; tile 5 runs a booked step. -/
def wHalt (o : Occ) (h : Bool) (r : List (Nat × BitVec 64)) : State :=
  let s := modBk { now := 100, occ := o, regs := r } 5 fun b => { b with run := some { aRun 5 with booking := some (wB4 true) } }
  let s := if h then (clusterTiles 2).foldl (fun s t => modAg s t fun g => { g with halted := some 90 }) s else s
  { s with agenda := [⟨105, 10, .issue 5⟩, ⟨105, 10, .issue 600⟩], frozen := [(2, ⟨95, 10, .issue 4⟩), (2, ⟨95, 10, .ev .putArrival (.pkt (wP (.put 0 0 0)))⟩)] }

theorem witness_ClustersHaltAndResume :
    (∀ h ∈ [false, true], let s := wHalt (.at2 2 1) h [(dbgReg 2 0, 0x10)]
      s.occ = .at2 2 1 ∧ 2 < 512 ∧ 1 < 4 ∧ isHalted s 2 = h ∧ regF s (dbgReg 2 0) 4 4 = 1 ∧ (entryAgent ⟨105, 10, .issue 5⟩).bind clusterOfAgent = some 2 ∧ (entryAgent ⟨105, 10, .issue 600⟩).bind clusterOfAgent ≠ some 2) ∧
    (let s := wHalt (.at3 2 0 2) false [(dbgReg 2 0, 0x70000), (dbgReg 3 0, 0x70020), (dbgReg 4 0, 0x60020)]
     s.occ = .at3 2 0 2 ∧ regF s (dbgReg 3 0) 5 5 = 1 ∧ regF s (dbgReg 3 0) 23 16 = regF s (dbgReg 2 0) 23 16 ∧ regF s (dbgReg 4 0) 23 16 ≠ regF s (dbgReg 2 0) 23 16) ∧
    (let s := wHalt (.at 2) true [(dbgReg 2 0, 8)]
     s.occ = .at 2 ∧ (ag s (clusterTile 2 0)).halted = some 90 ∧ 90 ≤ s.now ∧ (∃ f ∈ s.frozen, f.1 = 2 ∧ portEntry s f.2 = false) ∧ (∃ f ∈ s.frozen, f.1 = 2 ∧ portEntry s f.2 = true) ∧ (bookingOf s 5).isSome = true ∧
       (∀ x ∈ clusterTiles 2, ((bk s x).run.all fun r => decide (r.key.tile = x ∧ stepStOf s r.key ≠ .committed)) = true) ∧ 5 ∈ clusterTiles 2 ∧ regF s (dbgReg 2 0) 3 3 = 1) ∧
    (∀ h ∈ [false, true], ∀ e ∈ [(0, 127), (0, 128), (1, 8), (2, 0x367FF)], let s := wHalt (.reg 2 7) h [(dbgReg 2 0x10, BitVec.ofNat 64 (4 * e.1 + 256 * e.2))]
      s.occ = .reg 2 7 ∧ isHalted s 2 = h ∧ regF s (dbgReg 2 0x10) 3 2 = e.1 ∧ regF s (dbgReg 2 0x10) 31 8 = e.2) ∧
    (8 * 0x367FF < 0x1B4000 ∧ ∀ k ∈ List.range 8, ∀ w ∈ [0, 1], pairWord (wHalt (.reg 2 7) true []) 5 k w = 0) := by
  refine ⟨?_, ?_, ?_, ?_, ?_⟩ <;> decide +kernel

/-- The debug block of cluster 2 with a code write of mode `m` at `a` for slot `k`, while slot 1 is in state `st`; tile 5 runs with line 320 (cache mode) or line 3 (overlay) copied. -/
def wCode (m a k st : Nat) : State :=
  let s := wMem (.at 2)
  let s : State := { s with regs := [(0x4200, BitVec.ofNat 64 st), (0x4208, 0x100000), (dbgReg 2 0x20, BitVec.ofNat 64 (a + 2 ^ 52 * k + 2 ^ 62 * m))], owners := [(2, 1)] }
  modBk s 5 fun b => { b with run := some { aRun 5 with codeVa := 0x10000 }, q := { b.q with lines := [(3, some 7), (320, some 7)] } }

theorem witness_CodeWritesAndSamples_writes :
    (∀ e ∈ [(2, 0x10040, true), (0, 0x10041, true), (1, 0x17FFC0, true), (1, 0x194000, true), (1, 0x180300, false), (0, 0x10040, false)], let s := wCode e.1 e.2.1 1 3
      let slot := regF s (dbgReg 2 0x20) 55 52
      let a := regF s (dbgReg 2 0x20) 51 0
      let mode := regF s (dbgReg 2 0x20) 63 62
      s.occ = .at 2 ∧ slot = 1 ∧ a = e.2.1 ∧ mode = e.1 ∧ ((2 ≤ mode ∨ a % 64 ≠ 0 ∨ (mode = 1 ∧ (a < 0x180000 ∨ 0x194000 ≤ a))) ↔ e.2.2 = true) ∧ ctxState s slot = 3 ∧ kget 0 s.codeLeft 2 = 0) ∧
    ctxState (wCode 0 0x10040 1 4) 1 = 4 ∧
    isErr (translate (wCode 0 0x200000 1 3) (2112 + 2) 1 0x200000 true).2 0xA0 = true ∧
    isOk ((translate (wCode 0 0x10040 1 3) (2112 + 2) 1 0x10040 true).2.map fun x => (x.1.host, x.1.key, x.1.pa)) (false, none, 0x10040) = true ∧ paOk 0x10040 = true ∧ (wCode 0 0x10040 1 3).hpairs = [] ∧
    codeCopies (wCode 0 0x10040 1 3) 1 0x10040 = [(5, 320)] ∧ codeCopies (wCode 0 0x11000 1 3) 1 0x11000 = [] ∧
    imageCopies (wCode 1 0x180300 1 3) [4, 5] ((0x180300 - 0x180000) / 256) = [(5, 3)] ∧ (wCode 1 0x180300 1 3).pairs = [] ∧ (∀ e ∈ [(0, 0x200000), (0, 0x10040)], (wCode e.1 e.2 1 3).flaws = [] ∧ (wCode e.1 e.2 1 3).hflaws = []) := by
  refine ⟨?_, ?_, ?_, ?_, ?_, ?_, ?_, ?_, ?_, ?_, ?_⟩ <;> decide +kernel

/-- Tile 5 with the bundle of its step in issue until cycle `e`, at the discard of line 320 for cluster 2. -/
def wDrop (e left : Nat) : State :=
  { modBk { now := 100, occ := .at3 2 5 320 } 5 (fun b => { b with run := some (aRun 5), q := { b.q with started := true, bundleEnd := e } }) with codeLeft := [(2, left)] }

theorem witness_CodeWritesAndSamples_samples :
    (∀ e ∈ [99, 100], ∀ n ∈ [2, 3], let s := wDrop e n
      s.occ = .at3 2 5 320 ∧ (((bk s 5).run.isSome = true ∧ (bk s 5).q.started = true ∧ s.now ≤ (bk s 5).q.bundleEnd ∧ (ag s 5).halted = none) ↔ e = 100) ∧ kget 0 s.codeLeft 2 = n) ∧
    (∀ e ∈ [(4, 1), (5, 1), (4, 0)], let s : State := { now := 100, occ := .at 4, smpChain := e.1, regs := [(0x2100, BitVec.ofNat 64 e.2), (0x2108, 10), (0x2110, 20)] }
      s.occ = .at 4 ∧ ((s.smpChain = 4 ∧ regF s 0x2100 0 0 = 1) ↔ (e.1 = 4 ∧ e.2 = 1)) ∧ 0 < regF s 0x2108 31 0 ∧ (reg s 0x2110).toNat ≤ gtOf s ∧ (gtOf s - (reg s 0x2110).toNat) % regF s 0x2108 31 0 = 0) := by
  refine ⟨?_, ?_⟩ <;> decide +kernel

/-- Tile 5 with the agent's fields `f` and its bank's `g`, its step in state `st`, in cycle 100. -/
def wSmp (st : StepState) (f : Agent → Agent) (g : Bank → Bank) : State :=
  modAg (modBk { now := 100, steps := [{ aRec with st := st }] } 5 fun b => g { b with run := some (aRun 5) }) 5 f

/-- What tells the run states apart: halted, faulted, flipping, idle, a bundle begun in this cycle, the three waits, the cycle's hold, and a bundle in issue. -/
theorem witness_SampleWordsTellRunStates :
    ((ag (wSmp .running (fun g => { g with halted := some 90 }) id) 5).halted ≠ none) ∧
    (let s := wSmp (.faulted 0x40) id id
     (ag s 5).halted = none ∧ (bk s 5).run = some (aRun 5) ∧ stepStOf s (aRun 5).key = .faulted 0x40) ∧
    (∀ f ∈ [none, some 164], ∀ i ∈ [0, 99, 101], ∀ w ∈ [Wait.none, .idle, .curtain true, .sync 7, .tree 3 9 7], ∀ h ∈ [(100, 3), (101, 3), (101, 2)], ∀ e ∈ [99, 100],
      let s := wSmp .running (fun g => { g with flip := f, lastIssue := i, lastHold := h }) (fun b => { b with wait := w, q := { b.q with started := true, bundleEnd := e } })
      (ag s 5).halted = none ∧ stepStOf s (aRun 5).key = .running ∧ (ag s 5).flip = f ∧ (bk s 5).run = some (aRun 5) ∧ ((bk s 5).wait = .idle ↔ w = .idle) ∧ (bk s 5).wait = w ∧ ((ag s 5).lastIssue = s.now + 1 ↔ i = 101) ∧
        ((ag s 5).lastHold.1 = s.now + 1 ↔ h.1 = 101) ∧ (ag s 5).lastHold.2 ≠ 8 ∧ (((bk s 5).q.started = true ∧ s.now ≤ (bk s 5).q.bundleEnd) ↔ e = 100)) ∧
    (bk ({} : State) 5).run = none ∧ (ag ({} : State) 5).halted = none ∧ (ag ({} : State) 5).flip = none := by
  refine ⟨?_, ?_, ?_, ?_, ?_, ?_⟩ <;> decide +kernel

/-- An idle package's snapshot of die 0 is of one run of 524 words, and so of one unit. -/
theorem witness_CodeWritesAndSamples_rings :
    ∀ e ∈ [(4, 15, true), (4, 16, false), (3, 0, false), (17, 0, false)], let s : State := { now := 100, regs := [(0x2140, BitVec.ofNat 64 (0x700000 + e.1)), (0x2148, BitVec.ofNat 64 e.2.1)] }
      let units := (32 + 8 * (runsOf ((dieAgents 0).map (sampleWord s))).length + 63) / 64
      let lg := regF s 0x2140 4 0
      units = 1 ∧ (∀ w ∈ (dieAgents 0).map (sampleWord s), w < 2 ^ 32) ∧ (runsOf ((dieAgents 0).map (sampleWord s)))[0]? = some (8 * 2 ^ 28, 524) ∧ ((4 ≤ lg ∧ lg ≤ 16 ∧ (regF s 0x2148 31 0 + 2 ^ 32 - regF s 0x2148 63 32) % 2 ^ 32 + units ≤ 2 ^ lg) ↔ e.2.2 = true) := by
  decide +kernel
/-- The state with registers `r` at the event `o`. -/
def wReg (o : Occ) (r : List (Nat × Nat)) : State := { now := 5000, occ := o, regs := r.map fun x => (x.1, BitVec.ofNat 64 x.2) }

/-- How a stage of 4 to 6 or 8 ends, and the calibrated `vmin`, are free constants: of the two clauses on them, the one that holds applies. -/
theorem witness_PowerAndBringUp_bringup :
    (∀ p ∈ [false, true], let s : State := { wReg .none [] with powered := p }
      s.occ = .none ∧ s.powered = p) ∧
    (∀ n ∈ [1, 2, 3, 4, 5, 6, 7, 8], let s := wReg (.at2 0 n) [(0, 65536 * n)]
      s.occ = .at2 0 n ∧ s.powered = true ∧ s.powerCycle = 0 ∧ regF s 0x0000 19 16 = n ∧ regF s 0x0000 31 24 = 0) ∧
    (∀ n ∈ [1, 2, 3, 7], stageCode (wReg (.at2 0 n) [(0, 65536 * n)]) n = 0) ∧
    (∀ n ∈ [8, 9], let s := wReg (.at 0) [(0, 65536 * n)]
      s.occ = .at s.powerCycle ∧ s.powered = true ∧ regF s 0x0000 31 24 = 0 ∧ (regF s 0x0000 19 16 = 9 ↔ n = 9)) ∧
    (wReg (.at 255) []).occ = .at 255 := by
  refine ⟨?_, ?_, ?_, ?_, ?_⟩ <;> decide +kernel

theorem witness_PowerAndBringUp_power :
    (∀ b ∈ [0, 1], ∀ e ∈ [(true, 0), (false, 0), (true, 7)], let s : State := { wReg (.at 2) [(0x0108, 2 ^ 63 * b), (0, 2 ^ 24 * e.2)] with powered := e.1 }
      s.occ = .at 2 ∧ regF s 0x0108 63 63 = b ∧ (s.powered = true ∧ regF s 0x0000 31 24 = 0 ↔ e = (true, 0))) ∧
    (5 ∈ clusterTiles 2 ∧ (ag (running (wReg (.at 2) []) 5) 5).front.run ≠ none ∧ (ag (modAg (wReg (.at 2) []) 5 fun g => { g with wings := { run := some (aRun 5) } }) 5).wings.run ≠ none ∧
      (∃ r ∈ [{ aRec with st := StepState.loading }], r.key.tile = 5 ∧ r.st = .loading) ∧ tagOf { wReg (.at 2) [] with tags := [(5 * 2 ^ 15 + 32767, 3)] } (5 * 2 ^ 15 + 32767) ≠ 0) ∧
    (∀ old ∈ [0, 1, 2, 3], let s := wReg (.at 2) [(0x0400, old * 16)]
      powerState s 2 = old ∧ regF s 0x0108 63 63 = 0 ∧ s.powered = true ∧ regF s 0x0000 31 24 = 0 ∧ s.tags = [] ∧ s.steps = [] ∧ ∀ t ∈ clusterTiles 2, (ag s t).front.run = none ∧ (ag s t).wings.run = none) ∧
    (∀ st ∈ [0, 1, 2, 3], ∀ old ∈ [0, 1, 3], let s := wReg (.at2 511 st) [(0x0478, old * 2 ^ 62)]
      s.occ = .at2 511 st ∧ powerState s 511 = old) ∧
    (∀ b ∈ [false, true], let s : State := { wReg (.reg 3 550) [(0x0158, 550 + 65536 * 550)] with agenda := if b then [⟨9000, 10, .ev .vddRampStep (.at 3)⟩] else [] }
      s.occ = .reg 3 550 ∧ dieRuns s = true ∧ (550#64).toNat % 1024 % 5 = 0 ∧ (550#64).toNat % 1024 ≤ 650 ∧ ramping s 3 = b) ∧
    dieRuns { wReg (.reg 3 550) [] with powered := false } = false ∧
    (∀ n ∈ [551, 655, 1000], (wReg (.reg 3 (BitVec.ofNat 64 n)) []).occ = .reg 3 (BitVec.ofNat 64 n) ∧ ¬ ((BitVec.ofNat 64 n).toNat % 1024 % 5 = 0 ∧ (BitVec.ofNat 64 n).toNat % 1024 ≤ 650)) ∧
    (∀ n ∈ [545, 550, 555], let s := wReg (.at 3) [(0x0158, n + 65536 * 550)]
      s.occ = .at 3 ∧ regF s (0x0140 + 8 * 3) 9 0 = n ∧ regF s (0x0140 + 8 * 3) 25 16 = 550) ∧
    (wReg (.at 4) []).occ = .at 4 ∧ (wReg (.at 4) []).thermtrip = false := by
  refine ⟨?_, ?_, ?_, ?_, ?_, ?_, ?_, ?_, ?_, ?_⟩ <;> decide +kernel

theorem witness_PodAndSwitch_time :
    (∀ e ∈ [(2, 0, 0, 0, false, false), (0, 1, 0, 0, false, false), (0, 0, 1, 0, false, false), (0, 0, 3, 0, false, false), (0, 0, 2, 8, true, false), (0, 0, 0, 0, true, true), (0, 0, 0, 1 + 2 ^ 14, true, true)],
      let s := wReg (.reg 0x7008 5000) [(0x2100, e.2.1), (0x4200, e.2.2.1), (0x7000, e.2.2.2.1), (0x7008, e.1)]
      s.occ = .reg 0x7008 5000 ∧ ((regF s 0x7008 1 1 = 0 ∧ regF s 0x2100 0 0 = 0 ∧ ∀ k ∈ List.range 16, ctxState s k ≠ 1 ∧ ctxState s k ≠ 3) ↔ e.2.2.2.2.1 = true) ∧ (e.2.2.2.2.1 = true → podNumberOk s = e.2.2.2.2.2) ∧
        gtOf s ≤ (5000#64).toNat ∧ 0 ≤ (s.now : Int) + s.gtAdj) ∧
    (4999#64).toNat < gtOf (wReg (.reg 0x7008 4999) []) ∧ regF (wReg (.reg 0x7008 5000) [(0x7000, 1 + 2 ^ 14)]) 0x7000 9 0 ≠ 0 ∧
    (∀ o ∈ [(-2, true), (-1, true), (0, true), (1, true), (2, true), (0, false)], ∀ j ∈ [0, 2], ∀ d ∈ [false, true], let b : Beat := ⟨o.1, o.2⟩
      let s : State := { wReg (.beat b) [(0x7008, j)] with parentDown := d, beats := 15 }
      s.occ = .beat b ∧ (regF s 0x7008 1 1 = 1 ↔ j = 2) ∧ s.parentDown = d ∧ 15 ≤ s.beats) := by
  refine ⟨?_, ?_, ?_, ?_⟩ <;> decide +kernel

theorem witness_PodAndSwitch_switch :
    (∀ n ∈ [0, 1, 2, 3], let s := wReg .none [(0x7118, n)]
      s.occ = .none ∧ regF s 0x7118 2 0 = n ∧ s.switch.atCurtain = none) ∧
    (∀ e ∈ [(1, 10000, 20000), (0, 10000, 20000), (0, 9095, 20000), (0, 9096, 9096)], let s := wReg (.reg 0x7110 (0x0210#64)) [(0x4200, 0), (0x4280, 0), (0x4400, 0), (0x7100, e.2.1), (0x7108, e.2.2), (0x7118, e.1)]
      s.occ = .reg 0x7110 0x0210 ∧ (regF s 0x7118 2 0 = 1 ↔ e.1 = 1) ∧ ((gtOf s + 4096 ≤ (reg s 0x7100).toNat ∧ (reg s 0x7100).toNat < (reg s 0x7108).toNat) ↔ e.2.1 = 10000)) ∧
    (let s := wReg (.reg 0x7110 (0x0210#64)) [(0x4200, 3), (0x4280, 0x100000 + 27), (0x4400, 1), (0x4480, 0x100000 + 30), (0x7100, 10000), (0x7108, 20000)]
     ctxState s 1 = 3 ∧ ctxState s 2 = 1 ∧ collOk s 1 = true ∧ collOk s 2 = true) ∧
    (∀ n ∈ [1, 2], let s : State := { wReg (.at 4) [(0x7118, n)] with switch := { no := 4, out := 1, d := 20000 } }
      s.occ = .at s.switch.no ∧ regF s 0x7118 2 0 = n ∧ s.switch.atCurtain = none ∧ s.switch.d < 2 ^ 64) ∧
    (∀ p ∈ [2, 3], let s : State := { wReg (.at p) [] with switch := { no := 4, marks := [2] } }
      s.occ = .at p ∧ (p ∈ s.switch.marks ↔ p = 2) ∧ ({ s with occ := .at2 4 p } : State).occ = .at2 s.switch.no p) := by
  refine ⟨?_, ?_, ?_, ?_, ?_⟩ <;> decide +kernel

theorem witness_RegistersAndReports :
    (∀ e ∈ [(0, 0x2000), (1, 0x2000), (1, 0x2001), (1, 0x2008), (1, 0x7100), (1, 0x3000), (1, 0x1000), (1, 0x7000), (1, 0x4228), (1, 0x4210), (1, 0x4268), (1, 0x4270), (1, 0x4258), (1, 0x4300), (1, 0x4328), (1, 0x180008), (1, 0x100018)],
      let s := wReg (.reg e.2 7) [(0, e.1)]
      s.occ = .reg e.2 7 ∧ regF s 0x0000 0 0 = e.1) ∧
    (slotReg 1 0x028 = 0x4228 ∧ slotReg 1 0x010 = 0x4210 ∧ slotReg 1 0x068 = 0x4268 ∧ slotReg 1 0x070 = 0x4270 ∧ slotReg 1 0x058 = 0x4258 ∧ slotReg 1 0x100 = 0x4300 ∧ slotReg 1 0x128 = 0x4328 ∧ dcReg 3 = 0x100018) ∧
    (∀ b ∈ [0, 1], regF (wReg (.reg 0x1000 7) [(0, 1), (0x1008, b)]) 0x1008 0 0 = b ∧ regF (wReg (.reg 0x7000 7) [(0, 1), (0x7008, 2 * b)]) 0x7008 1 1 = b ∧
      ctxState (wReg (.reg 0x4210 7) [(0, 1), (0x4200, b)]) 1 = b ∧ pbEnabled (wReg (.reg 0x4300 7) [(0, 1), (0x4320, 8 * b)]) 1 = decide (b = 1)) ∧
    (∀ e ∈ [(1, 9, true), (1, 8, false), (12 * 2 ^ 26, 9, false)], let s := wReg .none [(0, 65536 * e.2.1), (0x7200, 1024 * e.1)]
      s.occ = .none ∧ s.attBusy = false ∧ ((paOk (regF s 0x7200 47 10 * 1024) = true ∧ regF s 0x0000 19 16 = 9) ↔ e.2.2 = true)) ∧
    (let s : State := { wReg .none [] with attBusy := true }
     s.occ = .none ∧ s.attBusy = true) ∧
    (∀ up ∈ [0, 1], ∀ e ∈ [(8, 0x2000, true), (8, 0x2000, false), (4, 0x2000, true), (8, 0x2001, false)], let s := wReg (.host (0xFF00000000 + e.2.1) e.1 e.2.2 7) [(0, 1), (0x0200, up)]
      s.occ = .host (0xFF00000000 + e.2.1) e.1 e.2.2 7 ∧ regF s 0x0200 0 0 = up ∧ e.2.1 < 2 ^ 24 ∧ s.powered = true ∧ regF s 0x0000 31 24 = 0) ∧
    (let s := wReg (.host 0xFF00002000 8 true 7) [(0, 2 ^ 24), (0x0200, 1)]
     regF s 0x0200 0 0 = 1 ∧ regF s 0x0000 31 24 ≠ 0 ∧ ({ s with powered := false } : State).powered = false) ∧
    (wReg (.at 1024) []).occ = .at 1024 := by
  refine ⟨?_, ?_, ?_, ?_, ?_, ?_, ?_, ?_⟩ <;> decide +kernel
/-- Tile 5 whose predicate p3 holds, with two words in latches. -/
def wBun : State := modBk { now := 100 } 5 fun b => { b with p := 8, x := { b.x with latches := [(64 * Sock.xa.id + 0x20, { val := 9 })] } }

/-- Slots 0 and 1 of the example of R178: `(p3) xa.q0 -> wr0` and `#0xFFFE -> ls.o1`. -/
def wMoves : BundleBits := bundleWords [0x0020087000000890#64, 0x9800100020600000#64, 0x000021013000FFFE#64]

theorem witness_BundleOfMovesIssues : isIssuer 5 = true ∧
    (∃ b, decodeBundle (placeOf wBun 5) wMoves = .ok b ∧ (decide (trsOf b = []) && (movesOn wBun 5 wMoves b).all (fun v => !latchHeld wBun 5 v.m.src) && decide (markOf (bk wBun 5).q b.hdr.lend ≠ .bad) && decide ((bk wBun 5).q.scene = none) &&
      decide ((movesOn wBun 5 wMoves b).length = 7)) = true) ∧
    (∃ e, decodeBundle (placeOf wBun 5) (bundleWords [0x0000000000081810#64, 0#64, 0x0000000010020000#64]) = .error e) := by
  refine ⟨by decide, ok_of (by decide +kernel), ?_⟩
  cases h : decodeBundle (placeOf wBun 5) (bundleWords [0x0000000000081810#64, 0#64, 0x0000000010020000#64]) with
  | error e => exact ⟨e, rfl⟩
  | ok b =>
    have hn : okB (decodeBundle (placeOf wBun 5) (bundleWords [0x0000000000081810#64, 0#64, 0x0000000010020000#64])) (fun _ => true) = false := by decide +kernel
    rw [h] at hn; cases hn

/-- `(p2) #40 -> sq.br` alone in a bundle (R183). -/
def wBr : BundleBits := bundleWords [0#64, 0x9000B00030000028#64]

theorem witness_LoneOperationIsItsSlot :
    (∃ f, runOp (.sqBr ⟨some 2, .imm 0x28⟩) = some (⟨some 2, .imm 0x28⟩, f)) ∧
    (∃ b, decodeBundle (placeOf wBun 5) wBr = .ok b ∧ (match b.items with
      | x :: l => decide (x = (0, .op (.sqBr ⟨some 2, .imm 0x28⟩))) && l.all fun e => decide (e.2 = .mv ⟨none, .zero⟩ .none)
      | [] => false) = true) ∧
    (let s := { wBun with cur := { a := 5 } }
     isIssuer s.cur.a = true ∧ guardOn s 5 ⟨some 2, .imm 0x28⟩ = false ∧ markLegal s = true) ∧
    (let s := { wBun with cur := { a := 5, hdr := 1#64 <<< 56 } }
     isIssuer s.cur.a = true ∧ guardOn s 5 ⟨some 2, .imm 0x28⟩ = false ∧ markLegal s = false) ∧
    (let s := modX { now := 100, cur := { a := 5 } } 5 fun x => { x with flights := [⟨3, .xa, 0x20, some 102, 0, true, false⟩] }
     guardOn s 5 ⟨none, .latch .xa 0x20⟩ = true ∧ latchHeld s 5 (.latch .xa 0x20) = true) := by
  refine ⟨⟨_, rfl⟩, ok_of (by decide +kernel), ?_, ?_, ?_⟩ <;> decide +kernel

/-- Tile 5's running step in overlay mode, about to issue from bundle 3 of its image. -/
def wFetch : State := { modBk (running { now := 90, agenda := [⟨100, 0, .issue 5⟩] } 5) 5 (fun b => { b with q := { b.q with imode := 1, pc := 3 } }) with seq := 5 }

/-- Whether a fetch gives a bundle. -/
def fetches (s : State) (a : Nat) : Bool :=
  match fetch s a with
  | .bits _ _ => true
  | _ => false

theorem witness_StepRunsWhatComesDue :
    ({} : State).agenda = [] ∧
    (let e : Entry := ⟨100, 0, .ev .thermUpdate (.at 0)⟩
     let s : State := { agenda := [e] }
     s.agenda = [e] ∧ e.what = .ev .thermUpdate (.at 0) ∧ frozenAt s e = none) ∧
    (frozenAt wFetch ⟨100, 0, .issue 5⟩ = none ∧ wFetch.agenda = [⟨100, 0, .issue 5⟩]) ∧
    (let h := headMet wFetch ⟨100, 0, .issue 5⟩ []
     let r := aRun 5
     (bk h 5).run = some r ∧ r.going = true ∧ (ag h 5).flip = none ∧ (ag h 5).halted = none ∧ (bk h 5).q.notBefore ≤ h.now ∧ (bk h 5).dfaults = [] ∧ (bk h 5).wait = .none ∧ (bk h 5).c.ipend = 0 ∧ (bk h 5).q.owed = false ∧ (bk h 5).q.after = [] ∧ spawnHeld h 5 = false) ∧ wFetch.flaws = [] ∧ wFetch.hflaws = [] ∧
    fetches (modBk (modAg (headMet wFetch ⟨100, 0, .issue 5⟩ []) 5 fun g => { g with queued := false }) 5 fun b => { b with wait := .none }) 5 = true ∧
    ((bk wFetch 5).q.scene = none ∧ isOverlay (bk wFetch 5).q = true ∧ kget none (bk wFetch 5).q.lines (3 / 4) = none ∧ kget false wFetch.poison (5 * 2 ^ 15 + 0x6000 + 3) = false) := by
  refine ⟨?_, ?_, ?_, ?_, ?_, ?_, ?_, ?_⟩ <;> decide +kernel

/-- Tile 5's `xa` with flights `fs`, at the landing of that unit in cycle 100. -/
def wLand (fs : List Flight) (full : Bool) : State :=
  modX { now := 100, occ := .unit 5 .xa } 5 fun x => { x with flights := fs, latches := [(64 * Sock.xa.id + 0x20, { val := 9, full := full })], pends := [⟨4, .xa, some 100, .preds 2 true⟩] }

theorem witness_ResultsLand :
    (∀ full ∈ [false, true], let f : Flight := ⟨3, .xa, 0x20, some 100, 7, true, false⟩
      let s := wLand [f] full
      s.occ = .unit 5 .xa ∧ (bk s 5).x.flights.filter (fun f => f.u == Sock.xa && dueBy s.now f.due) = [f] ∧ kget none (bk s 5).x.stopped Sock.xa.id = none ∧ f.locked = true ∧ f.pre = false ∧ (latchOf s 5 .xa f.code).full = full) ∧
    (let l : List Flight := [⟨3, .xa, 0x20, some 100, 7, false, false⟩, ⟨4, .xa, 0x20, some 100, 8, false, false⟩]
     let s := wLand (l ++ [⟨5, .xa, 0x21, some 101, 8, false, false⟩]) false
     (bk s 5).x.flights.filter (fun f => f.u == Sock.xa && dueBy s.now f.due) = l ∧ (∀ f ∈ l, f.due = some s.now ∧ f.locked = false ∧ f.pre = false) ∧ ∀ f ∈ (bk s 5).x.flights, f.code < 64) ∧
    (let s := wLand [⟨5, .xa, 0x21, some 101, 8, false, false⟩] false
     (bk s 5).x.flights.filter (fun f => f.u == Sock.xa && dueBy s.now f.due) = [] ∧ (bk s 5).x.pends.filter (fun p => dueBy s.now p.due) = [⟨4, .xa, some 100, .preds 2 true⟩] ∧ (bk s 5).x.stopped = [] ∧ ∀ f ∈ (bk s 5).x.flights, f.u = .xa → f.locked = false) ∧
    (let s := modX (wLand [] false) 5 fun x => { x with stopped := [(Sock.xa.id, some (3, 99))] }
     ∀ p ∈ (bk s 5).x.pends, kget none (bk s 5).x.stopped p.u.id = some (3, 99) ∧ dueBy 99 p.due = false) := by
  refine ⟨?_, ?_, ?_, ?_⟩ <;> decide +kernel

theorem witness_MemoryFormKept : State.reset.memWf = true ∧ ∃ s t : State, s.memWf = true ∧ step s = .next t ∧ t.now = s.now + 1 := by
  exact ⟨by decide +kernel, { sram := [(64, 7)] }, _, by decide +kernel, rfl, rfl⟩

theorem witness_DecodeEncodeAgree :
    instrWf (.sqBr ⟨some 2, .imm 0x28⟩) = true ∧ (encOp (.sqBr ⟨some 2, .imm 0x28⟩)).isSome = true ∧ (∃ n : Nest, instrWf (.vxVnest n) = true) ∧ decodeInstr 0x9000B00030000028#64 = .ok (.sqBr ⟨some 2, .imm 0x28⟩) := by
  refine ⟨by decide, by decide, ⟨⟨false, 0, 0, 0, 0, 0, 1⟩, by decide⟩, eq_ok (by decide +kernel)⟩
end Sys2Proof.Tests
end

/-! SUPPORT. Elements of rows (R245): what a replaced element reads, what it leaves, and the same for a run of replacements. -/

namespace Sys2Proof.Proofs

open Sys2Proof.Machine Sys2Proof.Laws

/-- The bits of a number whose `k` bits from `n` on are replaced by those of `v`. -/
theorem testBit_replaceField (x v n k i : Nat) :
    (x - x / 2 ^ n % 2 ^ k * 2 ^ n + v % 2 ^ k * 2 ^ n).testBit i = if n ≤ i ∧ i < n + k then v.testBit (i - n) else x.testBit i := by
  have hx : x = 2 ^ n * (2 ^ k * (x / 2 ^ n / 2 ^ k) + x / 2 ^ n % 2 ^ k) + x % 2 ^ n := by rw [Nat.div_add_mod, Nat.div_add_mod]
  have hnew : x - x / 2 ^ n % 2 ^ k * 2 ^ n + v % 2 ^ k * 2 ^ n = 2 ^ n * (2 ^ k * (x / 2 ^ n / 2 ^ k) + v % 2 ^ k) + x % 2 ^ n := by
    rw [Nat.mul_add] at hx ⊢
    rw [Nat.mul_comm (x / 2 ^ n % 2 ^ k), Nat.mul_comm (v % 2 ^ k)]
    omega
  have hlow : x % 2 ^ n < 2 ^ n := Nat.mod_lt _ (Nat.two_pow_pos n)
  have hmid : v % 2 ^ k < 2 ^ k := Nat.mod_lt _ (Nat.two_pow_pos k)
  rw [hnew, Nat.testBit_two_pow_mul_add _ hlow, Nat.testBit_two_pow_mul_add _ hmid]
  by_cases h1 : i < n
  · have h3 : ¬ (n ≤ i ∧ i < n + k) := by omega
    rw [if_pos h1, if_neg h3, Nat.testBit_mod_two_pow, decide_eq_true h1, Bool.true_and]
  · by_cases h2 : i - n < k
    · have h3 : n ≤ i ∧ i < n + k := by omega
      rw [if_neg h1, if_pos h2, if_pos h3, Nat.testBit_mod_two_pow, decide_eq_true h2, Bool.true_and]
    · have h3 : ¬ (n ≤ i ∧ i < n + k) := by omega
      have h4 : i - n - k + k + n = i := by omega
      rw [if_neg h1, if_neg h2, if_neg h3, Nat.testBit_div_two_pow, Nat.testBit_div_two_pow, h4]

/-- The bits of an element. -/
theorem testBit_elem (r : Row) (w e i : Nat) : (elem r w e).testBit i = (decide (i < 8 * w) && r.getLsbD (8 * w * e + i)) := by
  rw [elem, Nat.testBit_mod_two_pow, Nat.testBit_div_two_pow, BitVec.testBit_toNat, Nat.add_comm]

/-- The bits of a row with one element replaced. -/
theorem getLsbD_setElem (r : Row) (w e v i : Nat) : (setElem r w e v).getLsbD i =
    (decide (i < 2048) && if 8 * w * e ≤ i ∧ i < 8 * w * e + 8 * w then v.testBit (i - 8 * w * e) else r.getLsbD i) := by
  rw [setElem, elem, BitVec.getLsbD_ofNat, testBit_replaceField, BitVec.testBit_toNat]

/-- A replaced element within the row reads as its new value. -/
theorem elem_setElem_same (r : Row) {w e : Nat} (v : Nat) (h : w * (e + 1) ≤ 256) : elem (setElem r w e v) w e = v % 2 ^ (8 * w) := by
  refine Nat.eq_of_testBit_eq fun i => ?_
  rw [testBit_elem, getLsbD_setElem, Nat.testBit_mod_two_pow]
  by_cases hi : i < 8 * w
  · have hrow : 8 * w * e + i < 2048 := by rw [Nat.mul_add] at h; rw [Nat.mul_assoc]; omega
    have hin : 8 * w * e ≤ 8 * w * e + i ∧ 8 * w * e + i < 8 * w * e + 8 * w := by omega
    rw [decide_eq_true hrow, if_pos hin, Nat.add_sub_cancel_left, Bool.true_and]
  · rw [decide_eq_false hi, Bool.false_and, Bool.false_and]

/-- A replaced element leaves the others. -/
theorem elem_setElem_ne (r : Row) {w e p : Nat} (v : Nat) (h : p ≠ e) (hp : w * (p + 1) ≤ 256) : elem (setElem r w e v) w p = elem r w p := by
  refine Nat.eq_of_testBit_eq fun i => ?_
  rw [testBit_elem, testBit_elem, getLsbD_setElem]
  by_cases hi : i < 8 * w
  · have hrow : 8 * w * p + i < 2048 := by rw [Nat.mul_add] at hp; rw [Nat.mul_assoc]; omega
    have hout : ¬ (8 * w * e ≤ 8 * w * p + i ∧ 8 * w * p + i < 8 * w * e + 8 * w) := by
      rcases Nat.lt_or_gt_of_ne h with hlt | hgt
      · have := Nat.mul_le_mul_left (8 * w) hlt
        rw [Nat.mul_succ] at this
        omega
      · have := Nat.mul_le_mul_left (8 * w) hgt
        rw [Nat.mul_succ] at this
        omega
    rw [decide_eq_true hrow, if_neg hout, Bool.true_and]
  · rw [decide_eq_false hi, Bool.false_and, Bool.false_and]

/-- The row after the elements at `pos 0`, …, `pos (n - 1)` of `r`, where bit `k` of `act` is set, took the values of `val`. -/
def setElems (act : BitVec 64) (w : Nat) (pos val : Nat → Nat) (n : Nat) (r : Row) : Row :=
  (List.range n).foldl (fun r k => if act.getLsbD k then setElem r w (pos k) (val k) else r) r

theorem setElems_succ (act : BitVec 64) (w : Nat) (pos val : Nat → Nat) (n : Nat) (r : Row) :
    setElems act w pos val (n + 1) r =
      if act.getLsbD n then setElem (setElems act w pos val n r) w (pos n) (val n) else setElems act w pos val n r := by
  rw [setElems, List.range_succ, List.foldl_append]
  rfl

/-- A position that no active element goes to keeps its value. -/
theorem elem_setElems_of_unwritten {act : BitVec 64} {w : Nat} {pos : Nat → Nat} (val : Nat → Nat) {n p : Nat} (r : Row)
    (hp : w * (p + 1) ≤ 256) (h : ∀ k, k < n → act.getLsbD k = true → p ≠ pos k) : elem (setElems act w pos val n r) w p = elem r w p := by
  induction n with
  | zero => rfl
  | succ n ih =>
    have ih := ih fun k hk => h k (by omega)
    rw [setElems_succ]
    split
    · rw [elem_setElem_ne _ _ (h n (by omega) ‹_›) hp, ih]
    · exact ih

/-- The position of an active element holds its value, where no two elements share a position. -/
theorem elem_setElems_of_active {act : BitVec 64} {w : Nat} {pos : Nat → Nat} (val : Nat → Nat) {n k : Nat} (r : Row)
    (hpos : ∀ i j, pos i = pos j → i = j) (hp : w * (pos k + 1) ≤ 256) (hk : k < n) (ha : act.getLsbD k = true) :
    elem (setElems act w pos val n r) w (pos k) = val k % 2 ^ (8 * w) := by
  induction n with
  | zero => omega
  | succ n ih =>
    rw [setElems_succ]
    rcases Nat.lt_succ_iff_lt_or_eq.1 hk with hlt | rfl
    · split
      · rw [elem_setElem_ne _ _ (fun h => by have := hpos _ _ h; omega) hp, ih hlt]
      · exact ih hlt
    · rw [if_pos ha, elem_setElem_same _ _ hp]

end Sys2Proof.Proofs

/-! SUPPORT. The issue of an operation of `vx` (R244 to R246): where it may go, it issues with its effect. -/

namespace Sys2Proof.Proofs

open Sys2Proof.Machine Sys2Proof.Laws

/-! ### What the bookkeeping of issue keeps for `vx` -/

section

variable {s t : State} {a : Nat} (h : Kept s t a)
include h

theorem vReg_of_kept (n : Nat) : vReg t a n = vReg s a n := by
  obtain ⟨-, -, hv, -⟩ := h.regs
  rw [vReg, hv, vReg]

theorem mReg_of_kept (n : Nat) : mReg t a n = mReg s a n := by
  obtain ⟨-, -, -, hm, -⟩ := h.regs
  rw [mReg, hm, mReg]

theorem portW_of_kept (u : Sock) (c : Nat) : portW t a u c = portW s a u c := by rw [portW, h.values.1, portW]

theorem vAct_of_kept (w : Word) : vAct t a w = vAct s a w := by rw [vAct, mReg_of_kept h, vAct]

end

/-- Whether a use is inside its booking depends on the step, the booking and the time, and not on what else the agents hold. -/
theorem useOk_of_rest {s t : State} {a : Nat} (h : { t with agents := s.agents, agenda := s.agenda } = s) (hr : (bk t a).run = (bk s a).run)
    (rid cycle : Nat) : useOk t a rid cycle = useOk s a rid cycle := by
  have ht : t = { s with agents := t.agents, agenda := t.agenda } := by rw [← h]
  rw [useOk, useOk, hr, ht]
  rfl

/-- Reading a source latch leaves the step that runs. -/
theorem sourced_run (s : State) (m : Trig) : (bk (sourced s m) s.cur.a).run = (bk s s.cur.a).run := by
  have hland : ∀ (t : State) (u : Sock), bk (schedLandings t s.cur.a u) s.cur.a = bk t s.cur.a := fun t u => by
    rw [bk, ag, schedLandings_agents]; rfl
  unfold sourced
  split
  · simp only [readLatch]
    split
    · split <;> simp only [hland, modX, bk_modBk_same]
    · simp only [modX, bk_modBk_same]
  · rfl

/-! ### The frame of a `vx` operation -/

theorem lowestCause_none {cs : List (Bool × Nat)} (h : ∀ c ∈ cs, c.1 = false) : lowestCause cs = none := by
  have hnil : cs.filterMap (fun c => if c.1 then some c.2 else none) = [] :=
    List.filterMap_eq_nil_iff.2 fun c hc => if_neg (Bool.eq_false_iff.1 (h c hc))
  rw [lowestCause, hnil, List.foldl_nil]

/-- What goes and finds its use inside the booking issues with its own effect. -/
theorem vxOp_issues {s : State} {m : Trig} {r : VReads} {extra : OpCtx → State → List (Bool × Nat)} {q0 q1 : Nat} {go : OpCtx → State → State}
    (h : VxReady s m r []) (hx : ∀ c ∈ extra (ctxOf s m) s, c.1 = false) (h0 : q0 ≤ 1) (h1 : q1 ≤ 1) :
    execOne m (vxOp r extra q0 q1 go) s = .next (issued s m (go (ctxOf s m))) := by
  obtain ⟨hready, hspec, hheld, hlocked, hroom0, hroom1, huse, hbooked⟩ := h
  have hcauses : lowestCause (specCauses r (tVal s m) ++ extra (ctxOf s m) s) = none := by
    refine lowestCause_none fun c hc => ?_
    rcases List.mem_append.1 hc with hc | hc
    · exact hspec c (List.mem_append_left _ hc)
    · exact hx c hc
  have hinside : useOk (sourced s m) s.cur.a (ridTile 2 s.cur.a 0) (sourced s m).now = true := by
    rw [useOk_of_rest (kept_sourced s m).rest (sourced_run s m), sourced_now, hbooked]
  have hgo : vxOp r extra q0 q1 go (ctxOf s m) s =
      .go fun t => go (ctxOf s m) (checkUse (useOk t s.cur.a (ridTile 2 s.cur.a 0) t.now) s.cur.a t) := by
    have hfull0 : decide (32 < inFlight s s.cur.a .vx 0x20 + q0) = false := decide_eq_false (by omega)
    have hfull1 : decide (32 < inFlight s s.cur.a .vx 0x21 + q1) = false := decide_eq_false (by omega)
    simp only [ctxOf] at hcauses ⊢
    simp only [vxOp, hheld, hlocked, hfull0, hfull1, huse, hcauses, Bool.or_false, Bool.false_eq_true, if_false]
  rw [execOne_go hready hgo]
  simp only [issued, hinside, checkUse, if_true]

/-- An operation that writes one register: the write is due, and it only computes. -/
theorem pend_issued {s : State} {m : Trig} {e : State → State} {u : Sock} {i lat : Nat} {w : RegWrite}
    (he : e (sourced s m) = pend (sourced s m) s.cur.a u i (some (s.now + lat)) w) :
    WriteDue (issued s m e) s.cur.a u (s.now + lat) w ∧ OnlyComputes s (issued s m e) :=
  ⟨writeDue_issued (he ▸ writeDue_pend _ _ _ _ _ _), (kept_issued (he ▸ kept_pend _ _ _ _ _ _)).onlyComputes⟩

/-- An operation that delivers one result: it only computes, and the result is due. -/
theorem fly_issued {s : State} {m : Trig} {e : State → State} {u : Sock} {code lat : Nat} {v : Row}
    (he : e (sourced s m) = fly (sourced s m) s.cur.a u code lat v) :
    OnlyComputes s (issued s m e) ∧ ResultDue s (issued s m e) s.cur.a u code (s.now + lat) v :=
  ⟨(kept_issued (he ▸ kept_fly _ _ _ _ _ _)).onlyComputes, resultDue_issued (he ▸ sourced_now s m ▸ resultDue_fly _ _ _ _ _ _)⟩

/-! ### The fields of a specifier word -/

/-- The mask of the active lanes holds the bit of each (R245). -/
theorem getLsbD_vAct (s : State) (t : Word) {i : Nat} (hi : i < 64) : (vAct s s.cur.a t).getLsbD i = vActive s t i := by
  unfold vAct vActive vsMen vsMask
  cases t.getLsbD 27 with
  | false => exact (BitVec.getLsbD_allOnes).trans (decide_eq_true hi)
  | true => rfl

end Sys2Proof.Proofs

/-! SUPPORT. The reductions of `vx` (R141, R256): their tree over the lanes, level by level, and what their steps combine. -/

namespace Sys2Proof.Proofs

open Sys2Proof.Machine Sys2Proof.Laws

/-! ### The tree -/

/-- Pairing up an even number of lanes gives one value for each pair. -/
theorem pairUp_map_range (f : Word → Word → Word) (n : Nat) (x : Nat → Word) :
    pairUp f ((List.range (2 * n)).map x) = (List.range n).map fun i => f (x (2 * i)) (x (2 * i + 1)) := by
  induction n generalizing x with
  | zero => rfl
  | succ n ih =>
    have htwo : (List.range (2 * (n + 1))).map x = x 0 :: x 1 :: (List.range (2 * n)).map fun i => x (i + 2) := by
      simp only [Nat.mul_succ, List.range_succ_eq_map, List.map_cons, List.map_map, Function.comp_def]
    rw [htwo, pairUp, ih, List.range_succ_eq_map, List.map_cons, List.map_map]
    rfl

/-- One level of the tree follows from the one below. -/
theorem pairUp_treeNode (f : Word → Word → Word) (x : Nat → Word) (l n : Nat) :
    pairUp f ((List.range (2 * n)).map (treeNode f x l)) = (List.range n).map (treeNode f x (l + 1)) := pairUp_map_range f n _

/-- The reduction of 64 lanes is the node at the top of its six levels (R141). -/
theorem treeRed_eq_treeNode (f : Word → Word → Word) (x : Nat → Word) : treeRed f ((List.range 64).map x) = treeNode f x 6 0 := by
  have hlanes : (List.range 64).map x = (List.range (2 * 32)).map (treeNode f x 0) := rfl
  rw [treeRed, hlanes, pairUp_treeNode f x 0 32, pairUp_treeNode f x 1 16, pairUp_treeNode f x 2 8, pairUp_treeNode f x 3 4,
    pairUp_treeNode f x 4 2, pairUp_treeNode f x 5 1]
  rfl

/-! ### The steps of the maximum and the minimum -/

/-- A pattern of a wide format is a NaN where its exponent is all ones and its trailing bits are not all 0 (R125). -/
theorem isNaNOf_wide (eb tb v : Nat) :
    isNaNOf (.wide eb tb) v = (decide (v / 2 ^ tb % 2 ^ eb = 2 ^ eb - 1) && !decide (v % 2 ^ tb = 0)) := by
  simp only [isNaNOf, decodeNum, finVal]
  by_cases he : v / 2 ^ tb % 2 ^ eb = 2 ^ eb - 1
  · rw [if_pos he, decide_eq_true he, Bool.true_and]
    by_cases ht : v % 2 ^ tb = 0
    · rw [if_pos ht, decide_eq_true ht]
      rfl
    · rw [if_neg ht, decide_eq_false ht]
      rfl
  · rw [if_neg he, decide_eq_false he, Bool.false_and]
    by_cases h0 : v / 2 ^ tb % 2 ^ eb = 0
    · rw [if_pos h0]
    · rw [if_neg h0]

/-- Whether a field of a word has a value. -/
theorem extractLsb'_beq (w : Word) (lo n : Nat) (v : BitVec n) : (w.extractLsb' lo n == v) = decide (w.toNat / 2 ^ lo % 2 ^ n = v.toNat) := by
  rw [Bool.eq_iff_iff, beq_iff_eq, decide_eq_true_iff, ← BitVec.toNat_inj, BitVec.extractLsb'_toNat, Nat.shiftRight_eq_div_pow]

/-- The bits that make an FP32 word a NaN are those by which its pattern decodes to one (R125, R127). -/
theorem isNaNOf_fp32 (w : Word) : isNaNOf fp32 w.toNat = isNaN32 w := by
  rw [isNaN32, bne, extractLsb'_beq, extractLsb'_beq, Nat.pow_zero, Nat.div_one, fp32, isNaNOf_wide]
  rfl

/-- A word chosen by its pattern is the word chosen. -/
theorem wd_ite_toNat (c : Prop) [Decidable c] (a b : Word) : wd (if c then a.toNat else b.toNat) = if c then a else b := by
  split <;> exact BitVec.eq_of_toNat_eq (BitVec.toNat_ofNat _ _ ▸ Nat.mod_eq_of_lt (BitVec.isLt _))

/-- The maximum and the minimum of the tree take one of their operands where neither is a NaN (R256). -/
theorem redMax_eq (a b : Word) : redMax a b =
    if isNaN32 a then quiet a else if isNaN32 b then quiet b else if fpOrd fp32 a.toNat < fpOrd fp32 b.toNat then b else a := by
  rw [redMax, fpMax, isNaNOf_fp32, isNaNOf_fp32]
  split
  · rfl
  · split
    · rfl
    · exact wd_ite_toNat _ _ _

theorem redMin_eq (a b : Word) : redMin a b =
    if isNaN32 a then quiet a else if isNaN32 b then quiet b else if fpOrd fp32 b.toNat < fpOrd fp32 a.toNat then b else a := by
  rw [redMin, fpMin, isNaNOf_fp32, isNaNOf_fp32]
  split
  · rfl
  · split
    · rfl
    · exact wd_ite_toNat _ _ _

/-! ### The operations -/

/-- A reduction completes: the top of its tree is due in `q0`, where the lanes that the mask leaves out read as `empty`. -/
theorem vxRed_issues {s : State} {m : Trig} (f : Word → Word → Word) (empty : Word) (h : VxReady s m { a := .reg } []) :
    ∃ u, execOne m (vxRed f empty) s = .next u ∧ OnlyComputes s u ∧ ResultDue s u s.cur.a .vx 0x20 (s.now + 10)
      (rowOf (treeNode f (fun i => if vActive s (tVal s m) i then vLane s ((tVal s m).toNat / 2 ^ 6 % 64) i else empty) 6 0)) := by
  have hk := kept_sourced s m
  have hlanes : ∀ i ∈ List.range 64,
      (if (vAct (sourced s m) s.cur.a (tVal s m)).getLsbD i then lane (vReg (sourced s m) s.cur.a (vsA (tVal s m))) i else empty) =
      if vActive s (tVal s m) i then vLane s ((tVal s m).toNat / 2 ^ 6 % 64) i else empty := by
    intro i hi
    rw [vAct_of_kept hk, vReg_of_kept hk, getLsbD_vAct s _ (List.mem_range.1 hi)]
    rfl
  refine ⟨_, vxOp_issues h (fun _ hc => absurd hc List.not_mem_nil) (by omega) (by omega), fly_issued ?_⟩
  rw [← treeRed_eq_treeNode, ← List.map_congr_left hlanes]
  rfl

/-- R141, R256: the reductions. -/
theorem vectorReductionResults : Claims.VectorReductionResults := by
  intro e he m s h
  simp only [List.mem_cons, List.not_mem_nil, or_false] at he
  rcases he with rfl | rfl | rfl
  · exact exec_runOp (i := .vxVredsum m) rfl s ▸ vxRed_issues fadd32 _ h
  · rw [← funext fun a => funext (redMax_eq a)]
    exact exec_runOp (i := .vxVredmax m) rfl s ▸ vxRed_issues redMax _ h
  · rw [← funext fun a => funext (redMin_eq a)]
    exact exec_runOp (i := .vxVredmin m) rfl s ▸ vxRed_issues redMin _ h

end Sys2Proof.Proofs

/-! SUPPORT. The conversions of `vx` (R252 to R254): where their elements go, and the causes that a legal `o0` leaves out. -/

namespace Sys2Proof.Proofs

open Sys2Proof.Machine Sys2Proof.Laws

/-! ### Widths and positions -/

theorem fmtBits_b8 (p : Nat) (unsigned hasInf : Bool) : fmtBits (.b8 p unsigned hasInf) = 8 := rfl

/-- The width of a format is one to four bytes (R124). -/
theorem fmtBits_of_fmtOf {c : Nat} {f : Fmt} (h : fmtOf c = some f) : fmtBits f = 8 * (fmtBits f / 8) ∧ fmtBits f / 8 ≤ 4 := by
  unfold fmtOf at h
  split at h
  case h_7 =>
    split at h
    · cases h
      rw [fmtBits_b8]
      decide
    · cases h
  all_goals
    cases h
    exact ⟨rfl, by decide⟩

/-- The position of element `k` on a side `w` bytes wide, where the other side is `w'` bytes wide: the narrower one has it in its part (R252). -/
def cvtPos (part w w' k : Nat) : Nat := if w < w' then 64 * part + k else k

theorem cvtPos_injective (part w w' i j : Nat) (h : cvtPos part w w' i = cvtPos part w w' j) : i = j := by
  unfold cvtPos at h
  split at h <;> omega

/-- Every element has its position within the row. -/
theorem cvtPos_fits {part w w' k : Nat} (hw : w ≤ 4) (hpart : w < w' → part < 4 / w) (hk : k < 64) : w * (cvtPos part w w' k + 1) ≤ 256 := by
  unfold cvtPos
  split
  · have hpart := hpart ‹_›
    calc w * (64 * part + k + 1) ≤ w * (64 * (4 / w)) := Nat.mul_le_mul_left w (by omega)
      _ = 64 * (w * (4 / w)) := Nat.mul_left_comm _ _ _
      _ ≤ 256 := Nat.mul_le_mul_left 64 (Nat.mul_div_le 4 w)
  · calc w * (k + 1) ≤ 4 * 64 := Nat.mul_le_mul hw (by omega)
      _ = 256 := rfl

/-! ### A legal `o0` -/

/-- `o0` names the formats `f` and `d` and a part that the narrower side has, and nothing else (R252). -/
structure CvtPort (o : Word) (f d : Fmt) : Prop where
  source : fmtOf (o.toNat % 64) = some f
  dest : fmtOf (o.toNat / 2 ^ 8 % 64) = some d
  clear6 : o.toNat / 2 ^ 6 % 4 = 0
  clear14 : o.toNat / 2 ^ 14 % 4 = 0
  part : if fmtBits f / 8 = fmtBits d / 8 then o.toNat / 2 ^ 16 = 0 else o.toNat / 2 ^ 16 < 4 / min (fmtBits f / 8) (fmtBits d / 8)

section

variable {o : Word} {f d : Fmt} (h : CvtPort o f d)
include h

theorem CvtPort.part_lt : o.toNat / 2 ^ 16 < 4 := by
  have hp := h.part
  split at hp
  · omega
  · exact Nat.lt_of_lt_of_le hp (Nat.div_le_self _ _)

theorem CvtPort.cvtOf_eq : cvtOf o = ⟨o.toNat / 2 ^ 16, some d, some f, false⟩ := by
  have hlt := h.part_lt
  have hhigh : o.toNat / 2 ^ 18 = 0 := by omega
  simp only [cvtOf, h.source, h.dest, h.clear6, h.clear14, hhigh, Nat.mod_eq_of_lt hlt]
  rfl

theorem CvtPort.partOk : partOk ⟨o.toNat / 2 ^ 16, some d, some f, false⟩ = true := by
  have hp := h.part
  obtain ⟨hf, -⟩ := fmtBits_of_fmtOf h.source
  obtain ⟨hd, -⟩ := fmtBits_of_fmtOf h.dest
  have hmin : 32 / min (fmtBits f) (fmtBits d) = 4 / min (fmtBits f / 8) (fmtBits d / 8) := by
    have hbytes : min (fmtBits f) (fmtBits d) = 8 * min (fmtBits f / 8) (fmtBits d / 8) := by
      rw [← Nat.mul_min_mul_left, ← hf, ← hd]
    rw [hbytes]
    exact Nat.mul_div_mul_left (m := 8) 4 _ (by omega)
  simp only [Machine.partOk, hmin]
  by_cases he : fmtBits f = fmtBits d
  · rw [if_pos (congrArg (· / 8) he)] at hp
    rw [if_pos he, hp]
    rfl
  · rw [if_neg (by omega)] at hp
    rw [if_neg he]
    exact decide_eq_true hp

/-- The part of the source where it is the narrower side. -/
theorem CvtPort.part_source (hlt : fmtBits f / 8 < fmtBits d / 8) : o.toNat / 2 ^ 16 < 4 / (fmtBits f / 8) := by
  have hp := h.part
  rwa [if_neg (by omega), Nat.min_eq_left (by omega)] at hp

/-- The part of the destination where it is the narrower side. -/
theorem CvtPort.part_dest (hlt : fmtBits d / 8 < fmtBits f / 8) : o.toNat / 2 ^ 16 < 4 / (fmtBits d / 8) := by
  have hp := h.part
  rwa [if_neg (by omega), Nat.min_eq_right (by omega)] at hp

/-- No cause of a conversion holds where the operation takes these formats: `vcvt` one with a float side, `vcvti` none (R252 to R254). -/
theorem CvtPort.cvtCauses_false {int : Bool} (hint : (if int then isFloat f || isFloat d else !isFloat f && !isFloat d) = false)
    {x : OpCtx} {s : State} (ho : portW s x.a .vx 0 = o) : ∀ c ∈ cvtCauses int x s, c.1 = false := by
  intro c hc
  simp only [cvtCauses, ho, h.cvtOf_eq, h.partOk, hint, List.mem_cons, List.not_mem_nil, or_false] at hc
  rcases hc with rfl | rfl | rfl <;> rfl

end

/-! ### The operations -/

/-- A conversion replaces the elements at the positions of the active ones. -/
theorem cvtRow_eq (part mode : Nat) (f d : Fmt) (dirty sat : Bool) (act : BitVec 64) (a old : Row) :
    cvtRow ⟨part, some d, some f, dirty⟩ mode sat act a old =
      setElems act (fmtBits d / 8) (cvtPos part (fmtBits d / 8) (fmtBits f / 8))
        (fun k => convert f d mode sat (elem a (fmtBits f / 8) (cvtPos part (fmtBits f / 8) (fmtBits d / 8) k))) 64 old := rfl

/-- `v` is the row after a conversion from format `f` to `d` under the specifier `t` and the operand `o`: each active element stands at its position, and every other
position is as it was (R252). -/
def ConvertedRow (s : State) (t o : Word) (f d : Fmt) (mode : Nat) (v : Row) : Prop :=
  let part := o.toNat / 2 ^ 16
  let ws := fmtBits f / 8
  let w := fmtBits d / 8
  (∀ k, k < 64 → vActive s t k = true →
    elem v w (cvtPos part w ws k) = convert f d mode (t.getLsbD 31) (elem (vReg s s.cur.a (vsA t)) ws (cvtPos part ws w k)) % 2 ^ (8 * w)) ∧
  ∀ p, p < 256 / w → (∀ k, k < 64 → vActive s t k = true → p ≠ cvtPos part w ws k) → elem v w p = elem (vReg s s.cur.a (vsD t)) w p

theorem convertedRow_cvtRow (s : State) (t : Word) {o : Word} {f d : Fmt} (mode : Nat) (h : CvtPort o f d) :
    ConvertedRow s t o f d mode (cvtRow (cvtOf o) mode (vsSat t) (vAct s s.cur.a t) (vReg s s.cur.a (vsA t)) (vReg s s.cur.a (vsD t))) := by
  obtain ⟨-, hwide⟩ := fmtBits_of_fmtOf h.dest
  rw [h.cvtOf_eq, cvtRow_eq]
  refine ⟨fun k hk hact => ?_, fun p hp hout => ?_⟩
  · exact elem_setElems_of_active _ _ (cvtPos_injective _ _ _) (cvtPos_fits hwide h.part_dest hk) hk ((getLsbD_vAct s t hk).trans hact)
  · refine elem_setElems_of_unwritten _ _ ?_ fun k hk hact => hout k hk ((getLsbD_vAct s t hk).symm.trans hact)
    rw [Nat.mul_comm]
    exact Nat.mul_le_of_le_div _ _ _ hp

/-- A conversion completes: 3 cycles later `vd` holds the converted row, and nothing else changes. -/
theorem vxCvt_issues {s : State} {m : Trig} {f d : Fmt} {r : VReads} {int : Bool} (ho : CvtPort (oVal s .vx 0) f d)
    (hint : (if int then isFloat f || isFloat d else !isFloat f && !isFloat d) = false) (h : VxReady s m r []) :
    ∃ u v, execOne m (vxCvt r int) s = .next u ∧ WriteDue u s.cur.a .vx (s.now + 3) (.vreg (vsD (tVal s m)) v) ∧ OnlyComputes s u ∧
      ConvertedRow s (tVal s m) (oVal s .vx 0) f d (if int then 0 else vsRnd (tVal s m)) v := by
  have hk := kept_sourced s m
  refine ⟨_, _, vxOp_issues h (ho.cvtCauses_false hint rfl) (by omega) (by omega), and_assoc.1 ⟨pend_issued (i := 0) ?_, convertedRow_cvtRow s _ _ ho⟩⟩
  simp only [ctxOf, oVal, portW_of_kept hk, vReg_of_kept hk, vAct_of_kept hk, sourced_now]

/-- R252 to R254: the conversions. -/
theorem vectorConversionResults : Claims.VectorConversionResults := by
  intro m s f d t o part ws wd_ hf hd h6 h14 hpart
  have ho : CvtPort (oVal s .vx 0) f d := ⟨hf, hd, h6, h14, hpart⟩
  refine ⟨fun hfloat h => ?_, fun hf hd h => ?_⟩
  · have hint : (!isFloat f && !isFloat d) = false := by
      rcases hfloat with hfloat | hfloat <;> simp only [hfloat, Bool.not_true, Bool.false_and, Bool.and_false]
    rw [exec_runOp (i := .vxVcvt m) rfl]
    exact vxCvt_issues (int := false) ho hint h
  · have hint : (isFloat f || isFloat d) = false := by simp only [hf, hd, Bool.or_self]
    rw [exec_runOp (i := .vxVcvti m) rfl]
    exact vxCvt_issues (int := true) ho hint h

/-- Settles O14: the conversions place their elements one after another, and the reductions follow their tree level by level. -/
theorem vectorConversionsAndReductions : Obligations.VectorConversionsAndReductions := ⟨vectorConversionResults, vectorReductionResults⟩

end Sys2Proof.Proofs

/-! SUPPORT. The values of the integer units (R199 to R203): what the model computes on words is what the tables give on numbers. -/

namespace Sys2Proof.Proofs

open Sys2Proof.Machine Sys2Proof.Laws

/-! ### Arithmetic (R199) -/

theorem sub_eq_ofInt (a b : Word) : a - b = BitVec.ofInt 32 (a.toNat - b.toNat) := by
  apply BitVec.eq_of_toNat_eq
  have ha := a.isLt
  have hb := b.isLt
  rw [BitVec.toNat_sub, BitVec.toNat_ofInt]
  omega

/-- The upper word of the 64-bit pattern of an integer. -/
theorem extractLsb'_high_ofInt (z : Int) : (BitVec.ofInt 64 z).extractLsb' 32 32 = BitVec.ofInt 32 (z / 2 ^ 32) := by
  apply BitVec.eq_of_toNat_eq
  rw [BitVec.extractLsb'_toNat, BitVec.toNat_ofInt, BitVec.toNat_ofInt, Nat.shiftRight_eq_div_pow]
  omega

theorem mulhVal_eq (a b : Word) : mulhVal a b = BitVec.ofInt 32 (a.toInt * b.toInt / 2 ^ 32) := by
  have hprod : (a.signExtend 64 * b.signExtend 64 : BitVec 64) = BitVec.ofInt 64 (a.toInt * b.toInt) := (BitVec.ofInt_mul _ _).symm
  rw [mulhVal, hprod, extractLsb'_high_ofInt]

theorem mulhuVal_eq (a b : Word) : mulhuVal a b = BitVec.ofNat 32 (a.toNat * b.toNat / 2 ^ 32) := by
  apply BitVec.eq_of_toNat_eq
  have hlt : a.toNat * b.toNat < 2 ^ 32 * 2 ^ 32 := Nat.mul_lt_mul'' a.isLt b.isLt
  rw [mulhuVal, BitVec.extractLsb'_toNat, BitVec.toNat_mul, BitVec.toNat_setWidth, BitVec.toNat_setWidth, BitVec.toNat_ofNat,
    Nat.mod_eq_of_lt (by omega : a.toNat < 2 ^ 64), Nat.mod_eq_of_lt (by omega : b.toNat < 2 ^ 64),
    Nat.mod_eq_of_lt (by omega : a.toNat * b.toNat < 2 ^ 64), Nat.shiftRight_eq_div_pow]

theorem ite_slt_eq_min (a b : Word) : (if a.slt b then a else b) = BitVec.ofInt 32 (min a.toInt b.toInt) := by
  simp only [BitVec.slt_eq_decide, decide_eq_true_iff]
  split
  · rw [Int.min_eq_left (by omega), BitVec.ofInt_toInt]
  · rw [Int.min_eq_right (by omega), BitVec.ofInt_toInt]

theorem ite_slt_eq_max (a b : Word) : (if a.slt b then b else a) = BitVec.ofInt 32 (max a.toInt b.toInt) := by
  simp only [BitVec.slt_eq_decide, decide_eq_true_iff]
  split
  · rw [Int.max_eq_right (by omega), BitVec.ofInt_toInt]
  · rw [Int.max_eq_left (by omega), BitVec.ofInt_toInt]

theorem ite_ult_eq_min (a b : Word) : (if a.ult b then a else b) = BitVec.ofNat 32 (min a.toNat b.toNat) := by
  simp only [BitVec.ult_eq_decide, decide_eq_true_iff]
  split
  · rw [Nat.min_eq_left (by omega), BitVec.ofNat_toNat, BitVec.setWidth_eq]
  · rw [Nat.min_eq_right (by omega), BitVec.ofNat_toNat, BitVec.setWidth_eq]

theorem ite_ult_eq_max (a b : Word) : (if a.ult b then b else a) = BitVec.ofNat 32 (max a.toNat b.toNat) := by
  simp only [BitVec.ult_eq_decide, decide_eq_true_iff]
  split
  · rw [Nat.max_eq_right (by omega), BitVec.ofNat_toNat, BitVec.setWidth_eq]
  · rw [Nat.max_eq_left (by omega), BitVec.ofNat_toNat, BitVec.setWidth_eq]

theorem ite_msb_neg_eq_natAbs (b : Word) : (if b.msb then -b else b) = BitVec.ofNat 32 b.toInt.natAbs := by
  have hb := b.isLt
  apply BitVec.eq_of_toNat_eq
  rw [BitVec.toInt_eq_msb_cond, BitVec.toNat_ofNat]
  split
  · rw [BitVec.toNat_neg]
    omega
  · omega

/-! ### Shifts (R199) -/

theorem shiftLeft_eq_ofNat (a : Word) (n : Nat) : a <<< n = BitVec.ofNat 32 (a.toNat * 2 ^ n) := by
  apply BitVec.eq_of_toNat_eq
  rw [BitVec.toNat_shiftLeft, BitVec.toNat_ofNat, Nat.shiftLeft_eq]

theorem ushiftRight_eq_ofNat (a : Word) (n : Nat) : a >>> n = BitVec.ofNat 32 (a.toNat / 2 ^ n) := by
  apply BitVec.eq_of_toNat_eq
  rw [BitVec.toNat_ushiftRight, BitVec.toNat_ofNat, Nat.shiftRight_eq_div_pow, Nat.mod_eq_of_lt]
  exact Nat.lt_of_le_of_lt (Nat.div_le_self _ _) a.isLt

theorem sshiftRight_eq_ofInt (a : Word) (n : Nat) : a.sshiftRight n = BitVec.ofInt 32 (a.toInt / 2 ^ n) := by
  rw [← BitVec.ofInt_toInt (x := a.sshiftRight n), BitVec.toInt_sshiftRight, Int.shiftRight_eq_div_pow]
  norm_cast

/-- A rotation puts the bits that the shift drops below those that it moves. -/
theorem rotateLeft_eq_ofNat (a : Word) {n : Nat} (hn : n < 32) :
    a.rotateLeft n = BitVec.ofNat 32 (a.toNat * 2 ^ n + a.toNat / 2 ^ (32 - n)) := by
  have hlow : a.toNat / 2 ^ (32 - n) < 2 ^ n := by
    rw [Nat.div_lt_iff_lt_mul (Nat.two_pow_pos _), ← Nat.pow_add, Nat.add_sub_of_le (by omega)]
    exact a.isLt
  rw [BitVec.rotateLeft_def, Nat.mod_eq_of_lt hn]
  apply BitVec.eq_of_getLsbD_eq
  intro i hi
  rw [BitVec.getLsbD_ofNat, decide_eq_true hi, Nat.mul_comm, Nat.testBit_two_pow_mul_add _ hlow, BitVec.getLsbD_or,
    BitVec.getLsbD_shiftLeft, BitVec.getLsbD_ushiftRight]
  by_cases h : i < n
  · simp [h, Nat.testBit_div_two_pow, BitVec.testBit_toNat, Nat.add_comm]
  · have hout : 32 ≤ 32 - n + i := by omega
    simp [h, hi, BitVec.testBit_toNat, hout]

/-! ### Counts of bits (R199) -/

/-- What holds below `k` alone is counted `k` times. -/
theorem length_filter_range_of_lt {p : Nat → Bool} {n k : Nat} (hk : k ≤ n) (h : ∀ i, i < n → p i = decide (i < k)) :
    ((List.range n).filter p).length = k := by
  obtain ⟨d, rfl⟩ := Nat.exists_eq_add_of_le hk
  have hbelow : (List.range k).filter p = List.range k := List.filter_eq_self.2 fun i hi => by
    rw [List.mem_range] at hi
    rw [h i (by omega), decide_eq_true hi]
  have habove : ((List.range d).map (k + ·)).filter p = [] := List.filter_eq_nil_iff.2 fun i hi => by
    obtain ⟨j, hj, rfl⟩ := List.mem_map.1 hi
    rw [List.mem_range] at hj
    rw [h (k + j) (by omega), decide_eq_false (by omega)]
    exact Bool.false_ne_true
  rw [List.range_add, List.filter_append, hbelow, habove, List.append_nil, List.length_range]

/-- The first number below `n` where `p` holds, or `n`: below it `p` does not hold. -/
theorem find?_range_getD_spec (p : Nat → Bool) (n : Nat) :
    ((List.range n).find? p).getD n ≤ n ∧ (∀ i, i < ((List.range n).find? p).getD n → p i = false) ∧
      (((List.range n).find? p).getD n < n → p (((List.range n).find? p).getD n) = true) := by
  cases h : (List.range n).find? p with
  | none =>
    rw [List.find?_range_eq_none] at h
    exact ⟨Nat.le_refl n, fun i hi => by simpa using h i hi, fun hlt => absurd hlt (Nat.lt_irrefl n)⟩
  | some k =>
    obtain ⟨hp, hk, hbelow⟩ := List.find?_range_eq_some.1 h
    exact ⟨Nat.le_of_lt (List.mem_range.1 hk), fun i hi => by simpa using hbelow i hi, fun _ => hp⟩

theorem ctzVal_eq (b : Word) : ctzVal b = BitVec.ofNat 32 (((List.range 32).find? fun i => b.getLsbD i).getD 32) := by
  obtain ⟨hle, hbelow, hat⟩ := find?_range_getD_spec (fun i => b.getLsbD i) 32
  generalize ((List.range 32).find? fun i => b.getLsbD i).getD 32 = k at hle hbelow hat
  have hcount : ((List.range 32).filter fun i => (b <<< (31 - i)) == 0#32).length = k := by
    refine length_filter_range_of_lt hle fun i hi => ?_
    by_cases hik : i < k
    · have hzero : b <<< (31 - i) = 0#32 := BitVec.eq_of_getLsbD_eq fun j hj => by
        rw [BitVec.getLsbD_shiftLeft, BitVec.getLsbD_zero, hbelow (j - (31 - i)) (by omega), Bool.and_false]
      rw [hzero, decide_eq_true hik, BEq.rfl]
    · have hbit : (b <<< (31 - i)).getLsbD (31 - i + k) = true := by
        rw [BitVec.getLsbD_shiftLeft, Nat.add_sub_cancel_left, hat (by omega), decide_eq_true (by omega), decide_eq_false (by omega)]
        rfl
      have hne : b <<< (31 - i) ≠ 0#32 := fun h0 => by rw [h0, BitVec.getLsbD_zero] at hbit; exact Bool.false_ne_true hbit
      rw [beq_false_of_ne hne, decide_eq_false hik]
  rw [ctzVal, hcount]

theorem clzVal_eq (b : Word) : clzVal b = BitVec.ofNat 32 (((List.range 32).find? fun i => b.getLsbD (31 - i)).getD 32) := by
  obtain ⟨hle, hbelow, hat⟩ := find?_range_getD_spec (fun i => b.getLsbD (31 - i)) 32
  generalize ((List.range 32).find? fun i => b.getLsbD (31 - i)).getD 32 = k at hle hbelow hat
  have hcount : ((List.range 32).filter fun i => (b >>> i) != 0#32).length = 32 - k := by
    refine length_filter_range_of_lt (by omega) fun i hi => ?_
    by_cases hik : i < 32 - k
    · have hbit : (b >>> i).getLsbD (31 - k - i) = true := by
        rw [BitVec.getLsbD_ushiftRight, Nat.add_sub_of_le (by omega), hat (by omega)]
      have hne : b >>> i ≠ 0#32 := fun h0 => by rw [h0, BitVec.getLsbD_zero] at hbit; exact Bool.false_ne_true hbit
      rw [bne_iff_ne.2 hne, decide_eq_true hik]
    · have hzero : b >>> i = 0#32 := BitVec.eq_of_getLsbD_eq fun j hj => by
        rw [BitVec.getLsbD_ushiftRight, BitVec.getLsbD_zero]
        by_cases hj' : i + j < 32
        · have hbit := hbelow (31 - (i + j)) (by omega)
          rwa [Nat.sub_sub_self (by omega)] at hbit
        · exact BitVec.getLsbD_of_ge b _ (by omega)
      rw [hzero, decide_eq_false hik, bne_self_eq_false]
  rw [clzVal, hcount, Nat.sub_sub_self (by omega)]

theorem popcVal_eq (b : Word) : popcVal b = BitVec.ofNat 32 ((List.range 32).countP fun i => b.getLsbD i) := by
  rw [popcVal, List.countP_eq_length_filter]

/-! ### Bit fields (R199, R201) -/

/-- The low bits of a word, sign-extended. -/
theorem signExtend_low (b : Word) (n : Nat) : (b.extractLsb' 0 n).signExtend 32 = BitVec.ofInt 32 (BitVec.ofNat n b.toNat).toInt := rfl

theorem bextVal_eq (a b : Word) : bextVal a b = BitVec.ofNat 32 (a.toNat / 2 ^ (b.toNat % 32) % 2 ^ min (b.toNat / 32 % 64) 32) := by
  rw [bextVal, Nat.shiftRight_eq_div_pow]

theorem binsVal_eq (a b : Word) : binsVal a b =
    (a &&& ~~~BitVec.ofNat 32 ((2 ^ min (b.toNat / 32 % 64) 16 - 1) * 2 ^ (b.toNat % 32))) |||
      BitVec.ofNat 32 (b.toNat / 2 ^ 16 % 2 ^ min (b.toNat / 32 % 64) 16 * 2 ^ (b.toNat % 32)) := by
  simp only [binsVal, Nat.shiftLeft_eq]

/-! ### Quotients and remainders (R200) -/

theorem divVal_eq (a b : Word) : divVal a b =
    if b = 0 then 0xFFFFFFFF#32 else if a = 0x80000000#32 ∧ b = 0xFFFFFFFF#32 then 0x80000000#32
      else BitVec.ofInt 32 (a.toInt.tdiv b.toInt) := by
  have hsdiv : a.sdiv b = BitVec.ofInt 32 (a.toInt.tdiv b.toInt) :=
    BitVec.eq_of_toInt_eq (by rw [BitVec.toInt_sdiv, BitVec.toInt_ofInt])
  rw [divVal]
  split
  · rfl
  · split
    next h =>
      obtain ⟨rfl, rfl⟩ := h
      decide
    · exact hsdiv

theorem divuVal_eq (a b : Word) : divuVal a b = if b = 0 then 0xFFFFFFFF#32 else BitVec.ofNat 32 (a.toNat / b.toNat) := by
  have hudiv : a.udiv b = BitVec.ofNat 32 (a.toNat / b.toNat) :=
    (BitVec.setWidth_eq _).symm.trans (by rw [← BitVec.ofNat_toNat]; rfl)
  rw [divuVal, hudiv]

theorem remVal_eq (a b : Word) : remVal a b =
    if b = 0 then a else if a = 0x80000000#32 ∧ b = 0xFFFFFFFF#32 then 0
      else BitVec.ofInt 32 (a.toInt - a.toInt.tdiv b.toInt * b.toInt) := by
  have hsrem : a.srem b = BitVec.ofInt 32 (a.toInt - a.toInt.tdiv b.toInt * b.toInt) := by
    rw [← BitVec.ofInt_toInt (x := a.srem b), BitVec.toInt_srem, Int.tmod_def, Int.mul_comm]
  rw [remVal]
  split
  · rfl
  · split
    next h =>
      obtain ⟨rfl, rfl⟩ := h
      decide
    · exact hsrem

theorem remuVal_eq (a b : Word) : remuVal a b = if b = 0 then a else BitVec.ofNat 32 (a.toNat - a.toNat / b.toNat * b.toNat) := by
  have humod : a.umod b = BitVec.ofNat 32 (a.toNat - a.toNat / b.toNat * b.toNat) := by
    rw [Nat.mul_comm, ← Nat.mod_eq_sub_mul_div]
    exact (BitVec.setWidth_eq _).symm.trans (by rw [← BitVec.ofNat_toNat]; rfl)
  rw [remuVal, humod]

/-! ### Conditions and predicates (R202) -/

theorem condEq_eq (a b : Word) : condEq a b = decide (a = b) := by rw [condEq, Bool.eq_iff_iff, beq_iff_eq, decide_eq_true_iff]

theorem condNe_eq (a b : Word) : condNe a b = decide (a ≠ b) := by rw [condNe, Bool.eq_iff_iff, bne_iff_ne, decide_eq_true_iff]

theorem condTst_eq (a b : Word) : condTst a b = decide (a &&& b ≠ 0) := condNe_eq (a &&& b) 0

theorem getLsbD_predPair (c : Bool) (j : Nat) : (if c then 1#16 else 2#16).getLsbD j = if j = 0 then c else decide (j = 1) && !c := by
  match j with
  | 0 => cases c <;> rfl
  | 1 => cases c <;> rfl
  | j + 2 => cases c <;> simp [BitVec.getLsbD_ofNat, Nat.testBit_succ]

theorem getLsbD_pairMask (j : Nat) : (3#16).getLsbD j = decide (j < 2) := by
  match j with
  | 0 => rfl
  | 1 => rfl
  | j + 2 => simp [BitVec.getLsbD_ofNat, Nat.testBit_succ]

/-- A compare writes p(2k) = c and p(2k + 1) = not c, and leaves every other predicate. -/
theorem getLsbD_applyWrite_preds (b : Bank) (k : Fin 8) (c : Bool) :
    (applyWrite b (.preds k c)).p.getLsbD (2 * k.val) = c ∧ (applyWrite b (.preds k c)).p.getLsbD (2 * k.val + 1) = !c ∧
      ∀ n, n / 2 ≠ k.val → (applyWrite b (.preds k c)).p.getLsbD n = b.p.getLsbD n := by
  have hk := k.isLt
  have heven : 2 * k.val < 16 := by omega
  have hodd : 2 * k.val + 1 < 16 := by omega
  simp only [applyWrite, BitVec.getLsbD_or, BitVec.getLsbD_and, BitVec.getLsbD_not, BitVec.getLsbD_shiftLeft, getLsbD_predPair,
    getLsbD_pairMask]
  have habove : ¬ 2 * k.val + 1 < 2 * k.val := by omega
  refine ⟨by simp [heven], by simp [hodd, habove], fun n hn => ?_⟩
  by_cases hlow : n < 2 * k.val
  · have h16 : n < 16 := by omega
    simp [hlow, h16]
  · have h0 : n - 2 * k.val ≠ 0 := by omega
    have h1 : n - 2 * k.val ≠ 1 := by omega
    have h2 : ¬ n - 2 * k.val < 2 := by omega
    by_cases h16 : n < 16
    · simp [h0, h1, h2, h16]
    · simp [h0, h1, h16, BitVec.getLsbD_of_ge b.p n (by omega)]

end Sys2Proof.Proofs

/-! SUPPORT. A result with an effect beside it (R146, R147): where the effect leaves what is on its way, the result is due. -/

namespace Sys2Proof.Proofs

open Sys2Proof.Machine Sys2Proof.Laws

/-- A result on its way stays so where neither the results on their way nor the agenda lose anything. -/
theorem resultDue_later {s t t' : State} {a : Nat} {u : Sock} {code due : Nat} {v : Row} (h : ResultDue s t a u code due v)
    (hx : (bk t' a).x.flights = (bk t a).x.flights) (hg : ∀ e ∈ t.agenda, e ∈ t'.agenda) : ResultDue s t' a u code due v :=
  ⟨hx ▸ h.1, hg _ h.2⟩

/-- The state in which an effect beside a result takes place: the source has been read, and the result is on its way to `q0`. -/
def flown (s : State) (m : Trig) (u : Sock) (lat : Nat) (v : Word) : State := fly (sourced s m) s.cur.a u 0x20 lat (rowOf v)

theorem kept_flown (s : State) (m : Trig) (u : Sock) (lat : Nat) (v : Word) : Kept s (flown s m u lat v) s.cur.a :=
  (kept_sourced s m).trans (kept_fly _ _ _ _ _ _)

/-- An operation of one result whose effect does more issues with both, and its result is due. -/
theorem resultThen_issues {s : State} {m : Trig} {f : OpFn} {u : Sock} {lat : Nat} {v : Word} {k : State → State} (hr : Ready s m)
    (hf : Free s u 0x20 1) (h : f (ctxOf s m) s = result (ctxOf s m) s u lat v k)
    (hx : (bk (k (flown s m u lat v)) s.cur.a).x.flights = (bk (flown s m u lat v) s.cur.a).x.flights)
    (hg : ∀ e ∈ (flown s m u lat v).agenda, e ∈ (k (flown s m u lat v)).agenda) :
    execOne m f s = .next (noteIssued (k (flown s m u lat v)) s.cur.a s.cur.hdr) ∧
      ResultDue s (noteIssued (k (flown s m u lat v)) s.cur.a s.cur.hdr) s.cur.a u 0x20 (s.now + lat) (rowOf v) := by
  obtain ⟨hheld, hroom⟩ := hf
  have hroom : ¬ 32 ≤ inFlight s s.cur.a u 0x20 := by omega
  have hgo : f (ctxOf s m) s = .go fun t => k (fly t s.cur.a u 0x20 lat (rowOf v)) :=
    h.trans (by simp only [result, ctxOf, hheld, hroom, decide_false, Bool.or_self, Bool.false_eq_true, if_false])
  have hdue : ResultDue (sourced s m) (flown s m u lat v) s.cur.a u 0x20 (s.now + lat) (rowOf v) :=
    sourced_now s m ▸ resultDue_fly (sourced s m) s.cur.a u 0x20 lat (rowOf v)
  exact ⟨execOne_go hr hgo, resultDue_mode (resultDue_noteIssued (resultDue_later hdue hx hg) _) ((kept_sourced s m).lockedMode u)⟩

end Sys2Proof.Proofs

/-! SUPPORT. The operations of the integer units (R198 to R203). -/

namespace Sys2Proof.Proofs

open Sys2Proof.Machine Sys2Proof.Laws

/-- A socket is held until the cycle to which it is busy. -/
theorem sockHeld_of_busy {t : State} {a c k : Nat} {u : Sock} (h : kget 0 (bk t a).x.busy u.id = c + k) :
    ∀ n, n < k → sockHeld { t with now := c + n } a u = true := fun n hn => by
  have hbusy : c + n < kget 0 (bk t a).x.busy u.id := by omega
  exact Bool.or_eq_true_iff.2 (.inl (decide_eq_true hbusy))

/-- A unit that has been occupied is busy when its bundle has issued. -/
theorem busy_noteIssued_occupy (s : State) (a : Nat) (u : Sock) (n : Nat) (hdr : BitVec 64) :
    kget 0 (bk (noteIssued (occupy s a u n) a hdr) a).x.busy u.id = s.now + n := by
  rw [noteIssued_x, occupy, modX, bk_modBk_same, kget_kset_same]

section

variable {s : State} {m : Trig} {u : IntUnit} (hr : Ready s m) (hf : Free s u.sock 0x20 1)
include hr hf

/-- A two-operand operation completes with the value of its table. -/
theorem intOp_completes {i : Instr} {lat : Nat} {f g : Word → Word → Word} (hi : runOp i = some (m, intOp lat f u))
    (hv : ∀ a b, f a b = g a b) :
    ∃ t, exec i s = .next t ∧ ResultDue s t s.cur.a u.sock 0x20 (s.now + lat) (rowOf (g (oVal s u.sock 0) (tVal s m))) ∧ OnlyComputes s t := by
  rw [exec_runOp hi, ← hv]
  exact result_issues hr hf rfl

/-- A division completes with the value of its table, and occupies its unit for 18 cycles. -/
theorem divOp_completes {i : Instr} {f g : Word → Word → Word} (hi : runOp i = some (m, divOp f u)) (hv : ∀ a b, f a b = g a b) :
    ∃ t, exec i s = .next t ∧ ResultDue s t s.cur.a u.sock 0x20 (s.now + 18) (rowOf (g (oVal s u.sock 0) (tVal s m))) ∧
      (∀ n, n < 18 → sockHeld { t with now := s.now + n } s.cur.a u.sock = true) ∧ OnlyComputes s t := by
  have hop : divOp f u (ctxOf s m) s = result (ctxOf s m) s u.sock 18 (f (oVal s u.sock 0) (tVal s m)) fun t => occupy t s.cur.a u.sock 18 := rfl
  rw [exec_runOp hi, ← hv]
  obtain ⟨hnext, hdue⟩ := resultThen_issues hr hf hop (by simp only [occupy, modX, bk_modBk_same]) fun _ h => h
  have hk := kept_flown s m u.sock 18 (f (oVal s u.sock 0) (tVal s m))
  have hbusy := busy_noteIssued_occupy (flown s m u.sock 18 (f (oVal s u.sock 0) (tVal s m))) s.cur.a u.sock 18 s.cur.hdr
  rw [hk.now] at hbusy
  exact ⟨_, hnext, hdue, sockHeld_of_busy hbusy, (hk.trans ((kept_occupy _ _ _ _).trans (kept_noteIssued _ _ _))).onlyComputes⟩

/-- A compare completes with the condition of its table: the pair of predicates is due after 2 cycles and the bit after one. -/
theorem cmpOp_completes {i : Instr} {k : Fin 8} {c d : Word → Word → Bool} (hi : runOp i = some (m, cmpOp c u k)) (hv : ∀ a b, c a b = d a b) :
    ∃ t r, r = d (oVal s u.sock 0) (tVal s m) ∧ exec i s = .next t ∧
      ResultDue s t s.cur.a u.sock 0x20 (s.now + 1) (rowOf (if r then 1#32 else 0#32)) ∧
      WriteDue t s.cur.a u.sock (s.now + 2) (.preds k r) ∧ OnlyComputes s t ∧
      (∀ b : Bank, (applyWrite b (.preds k r)).p.getLsbD (2 * k.val) = r ∧ (applyWrite b (.preds k r)).p.getLsbD (2 * k.val + 1) = !r ∧
        ∀ n, n / 2 ≠ k.val → (applyWrite b (.preds k r)).p.getLsbD n = b.p.getLsbD n) := by
  have hop : cmpOp c u k (ctxOf s m) s = result (ctxOf s m) s u.sock 1 (bitW (c (oVal s u.sock 0) (tVal s m)))
    fun t => pend t s.cur.a u.sock 0 (some (t.now + 2)) (.preds k (c (oVal s u.sock 0) (tVal s m))) := rfl
  rw [exec_runOp hi, ← hv]
  obtain ⟨hnext, hdue⟩ := resultThen_issues hr hf hop (by simp only [pend, bk_sched, modX, bk_modBk_same])
    fun _ h => (kept_pend _ _ _ _ _ _).agenda _ h
  have hk := kept_flown s m u.sock 1 (bitW (c (oVal s u.sock 0) (tVal s m)))
  rw [hk.now] at hnext hdue
  exact ⟨_, _, rfl, hnext, hdue, writeDue_noteIssued (writeDue_pend _ _ _ _ _ _) _,
    (hk.trans ((kept_pend _ _ _ _ _ _).trans (kept_noteIssued _ _ _))).onlyComputes, fun b => getLsbD_applyWrite_preds b k _⟩

end

/-- R199: the arithmetic operations. -/
theorem integerArithmeticResults : Claims.IntegerArithmeticResults := by
  simp only [Claims.IntegerArithmeticResults, intArith, List.forall_mem_cons]
  exact ⟨fun u m s hr hf => intOp_completes hr hf rfl BitVec.add_def,
    fun u m s hr hf => intOp_completes hr hf rfl sub_eq_ofInt,
    fun u m s hr hf => intOp_completes hr hf rfl fun a b => sub_eq_ofInt b a,
    fun u m s hr hf => intOp_completes hr hf rfl (@BitVec.mul_def 32),
    fun u m s hr hf => intOp_completes hr hf rfl mulhVal_eq,
    fun u m s hr hf => intOp_completes hr hf rfl mulhuVal_eq,
    fun u m s hr hf => intOp_completes hr hf rfl ite_slt_eq_min,
    fun u m s hr hf => intOp_completes hr hf rfl ite_slt_eq_max,
    fun u m s hr hf => intOp_completes hr hf rfl ite_ult_eq_min,
    fun u m s hr hf => intOp_completes hr hf rfl ite_ult_eq_max,
    fun u m s hr hf => intOp_completes hr hf rfl fun _ b => ite_msb_neg_eq_natAbs b,
    List.forall_mem_nil _⟩

/-- R199, R201: the logic, shift and bit operations. -/
theorem integerLogicResults : Claims.IntegerLogicResults := by
  have hshift (b : Word) : shAmt b < 32 := Nat.mod_lt _ (by decide)
  simp only [Claims.IntegerLogicResults, intLogic, List.forall_mem_cons]
  exact ⟨fun u m s hr hf => intOp_completes hr hf rfl fun _ _ => rfl,
    fun u m s hr hf => intOp_completes hr hf rfl fun _ _ => rfl,
    fun u m s hr hf => intOp_completes hr hf rfl fun _ _ => rfl,
    fun u m s hr hf => intOp_completes (g := fun a b => a &&& ~~~b) hr hf rfl fun _ _ => rfl,
    fun u m s hr hf => intOp_completes hr hf rfl fun a b => shiftLeft_eq_ofNat a (shAmt b),
    fun u m s hr hf => intOp_completes hr hf rfl fun a b => ushiftRight_eq_ofNat a (shAmt b),
    fun u m s hr hf => intOp_completes hr hf rfl fun a b => sshiftRight_eq_ofInt a (shAmt b),
    fun u m s hr hf => intOp_completes hr hf rfl fun a b => rotateLeft_eq_ofNat a (hshift b),
    fun u m s hr hf => intOp_completes hr hf rfl fun _ b => clzVal_eq b,
    fun u m s hr hf => intOp_completes hr hf rfl fun _ b => ctzVal_eq b,
    fun u m s hr hf => intOp_completes hr hf rfl fun _ b => popcVal_eq b,
    fun u m s hr hf => intOp_completes hr hf rfl fun _ b => signExtend_low b 8,
    fun u m s hr hf => intOp_completes hr hf rfl fun _ b => signExtend_low b 16,
    fun u m s hr hf => intOp_completes hr hf rfl bextVal_eq,
    fun u m s hr hf => intOp_completes hr hf rfl binsVal_eq,
    fun u m s hr hf => intOp_completes (g := fun _ b => b) hr hf rfl fun _ _ => rfl,
    List.forall_mem_nil _⟩

/-- R200: the divisions. -/
theorem divisionResults : Claims.DivisionResults := by
  simp only [Claims.DivisionResults, intDivide, List.forall_mem_cons]
  exact ⟨fun u m s hr hf => divOp_completes hr hf rfl divVal_eq,
    fun u m s hr hf => divOp_completes hr hf rfl divuVal_eq,
    fun u m s hr hf => divOp_completes hr hf rfl remVal_eq,
    fun u m s hr hf => divOp_completes hr hf rfl remuVal_eq,
    List.forall_mem_nil _⟩

/-- R202: the compares. -/
theorem compareResults : Claims.CompareResults := by
  simp only [Claims.CompareResults, intCompare, List.forall_mem_cons]
  exact ⟨fun u k m s hr hf => cmpOp_completes hr hf rfl condEq_eq,
    fun u k m s hr hf => cmpOp_completes hr hf rfl condNe_eq,
    fun u k m s hr hf => cmpOp_completes hr hf rfl (@BitVec.slt_eq_decide 32),
    fun u k m s hr hf => cmpOp_completes hr hf rfl (@BitVec.sle_eq_decide 32),
    fun u k m s hr hf => cmpOp_completes hr hf rfl (@BitVec.ult_eq_decide 32),
    fun u k m s hr hf => cmpOp_completes hr hf rfl (@BitVec.ule_eq_decide 32),
    fun u k m s hr hf => cmpOp_completes hr hf rfl condTst_eq,
    List.forall_mem_nil _⟩

/-- R203: the selection. -/
theorem selectResult : Claims.SelectResult := fun u n m s hr hf => by
  rw [exec_runOp (i := .xaSel u n m) rfl]
  exact result_issues hr hf rfl

/-- R202: a compare opcode names its condition and its pair of predicates. -/
theorem decOp_cmpOpcode (u : IntUnit) (c k : Fin 8) (m : Trig) :
    decOp u.sock (BitVec.ofNat 12 (0x200 + 8 * c.val + k.val)) m = decCmp u c.val k m :=
  OpcodeRead.decOp_cmp u _ c.val k m (by revert c k; decide) (by revert c k; decide) (by revert c k; decide)

/-- R203: a selection opcode names its predicate. -/
theorem decOp_selOpcode (u : IntUnit) (n : Fin 16) (m : Trig) :
    decOp u.sock (BitVec.ofNat 12 (0x300 + n.val)) m = some (.xaSel u n m) :=
  OpcodeRead.decOp_sel u _ n m (by revert n; decide) (by revert n; decide) (by revert n; decide)

/-- R199 to R203: the opcodes of the integer units. -/
theorem integerOpcodes : Claims.IntegerOpcodes := by
  intro u m
  simp only [List.forall_mem_cons]
  refine ⟨⟨(OpcodeRead.xaAdd u m).1, (OpcodeRead.xaSub u m).1, (OpcodeRead.xaRsub u m).1, (OpcodeRead.xaMul u m).1,
    (OpcodeRead.xaMulh u m).1, (OpcodeRead.xaMulhu u m).1, (OpcodeRead.xaDiv u m).1, (OpcodeRead.xaDivu u m).1,
    (OpcodeRead.xaRem u m).1, (OpcodeRead.xaRemu u m).1, (OpcodeRead.xaMin u m).1, (OpcodeRead.xaMax u m).1,
    (OpcodeRead.xaMinu u m).1, (OpcodeRead.xaMaxu u m).1, (OpcodeRead.xaAbs u m).1, (OpcodeRead.xaAnd u m).1,
    (OpcodeRead.xaOr u m).1, (OpcodeRead.xaXor u m).1, (OpcodeRead.xaAndn u m).1, (OpcodeRead.xaShl u m).1,
    (OpcodeRead.xaShr u m).1, (OpcodeRead.xaSra u m).1, (OpcodeRead.xaRol u m).1, (OpcodeRead.xaClz u m).1,
    (OpcodeRead.xaCtz u m).1, (OpcodeRead.xaPopc u m).1, (OpcodeRead.xaSextB u m).1, (OpcodeRead.xaSextH u m).1,
    (OpcodeRead.xaBext u m).1, (OpcodeRead.xaBins u m).1, (OpcodeRead.xaPass u m).1, List.forall_mem_nil _⟩,
    fun k => ⟨decOp_cmpOpcode u 0 k m, decOp_cmpOpcode u 1 k m, decOp_cmpOpcode u 2 k m, decOp_cmpOpcode u 3 k m, decOp_cmpOpcode u 4 k m,
      decOp_cmpOpcode u 5 k m, decOp_cmpOpcode u 6 k m, List.forall_mem_nil _⟩,
    fun n => decOp_selOpcode u n m⟩

/-- Settles O1: each operation of `xa` and `xb` completes with the value that its table gives and only computes, and the decoder reads the opcodes. -/
theorem integerOperationResults : Obligations.IntegerOperationResults :=
  ⟨integerArithmeticResults, integerLogicResults, divisionResults, compareResults, selectResult, integerOpcodes⟩

end Sys2Proof.Proofs

/-! SUPPORT. The address operations of `ag` (R204, R205). -/

namespace Sys2Proof.Proofs

open Sys2Proof.Machine Sys2Proof.Laws

/-! ### Values (R204) -/

theorem add_shiftLeft_eq_ofNat (a t : Word) (n : Nat) : a + t <<< n = BitVec.ofNat 32 (a.toNat + t.toNat * 2 ^ n) := by
  rw [shiftLeft_eq_ofNat, ← BitVec.ofNat_add_ofNat, BitVec.ofNat_toNat, BitVec.setWidth_eq]

/-- The three fields of a global address do not overlap, so that their sum is their union. -/
theorem gaddrVal_eq (a t : Word) : wd (gaddrVal (a.toNat % 2048) t.toNat) =
    ((a &&& 0x7FF#32) >>> 9 <<< 30) ||| ((a &&& 511#32) <<< 21) ||| (t &&& 0x1FFFFF#32) := by
  apply BitVec.eq_of_toNat_eq
  have hpkg : ((a &&& 0x7FF#32) >>> 9 <<< 30).toNat = 2 ^ 30 * (a.toNat % 2048 / 512) := by
    rw [BitVec.toNat_shiftLeft, BitVec.toNat_ushiftRight, BitVec.toNat_and, Nat.shiftLeft_eq, Nat.shiftRight_eq_div_pow]
    have hmask : a.toNat &&& (0x7FF#32).toNat = a.toNat % 2048 := Nat.and_two_pow_sub_one_eq_mod a.toNat 11
    omega
  have htile : ((a &&& 511#32) <<< 21).toNat = 2 ^ 21 * (a.toNat % 512) := by
    rw [BitVec.toNat_shiftLeft, BitVec.toNat_and, Nat.shiftLeft_eq]
    have hmask : a.toNat &&& (511#32).toNat = a.toNat % 512 := Nat.and_two_pow_sub_one_eq_mod a.toNat 9
    omega
  have hoff : (t &&& 0x1FFFFF#32).toNat = t.toNat % 2 ^ 21 := by
    rw [BitVec.toNat_and]
    exact Nat.and_two_pow_sub_one_eq_mod t.toNat 21
  have hbase : 2 ^ 30 * (a.toNat % 2048 / 512) ||| 2 ^ 21 * (a.toNat % 512) = 2 ^ 21 * (a.toNat % 2048) := by
    rw [← Nat.two_pow_add_eq_or_of_lt (by omega)]
    omega
  rw [BitVec.toNat_or, BitVec.toNat_or, hpkg, htile, hoff, hbase, ← Nat.two_pow_add_eq_or_of_lt (by omega), BitVec.toNat_ofNat, gaddrVal]
  omega

theorem wrapVal_eq (a b t : Word) : wd (wrapVal a.toNat t.toNat b.toNat) =
    BitVec.ofNat 32 (if b = 0 then a.toNat + t.toNat else (a.toNat + t.toNat) % b.toNat) := by
  have hzero : b.toNat = 0 ↔ b = 0 := BitVec.toNat_inj (y := 0)
  simp only [wrapVal, hzero]

/-! ### What an operation on its own ports leaves as it was -/

theorem actsWithin_trans {s t w : State} {a : Nat} (h : ActsWithin s t a) (k : ActsWithin t w a) : ActsWithin s w a := by
  obtain ⟨hrest, -, ⟨hg, hp, hv, hm, hh, hc⟩, hothers, hwings⟩ := h
  obtain ⟨krest, -, ⟨kg, kp, kv, km, kh, kc⟩, kothers, kwings⟩ := k
  have hall := rest_trans hrest krest
  exact ⟨hall, rest_mem hall, ⟨kg.trans hg, kp.trans hp, kv.trans hv, km.trans hm, kh.trans hh, kc.trans hc⟩,
    fun b hb => (kothers b hb).trans (hothers b hb), kwings.trans hwings⟩

theorem actsWithin_of_kept {s t : State} {a : Nat} (h : Kept s t a) : ActsWithin s t a := ⟨h.rest, h.mem, h.regs, h.others, h.wings⟩

theorem actsWithin_setPort (s : State) (a : Nat) (u : Sock) (c : Nat) (v : Row) : ActsWithin s (setPort s a u c v) a := by
  refine ⟨rfl, ⟨fun _ => rfl, fun _ => rfl, fun _ => rfl⟩, ?_, fun b hb => ag_modBk_ne s _ hb, ?_⟩
  · simp only [SameRegs, setPort, modX, bk_modBk_same, and_self]
  · simp only [setPort, modX, ag_modBk_same]

theorem portR_setPort_same (s : State) (a : Nat) (u : Sock) (c : Nat) (v : Row) : portR (setPort s a u c v) a u c = v := by
  simp only [portR, setPort, modX, bk_modBk_same, kget_kset_same]

theorem portR_setPort_ne (s : State) (a : Nat) {u u' : Sock} {c c' : Nat} (v : Row) (h : pk u' c' ≠ pk u c) :
    portR (setPort s a u c v) a u' c' = portR s a u' c' := by
  simp only [portR, setPort, modX, bk_modBk_same, kget_kset_ne _ _ _ h]

theorem latchOf_setPort (s : State) (a : Nat) (u u' : Sock) (c c' : Nat) (v : Row) :
    latchOf (setPort s a u c v) a u' c' = latchOf s a u' c' := by
  simp only [latchOf, setPort, modX, bk_modBk_same]

/-! ### The operations -/

/-- An address operation completes with the value of its table. -/
theorem agOp_completes {s : State} {m : Trig} (hr : Ready s m) (hf : Free s .ag 0x20 1) {i : Instr} {f g : Word → Word → Word → Word}
    (hi : runOp i = some (m, agOp f)) (hv : ∀ a b t, f a b t = g a b t) :
    ∃ t, exec i s = .next t ∧ ResultDue s t s.cur.a .ag 0x20 (s.now + 1) (rowOf (g (oVal s .ag 0) (oVal s .ag 1) (tVal s m))) ∧
      OnlyComputes s t := by
  rw [exec_runOp hi, ← hv]
  exact result_issues hr hf rfl

/-- R204: the address operations. -/
theorem addressResults : Claims.AddressResults := by
  simp only [Claims.AddressResults, agAddress, List.forall_mem_cons]
  exact ⟨fun m s hr hf => agOp_completes hr hf rfl fun a b t => add_shiftLeft_eq_ofNat a t (b.toNat % 8),
    fun m s hr hf => agOp_completes hr hf rfl fun a _ t => gaddrVal_eq a t,
    fun m s hr hf => exec_runOp (i := .agTileid m) rfl s ▸ result_issues hr hf rfl,
    fun m s hr hf => agOp_completes (g := fun _ _ t => wd (homeVal t.toNat)) hr hf rfl fun _ _ _ => rfl,
    fun m s hr hf => agOp_completes hr hf rfl wrapVal_eq,
    List.forall_mem_nil _⟩

/-- R205: `step`. -/
theorem stepAddsStrideToItsPort : Claims.StepAddsStrideToItsPort := by
  intro m s hr hf
  have hop : opAgStep (ctxOf s m) s = result (ctxOf s m) s .ag 1 (oVal s .ag 0) fun t =>
    setPort t s.cur.a .ag 0 (rowOf (oVal s .ag 0 + oVal s .ag 1)) := rfl
  obtain ⟨hnext, hdue⟩ := resultThen_issues hr hf hop (by simp only [setPort, modX, bk_modBk_same]) fun _ h => h
  have hk := kept_flown s m .ag 1 (oVal s .ag 0)
  generalize flown s m .ag 1 (oVal s .ag 0) = t at hnext hdue hk
  have hend := kept_noteIssued (setPort t s.cur.a .ag 0 (rowOf (oVal s .ag 0 + oVal s .ag 1))) s.cur.a s.cur.hdr
  refine ⟨_, (exec_runOp (i := .agStep m) rfl s).trans hnext, hdue, ?_, fun u c hne => ?_, fun u c => ?_, ?_⟩
  · rw [portW_of_kept hend, portW, portR_setPort_same]
    exact BitVec.setWidth_setWidth_of_le _ (by decide)
  · rw [hend.values.1, portR_setPort_ne t _ _ hne, hk.values.1]
  · rw [hend.values.2, latchOf_setPort, hk.values.2]
  · exact actsWithin_trans (actsWithin_of_kept hk) (actsWithin_trans (actsWithin_setPort _ _ _ _ _) (actsWithin_of_kept hend))

/-- R204, R205: the opcodes of the address operations. -/
theorem addressOpcodes : Claims.AddressOpcodes := by
  intro m
  simp only [List.forall_mem_cons]
  exact ⟨(OpcodeRead.agLea m).1, (OpcodeRead.agGaddr m).1, (OpcodeRead.agTileid m).1, (OpcodeRead.agHome m).1, (OpcodeRead.agStep m).1,
    (OpcodeRead.agWrap m).1, List.forall_mem_nil _⟩

/-- Settles O3: each address operation completes with the value of its table, and `step` adds its stride to its own port alone. -/
theorem addressOperationResults : Obligations.AddressOperationResults := ⟨addressResults, stepAddsStrideToItsPort, addressOpcodes⟩

end Sys2Proof.Proofs

/-! SUPPORT. Handles (R206 to R208): their fields, the handle that `cb.init` makes, and the checks that a usable handle passes. -/

namespace Sys2Proof.Proofs

open Sys2Proof.Machine Sys2Proof.Laws

/-! ### The handle that `cb.init` makes (R207) -/

/-- The handle with base `base` and the other fields of `o`, with both positions zero. -/
def freshHandle (base o : Word) : BitVec 128 :=
  0#64 ++ (1#1 ++ 0#5 ++ o.extractLsb' 22 4 ++ o.extractLsb' 10 12 ++ o.extractLsb' 7 3 ++ o.extractLsb' 5 2 ++ o.extractLsb' 0 5 ++ base)

/-- A field above the lower part of a word. -/
theorem extractLsb'_append_above {w v : Nat} (x : BitVec w) (y : BitVec v) (i n : Nat) :
    (x ++ y).extractLsb' (v + i) n = x.extractLsb' i n := by
  apply BitVec.eq_of_getLsbD_eq
  intro j hj
  rw [BitVec.getLsbD_extractLsb', BitVec.getLsbD_extractLsb', BitVec.getLsbD_append, if_neg (by omega)]
  congr 2
  omega

/-- The lowest field of a word. -/
theorem extractLsb'_append_low {w v : Nat} (x : BitVec w) (y : BitVec v) : (x ++ y).extractLsb' 0 v = y := by
  rw [BitVec.extractLsb'_append_eq_of_add_le (by omega), BitVec.extractLsb'_eq_self]

theorem toNat_extractLsb' (w : Word) (i n : Nat) : (w.extractLsb' i n).toNat = w.toNat / 2 ^ i % 2 ^ n := by
  rw [BitVec.extractLsb'_toNat, Nat.shiftRight_eq_div_pow]

section

variable (base o : Word)

theorem hBase_freshHandle : hBase (freshHandle base o) = base.toNat := by
  rw [hBase, freshHandle, BitVec.extractLsb'_append_eq_of_add_le (by decide), extractLsb'_append_low]

theorem hLsize_freshHandle : hLsize (freshHandle base o) = o.toNat % 32 := by
  rw [hLsize, freshHandle, BitVec.extractLsb'_append_eq_of_add_le (by decide), extractLsb'_append_above _ base 0, extractLsb'_append_low]
  exact (toNat_extractLsb' o 0 5).trans (congrArg (· % 32) (Nat.div_one _))

theorem hRole_freshHandle : hRole (freshHandle base o) = o.toNat / 2 ^ 5 % 4 := by
  rw [hRole, freshHandle, BitVec.extractLsb'_append_eq_of_add_le (by decide), extractLsb'_append_above _ base 5,
    extractLsb'_append_above _ (o.extractLsb' 0 5) 0, extractLsb'_append_low]
  exact toNat_extractLsb' o 5 2

theorem hCls_freshHandle : hCls (freshHandle base o) = o.toNat / 2 ^ 7 % 8 := by
  rw [hCls, freshHandle, BitVec.extractLsb'_append_eq_of_add_le (by decide), extractLsb'_append_above _ base 7,
    extractLsb'_append_above _ (o.extractLsb' 0 5) 2, extractLsb'_append_above _ (o.extractLsb' 5 2) 0, extractLsb'_append_low]
  exact toNat_extractLsb' o 7 3

theorem hPeer_freshHandle : hPeer (freshHandle base o) = o.toNat / 2 ^ 10 % 2 ^ 12 := by
  rw [hPeer, freshHandle, BitVec.extractLsb'_append_eq_of_add_le (by decide), extractLsb'_append_above _ base 10,
    extractLsb'_append_above _ (o.extractLsb' 0 5) 5, extractLsb'_append_above _ (o.extractLsb' 5 2) 3,
    extractLsb'_append_above _ (o.extractLsb' 7 3) 0, extractLsb'_append_low]
  exact toNat_extractLsb' o 10 12

theorem hPhandle_freshHandle : hPhandle (freshHandle base o) = o.toNat / 2 ^ 22 % 16 := by
  rw [hPhandle, freshHandle, BitVec.extractLsb'_append_eq_of_add_le (by decide), extractLsb'_append_above _ base 22,
    extractLsb'_append_above _ (o.extractLsb' 0 5) 17, extractLsb'_append_above _ (o.extractLsb' 5 2) 15,
    extractLsb'_append_above _ (o.extractLsb' 7 3) 12, extractLsb'_append_above _ (o.extractLsb' 10 12) 0, extractLsb'_append_low]
  exact toNat_extractLsb' o 22 4

theorem hValid_freshHandle : hValid (freshHandle base o) = true := by
  simp only [hValid, freshHandle, BitVec.getLsbD_append]
  rfl

theorem hProd_freshHandle : hProd (freshHandle base o) = 0 := by
  rw [hProd, freshHandle, extractLsb'_append_above (0#64) _ 0]
  rfl

theorem hCons_freshHandle : hCons (freshHandle base o) = 0 := by
  rw [hCons, freshHandle, extractLsb'_append_above (0#64) _ 32]
  rfl

end

/-! ### Usable handles (R206, R208, R212) -/

theorem wd_toNat (w : Word) : wd w.toNat = w := by rw [wd, BitVec.ofNat_toNat, BitVec.setWidth_eq]

theorem handleFieldsOk_of {base lsize role : Nat} (h3 : role ≠ 3) (hmin : 6 ≤ lsize) (hmax : lsize ≤ 20) (halign : base % 64 = 0)
    (hdata : inData base (2 ^ lsize) = true) : handleFieldsOk base lsize role = true := by
  simp only [handleFieldsOk, bne_iff_ne.2 h3, hmin, hmax, halign, hdata, decide_true, BEq.rfl, Bool.and_true]

/-- A usable handle passes the checks at the trigger. -/
theorem withHandle_of_usable {s : State} {m : Trig} {roles : List Nat} (h : HandleUsable s (tVal s m) roles) (k : Nat → BitVec 128 → OpOut) :
    withHandle (ctxOf s m) s roles k = k (tVal s m).toNat (handleAt s m) := by
  obtain ⟨hlt, hvalid, hrole, h3, hmin, hmax, halign, hdata⟩ := h
  have hfields : handleFieldsOk (hBase (handleAt s m)) (hLsize (handleAt s m)) (hRole (handleAt s m)) = true :=
    handleFieldsOk_of h3 hmin hmax halign hdata
  have hcause : handleCause (handleAt s m) roles = none := by
    have hin : roles.contains (hRole (handleAt s m)) = true := List.contains_iff_mem.2 hrole
    have hv : hValid (handleAt s m) = true := hvalid
    simp only [handleCause, hMalformed, hfields, hin, hv, Bool.not_true, Bool.and_false, Bool.or_false, Bool.false_eq_true, if_false]
  have hno : handleNo (ctxOf s m).t = some (tVal s m).toNat := if_pos hlt
  simp only [withHandle, hno]
  rw [show hReg s (ctxOf s m).a (tVal s m).toNat = handleAt s m from rfl, hcause]

/-- The room of a handle that is not overfilled is what its size leaves. -/
theorem hRoom_eq {h : BitVec 128} (hsize : hLsize h ≤ 20) (hfit : (hProd h - hCons h).toNat ≤ 2 ^ hLsize h) :
    hRoom h = 2 ^ hLsize h - (hProd h - hCons h).toNat := by
  have hlt : 2 ^ hLsize h ≤ 2 ^ 20 := Nat.pow_le_pow_right (by decide) hsize
  rw [hRoom, hSize, BitVec.toNat_sub, BitVec.toNat_ofNat]
  omega

end Sys2Proof.Proofs

/-! SUPPORT. Moving a position of a handle and telling the peer (R208, R210): what it comes to, and what it leaves as it was. -/

namespace Sys2Proof.Proofs

open Sys2Proof.Machine Sys2Proof.Laws

/-! ### What sending leaves as it was -/

/-- Something has been sent: the agenda has gained entries, the paths stand as they were last used, and free values may have been drawn. -/
structure Sent (s t : State) : Prop where
  rest : { t with agenda := s.agenda, paths := s.paths, free := s.free } = s
  agenda : ∀ e ∈ s.agenda, e ∈ t.agenda

theorem Sent.refl (s : State) : Sent s s := ⟨rfl, fun _ h => h⟩

theorem Sent.trans {s t w : State} (h : Sent s t) (k : Sent t w) : Sent s w where
  rest := by
    have hrest := h.rest
    rw [← k.rest] at hrest
    exact hrest
  agenda := fun e he => k.agenda e (h.agenda e he)

theorem Sent.agents {s t : State} (h : Sent s t) : t.agents = s.agents := by rw [← h.rest]

theorem Sent.now {s t : State} (h : Sent s t) : t.now = s.now := by rw [← h.rest]

theorem sent_sched (s : State) (t p : Nat) (i : Instr) (o : Occ) : Sent s (sched s t p i o) :=
  ⟨rfl, fun x hx => (mem_sched s t p i o x).2 (.inr hx)⟩

theorem sent_misuse (s : State) (a rid cycle id : Nat) : Sent s (misuse s a rid cycle id) := by
  unfold misuse
  split
  · exact sent_sched _ _ _ _ _
  · exact Sent.refl s

theorem sent_opUses (s : State) (a id : Nat) (us : List (Nat × Nat)) : Sent s (opUses s a id us) := by
  induction us generalizing s with
  | nil => exact Sent.refl s
  | cons x us ih =>
    refine Sent.trans ?_ (ih _)
    dsimp only
    split
    · exact Sent.refl s
    · exact sent_misuse _ _ _ _ _

theorem sent_stepUses (s : State) (a id : Nat) (k : StepKey) (us : List (Nat × Nat)) : Sent s (stepUses s a id k us) := by
  unfold stepUses
  split
  · exact sent_opUses _ _ _ _
  · exact Sent.refl s

/-- An arrival comes no earlier than its flit sets out. -/
theorem pathArrival_spec (s : State) (src dst kind c : Nat) (booked : Bool) :
    c ≤ (pathArrival s src dst kind c booked).1 ∧ Sent s (pathArrival s src dst kind c booked).2 := by
  unfold pathArrival
  dsimp only
  split
  · exact ⟨Nat.le_trans (Nat.le_add_right _ _) (Nat.le_max_left _ _), rfl, fun _ h => h⟩
  · exact ⟨Nat.le_trans (Nat.le_trans (Nat.le_add_right _ _) (Nat.le_add_right _ _)) (Nat.le_max_left _ _), rfl, fun _ h => h⟩

theorem sent_sendUpdate (s : State) (a : Nat) (k : StepKey) (h : BitVec 128) (prod : Bool) (v : Word) : Sent s (sendUpdate s a k h prod v) := by
  unfold sendUpdate
  split
  · exact Sent.refl s
  · exact (sent_stepUses _ _ _ _ _).trans ((pathArrival_spec _ _ _ _ _ _).2.trans (sent_sched _ _ _ _ _))

/-- The update of a handle with a peer reaches it in a later cycle (R208). -/
theorem sendUpdate_comes (s : State) (a : Nat) (k : StepKey) {h : BitVec 128} (prod : Bool) (v : Word) (hrole : hRole h ≠ 0) :
    ∃ c, s.now < c ∧ Comes (sendUpdate s a k h prod v) c .handleUpdateArrival
      (.handle (hPeer h) ⟨hPhandle h % 16, Nat.mod_lt _ (by decide)⟩ prod v) := by
  unfold sendUpdate
  rw [if_neg hrole]
  refine ⟨_, ?_, _, (mem_sched _ _ _ _ _ _).2 (.inl rfl)⟩
  have hlater := (pathArrival_spec (stepUses s a 0 k (routeUses a (hPeer h) (s.now + 1))) a (hPeer h) (16 + hPhandle h)
    ((stepUses s a 0 k (routeUses a (hPeer h) (s.now + 1))).now + 1)
    (stepBooked (stepUses s a 0 k (routeUses a (hPeer h) (s.now + 1))) a k)).1
  rw [(sent_stepUses _ _ _ _ _).now] at hlater ⊢
  exact hlater

/-! ### What an operation on a handle leaves as it was -/

/-- Beside handle `n` of agent `a` and its transport state, only the agenda, the paths and the free values have changed. -/
structure OnlyHandle (s t : State) (a n : Nat) : Prop where
  rest : { t with agents := s.agents, agenda := s.agenda, paths := s.paths, free := s.free } = s
  others : ∀ b, b ≠ a → ag t b = ag s b
  handles : ∀ k, k ≠ n → hReg t a k = hReg s a k
  regs : (bk t a).g = (bk s a).g ∧ (bk t a).p = (bk s a).p ∧ (bk t a).v = (bk s a).v ∧ (bk t a).m = (bk s a).m ∧ (bk t a).c = (bk s a).c
  values : SameValues s t a

theorem OnlyHandle.trans {s t w : State} {a n : Nat} (h : OnlyHandle s t a n) (k : OnlyHandle t w a n) : OnlyHandle s w a n where
  rest := by
    have hrest := h.rest
    rw [← k.rest] at hrest
    exact hrest
  others := fun b hb => (k.others b hb).trans (h.others b hb)
  handles := fun i hi => (k.handles i hi).trans (h.handles i hi)
  regs := by
    obtain ⟨hg, hp, hv, hm, hc⟩ := h.regs
    obtain ⟨kg, kp, kv, km, kc⟩ := k.regs
    exact ⟨kg.trans hg, kp.trans hp, kv.trans hv, km.trans hm, kc.trans hc⟩
  values := ⟨fun u c => (k.values.1 u c).trans (h.values.1 u c), fun u c => (k.values.2 u c).trans (h.values.2 u c)⟩

theorem OnlyHandle.mem {s t : State} {a n : Nat} (h : OnlyHandle s t a n) : SameMemory s t := by
  have ht : t = { s with agents := t.agents, agenda := t.agenda, paths := t.paths, free := t.free } := by rw [← h.rest]
  rw [ht]
  exact ⟨fun _ => rfl, fun _ => rfl, fun _ => rfl⟩

theorem hReg_of_kept {s t : State} {a : Nat} (h : Kept s t a) (n : Nat) : hReg t a n = hReg s a n := by
  obtain ⟨-, -, -, -, hh, -⟩ := h.regs
  rw [hReg, hh, hReg]

theorem onlyHandle_of_kept {s t : State} {a : Nat} (h : Kept s t a) (n : Nat) : OnlyHandle s t a n where
  rest := by
    have ht : t = { s with agents := t.agents, agenda := t.agenda } := by rw [← h.rest]
    rw [ht]
  others := h.others
  handles := fun k _ => hReg_of_kept h k
  regs := by
    obtain ⟨hg, hp, hv, hm, -, hc⟩ := h.regs
    exact ⟨hg, hp, hv, hm, hc⟩
  values := h.values

theorem onlyHandle_setH (s : State) (a n : Nat) (v : BitVec 128) : OnlyHandle s (setH s a n v) a n where
  rest := rfl
  others := fun _ hb => ag_modBk_ne s _ hb
  handles := fun _ hk => hReg_setH_ne s a v hk
  regs := by simp only [setH, bk_modBk_same, and_self]
  values := by simp only [SameValues, portR, latchOf, setH, bk_modBk_same, implies_true, and_self]

theorem ag_of_sent {s t : State} (h : Sent s t) (a : Nat) : ag t a = ag s a := by rw [ag, h.agents, ag]

theorem bk_of_sent {s t : State} (h : Sent s t) (a : Nat) : bk t a = bk s a := by rw [bk, ag_of_sent h, bk]

theorem hReg_of_sent {s t : State} (h : Sent s t) (a n : Nat) : hReg t a n = hReg s a n := by rw [hReg, bk_of_sent h, hReg]

theorem onlyHandle_of_sent {s t : State} (h : Sent s t) (a n : Nat) : OnlyHandle s t a n where
  rest := by
    have ht : t = { s with agenda := t.agenda, paths := t.paths, free := t.free } := by rw [← h.rest]
    rw [ht]
  others := fun b _ => ag_of_sent h b
  handles := fun k _ => hReg_of_sent h a k
  regs := by simp only [bk_of_sent h, and_self]
  values := by simp only [SameValues, portR, latchOf, bk_of_sent h, implies_true, and_self]

/-! ### What the journal reads (R123) depends neither on the agents nor on the agenda -/

section

variable (s : State) (x : KMap Agent) (y : List Entry)

theorem hbmN_of_rest (pa n : Nat) : hbmN { s with agents := x, agenda := y } pa n = hbmN s pa n := by
  induction n generalizing pa with
  | zero => rfl
  | succ n ih =>
    rw [hbmN, hbmN, ih]
    rfl

theorem physByte_of_rest (p : Phys) : physByte { s with agents := x, agenda := y } p = physByte s p := by
  simp only [physByte, physRaw, hbmUnit, hbmN_of_rest]
  rfl

theorem physN_of_rest (p : Phys) (n : Nat) : physN { s with agents := x, agenda := y } p n = physN s p n := by
  induction n generalizing p with
  | zero => rfl
  | succ n ih => rw [physN, physN, ih, physByte_of_rest]

theorem recAt_of_rest (slot pos : Nat) : recAt { s with agents := x, agenda := y } slot pos = recAt s slot pos := by
  simp only [recAt, physN_of_rest]
  rfl

theorem effectOf_of_rest (k : StepKey) (type : Nat) (o : BitVec 64) :
    effectOf { s with agents := x, agenda := y } k type o = effectOf s k type o := by
  have hjournal (slot e : Nat) : journalled { s with agents := x, agenda := y } slot e k = journalled s slot e k := by
    simp only [journalled, recAt_of_rest]
    rfl
  simp only [effectOf, hjournal]
  rfl

end

/-! ### Advances -/

/-- The handle's new state is set and its peer told (R208, R210). -/
def moveHandle (s : State) (a n : Nat) (new : BitVec 128) (k : StepKey) (prod : Bool) (v : Word) : State :=
  sendUpdate (setH s a n new) a k (hReg s a n) prod v

theorem popHandle_eq (s : State) (a hn n : Nat) :
    popHandle s a hn n = moveHandle s a hn (setHCons (hReg s a hn) (hCons (hReg s a hn) + wd n)) (stepOf s a) false (hCons (hReg s a hn) + wd n) := rfl

/-- Where no effect is answered from the journal and none is journalled, a push only moves `prod` (R121, R123). -/
theorem pushHandle_eq {s : State} {a hn : Nat} (n : Nat) (hj : stepJournals s (stepOf s a) = false)
    (he : restartEffect s a 0x2A (objSram (hBase (hReg s a hn))) = .fresh) :
    pushHandle s a hn n = moveHandle s a hn (setHProd (hReg s a hn) (hProd (hReg s a hn) + wd n)) (stepOf s a) true (hProd (hReg s a hn) + wd n) := by
  unfold pushHandle moveHandle
  cases hrun : (bk s a).run with
  | none => rfl
  | some r =>
    have hstep : stepOf s a = r.key := by rw [stepOf, hrun]
    rw [restartEffect, hrun] at he
    rw [hstep] at hj ⊢
    have htake : takeEffect (setH s a hn (setHProd (hReg s a hn) (hProd (hReg s a hn) + wd n))) r.key =
        (none, setH s a hn (setHProd (hReg s a hn) (hProd (hReg s a hn) + wd n))) := by
      rw [takeEffect]
      exact if_neg (Bool.eq_false_iff.1 hj)
    simp only [pushStep, he, htake, journalAs]

/-- A step that does not journal has no record to wait for (R113, R122). -/
theorem journalHeld_of_not_journals {s : State} {k : StepKey} (h : stepJournals s k = false) : journalHeld s k = false := by
  unfold stepJournals at h
  unfold journalHeld
  cases hrec : stepRec s k with
  | none => rfl
  | some r =>
    rw [hrec] at h
    simp only [Option.any_some, Bool.and_eq_false_iff] at h ⊢
    refine h.imp_right fun hoff => ?_
    rw [ringLacks, hoff]
    rfl

/-- What the journal says of a step depends on the step, and not on what else the agents hold. -/
theorem restartEffect_of_kept {s t : State} {a : Nat} (h : Kept s t a) (hr : (bk t a).run = (bk s a).run) (type : Nat) (o : BitVec 64) :
    restartEffect t a type o = restartEffect s a type o := by
  have ht : t = { s with agents := t.agents, agenda := t.agenda } := by rw [← h.rest]
  rw [restartEffect, restartEffect, hr, ht]
  cases (bk s a).run with
  | none => rfl
  | some r => exact effectOf_of_rest _ _ _ _ _ _

theorem stepJournals_of_kept {s t : State} {a : Nat} (h : Kept s t a) (k : StepKey) : stepJournals t k = stepJournals s k := by
  have ht : t = { s with agents := t.agents, agenda := t.agenda } := by rw [← h.rest]
  rw [ht]
  rfl

theorem stepOf_of_run {s t : State} {a : Nat} (hr : (bk t a).run = (bk s a).run) : stepOf t a = stepOf s a := by rw [stepOf, hr, stepOf]

theorem fly_run (s : State) (a : Nat) (u : Sock) (c n : Nat) (v : Row) : (bk (fly s a u c n v) a).run = (bk s a).run := by
  simp only [fly, flyId, flyMode, bk_sched, modX, bk_modBk_same]

theorem flown_run (s : State) (m : Trig) (u : Sock) (lat : Nat) (v : Word) : (bk (flown s m u lat v) s.cur.a).run = (bk s s.cur.a).run :=
  (fly_run _ _ _ _ _ _).trans (sourced_run s m)

end Sys2Proof.Proofs

/-! SUPPORT. The operations on handles (R207, R210, R211). -/

namespace Sys2Proof.Proofs

open Sys2Proof.Machine Sys2Proof.Laws

/-- What an operation that sets handle `n` to `new` and sends leaves, once its bundle has issued in state `t`. -/
theorem setsHandle_noteIssued {s s' t : State} {a n : Nat} {new : BitVec 128} (hs : Kept s s' a) (ht : Sent (setH s' a n new) t) (hdr : BitVec 64) :
    hReg (noteIssued t a hdr) a n = new ∧ OnlyHandle s (noteIssued t a hdr) a n := by
  have hend := kept_noteIssued t a hdr
  refine ⟨?_, ?_⟩
  · rw [hReg_of_kept hend, hReg_of_sent ht, hReg_setH_same]
  · exact (onlyHandle_of_kept hs n).trans ((onlyHandle_setH s' a n new).trans ((onlyHandle_of_sent ht a n).trans (onlyHandle_of_kept hend n)))

/-- An operation that sets a handle and sends issues, and its result is due. -/
theorem setsHandle_issues {s : State} {m : Trig} {f : OpFn} {n : Nat} {v : Word} {new : BitVec 128} {k : State → State} (hr : Ready s m)
    (hf : Free s .ag 0x20 1) (h : f (ctxOf s m) s = result (ctxOf s m) s .ag 1 v k)
    (hk : Sent (setH (flown s m .ag 1 v) s.cur.a n new) (k (flown s m .ag 1 v))) :
    execOne m f s = .next (noteIssued (k (flown s m .ag 1 v)) s.cur.a s.cur.hdr) ∧
      ResultDue s (noteIssued (k (flown s m .ag 1 v)) s.cur.a s.cur.hdr) s.cur.a .ag 0x20 (s.now + 1) (rowOf v) := by
  refine resultThen_issues hr hf h ?_ hk.agenda
  rw [bk_of_sent hk, setH, bk_modBk_same]

/-- R207: `cb.init`. -/
theorem handleInitialises : Claims.HandleInitialises := by
  intro m s hr hf n base o hn halign hmin hmax hrole hclear hdata
  have hno : handleNo (ctxOf s m).t = some n := if_pos hn
  have hfields : handleFieldsOk (oVal s .ag 0).toNat ((oVal s .ag 1).extractLsb' 0 5).toNat ((oVal s .ag 1).extractLsb' 5 2).toNat = true := by
    have hl : ((oVal s .ag 1).extractLsb' 0 5).toNat = o % 32 := (toNat_extractLsb' _ 0 5).trans (congrArg (· % 32) (Nat.div_one _))
    have hr : ((oVal s .ag 1).extractLsb' 5 2).toNat = o / 2 ^ 5 % 4 := toNat_extractLsb' _ 5 2
    rw [hl, hr]
    exact handleFieldsOk_of hrole hmin hmax halign hdata
  have hreserved : (oVal s .ag 1).extractLsb' 26 6 = 0#6 :=
    BitVec.eq_of_toNat_eq ((toNat_extractLsb' _ 26 6).trans (congrArg (· % 2 ^ 6) hclear))
  have hop : opAgCbInit (ctxOf s m) s = result (ctxOf s m) s .ag 1 0#32 fun t => setH t s.cur.a n (freshHandle (oVal s .ag 0) (oVal s .ag 1)) := by
    have hlegal : ¬ ((oVal s .ag 1).extractLsb' 26 6 ≠ 0#6 ∨
        (!handleFieldsOk (oVal s .ag 0).toNat ((oVal s .ag 1).extractLsb' 0 5).toNat ((oVal s .ag 1).extractLsb' 5 2).toNat) = true) := by
      rw [hfields, hreserved]
      decide
    simp only [opAgCbInit, hno]
    exact if_neg hlegal
  obtain ⟨hnext, hdue⟩ := setsHandle_issues hr hf hop (Sent.refl _)
  obtain ⟨hset, honly⟩ := setsHandle_noteIssued (n := n) (new := freshHandle (oVal s .ag 0) (oVal s .ag 1))
    (kept_flown s m .ag 1 0#32) (Sent.refl _) s.cur.hdr
  obtain ⟨hg, hp, hv, hm, hc⟩ := honly.regs
  refine ⟨_, (exec_runOp (i := .agCbInit m) rfl s).trans hnext, hdue, ?_, honly.handles, hg, hp, hv, hm, hc, honly.mem, honly.values, honly.others⟩
  dsimp only
  rw [hset]
  exact ⟨hValid_freshHandle _ _, hBase_freshHandle _ _, hLsize_freshHandle _ _, hRole_freshHandle _ _, hCls_freshHandle _ _,
    hPeer_freshHandle _ _, hPhandle_freshHandle _ _, hProd_freshHandle _ _, hCons_freshHandle _ _⟩

/-- A read of a handle completes with its value. -/
theorem handleRead_completes {s : State} {m : Trig} (hr : Ready s m) (hf : Free s .ag 0x20 1) (h : HandleUsable s (tVal s m) [0, 1, 2]) {i : Instr}
    {f g : BitVec 128 → Word} (hi : runOp i = some (m, fun x s => withHandle x s [0, 1, 2] fun _ h => result x s .ag 1 (f h))) (hv : ∀ h, f h = g h) :
    ∃ t, exec i s = .next t ∧ ResultDue s t s.cur.a .ag 0x20 (s.now + 1) (rowOf (g (handleAt s m))) ∧ OnlyComputes s t := by
  rw [exec_runOp hi, ← hv]
  exact result_issues hr hf (withHandle_of_usable h _)

/-- R211: the reads. -/
theorem handleReads : Claims.HandleReads := by
  intro m s hr hf h
  simp only [List.forall_mem_cons]
  exact ⟨handleRead_completes (g := hCons) hr hf h rfl fun _ => rfl, handleRead_completes (g := hProd) hr hf h rfl fun _ => rfl,
    handleRead_completes (f := fun h => wd (hFilled h)) (g := fun h => hProd h - hCons h) hr hf h rfl fun _ => wd_toNat _, List.forall_mem_nil _⟩

/-! ### Advances -/

/-- An operation that moves a position of handle `n` issues: its result and its update are due, and nothing but the handle changes. -/
theorem movesHandle_issues {s : State} {m : Trig} {f : OpFn} {n : Nat} {v w : Word} {new : BitVec 128} {key : StepKey} {prod : Bool}
    {k : State → State} (hr : Ready s m) (hf : Free s .ag 0x20 1) (h : f (ctxOf s m) s = result (ctxOf s m) s .ag 1 v k)
    (hk : k (flown s m .ag 1 v) = moveHandle (flown s m .ag 1 v) s.cur.a n new key prod w) :
    ∃ t, execOne m f s = .next t ∧ ResultDue s t s.cur.a .ag 0x20 (s.now + 1) (rowOf v) ∧ hReg t s.cur.a n = new ∧
      (hRole (hReg s s.cur.a n) ≠ 0 → ∃ c, s.now < c ∧ Comes t c .handleUpdateArrival
        (.handle (hPeer (hReg s s.cur.a n)) ⟨hPhandle (hReg s s.cur.a n) % 16, Nat.mod_lt _ (by decide)⟩ prod w)) ∧
      OnlyHandle s t s.cur.a n := by
  have hkept := kept_flown s m .ag 1 v
  have hsent : Sent (setH (flown s m .ag 1 v) s.cur.a n new) (k (flown s m .ag 1 v)) := hk ▸ sent_sendUpdate _ _ _ _ _ _
  obtain ⟨hnext, hdue⟩ := setsHandle_issues hr hf h hsent
  obtain ⟨hset, honly⟩ := setsHandle_noteIssued hkept hsent s.cur.hdr
  refine ⟨_, hnext, hdue, hset, fun hrole => ?_, honly⟩
  obtain ⟨c, hlater, p, hin⟩ := sendUpdate_comes (setH (flown s m .ag 1 v) s.cur.a n new) s.cur.a key prod w hrole
  refine ⟨c, hkept.now ▸ hlater, p, (kept_noteIssued _ _ _).agenda _ ?_⟩
  rw [hk, moveHandle, hReg_of_kept hkept]
  exact hin

/-- A push of `n` bytes for which there is room, and which waits neither for a store nor for the journal, answers with the new `prod` (R210). -/
theorem opAgCbAdvp_answer {s : State} {m : Trig} (hu : HandleUsable s (tVal s m) [0, 1])
    (hj : stepJournals s (stepOf s s.cur.a) = false) (he : restartEffect s s.cur.a 0x2A (objSram (hBase (handleAt s m))) = .fresh)
    (hfit : (oVal s .ag 0).toNat + (hProd (handleAt s m) - hCons (handleAt s m)).toNat ≤ 2 ^ hLsize (handleAt s m))
    (hpend : classPending s s.cur.a (hCls (handleAt s m)) true = false) :
    opAgCbAdvp (ctxOf s m) s = result (ctxOf s m) s .ag 1 (hProd (handleAt s m) + oVal s .ag 0) fun t =>
      pushHandle t s.cur.a (tVal s m).toNat (oVal s .ag 0).toNat := by
  have hsize : hLsize (handleAt s m) ≤ 20 := by
    obtain ⟨-, -, -, -, -, hmax, -⟩ := hu
    exact hmax
  have hroom : ¬ (oVal s .ag 0).toNat > hRoom (handleAt s m) := by
    rw [hRoom_eq hsize (by omega)]
    omega
  have hjournal : ((bk s s.cur.a).run.any fun r => journalHeld s r.key) = false := by
    cases hrun : (bk s s.cur.a).run with
    | none => rfl
    | some r =>
      rw [stepOf, hrun] at hj
      exact journalHeld_of_not_journals hj
  rw [opAgCbAdvp, withHandle_of_usable hu]
  simp only [oVal] at hroom ⊢
  simp only [ctxOf, if_neg hroom, hpend, he, hjournal, Bool.false_eq_true, if_false, wd_toNat]

/-- A pop of `n` bytes that are filled, and which waits for no load, answers with the new `cons` (R210). -/
theorem opAgCbAdvc_answer {s : State} {m : Trig} (hu : HandleUsable s (tVal s m) [0, 2])
    (hfit : (oVal s .ag 0).toNat ≤ (hProd (handleAt s m) - hCons (handleAt s m)).toNat)
    (hpend : classPending s s.cur.a (hCls (handleAt s m)) false = false) :
    opAgCbAdvc (ctxOf s m) s = result (ctxOf s m) s .ag 1 (hCons (handleAt s m) + oVal s .ag 0) fun t =>
      popHandle t s.cur.a (tVal s m).toNat (oVal s .ag 0).toNat := by
  have hfilled : ¬ (oVal s .ag 0).toNat > hFilled (handleAt s m) := Nat.not_lt.2 hfit
  rw [opAgCbAdvc, withHandle_of_usable hu]
  simp only [oVal] at hfilled ⊢
  simp only [ctxOf, if_neg hfilled, hpend, Bool.false_eq_true, if_false, wd_toNat]

/-- R210: the advances. -/
theorem handleAdvances : Claims.HandleAdvances := by
  intro m s hr hf hj he a h n peer ph frame
  have hframe {t : State} (ht : OnlyHandle s t a (tVal s m).toNat) : frame t := by
    obtain ⟨hg, hp, hv, hm, hc⟩ := ht.regs
    exact ⟨ht.handles, hg, hp, hv, hm, hc, ht.mem, ht.others⟩
  have hflown (v : Word) : hReg (flown s m .ag 1 v) a (tVal s m).toNat = h := hReg_of_kept (kept_flown s m .ag 1 v) _
  refine ⟨fun hu hfit hpend => ?_, fun hu hfit hpend => ?_⟩
  · have hk := kept_flown s m .ag 1 (hProd h + n)
    have hrun := flown_run s m .ag 1 (hProd h + n)
    have hpush : pushHandle (flown s m .ag 1 (hProd h + n)) a (tVal s m).toNat n.toNat =
        moveHandle (flown s m .ag 1 (hProd h + n)) a (tVal s m).toNat (setHProd h (hProd h + n)) (stepOf s a) true (hProd h + n) := by
      rw [pushHandle_eq, hflown, wd_toNat, stepOf_of_run hrun]
      · rw [stepOf_of_run hrun, stepJournals_of_kept hk, hj]
      · rw [restartEffect_of_kept hk hrun, hflown, he]
    obtain ⟨t, hnext, hdue, hset, hcomes, honly⟩ := movesHandle_issues hr hf (opAgCbAdvp_answer hu hj he hfit hpend) hpush
    exact ⟨t, (exec_runOp (i := .agCbAdvp m) rfl s).trans hnext, hdue, hset, fun hrole => hcomes (fun h0 => absurd (hrole.symm.trans h0) (by decide)),
      hframe honly⟩
  · have hpop : popHandle (flown s m .ag 1 (hCons h + n)) a (tVal s m).toNat n.toNat =
        moveHandle (flown s m .ag 1 (hCons h + n)) a (tVal s m).toNat (setHCons h (hCons h + n)) (stepOf s a) false (hCons h + n) := by
      rw [popHandle_eq, hflown, wd_toNat, stepOf_of_run (flown_run s m .ag 1 (hCons h + n))]
    obtain ⟨t, hnext, hdue, hset, hcomes, honly⟩ := movesHandle_issues hr hf (opAgCbAdvc_answer hu hfit hpend) hpop
    exact ⟨t, (exec_runOp (i := .agCbAdvc m) rfl s).trans hnext, hdue, hset, fun hrole => hcomes (fun h0 => absurd (hrole.symm.trans h0) (by decide)),
      hframe honly⟩

/-- R207, R209 to R211: the opcodes of the handle operations. -/
theorem handleOpcodes : Claims.HandleOpcodes := by
  intro m
  simp only [List.forall_mem_cons]
  exact ⟨(OpcodeRead.agCbInit m).1, (OpcodeRead.agCbWait m).1, (OpcodeRead.agCbRoom m).1, (OpcodeRead.agCbAdvp m).1,
    (OpcodeRead.agCbAdvc m).1, (OpcodeRead.agCbPos m).1, (OpcodeRead.agCbPosp m).1, (OpcodeRead.agCbFill m).1, List.forall_mem_nil _⟩

/-- Settles O4: `cb.init`, the reads and the advances complete with the positions of the rules; an advance moves one handle and sends its update,
which touches nothing but the agenda and the paths. -/
theorem handleOperations : Obligations.HandleOperations := ⟨handleInitialises, handleReads, handleAdvances, handleOpcodes⟩

end Sys2Proof.Proofs

/-! SUPPORT. Rows and masks from their parts (R245): lane by lane and bit by bit. -/

namespace Sys2Proof.Proofs

open Sys2Proof.Machine Sys2Proof.Laws

/-! ### Packing -/

/-- The number whose digits in base `b` are `f 0`, …, `f (n - 1)`, lowest first. -/
def packed (b : Nat) (f : Nat → Nat) (n : Nat) : Nat := (List.range n).foldr (fun i acc => f i + b * acc) 0

theorem packed_succ (b : Nat) (f : Nat → Nat) (n : Nat) : packed b f (n + 1) = f 0 + b * packed b (fun i => f (i + 1)) n := by
  rw [packed, List.range_succ_eq_map, List.foldr_cons, List.foldr_map, packed]

theorem packed_lt {b : Nat} {f : Nat → Nat} (hf : ∀ i, f i < b) (n : Nat) : packed b f n < b ^ n := by
  induction n generalizing f with
  | zero => exact Nat.one_pos
  | succ n ih =>
    have hrest := ih fun i => hf (i + 1)
    rw [packed_succ]
    calc f 0 + b * packed b (fun i => f (i + 1)) n < b + b * packed b (fun i => f (i + 1)) n := Nat.add_lt_add_right (hf 0) _
      _ = b * (packed b (fun i => f (i + 1)) n + 1) := by rw [Nat.mul_succ, Nat.add_comm]
      _ ≤ b * b ^ n := Nat.mul_le_mul_left b hrest
      _ = b ^ (n + 1) := by rw [Nat.pow_succ, Nat.mul_comm]

theorem digit_packed {b : Nat} {f : Nat → Nat} (hf : ∀ i, f i < b) {i n : Nat} (hi : i < n) : packed b f n / b ^ i % b = f i := by
  have hb : 0 < b := Nat.zero_lt_of_lt (hf 0)
  induction n generalizing f i with
  | zero => exact absurd hi (Nat.not_lt_zero i)
  | succ n ih =>
    rw [packed_succ]
    cases i with
    | zero => rw [Nat.pow_zero, Nat.div_one, Nat.add_mul_mod_self_left, Nat.mod_eq_of_lt (hf 0)]
    | succ i =>
      rw [Nat.pow_succ, Nat.mul_comm (b ^ i), ← Nat.div_div_eq_div_mul, Nat.add_mul_div_left _ _ hb, Nat.div_eq_of_lt (hf 0), Nat.zero_add]
      exact ih (fun i => hf (i + 1)) (Nat.lt_of_succ_lt_succ hi)

/-! ### Lanes -/

/-- A lane of a row that is made of its lanes. -/
theorem lane_rowOfLanes (f : Nat → Word) {i : Nat} (hi : i < 64) : lane (rowOfLanes f) i = f i := by
  have hlt : ∀ k, (f k).toNat < 2 ^ 32 := fun k => (f k).isLt
  have hrow := packed_lt hlt 64
  rw [← Nat.pow_mul, show 32 * 64 = 2048 from rfl] at hrow
  apply BitVec.eq_of_toNat_eq
  rw [lane, BitVec.extractLsb'_toNat, rowOfLanes, ← packed, BitVec.toNat_ofNat, Nat.mod_eq_of_lt hrow,
    Nat.shiftRight_eq_div_pow, Nat.pow_mul, digit_packed hlt hi]

/-- Active lanes of a merged row are new, the others old. -/
theorem lane_mergeLanes (act : BitVec 64) (old new : Row) {i : Nat} (hi : i < 64) :
    lane (mergeLanes act old new) i = if act.getLsbD i then lane new i else lane old i := lane_rowOfLanes _ hi

theorem lane_setLane (r : Row) (n : Nat) (w : Word) {i : Nat} (hi : i < 64) : lane (setLane r n w) i = if i = n then w else lane r i :=
  lane_rowOfLanes _ hi

/-- Doubling a pattern all of whose words are `w` gives another. -/
theorem extractLsb'_append_self {w : Word} {k : Nat} {r : BitVec (32 * k)} (h : ∀ i, i < k → r.extractLsb' (32 * i) 32 = w) :
    ∀ i, i < 2 * k → (r ++ r).extractLsb' (32 * i) 32 = w := by
  intro i hi
  apply BitVec.eq_of_getLsbD_eq
  intro j hj
  rw [BitVec.getLsbD_extractLsb', BitVec.getLsbD_append]
  by_cases hik : i < k
  · rw [if_pos (by omega), ← h i hik, BitVec.getLsbD_extractLsb']
  · have hpos : 32 * i + j - 32 * k = 32 * (i - k) + j := by omega
    rw [if_neg (by omega), ← h (i - k) (by omega), BitVec.getLsbD_extractLsb', hpos]

/-- Every lane of a splatted word is that word. -/
theorem lane_splat (w : Word) {i : Nat} (hi : i < 64) : lane (splat w) i = w := by
  have h1 : ∀ i, i < 1 → w.extractLsb' (32 * i) 32 = w := fun i hi => by
    rw [Nat.lt_one_iff.1 hi]
    exact BitVec.extractLsb'_eq_self
  have h2 := extractLsb'_append_self (k := 1) h1
  have h4 := extractLsb'_append_self (k := 2) h2
  have h8 := extractLsb'_append_self (k := 4) h4
  have h16 := extractLsb'_append_self (k := 8) h8
  have h32 := extractLsb'_append_self (k := 16) h16
  exact extractLsb'_append_self (k := 32) h32 i hi

/-! ### Masks -/

theorem getLsbD_maskBits (f : Nat → Bool) {i : Nat} (hi : i < 64) : (maskBits f).getLsbD i = f i := by
  have hlt : ∀ k, (if f k then 1 else 0) < 2 := fun k => by split <;> omega
  rw [maskBits, ← packed, BitVec.getLsbD_ofNat, decide_eq_true hi, Bool.true_and, Nat.testBit_eq_decide_div_mod_eq, digit_packed hlt hi]
  cases f i <;> rfl

theorem popCount_eq_countP (m : BitVec 64) : popCount m = (List.range 64).countP fun i => m.getLsbD i := List.countP_eq_length_filter.symm

end Sys2Proof.Proofs

/-! SUPPORT. The operations of `vx` that write a register (R244, R245): the write is due, lane by lane. -/

namespace Sys2Proof.Proofs

open Sys2Proof.Machine Sys2Proof.Laws

theorem noCauses_false {x : OpCtx} {s : State} : ∀ c ∈ noCauses x s, c.1 = false := fun _ hc => absurd hc List.not_mem_nil

/-- A lane of a register stands, while an operation takes effect, as it stood before. -/
theorem lane_vReg_sourced (s : State) (m : Trig) (n i : Nat) : lane (vReg (sourced s m) s.cur.a n) i = vLane s n i := by
  rw [vReg_of_kept (kept_sourced s m), vLane]

/-- An operation that writes `vd` issues: its row, merged with the old one, is due, and it only computes. -/
theorem vxWrite_issues {s : State} {m : Trig} {r : VReads} {lat : Nat} {extra : OpCtx → State → List (Bool × Nat)} {f : OpCtx → State → Row}
    (h : VxReady s m r []) (hx : ∀ c ∈ extra (ctxOf s m) s, c.1 = false) :
    ∃ u, execOne m (vxWrite r lat extra f) s = .next u ∧ WriteDue u s.cur.a .vx (s.now + lat) (.vreg (vsD (tVal s m))
      (mergeLanes (vAct s s.cur.a (tVal s m)) (vReg s s.cur.a (vsD (tVal s m))) (f (ctxOf s m) (sourced s m)))) ∧ OnlyComputes s u := by
  have hk := kept_sourced s m
  refine ⟨_, vxOp_issues h hx (by omega) (by omega), pend_issued (i := 0) ?_⟩
  simp only [ctxOf, vReg_of_kept hk, vAct_of_kept hk, sourced_now]

/-- An operation that writes `vd` completes: each active lane takes its value, the others keep theirs. -/
theorem vxWrite_completes {s : State} {m : Trig} {i : Instr} {r : VReads} {lat : Nat} {extra : OpCtx → State → List (Bool × Nat)}
    {f : OpCtx → State → Row} {g : Nat → Word} (h : VxReady s m r []) (hi : runOp i = some (m, vxWrite r lat extra f))
    (hx : ∀ c ∈ extra (ctxOf s m) s, c.1 = false) (hg : ∀ k, k < 64 → lane (f (ctxOf s m) (sourced s m)) k = g k) :
    ∃ u, exec i s = .next u ∧ VectorDue s u (tVal s m) lat g ∧ OnlyComputes s u := by
  obtain ⟨u, hnext, hdue, honly⟩ := vxWrite_issues (lat := lat) (f := f) h hx
  refine ⟨u, (exec_runOp hi s).trans hnext, ⟨_, hdue, fun k hk => ?_⟩, honly⟩
  rw [lane_mergeLanes _ _ _ hk, getLsbD_vAct s _ hk, hg k hk]
  rfl

/-- An operation that works lane by lane completes with the value of its table in each active lane. -/
theorem vxLanes_completes {s : State} {m : Trig} {i : Instr} {r : VReads} {lat : Nat} {f g : Word → Word → Word → Word → Word}
    (h : VxReady s m r []) (hi : runOp i = some (m, vxLanes r lat f)) (hv : ∀ t a b c, f t a b c = g t a b c) :
    ∃ u, exec i s = .next u ∧ VectorDue s u (tVal s m) lat (fun i => g (tVal s m) (vLane s ((tVal s m).toNat / 2 ^ 6 % 64) i)
      (vLane s ((tVal s m).toNat / 2 ^ 12 % 64) i) (vLane s ((tVal s m).toNat / 2 ^ 18 % 64) i)) ∧ OnlyComputes s u := by
  refine vxWrite_completes h hi noCauses_false fun k hk => (lane_rowOfLanes _ hk).trans ?_
  simp only [ctxOf, lane_vReg_sourced, hv]
  rfl

/-- An operation that delivers a value or a register completes with it due in its latch. -/
theorem vxResult_completes {s : State} {m : Trig} {i : Instr} {r : VReads} {code q0 q1 lat : Nat} {extra : OpCtx → State → List (Bool × Nat)}
    {f : OpCtx → State → Row} {v : Row} (h : VxReady s m r []) (hq0 : q0 ≤ 1) (hq1 : q1 ≤ 1)
    (hi : runOp i = some (m, vxOp r extra q0 q1 fun x t => fly t x.a .vx code lat (f x t))) (hx : ∀ c ∈ extra (ctxOf s m) s, c.1 = false)
    (hv : f (ctxOf s m) (sourced s m) = v) :
    ∃ u, exec i s = .next u ∧ ResultDue s u s.cur.a .vx code (s.now + lat) v ∧ OnlyComputes s u := by
  rw [exec_runOp hi]
  exact ⟨_, vxOp_issues h hx hq0 hq1, and_comm.1 (fly_issued (hv ▸ rfl))⟩

end Sys2Proof.Proofs

/-! SUPPORT. The element-wise arithmetic of `vx` (R247 to R249): the lane functions of the model give the values of the tables. -/

namespace Sys2Proof.Proofs

open Sys2Proof.Machine Sys2Proof.Laws

/-! ### FP32 (R247, R248) -/

/-- The negated product of a fused operation keeps a NaN, as every negation does. -/
theorem fpFma_eq (mode : Nat) (sat np nc : Bool) (a b c : Word) : fpFma fp32 mode sat np nc a.toNat b.toNat c.toNat =
    elemRound fp32 mode sat [a.toNat, b.toNat, c.toNat]
      (addNum mode (if np then negNum (mulNum (num32 a) (num32 b)) else mulNum (num32 a) (num32 b)) (if nc then negNum (num32 c) else num32 c)) := by
  simp only [fpFma, num32]
  cases np with
  | false => rfl
  | true => cases mulNum (decodeNum fp32 a.toNat) (decodeNum fp32 b.toNat) <;> rfl

theorem fpMin_eq (a b : Word) : fpMin fp32 a.toNat b.toNat = if isNaN32 a then (quiet a).toNat else if isNaN32 b then (quiet b).toNat
    else if fpOrd fp32 b.toNat < fpOrd fp32 a.toNat then b.toNat else a.toNat := by
  rw [fpMin, isNaNOf_fp32, isNaNOf_fp32]
  rfl

theorem fpMax_eq (a b : Word) : fpMax fp32 a.toNat b.toNat = if isNaN32 a then (quiet a).toNat else if isNaN32 b then (quiet b).toNat
    else if fpOrd fp32 a.toNat < fpOrd fp32 b.toNat then b.toNat else a.toNat := by
  rw [fpMax, isNaNOf_fp32, isNaNOf_fp32]
  rfl

/-- Clearing the sign bit keeps the bits below it. -/
theorem and_magnitude_eq_ofNat (a : Word) : a &&& 0x7FFFFFFF#32 = BitVec.ofNat 32 (a.toNat % 2 ^ 31) := by
  apply BitVec.eq_of_toNat_eq
  rw [BitVec.toNat_and, BitVec.toNat_ofNat, BitVec.toNat_ofNat, ← Nat.and_two_pow_sub_one_eq_mod a.toNat 31]
  exact (Nat.mod_eq_of_lt (Nat.lt_of_le_of_lt Nat.and_le_left a.isLt)).symm

/-- Inverting the sign bit adds its weight. -/
theorem xor_sign_eq_ofNat (a : Word) : a ^^^ 0x80000000#32 = BitVec.ofNat 32 (a.toNat + 2 ^ 31) := by
  apply BitVec.eq_of_getLsbD_eq
  intro i hi
  have hsign : (0x80000000#32).getLsbD i = decide (31 = i) := BitVec.getLsbD_twoPow 31 i
  rw [BitVec.getLsbD_xor, hsign, BitVec.getLsbD_ofNat, decide_eq_true hi, Bool.true_and, Nat.add_comm]
  rcases Nat.lt_succ_iff_lt_or_eq.1 hi with hlt | rfl
  · rw [Nat.testBit_two_pow_add_gt hlt, decide_eq_false (by omega), Bool.xor_false, BitVec.testBit_toNat]
  · rw [Nat.testBit_two_pow_add_eq, BitVec.testBit_toNat, decide_eq_true rfl, Bool.xor_true]

/-- A word chosen between a quiet NaN and another is the pattern chosen. -/
theorem ite_quiet_eq_ofNat {a w : Word} {n : Nat} (h : w = BitVec.ofNat 32 n) :
    (if isNaN32 a then quiet a else w) = BitVec.ofNat 32 (if isNaN32 a then (quiet a).toNat else n) := by
  split
  · rw [BitVec.ofNat_toNat, BitVec.setWidth_eq]
  · exact h

/-- The operations of the FP32 table work lane by lane, with its values. -/
theorem vxFloat_lanes : ∀ e ∈ vxFloat, ∃ f, (∀ m, runOp (e.1 m) = some (m, vxLanes e.2.1 e.2.2.1 f)) ∧
    ∀ t a b c, f t a b c = BitVec.ofNat 32 (e.2.2.2 t a b c) := by
  simp only [vxFloat, List.forall_mem_cons]
  exact ⟨⟨_, fun _ => rfl, fun _ _ _ _ => rfl⟩, ⟨_, fun _ => rfl, fun _ _ _ _ => rfl⟩, ⟨_, fun _ => rfl, fun _ _ _ _ => rfl⟩,
    ⟨_, fun _ => rfl, fun _ a b c => congrArg wd (fpFma_eq _ _ false false a b c)⟩,
    ⟨_, fun _ => rfl, fun _ a b c => congrArg wd (fpFma_eq _ _ false true a b c)⟩,
    ⟨_, fun _ => rfl, fun _ a b c => congrArg wd (fpFma_eq _ _ true false a b c)⟩,
    ⟨_, fun _ => rfl, fun _ _ _ _ => rfl⟩, ⟨_, fun _ => rfl, fun _ _ _ _ => rfl⟩, ⟨_, fun _ => rfl, fun _ _ _ _ => rfl⟩,
    ⟨_, fun _ => rfl, fun _ _ _ _ => rfl⟩, ⟨_, fun _ => rfl, fun _ _ _ _ => rfl⟩, ⟨_, fun _ => rfl, fun _ _ _ _ => rfl⟩,
    ⟨_, fun _ => rfl, fun _ a b _ => congrArg wd (fpMin_eq a b)⟩, ⟨_, fun _ => rfl, fun _ a b _ => congrArg wd (fpMax_eq a b)⟩,
    ⟨_, fun _ => rfl, fun _ a _ _ => ite_quiet_eq_ofNat (and_magnitude_eq_ofNat a)⟩,
    ⟨_, fun _ => rfl, fun _ a _ _ => ite_quiet_eq_ofNat (xor_sign_eq_ofNat a)⟩,
    ⟨_, fun _ => rfl, fun _ _ _ _ => rfl⟩, List.forall_mem_nil _⟩

/-- R127, R140, R247, R248, R255: the FP32 operations. -/
theorem vectorFloatResults : Claims.VectorFloatResults := by
  intro e he m s h
  obtain ⟨f, hi, hv⟩ := vxFloat_lanes e he
  exact vxLanes_completes (g := fun t a b c => BitVec.ofNat 32 (e.2.2.2 t a b c)) h (hi m) hv

/-! ### Integers (R249) -/

/-- The pattern of an integer that is clamped or cut to 32 bits. -/
theorem wd_intNarrow (sat : Bool) (i : Int) : wd (intNarrow 32 sat i) = satInt sat i := by
  have hlow (z : Int) : wd (z % (2 ^ 32 : Nat)).toNat = BitVec.ofInt 32 z := by
    apply BitVec.eq_of_toNat_eq
    rw [wd, BitVec.toNat_ofNat, BitVec.toNat_ofInt]
    omega
  cases sat with
  | false => exact hlow i
  | true => exact hlow _

/-- The operations of the integer table work lane by lane, with its values. -/
theorem vxInteger_lanes : ∀ e ∈ vxInteger, ∃ f, (∀ m, runOp (e.1 m) = some (m, vxLanes e.2.1 2 f)) ∧ ∀ t a b c, f t a b c = e.2.2 t a b := by
  simp only [vxInteger, List.forall_mem_cons]
  exact ⟨⟨_, fun _ => rfl, fun _ _ _ _ => wd_intNarrow _ _⟩, ⟨_, fun _ => rfl, fun _ _ _ _ => wd_intNarrow _ _⟩,
    ⟨_, fun _ => rfl, fun _ _ _ _ => wd_intNarrow _ _⟩,
    ⟨_, fun _ => rfl, fun _ _ _ _ => rfl⟩, ⟨_, fun _ => rfl, fun _ _ _ _ => rfl⟩, ⟨_, fun _ => rfl, fun _ _ _ _ => rfl⟩,
    ⟨_, fun _ => rfl, fun _ a b _ => shiftLeft_eq_ofNat a (b.toNat % 32)⟩,
    ⟨_, fun _ => rfl, fun _ a b _ => ushiftRight_eq_ofNat a (b.toNat % 32)⟩,
    ⟨_, fun _ => rfl, fun _ a b _ => sshiftRight_eq_ofInt a (b.toNat % 32)⟩,
    ⟨_, fun _ => rfl, fun _ a b _ => Int.min_comm a.toInt b.toInt ▸ ite_slt_eq_min b a⟩,
    ⟨_, fun _ => rfl, fun _ a b _ => ite_slt_eq_max a b⟩, List.forall_mem_nil _⟩

/-- R249: the integer operations of `vx`. -/
theorem vectorIntegerResults : Claims.VectorIntegerResults := by
  intro e he m s h
  obtain ⟨f, hi, hv⟩ := vxInteger_lanes e he
  exact vxLanes_completes (g := fun t a b _ => e.2.2 t a b) h (hi m) hv

end Sys2Proof.Proofs

/-! SUPPORT. Special values of FP32 (R127, R140): NaN operands, operands without a root or a logarithm, and the exact powers of two. -/

namespace Sys2Proof.Proofs

open Sys2Proof.Machine Sys2Proof.Laws

/-! ### NaN operands (R127) -/

/-- The first operand decides where it is a NaN. -/
theorem elemRound_of_nan (mode : Nat) (sat : Bool) {a : Word} (h : isNaN32 a = true) (xs : List Nat) (r : Machine.Num) :
    elemRound fp32 mode sat (a.toNat :: xs) r = (quiet a).toNat := by
  unfold elemRound
  rw [List.find?_cons_of_pos ((isNaNOf_fp32 a).trans h)]
  rfl

/-- An operand that is no NaN leaves the result to those behind it. -/
theorem elemRound_of_not_nan (mode : Nat) (sat : Bool) {a : Word} (h : isNaN32 a = false) (xs : List Nat) (r : Machine.Num) :
    elemRound fp32 mode sat (a.toNat :: xs) r = elemRound fp32 mode sat xs r := by
  unfold elemRound
  rw [List.find?_cons_of_neg (Bool.eq_false_iff.1 ((isNaNOf_fp32 a).trans h))]

/-! ### Operands below zero (R140) -/

/-- A value that has no square root and no logarithm: minus infinity, and what is finite below zero. -/
inductive BelowZero : Machine.Num → Prop
  | inf : BelowZero (.inf true)
  | fin {m : Nat} (e : Int) (h : m ≠ 0) : BelowZero (.fin true m e false)

/-- The words below zero: the sign bit set, no NaN and not −0. -/
theorem belowZero_num32 {a : Word} (hnan : isNaN32 a = false) (hsign : a.getLsbD 31 = true) (hzero : a ≠ 0x80000000#32) : BelowZero (num32 a) := by
  have hneg : a.toNat / 2 ^ 31 % 2 = 1 := by
    rwa [← BitVec.testBit_toNat, Nat.testBit_eq_decide_div_mod_eq, decide_eq_true_iff] at hsign
  have hlt := a.isLt
  have hne : a.toNat ≠ 0x80000000 := fun h => hzero (BitVec.eq_of_toNat_eq h)
  have hnum : num32 a = if a.toNat / 2 ^ 23 % 2 ^ 8 = 2 ^ 8 - 1 then (if a.toNat % 2 ^ 23 = 0 then .inf true else .nan true (a.toNat % 2 ^ 23 % 8))
      else finVal fp32 true (a.toNat / 2 ^ 23 % 2 ^ 8) (a.toNat % 2 ^ 23) := by
    have hdec : decide (a.toNat / 2 ^ (8 + 23) % 2 = 1) = true := decide_eq_true hneg
    rw [num32, fp32]
    simp only [decodeNum, hdec]
  rw [← isNaNOf_fp32, fp32, isNaNOf_wide, Bool.and_eq_false_iff, Bool.not_eq_false', decide_eq_false_iff_not, decide_eq_true_iff] at hnan
  rw [hnum]
  split
  next he =>
    rw [if_pos (hnan.resolve_left fun hne => hne he)]
    exact .inf
  next he =>
    unfold finVal
    split
    next h0 => exact .fin _ (by omega)
    next => exact .fin _ (by have := Nat.two_pow_pos (fmtP fp32 - 1); omega)

section

variable {x : Machine.Num} (h : BelowZero x)
include h

theorem BelowZero.sqrtNum_eq : sqrtNum x = .nan false 6 := by
  cases h with
  | inf => rfl
  | fin e h0 => exact if_neg h0

theorem BelowZero.rsqrtNum_eq : rsqrtNum x = .nan false 6 := by
  cases h with
  | inf => rfl
  | fin e h0 => exact if_neg h0

theorem BelowZero.log2Num_eq : log2Num x = .nan false 6 := by
  cases h with
  | inf => rfl
  | fin e h0 => exact if_neg h0

end

/-! ### Powers of two (R140) -/

/-- The power of a whole number is exact. -/
theorem exp2Num_of_int {i : Int} (hi : i.natAbs < 2 ^ 12) : exp2Num (.fin (i < 0) i.natAbs 0 false) = .fin false 1 i false := by
  by_cases h0 : i.natAbs = 0
  · have hi0 : i = 0 := Int.natAbs_eq_zero.1 h0
    subst hi0
    rfl
  · have hlen : ¬ ((bitLen i.natAbs : Int) + 0 > 12) := by
      have := (Nat.log2_lt h0).2 hi
      rw [bitLen, if_neg h0]
      omega
    have hfix : (0 : Int) ≤ 0 + fixF := by decide
    have hval : (if decide (i < 0) = true then -((i.natAbs * 2 ^ (0 + fixF : Int).toNat : Nat) : Int) else (i.natAbs * 2 ^ (0 + fixF : Int).toNat : Nat)) =
        i * (2 ^ fixF : Nat) := by
      rw [show (0 + fixF : Int).toNat = fixF from rfl, Int.natCast_mul]
      by_cases hneg : i < 0
      · rw [if_pos (decide_eq_true hneg), Int.ofNat_natAbs_of_nonpos (by omega), Int.neg_mul, Int.neg_neg]
      · rw [if_neg (by rwa [decide_eq_true_iff]), Int.natAbs_of_nonneg (by omega)]
    have hpos : ((2 ^ fixF : Nat) : Int) ≠ 0 := Int.natCast_ne_zero.2 (Nat.ne_of_gt (Nat.two_pow_pos fixF))
    simp only [exp2Num, if_neg h0, if_neg hlen, if_pos hfix, hval, Int.mul_ediv_cancel _ hpos, Int.mul_emod_left]
    rfl

/-- A power of two in the range of normal FP32 numbers lies on the grid, at the full precision. -/
theorem roundGrid_fp32_twoPow (mode : Nat) {i : Int} (hlo : -126 ≤ i) : roundGrid fp32 mode false 1 i false = (2 ^ 23, i - 23) := by
  have hq : max (fmtEmin fp32) (i + (bitLen 1 : Nat) - (fmtP fp32 : Nat)) = i - 23 := by
    change max (-149) (i + 1 - 24) = i - 23
    omega
  have hexp : (i - (i - 23)).toNat = 23 := by omega
  have hle : i - 23 ≤ i := by omega
  simp only [roundGrid, hq, hexp, if_pos hle]
  rfl

/-- No power of two up to 2^127 exceeds the largest FP32 number. -/
theorem aboveMax_fp32_twoPow {i : Int} (hhi : i ≤ 127) : aboveMax fp32 (2 ^ 23) (i - 23) = false := by
  have hmax : maxFin fp32 = (2 ^ 24 - 1, 104) := by decide
  simp only [aboveMax, hmax]
  split
  · have hexp : (i - 23 - 104).toNat = 0 := by omega
    rw [hexp]
    rfl
  · have hpos := Nat.two_pow_pos (104 - (i - 23)).toNat
    exact decide_eq_false (by omega)

/-- The pattern of a power of two is its biased exponent. -/
theorem encodeFin_fp32_twoPow (i : Int) : encodeFin fp32 false (2 ^ 23) (i - 23) = (i + 127).toNat * 2 ^ 23 := by
  change 0 + ((i - 23 - -149 + 1).toNat * 2 ^ 23 + 0) = (i + 127).toNat * 2 ^ 23
  omega

/-- A power of two in the range of normal FP32 numbers rounds to itself, whatever the mode. -/
theorem roundNum_fp32_twoPow (mode : Nat) (sat : Bool) {i : Int} (hlo : -126 ≤ i) (hhi : i ≤ 127) :
    roundNum fp32 mode sat (.fin false 1 i false) = (i + 127).toNat * 2 ^ 23 := by
  simp only [roundNum, roundGrid_fp32_twoPow mode hlo, aboveMax_fp32_twoPow hhi]
  exact encodeFin_fp32_twoPow i

/-! ### The claims -/

/-- R127, R140: special values. -/
theorem floatSpecialCases : Claims.FloatSpecialCases := by
  intro mode sat a b
  dsimp only
  refine ⟨fun ha r xs => elemRound_of_nan mode sat ha xs r, fun ha hb r xs => ?_, rfl, rfl, ?_, rfl, fun ha hsign hzero => ?_, fun i hlo hhi _ => ?_⟩
  · rw [elemRound_of_not_nan mode sat ha, elemRound_of_nan mode sat hb]
    rfl
  · simp only [List.forall_mem_cons]
    exact ⟨fun n => by cases n <;> rfl, fun n => by cases n <;> rfl, List.forall_mem_nil _⟩
  · have hbelow := belowZero_num32 ha hsign hzero
    rw [hbelow.sqrtNum_eq, hbelow.rsqrtNum_eq, hbelow.log2Num_eq, elemRound_of_not_nan mode sat ha]
    exact ⟨rfl, rfl, rfl⟩
  · rw [exp2Num_of_int (by omega), roundNum_fp32_twoPow mode sat hlo hhi]

/-- R247, R249: the opcodes of the element-wise operations. -/
theorem vectorArithmeticOpcodes : Claims.VectorArithmeticOpcodes := by
  intro m
  simp only [List.forall_mem_cons]
  exact ⟨(OpcodeRead.vxVadd m).1, (OpcodeRead.vxVsub m).1, (OpcodeRead.vxVmul m).1, (OpcodeRead.vxVfma m).1, (OpcodeRead.vxVfms m).1,
    (OpcodeRead.vxVfnma m).1, (OpcodeRead.vxVmin m).1, (OpcodeRead.vxVmax m).1, (OpcodeRead.vxVabs m).1, (OpcodeRead.vxVneg m).1,
    (OpcodeRead.vxVdiv m).1, (OpcodeRead.vxVsqrt m).1, (OpcodeRead.vxVrcp m).1, (OpcodeRead.vxVrsqrt m).1, (OpcodeRead.vxVexp2 m).1,
    (OpcodeRead.vxVlog2 m).1, (OpcodeRead.vxVaddi m).1, (OpcodeRead.vxVsubi m).1, (OpcodeRead.vxVmuli m).1, (OpcodeRead.vxVand m).1,
    (OpcodeRead.vxVor m).1, (OpcodeRead.vxVxor m).1, (OpcodeRead.vxVshl m).1, (OpcodeRead.vxVshr m).1, (OpcodeRead.vxVsra m).1,
    (OpcodeRead.vxVmini m).1, (OpcodeRead.vxVmaxi m).1, List.forall_mem_nil _⟩

/-- Settles O17: each element-wise operation writes the active lanes of `vd` with the values of its table, which are the model's lane functions; a NaN operand comes
first, and an operand below zero has no root and no logarithm. -/
theorem vectorArithmeticResults : Obligations.VectorArithmeticResults :=
  ⟨vectorFloatResults, vectorIntegerResults, floatSpecialCases, vectorArithmeticOpcodes⟩

end Sys2Proof.Proofs

/-! SUPPORT. The compares, mask operations, selects and moves of `vx` (R250, R251, R257, R258). -/

namespace Sys2Proof.Proofs

open Sys2Proof.Machine Sys2Proof.Laws

/-! ### Compares and mask operations (R250, R251) -/

/-- The compares of the table set the mask bits of its conditions. -/
theorem vxCompare_conditions : ∀ e ∈ vxCompare, ∃ f, (∀ m, runOp (e.1 m) = some (m, vxCmp f)) ∧ ∀ a b, f a b = e.2 a b := by
  simp only [vxCompare, List.forall_mem_cons]
  exact ⟨⟨_, fun _ => rfl, fun _ _ => rfl⟩, ⟨_, fun _ => rfl, fun _ _ => rfl⟩, ⟨_, fun _ => rfl, fun _ _ => rfl⟩, ⟨_, fun _ => rfl, fun _ _ => rfl⟩,
    ⟨_, fun _ => rfl, condEq_eq⟩, ⟨_, fun _ => rfl, condNe_eq⟩,
    ⟨_, fun _ => rfl, @BitVec.slt_eq_decide 32⟩, ⟨_, fun _ => rfl, @BitVec.sle_eq_decide 32⟩, List.forall_mem_nil _⟩

/-- The mask of a compare: the condition of each active lane, 0 for the others (R250). -/
def cmpMask (s : State) (t : Word) (f : Word → Word → Bool) : BitVec 64 :=
  maskBits fun i => (vAct s s.cur.a t).getLsbD i && f (vLane s (vsA t) i) (vLane s (vsB t) i)

theorem getLsbD_cmpMask (s : State) (t : Word) (f : Word → Word → Bool) {i : Nat} (hi : i < 64) :
    (cmpMask s t f).getLsbD i = (vActive s t i && f (vLane s (vsA t) i) (vLane s (vsB t) i)) := by
  rw [cmpMask, getLsbD_maskBits _ hi, getLsbD_vAct s t hi]

/-- An operation that delivers a result and writes a register: both are due, and it only computes. -/
theorem pendFly_issued {s : State} {m : Trig} {e : State → State} {u : Sock} {code lat i due : Nat} {v : Row} {w : RegWrite}
    (he : e (sourced s m) = pend (fly (sourced s m) s.cur.a u code lat v) s.cur.a u i (some due) w) :
    WriteDue (issued s m e) s.cur.a u due w ∧ ResultDue s (issued s m e) s.cur.a u code (s.now + lat) v ∧ OnlyComputes s (issued s m e) := by
  have hpend := kept_pend (fly (sourced s m) s.cur.a u code lat v) s.cur.a u i due w
  have hresult := resultDue_later (resultDue_fly (sourced s m) s.cur.a u code lat v) (by simp only [pend, bk_sched, modX, bk_modBk_same]) hpend.agenda
  rw [← he, sourced_now] at hresult
  exact ⟨writeDue_issued (he ▸ writeDue_pend _ _ _ _ _ _), resultDue_issued hresult,
    (kept_issued (he ▸ (kept_fly _ _ _ _ _ _).trans hpend)).onlyComputes⟩

/-- A compare issues: its mask is due, and the count of its bits in `q0`. -/
theorem vxCmp_issues {s : State} {m : Trig} (f : Word → Word → Bool) (h : VxReady s m { d := .mask, a := .reg, b := .reg } []) :
    ∃ u, execOne m (vxCmp f) s = .next u ∧ WriteDue u s.cur.a .vx (s.now + 2) (.mask (vsD (tVal s m)) (cmpMask s (tVal s m) f)) ∧
      ResultDue s u s.cur.a .vx 0x20 (s.now + 2) (rowOf (wd (popCount (cmpMask s (tVal s m) f)))) ∧ OnlyComputes s u := by
  refine ⟨_, vxOp_issues h noCauses_false (by omega) (by omega), pendFly_issued (i := 0) ?_⟩
  simp only [ctxOf, cmpMask, vAct_of_kept (kept_sourced s m), lane_vReg_sourced, sourced_now]

/-- A mask operation completes with its mask due. -/
theorem vxMaskOp_completes {s : State} {m : Trig} {i : Instr} {b : VField} {f : BitVec 64 → BitVec 64 → BitVec 64}
    (h : VxReady s m { d := .mask, a := .mask, b := b, men := false } []) (hi : runOp i = some (m, vxMaskOp b f)) :
    ∃ u, exec i s = .next u ∧ WriteDue u s.cur.a .vx (s.now + 2)
      (.mask (vsD (tVal s m)) (f (mReg s s.cur.a (vsA (tVal s m))) (mReg s s.cur.a (vsB (tVal s m))))) ∧ OnlyComputes s u := by
  have hk := kept_sourced s m
  rw [exec_runOp hi]
  refine ⟨_, vxOp_issues h noCauses_false (by omega) (by omega), pend_issued (i := 0) ?_⟩
  simp only [ctxOf, mReg_of_kept hk, sourced_now]

/-- R250, R251: the compares and mask operations. -/
theorem vectorMaskResults : Claims.VectorMaskResults := by
  intro m s a t ma mb writes
  refine ⟨fun e he h => ?_, fun h => ⟨vxMaskOp_completes (f := fun a b => a &&& b) h rfl, vxMaskOp_completes (f := fun a b => a ||| b) h rfl⟩,
    fun h => vxMaskOp_completes (f := fun a _ => ~~~a) h rfl⟩
  obtain ⟨f, hi, hv⟩ := vxCompare_conditions e he
  obtain rfl : f = e.2 := funext fun a => funext (hv a)
  obtain ⟨u, hnext, hmask, hcount, honly⟩ := vxCmp_issues e.2 h
  rw [popCount_eq_countP] at hcount
  exact ⟨u, _, (exec_runOp (hi m) s).trans hnext, fun i hi => getLsbD_cmpMask s t e.2 hi, hmask, hcount, honly⟩

/-! ### Selects and moves (R251, R257, R258) -/

/-- Where `o0` names a lane, no cause of an operation on one lane holds. -/
theorem laneCauses_false {s : State} {m : Trig} (hn : (oVal s .vx 0).toNat < 64) : ∀ c ∈ laneCauses (ctxOf s m) s, c.1 = false := by
  intro c hc
  rw [List.mem_singleton.1 hc]
  exact decide_eq_false (Nat.not_le.2 hn)

/-- R251, R257, R258: select, broadcast, permute, rotate, insert, move and the reads of a register. -/
theorem vectorMoveResults : Claims.VectorMoveResults := by
  intro m s t n va vb writes
  have hk := kept_sourced s m
  have hlane := lane_vReg_sourced s m
  have hport : ∀ c, portW (sourced s m) s.cur.a .vx c = oVal s .vx c := portW_of_kept hk .vx
  refine ⟨fun h => ?vsel, fun h => ?vbcast, fun h => ?vperm, fun h => ?vmov,
    fun (hn : (oVal s .vx 0).toNat < 64) => ⟨fun h => ?vrot, fun h => ?vins, fun h => ?vget⟩, fun h => ?vout⟩
  case vsel =>
    refine vxWrite_completes h rfl noCauses_false fun i hi => (lane_rowOfLanes _ hi).trans ?_
    simp only [ctxOf, hlane, mReg_of_kept hk]
    rfl
  case vbcast => exact vxWrite_completes h rfl noCauses_false fun i hi => (lane_splat _ hi).trans (hport 0)
  case vperm =>
    refine vxWrite_completes h rfl noCauses_false fun i hi => (lane_rowOfLanes _ hi).trans ?_
    simp only [ctxOf, hlane]
    rfl
  case vmov => exact vxWrite_completes h rfl noCauses_false fun i _ => congrArg (lane · i) (hk.values.1 .vx 3)
  case vrot =>
    refine vxWrite_completes h rfl (laneCauses_false hn) fun i hi => (lane_rowOfLanes _ hi).trans ?_
    simp only [ctxOf, hlane, hport]
    rfl
  case vins =>
    refine vxWrite_completes h rfl (laneCauses_false hn) fun i hi => (lane_setLane _ _ _ hi).trans ?_
    simp only [ctxOf, hlane, hport, Nat.mod_eq_of_lt hn]
    rfl
  case vget =>
    refine vxResult_completes h (Nat.le_refl 1) (Nat.zero_le 1) rfl (laneCauses_false hn) ?_
    simp only [ctxOf, hlane, hport, Nat.mod_eq_of_lt hn]
    rfl
  case vout => exact vxResult_completes h (Nat.zero_le 1) (Nat.le_refl 1) rfl noCauses_false (vReg_of_kept hk _)

/-- R250, R251: the opcodes of compares, selects and mask operations. -/
theorem vectorMaskOpcodes : Claims.VectorMaskOpcodes := by
  intro m
  simp only [List.forall_mem_cons]
  exact ⟨(OpcodeRead.vxVcmpEq m).1, (OpcodeRead.vxVcmpNe m).1, (OpcodeRead.vxVcmpLt m).1, (OpcodeRead.vxVcmpLe m).1, (OpcodeRead.vxVcmpiEq m).1,
    (OpcodeRead.vxVcmpiNe m).1, (OpcodeRead.vxVcmpiLt m).1, (OpcodeRead.vxVcmpiLe m).1, (OpcodeRead.vxVsel m).1, (OpcodeRead.vxMand m).1,
    (OpcodeRead.vxMor m).1, (OpcodeRead.vxMnot m).1, List.forall_mem_nil _⟩

/-- Settles O18: a compare sets the mask bits of its condition and counts them, the mask operations write theirs, and each move takes the active lanes
of `vd` from its sources. -/
theorem vectorMaskAndMoveResults : Obligations.VectorMaskAndMoveResults := ⟨vectorMaskResults, vectorMoveResults, vectorMaskOpcodes⟩

end Sys2Proof.Proofs
